-- ==== Sys2Proof/Word.lean ====
section
/-! DEFINITION. The words of the machine and their plainest readings (00_scope R2). -/

namespace Sys2Proof

/-- A 64-bit register or address. -/
abbrev Word := BitVec 64
/-- One byte of memory. -/
abbrev Byte := BitVec 8
/-- The 2,048 bits of a vector register, one little-endian quantity (R46). -/
abbrev Lanes := BitVec 2048
/-- A thread handle: generation [23:16], directory index [15:0] (R10, R13). -/
abbrev Handle := BitVec 24
/-- A world number (R356). -/
abbrev World := BitVec 16

/-- Bits [hi:lo] of `x`, as a number of `w` bits from `lo` upward. -/
abbrev bits {n : Nat} (x : BitVec n) (lo w : Nat) : BitVec w := x.extractLsb' lo w

/-- Bits from `lo` upward, `w` of them, as a natural number. -/
abbrev field {n : Nat} (x : BitVec n) (lo w : Nat) : Nat := (x.extractLsb' lo w).toNat

end Sys2Proof
end

