-- ==== Sys2Proof/Config.lean ====
section
/-! DEFINITION. What one implementation fixes, and the free values: constants with no body, so that
nothing can be proved of what they are. Each is named in the assumption log. -/

namespace Sys2Proof.Config

open Sys2Proof

/-- Whose action comes next, read at the step count (log 5). -/
opaque freeTurn : Nat → Nat
/-- A free choice among what the spec leaves open, read at the step count (log 8). -/
opaque freeChoice : Nat → Nat
/-- The 32-bit value a free lane holds (log 10). -/
opaque freeWord : Nat → BitVec 64
/-- Does an ECDSA P-384 signature of bytes verify under the fused key: the bytes signed, and those of the signature, by offset (R352,
log 6)? -/
opaque ecdsaVerifies : List (Nat × BitVec 8) → List (Nat × BitVec 8) → Bool
/-- Does an LMS signature of bytes verify under the fused key (R352, log 6)? -/
opaque lmsVerifies : List (Nat × BitVec 8) → List (Nat × BitVec 8) → Bool
/-- The fused minimum security version (R352, log 6). -/
opaque fusedMinSvn : BitVec 32
/-- SHA-384 of a byte string, given by its length and its bytes other than 0, as a number of 384 bits (R354, log 6). -/
opaque sha384 : Nat → List (Nat × BitVec 8) → BitVec 384
/-- Digest of the boot ROM, measurement 1 (R354, log 6). -/
opaque romDigest : BitVec 384
/-- Fuse state as measurement 4 records it, of the clusters and the stacks that are present (R354, R372, log 6). -/
opaque fuseState : BitVec 128 → BitVec 24 → BitVec 384
/-- AES-XTS-256 of a 64-byte line by key and tweak: one permutation of the lines for each (R224, log 6). -/
opaque lineCipher : BitVec 512 → Nat → Equiv.Perm (BitVec 512)
/-- A line encrypted: key, tweak, plaintext (R224). -/
def encLine (key : BitVec 512) (tweak : Nat) (x : BitVec 512) : BitVec 512 := lineCipher key tweak x
/-- A line decrypted: key, tweak, ciphertext (R224). -/
def decLine (key : BitVec 512) (tweak : Nat) (x : BitVec 512) : BitVec 512 := (lineCipher key tweak).symm x
/-- The fabric port of an agent, given by a code of the model's (R176, log 43). -/
opaque fabricPort : Nat → BitVec 12
/-- Set of a cluster's TLB that holds an entry, by address space and page (R341, log 44). -/
opaque tlbSet : Nat → Nat → Nat
/-- Is an Ethernet port limited to frames that hold no packet of 8,192 bytes (R305, log 38)? -/
opaque smallFrames : BitVec 4 → Bool
/-- The security association of a peer and class (R310, log 15). -/
opaque secAssoc : BitVec 12 → BitVec 4 → BitVec 10
/-- What Lintel answers to an SPDM request, as a free message (R355, log 6). -/
opaque spdmAnswer : Nat → BitVec 512
/-- The operation byte and the arguments of an entry of the MMP's event ring, by kind and what it tells (R367, log 31). -/
opaque eventOp : Nat → BitVec 8
opaque eventArgs : Nat → BitVec 64 → BitVec 64 → BitVec 448
/-- How two bytes of the interface report hold the first vector and the count of a function (R362, log 10). -/
opaque vectorField : Nat → Nat → BitVec 16
/-- How eight bytes of it hold the BAR0 range of the channel block of the channels in a mask (R362, log 10). -/
opaque blockField : BitVec 16 → BitVec 64
/-- Bytes that the dump has for the state of dispatcher, MMP and translation cores, and one of them, by step count and place (R376,
log 33). -/
opaque dumpRest : Nat
opaque dumpState : Nat → Nat → BitVec 8

/-- Message length that the extension header of a bond engine's packet names, of its kind and of the bytes of tensor that it carries: the
spec gives these messages no layout (log 38). -/
opaque bondLength : Nat → Nat → Nat

end Sys2Proof.Config
end

