-- ==== Sys2Proof/Machine/Sparse.lean ====
section
/-! DEFINITION. Tables keyed by number, held as plain lists in one canonical form: keys strictly
rising and no entry equal to the value that an unlisted key reads as. -/

namespace Sys2Proof.Machine

/-- A table from numbers to values. -/
abbrev Sparse (α : Type) := List (Nat × α)

/-- The value at `k`; `d` is what an unlisted key reads as. -/
def sget {α : Type} (d : α) : Sparse α → Nat → α
  | [], _ => d
  | (k', v) :: r, k => if k' = k then v else sget d r k

/-- The table without an entry for `k`. -/
def sdel {α : Type} : Sparse α → Nat → Sparse α
  | [], _ => []
  | (k', v) :: r, k => if k' = k then sdel r k else (k', v) :: sdel r k

/-- The table with an entry for `k` put in its place. -/
def sput {α : Type} : Sparse α → Nat → α → Sparse α
  | [], k, v => [(k, v)]
  | (k', v') :: r, k, v =>
    if k' = k then (k, v) :: r
    else if k < k' then (k, v) :: (k', v') :: r
    else (k', v') :: sput r k v

/-- Write: an entry equal to the unlisted value is taken out, so that equal tables are equal lists. -/
def sset {α : Type} [DecidableEq α] (d : α) (m : Sparse α) (k : Nat) (v : α) : Sparse α :=
  if v = d then sdel m k else sput m k v

/-- Every listed value changed; entries that come to the unlisted value are taken out. -/
def smap {α : Type} [DecidableEq α] (d : α) (f : α → α) : Sparse α → Sparse α
  | [] => []
  | (k, v) :: r => if f v = d then smap d f r else (k, f v) :: smap d f r

/-- Keys strictly rising. -/
def srising {α : Type} : Sparse α → Bool
  | [] => true
  | [_] => true
  | (k, _) :: (k', v') :: r => decide (k < k') && srising ((k', v') :: r)

/-- The canonical form. -/
def swf {α : Type} [DecidableEq α] (d : α) (m : Sparse α) : Bool :=
  srising m && m.all (fun e => !decide (e.2 = d))

/-- The numbers from `n` upward, `c` of them. -/
def upFrom : Nat → Nat → List Nat
  | _, 0 => []
  | n, c + 1 => n :: upFrom (n + 1) c

end Sys2Proof.Machine
end

