-- ==== Sys2Proof/Syntax/Parts.lean ====
section
/-! DEFINITION. The records that instructions and the rows of other agents carry: register names,
conditions and modes as the encoding has them (R26 to R42), requests, packets and announcements. -/

namespace Sys2Proof

/-- Branch conditions (R36). -/
inductive Cond | eq | ne | lt | ge | ltu | geu
deriving DecidableEq, Repr, Inhabited
/-- Access widths, 1, 2, 4 and 8 bytes (R26). -/
inductive Width | b | h | w | d
deriving DecidableEq, Repr, Inhabited
/-- Register named by EMPTY, FILL or WAITP: a scalar, a vector specifier, a mask (R114). -/
inductive PReg | s (n : BitVec 6) | v (n : BitVec 8) | m (n : BitVec 4)
deriving DecidableEq, Repr, Inhabited
/-- Operations of AMO and NATOM (R167). -/
inductive AmoOp | swap | add | and | or | xor | min | max | minu | maxu | cas | fadd
deriving DecidableEq, Repr, Inhabited
/-- Scopes (R72). -/
inductive Scope | co | cl | di | dv | sy
deriving DecidableEq, Repr, Inhabited
/-- Engine ports (R101). -/
inductive Port | e0 | e1 | e2
deriving DecidableEq, Repr, Inhabited
/-- Vector compare conditions (R41). -/
inductive VCond | eq | ne | lt | le | gt | ge | unord
deriving DecidableEq, Repr, Inhabited
/-- Rounding modes (R54). -/
inductive Rnd | rne | rtz | rup | rdn | rto
deriving DecidableEq, Repr, Inhabited
/-- Reduction operations (R41). -/
inductive RedOp | add | min | max | and | or | xor
deriving DecidableEq, Repr, Inhabited
/-- Delivery modes (R294, R304). -/
inductive NetMode | rud | rod | uud
deriving DecidableEq, Repr, Inhabited
/-- The fields that network commands share (R304). -/
structure NetMod where
  cc : BitVec 4
  ob : Bool
  e : BitVec 4
  seg : BitVec 2
  dm : NetMode
deriving DecidableEq, Repr, Inhabited

/-- A register location of a thread; vector numbers are window indices (R68). -/
inductive Reg | s (n : BitVec 6) | m (n : BitVec 4) | v (n : BitVec 9)
deriving DecidableEq, Repr, Inhabited

/-- The agents that form packets or hold translations (R177, R347), each under its device-wide number (R5). `cluster`: its
translation core; `slice`: a die SRAM slice; `bond` and `directory` of a compute die; `net` of an I/O die. -/
inductive Agent
  | core (n : BitVec 11) | cluster (n : BitVec 7) | slice (n : BitVec 7) | memoryCore (n : BitVec 10) | unit (n : BitVec 8)
  | copy (n : BitVec 5) | tree (n : BitVec 7) | bond (n : BitVec 2) | net (n : BitVec 1) | dispatcher | directory (n : BitVec 2)
deriving DecidableEq, Repr, Inhabited

/-- On whose behalf a request or landing is sent, as the packet header says it (R176). -/
structure Origin where
  /-- Sender handle (`SHDL`). -/
  by' : Handle
  /-- Sender device (`SDEV`). -/
  dev : BitVec 12
  /-- The core that sent it, where R159 counts it; for an engine command the core of its ISSUE. -/
  core : BitVec 11
  /-- Sequence number (`SEQ`); bit 31 says an engine command's. -/
  seq : BitVec 32
  /-- World of the sender. -/
  world : World
  /-- The agent that formed it (`XPORT`). -/
  agent : Agent
  /-- Place in the issue order of the machine: the model's own, by which it keeps R73 and R79. -/
  n : Nat
deriving DecidableEq, Repr, Inhabited

/-- One access of a request: local physical address, length, byte offset in the payload, key (R224), and the
virtual address that gave it (R219). -/
structure Piece where
  addr : Nat
  va : Nat
  len : Nat
  off : Nat
  key : Option (BitVec 13)
deriving DecidableEq, Repr, Inhabited

/-- A landing packet (R176). -/
structure Packet where
  la : Word
  o : Origin
  rel : Bool
  cond : Bool
  hasMask : Bool
  fwd : Bool
  hops : BitVec 2
  lmask : BitVec 64
  payload : List Byte
  crc : BitVec 32
  /-- How many times it has been sent (R178). -/
  tries : Nat
  /-- It stands for a request that R159 counts at `o.core`. -/
  counted : Bool
  /-- Core of the sender when the landing was formed (`SCORE`). -/
  score : BitVec 11
  /-- It answers a request of the thread that it lands at. -/
  reply : Bool
  /-- Memory space: the places that the sender's translation gave (R10). -/
  pieces : List Piece
deriving DecidableEq, Repr, Inhabited

/-- Where the reply of a read goes (R160 to R163, R228). -/
inductive ReplyTo
  | scalar (d : BitVec 6) (signed : Bool)
  | lanes (v : BitVec 9) (mask : BitVec 64)
  | land (la : Word) (rel : Bool) (pieces : List Piece)
  /-- A row of a stream instruction: its bytes as they are (R228). -/
  | row (la : Word) (pieces : List Piece)
deriving DecidableEq, Repr, Inhabited

/-- A read request on its way to its home (R8). -/
structure ReadReq where
  o : Origin
  /-- Pieces still to be read, and the bytes that the others gave. -/
  pieces : List Piece
  got : List Byte
  reply : ReplyTo
  acq : Bool
deriving DecidableEq, Repr, Inhabited

/-- A write request on its way to its home (R8): the bytes of each piece are `data` from its offset. -/
structure WriteReq where
  o : Origin
  /-- Pieces still to be written. -/
  pieces : List Piece
  data : List Byte
  rel : Bool
deriving DecidableEq, Repr, Inhabited

/-- An atomic on its way to its home (R167). -/
structure AmoReq where
  o : Origin
  addr : Nat
  /-- The virtual address that gave it (R219). -/
  va : Nat
  key : Option (BitVec 13)
  dbl : Bool
  op : AmoOp
  b : Word
  c : Word
  d : BitVec 6
  acq : Bool
  rel : Bool
deriving DecidableEq, Repr, Inhabited

/-- What an announcement of a world agrees on: one conversion of a tensor, or the k-th PSYNC of a mask (R280, R291). -/
inductive BondKey
  | tensor (w : World) (tag seq : BitVec 32) | sync (w : World) (mask : BitVec 4) (k : Nat)
deriving DecidableEq, Repr, Inhabited

/-- An announcement of one member (R280). -/
structure Announcement where
  key : BondKey
  /-- Linear coordinate of the member. -/
  src : Nat
  world : World
  fmt : BitVec 8
  ndim : BitVec 8
  dims : List (BitVec 32)
  cur : BitVec 32
  want : BitVec 32
  /-- Second entry's tag and sequence number (PCONV), or the PSYNC value. -/
  extra : Word
  status : BitVec 8
deriving DecidableEq, Repr, Inhabited

/-- What one bond engine sends to another, on class 14 (R280, R282, R296): an announcement, a withdrawal or the answer to one, a
decision, a contribution. -/
inductive BondMsg
  | announce (n : Announcement) | withdraw (n : Announcement) | decide (k : BondKey) (go : Bool) (reason : BitVec 4) (coord : BitVec 12)
  | data (k : BondKey) (src : Nat) (b : List Byte)
deriving DecidableEq, Repr, Inhabited

/-- What a packet that is not yet acknowledged carries, where no command keeps it: a landing, a bond engine's message (R191, R282). -/
inductive Kept | landing (o : Origin) | bond (m : BondMsg)
deriving DecidableEq, Repr, Inhabited

/-- Contributions of the members of a group: linear coordinate and current buffer (R279). -/
abbrev PeerData := List (Nat × List Byte)
/-- Device numbers of a mesh by linear coordinate (R274). -/
abbrev MeshMap := List (BitVec 12)
/-- Corrections in one scrub pass: address and bank of each one that the scrubber makes, in their order; those of HBM by address; and the symbol
errors that stand in the arrays of die SRAM after it, by the address of the word and the bank, which reads will meet (R373, R374). -/
structure ScrubMarks where
  banks : List (Nat × Nat)
  hbm : List (Nat × Nat)
  errors : List (Nat × Nat)
deriving DecidableEq, Repr, Inhabited
/-- Where an uncorrectable error lies: in HBM or SRAM, and the stack or cluster that has failed with it, if one has (R373, R375). -/
structure ErrorPlace where
  hbm : Bool
  unit : Option (BitVec 7)
deriving DecidableEq, Repr, Inhabited
/-- A byte string. -/
abbrev Bytes := List Byte
/-- Where a page moves to (R348). -/
inductive MoveTo | frame (f : BitVec 41) | host
deriving DecidableEq, Repr, Inhabited
/-- How a packet is refused (R298, R303). -/
inductive NetRefuse | status (st : BitVec 8) | retry | notReady
deriving DecidableEq, Repr, Inhabited
/-- Kinds of network packets (R299). -/
inductive NetKind | write | readRequest | readReply | atomic | atomicReply | message | landing
deriving DecidableEq, Repr, Inhabited

/-- A packet between two devices with the extension header of R299. -/
structure NetPacket where
  src : BitVec 12
  dst : BitVec 12
  cls : BitVec 4
  mode : NetMode
  kind : NetKind
  ob : Bool
  csn : BitVec 32
  msg : BitVec 32
  msgLen : Nat
  /-- Byte offset of this packet within its message. -/
  off : Nat
  tag : BitVec 12
  gen : BitVec 12
  entropy : BitVec 8
  /-- Target window and offset (R298). -/
  win : BitVec 16
  winOff : BitVec 36
  /-- World that the target's job table gives the packet's Job ID. -/
  job : BitVec 24
  /-- The transport security of the packet holds under the key that sealed it; none where its stream has no association (R298, R310). -/
  secure : Bool
  key : Option (BitVec 256)
  by' : Handle
  seq : BitVec 16
  op : AmoOp
  dbl : Bool
  b : Word
  c : Word
  payload : List Byte
  landing : Option Packet
deriving DecidableEq, Repr, Inhabited

end Sys2Proof
end

