-- ==== Sys2Proof/Syntax.lean ====
section
/-! DEFINITION. The instructions and steps of the machine, one constructor per row of
spec/opcode_table.json. Instruction fields are the encoding's own (R26 to R42); the rows that are no
encodings are the actions of the other agents. -/

namespace Sys2Proof

/-- Every row of spec/opcode_table.json. -/
inductive Instr
  /-- NOP (R35). -/
  | nop
  /-- NOP_A (R35). -/
  | nopA
  /-- UNASSIGNED_ENCODING (R34). -/
  | unassigned (slot : BitVec 2) (detail : BitVec 57)
  /-- ADD (R104). -/
  | add (d : BitVec 6) (a : BitVec 6) (b : BitVec 6)
  /-- SUB (R104). -/
  | sub (d : BitVec 6) (a : BitVec 6) (b : BitVec 6)
  /-- AND (R104). -/
  | and (d : BitVec 6) (a : BitVec 6) (b : BitVec 6)
  /-- OR (R104). -/
  | or (d : BitVec 6) (a : BitVec 6) (b : BitVec 6)
  /-- XOR (R104). -/
  | xor (d : BitVec 6) (a : BitVec 6) (b : BitVec 6)
  /-- ANDN (R104). -/
  | andn (d : BitVec 6) (a : BitVec 6) (b : BitVec 6)
  /-- ORN (R104). -/
  | orn (d : BitVec 6) (a : BitVec 6) (b : BitVec 6)
  /-- XNOR (R104). -/
  | xnor (d : BitVec 6) (a : BitVec 6) (b : BitVec 6)
  /-- SLL (R104). -/
  | sll (d : BitVec 6) (a : BitVec 6) (b : BitVec 6)
  /-- SRL (R104). -/
  | srl (d : BitVec 6) (a : BitVec 6) (b : BitVec 6)
  /-- SRA (R104). -/
  | sra (d : BitVec 6) (a : BitVec 6) (b : BitVec 6)
  /-- ROR (R104). -/
  | ror (d : BitVec 6) (a : BitVec 6) (b : BitVec 6)
  /-- SLT (R104). -/
  | slt (d : BitVec 6) (a : BitVec 6) (b : BitVec 6)
  /-- SLTU (R104). -/
  | sltu (d : BitVec 6) (a : BitVec 6) (b : BitVec 6)
  /-- SEQ (R104). -/
  | seq (d : BitVec 6) (a : BitVec 6) (b : BitVec 6)
  /-- SNE (R104). -/
  | sne (d : BitVec 6) (a : BitVec 6) (b : BitVec 6)
  /-- MIN (R104). -/
  | min (d : BitVec 6) (a : BitVec 6) (b : BitVec 6)
  /-- MAX (R104). -/
  | max (d : BitVec 6) (a : BitVec 6) (b : BitVec 6)
  /-- MINU (R104). -/
  | minu (d : BitVec 6) (a : BitVec 6) (b : BitVec 6)
  /-- MAXU (R104). -/
  | maxu (d : BitVec 6) (a : BitVec 6) (b : BitVec 6)
  /-- MUL (R104). -/
  | mul (d : BitVec 6) (a : BitVec 6) (b : BitVec 6)
  /-- MULH (R104). -/
  | mulh (d : BitVec 6) (a : BitVec 6) (b : BitVec 6)
  /-- MULHU (R104). -/
  | mulhu (d : BitVec 6) (a : BitVec 6) (b : BitVec 6)
  /-- DIV (R105). -/
  | div (d : BitVec 6) (a : BitVec 6) (b : BitVec 6)
  /-- DIVU (R105). -/
  | divu (d : BitVec 6) (a : BitVec 6) (b : BitVec 6)
  /-- REM (R105). -/
  | rem (d : BitVec 6) (a : BitVec 6) (b : BitVec 6)
  /-- REMU (R105). -/
  | remu (d : BitVec 6) (a : BitVec 6) (b : BitVec 6)
  /-- CLZ (R104). -/
  | clz (d : BitVec 6) (a : BitVec 6)
  /-- CTZ (R104). -/
  | ctz (d : BitVec 6) (a : BitVec 6)
  /-- POPC (R104). -/
  | popc (d : BitVec 6) (a : BitVec 6)
  /-- BREV (R104). -/
  | brev (d : BitVec 6) (a : BitVec 6)
  /-- BSWAP (R104). -/
  | bswap (d : BitVec 6) (a : BitVec 6)
  /-- SEXT_B (R104). -/
  | sextB (d : BitVec 6) (a : BitVec 6)
  /-- SEXT_H (R104). -/
  | sextH (d : BitVec 6) (a : BitVec 6)
  /-- SEXT_W (R104). -/
  | sextW (d : BitVec 6) (a : BitVec 6)
  /-- ZEXT_B (R104). -/
  | zextB (d : BitVec 6) (a : BitVec 6)
  /-- ZEXT_H (R104). -/
  | zextH (d : BitVec 6) (a : BitVec 6)
  /-- ZEXT_W (R104). -/
  | zextW (d : BitVec 6) (a : BitVec 6)
  /-- ADDI (R106). -/
  | addi (d : BitVec 6) (a : BitVec 6) (i : BitVec 13)
  /-- ANDI (R106). -/
  | andi (d : BitVec 6) (a : BitVec 6) (i : BitVec 13)
  /-- ORI (R106). -/
  | ori (d : BitVec 6) (a : BitVec 6) (i : BitVec 13)
  /-- XORI (R106). -/
  | xori (d : BitVec 6) (a : BitVec 6) (i : BitVec 13)
  /-- SLTI (R106). -/
  | slti (d : BitVec 6) (a : BitVec 6) (i : BitVec 13)
  /-- SLTIU (R106). -/
  | sltiu (d : BitVec 6) (a : BitVec 6) (i : BitVec 13)
  /-- MULI (R106). -/
  | muli (d : BitVec 6) (a : BitVec 6) (i : BitVec 13)
  /-- SLLI (R107). -/
  | slli (d : BitVec 6) (a : BitVec 6) (n : BitVec 6)
  /-- SRLI (R107). -/
  | srli (d : BitVec 6) (a : BitVec 6) (n : BitVec 6)
  /-- SRAI (R107). -/
  | srai (d : BitVec 6) (a : BitVec 6) (n : BitVec 6)
  /-- RORI (R107). -/
  | rori (d : BitVec 6) (a : BitVec 6) (n : BitVec 6)
  /-- BFXU (R108). -/
  | bfxu (d : BitVec 6) (a : BitVec 6) (l : BitVec 6) (p : BitVec 6)
  /-- BFX (R108). -/
  | bfx (d : BitVec 6) (a : BitVec 6) (l : BitVec 6) (p : BitVec 6)
  /-- BFI (R108). -/
  | bfi (d : BitVec 6) (a : BitVec 6) (l : BitVec 6) (p : BitVec 6)
  /-- ADDPC (R109). -/
  | addpc (d : BitVec 6) (i : BitVec 13)
  /-- XSET (R30). -/
  | xset (x : BitVec 3) (a : BitVec 6) (i : BitVec 13)
  /-- XGET (R30). -/
  | xget (d : BitVec 6) (x : BitVec 3)
  /-- MOVI (R110). -/
  | movi (d : BitVec 6) (i : BitVec 51)
  /-- MOVIH (R110). -/
  | movih (d : BitVec 6) (i : BitVec 16)
  /-- B_COND (R111). -/
  | bcond (c : Cond) (a : BitVec 6) (b : BitVec 6) (o : BitVec 10)
  /-- J (R112). -/
  | j (o : BitVec 25)
  /-- JAL (R112). -/
  | jal (o : BitVec 25)
  /-- JL (R112). -/
  | jl (d : BitVec 6) (o : BitVec 51)
  /-- JALR (R113). -/
  | jalr (d : BitVec 6) (a : BitVec 6) (i : BitVec 13)
  /-- EMPTY (R115). -/
  | empty (r : BitVec 6) (n : BitVec 6)
  /-- EMPTY_MASK (R115). -/
  | emptyMask (r : BitVec 4) (n : BitVec 6)
  /-- VEMPTY (R115). -/
  | vempty (r : BitVec 8) (n : BitVec 6)
  /-- FILL (R115). -/
  | fill (r : PReg)
  /-- WAITP (R116). -/
  | waitp (r : PReg) (q : Bool)
  /-- SLEEP (R117). -/
  | sleep (a : BitVec 6)
  /-- SLEEP_TIMEOUT (R117). -/
  | sleepTimeout (h : Handle)
  /-- YIELD (R118). -/
  | yield
  /-- EXIT (R119). -/
  | exit
  /-- THREAD_EXIT_COMPLETE (R119). -/
  | threadExitComplete (h : Handle)
  /-- MIGRATE (R120). -/
  | migrate (a : BitVec 6)
  /-- PREEMPT (R121). -/
  | preempt (d : BitVec 6) (a : BitVec 6)
  /-- PREEMPT_AT_DISPATCHER (R207). -/
  | preemptAtDispatcher (o : Origin) (d : BitVec 6) (t : Handle)
  /-- TEAMBAR (R122). -/
  | teambar
  /-- EVW (R123). -/
  | evw (a : BitVec 6)
  /-- EVS (R123). -/
  | evs (a : BitVec 6)
  /-- EVENT_LANDING (R123). -/
  | eventLanding (p : Packet)
  /-- GETTID (R124). -/
  | gettid (d : BitVec 6) (i : BitVec 4)
  /-- GETTID_Q (R124). -/
  | gettidQ (d : BitVec 6) (a : BitVec 6)
  /-- DIRECTORY_LOOKUP (R124). -/
  | directoryLookup (o : Origin) (d : BitVec 6) (t : Handle)
  /-- FORK (R126). -/
  | fork (sa : BitVec 6) (sc : BitVec 6) (maxr : BitVec 12) (die : Bool) (body : BitVec 24)
  /-- JOIN (R128). -/
  | join (a : BitVec 6)
  /-- RDSR (R129). -/
  | rdsr (d : BitVec 6) (n : BitVec 12)
  /-- WRSR (R129). -/
  | wrsr (a : BitVec 6) (n : BitVec 12)
  /-- TRAP (R131). -/
  | trap (c : BitVec 13)
  /-- BKPT (R131). -/
  | bkpt
  /-- TRET (R132). -/
  | tret
  /-- POOL (R43). -/
  | pool (n : BitVec 16)
  /-- LD (R160). -/
  | ld (d : BitVec 6) (a : BitVec 6) (wd : Width) (i : BitVec 11)
  /-- LDU (R160). -/
  | ldu (d : BitVec 6) (a : BitVec 6) (wd : Width) (i : BitVec 11)
  /-- ST (R160). -/
  | st (d : BitVec 6) (a : BitVec 6) (wd : Width) (i : BitVec 11)
  /-- LDL (R161). -/
  | ldl (l : BitVec 6) (a : BitVec 6) (wd : Width) (i : BitVec 11)
  /-- LD_AQ (R160). -/
  | ldAq (d : BitVec 6) (a : BitVec 6) (wd : Width)
  /-- LDU_AQ (R160). -/
  | lduAq (d : BitVec 6) (a : BitVec 6) (wd : Width)
  /-- ST_RL (R160). -/
  | stRl (d : BitVec 6) (a : BitVec 6) (wd : Width)
  /-- LDL_RL (R161). -/
  | ldlRl (l : BitVec 6) (a : BitVec 6) (wd : Width)
  /-- VLD (R162). -/
  | vld (v : BitVec 8) (a : BitVec 6) (q : Bool) (i : BitVec 8)
  /-- VST (R162). -/
  | vst (v : BitVec 8) (a : BitVec 6) (r : Bool) (i : BitVec 8)
  /-- VLDS (R163). -/
  | vlds (v : BitVec 8) (a : BitVec 6) (b : BitVec 6) (m : BitVec 4) (run : BitVec 3) (q : Bool)
  /-- VSTS (R163). -/
  | vsts (v : BitVec 8) (a : BitVec 6) (b : BitVec 6) (m : BitVec 4) (run : BitVec 3) (q : Bool)
  /-- VLDG (R163). -/
  | vldg (v : BitVec 8) (a : BitVec 6) (vb : BitVec 8) (m : BitVec 4) (run : BitVec 3) (q : Bool)
  /-- VSTG (R163). -/
  | vstg (v : BitVec 8) (a : BitVec 6) (vb : BitVec 8) (m : BitVec 4) (run : BitVec 3) (q : Bool)
  /-- PUT (R165). -/
  | put (l : BitVec 6) (a : BitVec 6) (r : Bool)
  /-- PUTE (R166). -/
  | pute (l : BitVec 6) (a : BitVec 6) (r : Bool)
  /-- VPUT (R165). -/
  | vput (v : BitVec 8) (l : BitVec 6) (e : Bool) (r : Bool)
  /-- VPUTL (R165). -/
  | vputl (v : BitVec 8) (l : BitVec 6) (e : Bool) (r : Bool) (n : BitVec 2) (f : BitVec 6)
  /-- LAMK (R165). -/
  | lamk (v : BitVec 8) (l : BitVec 6) (r : Bool) (k : BitVec 4)
  /-- AMO (R167). -/
  | amo (d : BitVec 6) (a : BitVec 6) (b : BitVec 6) (c : BitVec 6) (op : AmoOp) (dbl : Bool) (ord : BitVec 2)
  /-- FENCE (R168). -/
  | fence (i : Bool) (sc : Scope) (u : BitVec 4) (p : BitVec 4)
  /-- ISSUE (R171). -/
  | issue (n : BitVec 4) (a : BitVec 6) (p : Port)
  /-- POP (R172). -/
  | pop (d : BitVec 6) (p : Port)
  /-- PORTST (R173). -/
  | portst (d : BitVec 6) (p : Port)
  /-- SEQWAIT (R174). -/
  | seqwait (a : BitVec 6)
  /-- VADD (R136). -/
  | vadd (d : BitVec 8) (a : BitVec 8) (b : BitVec 8) (m : BitVec 2)
  /-- VSUB (R136). -/
  | vsub (d : BitVec 8) (a : BitVec 8) (b : BitVec 8) (m : BitVec 2)
  /-- VMUL (R136). -/
  | vmul (d : BitVec 8) (a : BitVec 8) (b : BitVec 8) (m : BitVec 2)
  /-- VFMA (R136). -/
  | vfma (d : BitVec 8) (a : BitVec 8) (b : BitVec 8) (m : BitVec 2)
  /-- VFMS (R136). -/
  | vfms (d : BitVec 8) (a : BitVec 8) (b : BitVec 8) (m : BitVec 2)
  /-- VMIN (R137). -/
  | vmin (d : BitVec 8) (a : BitVec 8) (b : BitVec 8) (m : BitVec 2)
  /-- VMAX (R137). -/
  | vmax (d : BitVec 8) (a : BitVec 8) (b : BitVec 8) (m : BitVec 2)
  /-- VAND (R136). -/
  | vand (d : BitVec 8) (a : BitVec 8) (b : BitVec 8) (m : BitVec 2)
  /-- VOR (R136). -/
  | vor (d : BitVec 8) (a : BitVec 8) (b : BitVec 8) (m : BitVec 2)
  /-- VXOR (R136). -/
  | vxor (d : BitVec 8) (a : BitVec 8) (b : BitVec 8) (m : BitVec 2)
  /-- VSHL (R138). -/
  | vshl (d : BitVec 8) (a : BitVec 8) (b : BitVec 8) (m : BitVec 2)
  /-- VSHR (R138). -/
  | vshr (d : BitVec 8) (a : BitVec 8) (b : BitVec 8) (m : BitVec 2)
  /-- VSRA (R138). -/
  | vsra (d : BitVec 8) (a : BitVec 8) (b : BitVec 8) (m : BitVec 2)
  /-- VADDI (R136). -/
  | vaddi (d : BitVec 8) (a : BitVec 8) (i : BitVec 8) (m : BitVec 2)
  /-- VSHLI (R138). -/
  | vshli (d : BitVec 8) (a : BitVec 8) (i : BitVec 8) (m : BitVec 2)
  /-- VSHRI (R138). -/
  | vshri (d : BitVec 8) (a : BitVec 8) (i : BitVec 8) (m : BitVec 2)
  /-- VSRAI (R138). -/
  | vsrai (d : BitVec 8) (a : BitVec 8) (i : BitVec 8) (m : BitVec 2)
  /-- VADDS (R136). -/
  | vadds (d : BitVec 8) (a : BitVec 8) (b : BitVec 6) (hi : Bool) (m : BitVec 2)
  /-- VSUBS (R136). -/
  | vsubs (d : BitVec 8) (a : BitVec 8) (b : BitVec 6) (hi : Bool) (m : BitVec 2)
  /-- VMULS (R136). -/
  | vmuls (d : BitVec 8) (a : BitVec 8) (b : BitVec 6) (hi : Bool) (m : BitVec 2)
  /-- VFMAS (R136). -/
  | vfmas (d : BitVec 8) (a : BitVec 8) (b : BitVec 6) (hi : Bool) (m : BitVec 2)
  /-- VBCAST (R146). -/
  | vbcast (d : BitVec 8) (b : BitVec 6) (hi : Bool) (m : BitVec 2)
  /-- VINS (R146). -/
  | vins (d : BitVec 8) (l : BitVec 6) (b : BitVec 6) (hi : Bool) (m : BitVec 2)
  /-- VCMP (R143). -/
  | vcmp (c : VCond) (k : BitVec 4) (a : BitVec 8) (b : BitVec 8) (m : BitVec 2)
  /-- VCMPS (R143). -/
  | vcmps (c : VCond) (k : BitVec 4) (a : BitVec 8) (b : BitVec 6) (hi : Bool) (m : BitVec 2)
  /-- VSEL (R144). -/
  | vsel (d : BitVec 8) (a : BitVec 8) (b : BitVec 8) (m : BitVec 2)
  /-- VMOV (R150). -/
  | vmov (d : BitVec 8) (a : BitVec 8) (p : BitVec 3) (r : Rnd) (s : Bool) (m : BitVec 2)
  /-- VPACK (R151). -/
  | vpack (d : BitVec 8) (a : BitVec 8) (p : BitVec 3) (m : BitVec 2)
  /-- VUNPK (R151). -/
  | vunpk (d : BitVec 8) (a : BitVec 8) (p : BitVec 3) (s : Bool) (m : BitVec 2)
  /-- VPERM (R147). -/
  | vperm (d : BitVec 8) (a : BitVec 8) (b : BitVec 8) (m : BitVec 2)
  /-- VROT (R147). -/
  | vrot (d : BitVec 8) (a : BitVec 8) (k : BitVec 6) (m : BitVec 2)
  /-- VREV (R147). -/
  | vrev (d : BitVec 8) (a : BitVec 8) (m : BitVec 2)
  /-- VZIP (R147). -/
  | vzip (d : BitVec 8) (a : BitVec 8) (hi : Bool) (m : BitVec 2)
  /-- VUZP (R147). -/
  | vuzp (d : BitVec 8) (a : BitVec 8) (hi : Bool) (m : BitVec 2)
  /-- VRED (R148). -/
  | vred (d : BitVec 8) (a : BitVec 8) (o : RedOp) (m : BitVec 2)
  /-- VSCAN (R148). -/
  | vscan (d : BitVec 8) (a : BitVec 8) (o : RedOp) (m : BitVec 2)
  /-- VDOT4 (R139). -/
  | vdot4 (d : BitVec 8) (a : BitVec 8) (b : BitVec 8) (m : BitVec 2)
  /-- VABS (R140). -/
  | vabs (d : BitVec 8) (a : BitVec 8) (m : BitVec 2)
  /-- VNEG (R140). -/
  | vneg (d : BitVec 8) (a : BitVec 8) (m : BitVec 2)
  /-- VNOT (R140). -/
  | vnot (d : BitVec 8) (a : BitVec 8) (m : BitVec 2)
  /-- VCLZ (R140). -/
  | vclz (d : BitVec 8) (a : BitVec 8) (m : BitVec 2)
  /-- VPOPC (R140). -/
  | vpopc (d : BitVec 8) (a : BitVec 8) (m : BitVec 2)
  /-- VSQRT (R140). -/
  | vsqrt (d : BitVec 8) (a : BitVec 8) (m : BitVec 2)
  /-- VRCP (R140). -/
  | vrcp (d : BitVec 8) (a : BitVec 8) (m : BitVec 2)
  /-- VRSQ (R140). -/
  | vrsq (d : BitVec 8) (a : BitVec 8) (m : BitVec 2)
  /-- VEXP2 (R141). -/
  | vexp2 (d : BitVec 8) (a : BitVec 8) (m : BitVec 2)
  /-- VLOG2 (R142). -/
  | vlog2 (d : BitVec 8) (a : BitVec 8) (m : BitVec 2)
  /-- VFLR (R140). -/
  | vflr (d : BitVec 8) (a : BitVec 8) (m : BitVec 2)
  /-- VCEIL (R140). -/
  | vceil (d : BitVec 8) (a : BitVec 8) (m : BitVec 2)
  /-- MAND (R145). -/
  | mand (d : BitVec 4) (a : BitVec 4) (b : BitVec 4)
  /-- MOR (R145). -/
  | mor (d : BitVec 4) (a : BitVec 4) (b : BitVec 4)
  /-- MXOR (R145). -/
  | mxor (d : BitVec 4) (a : BitVec 4) (b : BitVec 4)
  /-- MANDN (R145). -/
  | mandn (d : BitVec 4) (a : BitVec 4) (b : BitVec 4)
  /-- MNOT (R145). -/
  | mnot (d : BitVec 4) (a : BitVec 4)
  /-- VEXT (R146). -/
  | vext (d : BitVec 6) (a : BitVec 8) (l : BitVec 6)
  /-- VIOTA (R146). -/
  | viota (d : BitVec 8) (i : BitVec 8) (m : BitVec 2)
  /-- SETBF (R152). -/
  | setbf (b : BitVec 4) (f : BitVec 8)
  /-- LDCB (R153). -/
  | ldcb (c : BitVec 4) (a : BitVec 8)
  /-- CLAIM (R231). -/
  | claim (d : BitVec 6) (a : BitVec 6)
  /-- CLAIM_AT_UNIT (R231). -/
  | claimAtUnit (o : Origin) (d : BitVec 6) (unit : BitVec 8) (spec : Word)
  /-- RELEASE (R232). -/
  | release (d : BitVec 6) (a : BitVec 6)
  /-- RELEASE_AT_UNIT (R232). -/
  | releaseAtUnit (o : Origin) (d : BitVec 6) (spec : Word)
  /-- ACCZ (R234). -/
  | accz (d : BitVec 6)
  /-- ACCZ_AT_HEAD (R234). -/
  | acczAtHead (core : BitVec 11)
  /-- MLOAD (R246). -/
  | mload (v : BitVec 8) (a : BitVec 6) (n : BitVec 3) (r : Bool)
  /-- ACCRD (R247). -/
  | accrd (v : BitVec 8) (c : BitVec 6) (a : BitVec 6)
  /-- ACCRD_SNAPSHOT (R248). -/
  | accrdSnapshot (o : Origin) (v : BitVec 9) (c : BitVec 6) (core : BitVec 11) (row : BitVec 7) (half : Bool)
  /-- LAUNCH (R334). -/
  | launch (d : BitVec 6) (a : BitVec 6) (b : BitVec 6)
  /-- TLBW (R345). -/
  | tlbw (d : BitVec 6) (a : BitVec 6) (b : BitVec 6)
  /-- TLBI (R346). -/
  | tlbi (d : BitVec 6) (a : BitVec 6) (b : BitVec 6)
  /-- TBIND (R260). -/
  | tbind (d : BitVec 6) (t : BitVec 4) (a : BitVec 6) (init : Bool)
  /-- TBIND_UNBIND (R260). -/
  | tbindUnbind (d : BitVec 6) (t : BitVec 4)
  /-- TDESC (R261). -/
  | tdesc (d : BitVec 6) (t : BitVec 4)
  /-- TEXPAND (R262). -/
  | texpand (d : BitVec 6) (t : BitVec 4) (a : BitVec 6) (b : BitVec 6) (c : BitVec 6)
  /-- TBACK (R264). -/
  | tback (d : BitVec 6) (t : BitVec 4) (a : BitVec 6) (b : BitVec 6) (vl : Bool)
  /-- TREROOT (R265). -/
  | treroot (d : BitVec 6) (t : BitVec 4) (a : BitVec 6)
  /-- TRDN (R267). -/
  | trdn (v : BitVec 8) (t : BitVec 4) (a : BitVec 6)
  /-- TSTAT (R268). -/
  | tstat (d : BitVec 6) (t : BitVec 4) (f : BitVec 3)
  /-- TFREE (R266). -/
  | tfree (d : BitVec 6) (t : BitVec 4) (a : BitVec 6)
  /-- PDECL (R285). -/
  | pdecl (d : BitVec 6) (a : BitVec 6) (b : BitVec 6)
  /-- PSET (R286). -/
  | pset (d : BitVec 6) (a : BitVec 6) (b : BitVec 6)
  /-- PLOAD (R287). -/
  | pload (d : BitVec 6) (a : BitVec 6) (b : BitVec 6)
  /-- PCONV (R288). -/
  | pconv (d : BitVec 6) (a : BitVec 6) (b : BitVec 6) (c : BitVec 6)
  /-- PQRY (R289). -/
  | pqry (d : BitVec 6) (a : BitVec 6) (f : BitVec 4)
  /-- PDROP (R290). -/
  | pdrop (d : BitVec 6) (a : BitVec 6)
  /-- PSYNC (R291). -/
  | psync (d : BitVec 6) (a : BitVec 6) (m : BitVec 4)
  /-- BOND_ANNOUNCEMENT (R280). -/
  | bondAnnouncement (n : Announcement)
  /-- BOND_DECISION (R282). -/
  | bondDecision (k : BondKey) (go : Bool) (reason : BitVec 4) (coord : BitVec 12)
  /-- BOND_WITHDRAWAL (R280). -/
  | bondWithdrawal (n : Announcement)
  /-- BOND_CONVERSION (R282). -/
  | bondConversion (k : BondKey) (data : PeerData)
  /-- NPUT (R305). -/
  | nput (d : BitVec 6) (t : BitVec 6) (a : BitVec 6) (n : BitVec 6) (x : NetMod)
  /-- NGET (R305). -/
  | nget (d : BitVec 6) (t : BitVec 6) (l : BitVec 6) (n : BitVec 6) (x : NetMod)
  /-- NATOM (R305). -/
  | natom (d : BitVec 6) (t : BitVec 6) (b : BitVec 6) (c : BitVec 6) (r : BitVec 6) (op : AmoOp) (dbl : Bool) (x : NetMod)
  /-- NSEND (R305). -/
  | nsend (d : BitVec 6) (t : BitVec 6) (a : BitVec 6) (n : BitVec 6) (x : NetMod)
  /-- NSEND_L (R305). -/
  | nsendL (d : BitVec 6) (l : BitVec 6) (b : BitVec 6) (cc : BitVec 4) (ob : Bool)
  /-- NFENCE (R307). -/
  | nfence
  /-- NFENCE_RS (R307). -/
  | nfenceRs (d : BitVec 6) (a : BitVec 6)
  /-- NFENCE_CN (R307). -/
  | nfenceCn (d : BitVec 6) (a : BitVec 6)
  /-- WOPEN (R308). -/
  | wopen (d : BitVec 6) (a : BitVec 6) (b : BitVec 6) (perm : BitVec 3)
  /-- WREVOKE (R309). -/
  | wrevoke (d : BitVec 6) (a : BitVec 6)
  /-- WINDOW_REVOKE_COMPLETE (R309). -/
  | windowRevokeComplete (o : Origin) (d : BitVec 6) (w : BitVec 16)
  /-- WQRY (R308). -/
  | wqry (d : BitVec 6) (a : BitVec 6) (f : BitVec 3)
  /-- CBOPEN (R308). -/
  | cbopen (d : BitVec 6) (a : BitVec 6) (b : BitVec 6)
  /-- CBPOP_TAKE (R308). -/
  | cbpopTake (d : BitVec 6) (a : BitVec 6)
  /-- CBPOP_FREE (R308). -/
  | cbpopFree (d : BitVec 6) (a : BitVec 6)
  /-- SLOAD (R228). -/
  | sload (d : BitVec 6) (a : BitVec 6) (b : BitVec 6) (c : BitVec 6) (rows : BitVec 8) (len : BitVec 8) (tag : BitVec 4)
  /-- SSTORE (R228). -/
  | sstore (d : BitVec 6) (a : BitVec 6) (b : BitVec 6) (c : BitVec 6) (rows : BitVec 8) (len : BitVec 8) (tag : BitVec 4)
  /-- SPREF (R228). -/
  | spref (a : BitVec 6) (b : BitVec 6) (rows : BitVec 8) (len : BitVec 8)
  /-- SWAIT (R229). -/
  | swait (m : BitVec 16)
  /-- MMA (R240). -/
  | mma (core : BitVec 11)
  /-- K_STEP (R237). -/
  | kStep (unit : BitVec 8)
  /-- DRAIN (R241). -/
  | drain (core : BitVec 11)
  /-- MZERO (R242). -/
  | mzero (core : BitVec 11)
  /-- MRESUME (R243). -/
  | mresume (h : Handle) (q : BitVec 16)
  /-- MCANCEL (R243). -/
  | mcancel (h : Handle) (q : BitVec 16)
  /-- COPY (R212). -/
  | copy (h : Handle) (q : BitVec 16)
  /-- COPYF (R212). -/
  | copyf (h : Handle) (q : BitVec 16)
  /-- COPYR (R215). -/
  | copyr (h : Handle) (q : BitVec 16)
  /-- COPYC (R216). -/
  | copyc (h : Handle) (q : BitVec 16)
  /-- MCRUN (R225). -/
  | mcrun (h : Handle) (q : BitVec 16)
  /-- MCRUN_END (R227). -/
  | mcrunEnd (h : Handle) (q : BitVec 16)
  /-- GRUN (R335). -/
  | grun (h : Handle) (q : BitVec 16)
  /-- DEPDEC (R335). -/
  | depdec (h : Handle) (q : BitVec 16)
  /-- COMPLETION_LANDING (R82). -/
  | completionLanding (h : Handle) (q : BitVec 16)
  /-- ENGINE_FAULT_TRAP (R196). -/
  | engineFaultTrap (h : Handle)
  /-- LANDING_FAILURE_TRAP (R186). -/
  | landingFailureTrap (h : Handle)
  /-- PROGRESS (R204). -/
  | progress (g : BitVec 8)
  /-- PROGRESS_TRAP (R196). -/
  | progressTrap (h : Handle)
  /-- READ_REQUEST (R8). -/
  | readRequest (r : ReadReq)
  /-- WRITE_REQUEST (R8). -/
  | writeRequest (r : WriteReq)
  /-- AMO_AT_HOME (R167). -/
  | amoAtHome (r : AmoReq)
  /-- LANDING_ARRIVAL (R182). -/
  | landingArrival (core : BitVec 11) (p : Packet)
  /-- DIRECTORY_RESOLVE (R183). -/
  | directoryResolve (p : Packet)
  /-- SLOT_LANDING (R230). -/
  | slotLanding (p : Packet)
  /-- MEMORY_LANDING (R11). -/
  | memoryLanding (p : Packet)
  /-- LANDING_ACKNOWLEDGEMENT (R177). -/
  | landingAcknowledgement (p : Packet) (place : BitVec 12)
  /-- LANDING_REFUSAL (R185). -/
  | landingRefusal (p : Packet) (sub : BitVec 8)
  /-- CHECK_FAILURE (R178). -/
  | checkFailure (p : Packet)
  /-- BUSY (R187). -/
  | busy (p : Packet)
  /-- BUSY_RESEND (R187). -/
  | busyResend (p : Packet)
  /-- SAVE_START (R201). -/
  | saveStart (h : Handle)
  /-- SAVE_REPORT (R201). -/
  | saveReport (h : Handle)
  /-- RESUME (R203). -/
  | resume (h : Handle) (core : BitVec 11) (slot : BitVec 3)
  /-- TEAM_PLACEMENT (R329). -/
  | teamPlacement
  /-- BLOCKED_TEAM_EVICTION (R332). -/
  | blockedTeamEviction
  /-- PRIORITY_PREEMPTION (R333). -/
  | priorityPreemption (prio : BitVec 3)
  /-- CHTRIG (R321). -/
  | chtrig (c : BitVec 4) (v : Word)
  /-- CHCTL (R320). -/
  | chctl (c : BitVec 4) (v : Word)
  /-- LAUNCH_START (R323). -/
  | launchStart (c : BitVec 4)
  /-- TLB_MISS_WALK (R341). -/
  | tlbMissWalk (cluster : BitVec 7) (asid : BitVec 12) (va : Word)
  /-- PAGE_FAULT_SERVICE (R344). -/
  | pageFaultService (asid : BitVec 12) (va : Word)
  /-- PAGE_MIGRATION (R348). -/
  | pageMigration (frame : BitVec 41) (dest : MoveTo)
  /-- INVALIDATION_AT_AGENT (R347). -/
  | invalidationAtAgent (g : Agent) (tag : Word) (sel : BitVec 2)
  /-- SET_ADDRESS_SPACE_ENTRY (R368). -/
  | setAddressSpaceEntry (e : BitVec 512)
  /-- MAP_RANGE (R368). -/
  | mapRange (e : BitVec 512)
  /-- UNMAP_RANGE (R368). -/
  | unmapRange (e : BitVec 512)
  /-- HOST_PAGE_WRITTEN (R368). -/
  | hostPageWritten (e : BitVec 512)
  /-- INSTALL_MESH (R368). -/
  | installMesh (e : BitVec 512) (map : MeshMap)
  /-- JOB_TABLE_ENTRY (R368). -/
  | jobTableEntry (e : BitVec 512)
  /-- PEER_MAP_ENTRY (R368). -/
  | peerMapEntry (e : BitVec 512)
  /-- NETWORK_PARAMETERS (R368). -/
  | networkParameters (e : BitVec 512)
  /-- BIND_FUNCTION_TO_WORLD (R368). -/
  | bindFunctionToWorld (e : BitVec 512)
  /-- ASSIGN_CHANNEL (R368). -/
  | assignChannel (e : BitVec 512)
  /-- ASSIGN_MSIX_VECTORS (R368). -/
  | assignMsixVectors (e : BitVec 512)
  /-- INSTALL_KEY (R368). -/
  | installKey (e : BitVec 512) (keys : BitVec 512)
  /-- REMOVE_KEY (R368). -/
  | removeKey (e : BitVec 512)
  /-- FRAME_OWNER_CHANGE (R359). -/
  | frameOwnerChange (frame : BitVec 29) (w : World)
  /-- NET_WRITE (R300). -/
  | netWrite (p : NetPacket)
  /-- NET_READ_REQUEST (R298). -/
  | netReadRequest (p : NetPacket)
  /-- NET_READ_REPLY (R305). -/
  | netReadReply (p : NetPacket)
  /-- NET_ATOMIC (R305). -/
  | netAtomic (p : NetPacket)
  /-- NET_ATOMIC_REPLY (R305). -/
  | netAtomicReply (p : NetPacket)
  /-- NET_MESSAGE (R303). -/
  | netMessage (p : NetPacket)
  /-- NET_LANDING (R191). -/
  | netLanding (p : NetPacket)
  /-- ORDERED_PACKET_RELEASE (R301). -/
  | orderedPacketRelease (p : NetPacket)
  /-- RUDI_PACKET (R294). -/
  | rudiPacket (p : NetPacket)
  /-- NET_ACKNOWLEDGEMENT (R300). -/
  | netAcknowledgement (p : NetPacket)
  /-- NET_REFUSAL (R298). -/
  | netRefusal (p : NetPacket) (why : NetRefuse)
  /-- NETWORK_TIMEOUT (R297). -/
  | networkTimeout (h : Handle) (q : BitVec 16)
  /-- SA_KEY_INSTALL (R310). -/
  | saKeyInstall (sa : BitVec 10) (next : Bool) (key : BitVec 256)
  /-- SPDM_VERSION (R355). -/
  | spdmVersion (f : BitVec 6)
  /-- SPDM_CAPABILITIES (R355). -/
  | spdmCapabilities (f : BitVec 6)
  /-- SPDM_ALGORITHMS (R355). -/
  | spdmAlgorithms (f : BitVec 6)
  /-- SPDM_DIGESTS (R355). -/
  | spdmDigests (f : BitVec 6)
  /-- SPDM_CERTIFICATE (R355). -/
  | spdmCertificate (f : BitVec 6) (slot : BitVec 3)
  /-- SPDM_CHALLENGE (R355). -/
  | spdmChallenge (f : BitVec 6) (slot : BitVec 3)
  /-- SPDM_MEASUREMENTS (R354). -/
  | spdmMeasurements (f : BitVec 6)
  /-- SPDM_KEY_EXCHANGE (R355). -/
  | spdmKeyExchange (f : BitVec 6)
  /-- SPDM_FINISH (R355). -/
  | spdmFinish (f : BitVec 6) (k : BitVec 6)
  /-- SPDM_HEARTBEAT (R355). -/
  | spdmHeartbeat (f : BitVec 6) (k : BitVec 6)
  /-- SPDM_KEY_UPDATE (R355). -/
  | spdmKeyUpdate (f : BitVec 6) (k : BitVec 6)
  /-- SPDM_END_SESSION (R355). -/
  | spdmEndSession (f : BitVec 6) (k : BitVec 6)
  /-- IDE_KM (R355). -/
  | ideKm (f : BitVec 6) (k : BitVec 6) (key : BitVec 256)
  /-- PROTECTED_KEY_INSTALL (R357). -/
  | protectedKeyInstall (f : BitVec 6) (k : BitVec 6) (id : BitVec 13) (key : BitVec 512)
  /-- LOCK_INTERFACE_REQUEST (R361). -/
  | lockInterfaceRequest (f : BitVec 6) (k : BitVec 6)
  /-- START_INTERFACE_REQUEST (R361). -/
  | startInterfaceRequest (f : BitVec 6)
  /-- STOP_INTERFACE_REQUEST (R361). -/
  | stopInterfaceRequest (f : BitVec 6)
  /-- GET_DEVICE_INTERFACE_STATE (R361). -/
  | getDeviceInterfaceState (f : BitVec 6)
  /-- GET_DEVICE_INTERFACE_REPORT (R362). -/
  | getDeviceInterfaceReport (f : BitVec 6)
  /-- IDE_STREAM_FAILURE (R361). -/
  | ideStreamFailure (f : BitVec 6)
  /-- BAR_ADDRESS_CHANGE (R361). -/
  | barAddressChange (f : BitVec 6)
  /-- APBASE (R367). -/
  | apbase (f : BitVec 6) (v : Word)
  /-- HOST_BAR2_WRITE (R360). -/
  | hostBar2Write (f : BitVec 6) (off : BitVec 36) (data : Bytes)
  /-- HOST_BAR2_READ (R360). -/
  | hostBar2Read (f : BitVec 6) (off : BitVec 36) (n : Nat)
  /-- REGISTER_WRITE (R366). -/
  | registerWrite (f : BitVec 6) (off : BitVec 26) (v : Word)
  /-- POWER_ON (R369). -/
  | powerOn
  /-- FIRMWARE_ACTIVATION (R353). -/
  | firmwareActivation
  /-- TRAINING_COMPLETE (R371). -/
  | trainingComplete
  /-- PHASE_3_ENTRY (R371). -/
  | phase3Entry
  /-- HOT_RESET (R364). -/
  | hotReset
  /-- LINK_DOWN (R364). -/
  | linkDown
  /-- FUNCTION_LEVEL_RESET (R364). -/
  | functionLevelReset (f : BitVec 6)
  /-- SCRUB_PASS (R373). -/
  | scrubPass (marks : ScrubMarks)
  /-- UNCORRECTABLE_ERROR (R373). -/
  | uncorrectableError (place : ErrorPlace)
  /-- THERMAL_TRIP (R377). -/
  | thermalTrip
  /-- SUPPLY_TRIP (R377). -/
  | supplyTrip
  /-- UNKNOWN_OPERATION (R368). -/
  | unknownOperation (e : BitVec 512)
  /-- TRANSPORT_RESEND (R301). -/
  | transportResend (p : NetPacket)
  /-- PORT_DOWN (R296). -/
  | portDown (n : BitVec 4)
  /-- PORT_UP (R296). -/
  | portUp (n : BitVec 4)
  /-- FETCH_FAULT (R343). -/
  | fetchFault (h : Handle) (pc : Word)
deriving DecidableEq, Repr, Inhabited

end Sys2Proof
end

