-- ==== Sys2Proof/Machine/State.lean ====
section
/-! DEFINITION. All that the spec gives the machine to hold, as plain data, and the machine right
after power-on (R369). INVENTORY.md lists every field with its rule and its reset value. -/

namespace Sys2Proof.Machine

open Sys2Proof

/-- Why a step stops for good. -/
inductive Fault where
  /-- A request reached a local physical address outside every range of R337. Raised by what is performed
  at its home (READ_REQUEST, WRITE_REQUEST, AMO_AT_HOME, MEMORY_LANDING). Safe: the spec says no entry may name it. -/
  | unassignedAddress (a : Nat)
deriving DecidableEq, Repr

/-- Why a row of the table has no meaning here. -/
inductive Refusal where
  /-- The row is not modelled yet. Raised by the arms of exec alone. Safe: nothing is claimed of it. -/
  | notModelled (mnemonic : String)
deriving DecidableEq, Repr

/-- Bytes of memory by address, in canonical form; an unlisted byte reads as 0 (log 4). -/
abbrev Memory := List Host.Cell

/-- The canonical form of a memory. -/
def Memory.wf (m : Memory) : Bool := swf (0 : Byte) m

/-- What a sleeping thread waits for (R90, R198). -/
inductive Wait
  | waitp (r : Reg) (acq : Bool) | sleep | evw (line : BitVec 8) | teambar | pop (p : Port) (d : BitVec 6)
deriving DecidableEq, Repr, Inhabited

/-- Where a thread stands (R90). `saving`: a save is in progress; `away`: saved, in the continuation table
and its image; `restoring`: its image is being loaded (R203); each keeps the wait that the save found.
`exiting`: past its EXIT, which still waits (R119), from its slot or as a saved thread that is ended (R328). `ended`: gone. `idle`: no thread. -/
inductive Status
  | idle | ready | stalled | sleeping (w : Wait) | saving (w : Option Wait) | away (w : Option Wait)
  | restoring (w : Option Wait)
  | exiting (away : Bool) | ended
deriving DecidableEq, Repr, Inhabited

/-- Why a save is ordered (R201). -/
inductive SaveWhy
  | preempt | yield | migrate (core : BitVec 11) | fault | fatal
deriving DecidableEq, Repr, Inhabited

/-- One entry of a dispatch ring (R200). -/
structure RingEntry where
  seq : BitVec 16
  port : BitVec 2
  q : Bool
  lc : Bool
  state : BitVec 3
  kind : BitVec 8
  status : BitVec 8
  cord : BitVec 16
  vec : BitVec 64
deriving DecidableEq, Repr, Inhabited

/-- The free ring entry. -/
def RingEntry.free : RingEntry :=
  { seq := 0, port := 0, q := false, lc := false, state := 0, kind := 0, status := 0, cord := 0, vec := 0 }

/-- What a memory-core program has beside its scalar registers (R225). -/
structure McProgram where
  /-- Sequence number of its MCRUN command. -/
  seq : BitVec 16
  /-- Device-wide number of its memory core (R5). -/
  mc : Nat
  /-- Address of its first bundle. -/
  pc0 : Word
  /-- Stream instructions sent: tag, and the numbers of their rows (R228). -/
  streams : List (BitVec 4 × List Nat)
  /-- The trap that ended it: cause and address of its bundle. -/
  ended : Option (BitVec 8 × Word)
deriving DecidableEq, Repr, Inhabited

/-- A thread: its registers (R91), its special registers (R95) and its continuation record (R102). -/
structure Thread where
  handle : Handle
  world : World
  asid : BitVec 12
  prio : BitVec 3
  graph : BitVec 8
  node : BitVec 16
  /-- The team whose completion counts it (R324), and its index in the team if it is a member (R122). -/
  team : Nat
  member : Option (BitVec 4)
  core : BitVec 11
  slot : BitVec 3
  /-- w/32 (R91). -/
  win : BitVec 5
  status : Status
  pc : Word
  s : Vector Word 64
  m : Vector Word 16
  x : Vector (BitVec 10) 8
  v : Sparse Lanes
  /-- Remaining arrivals of each register (R94). -/
  sc : Vector (BitVec 7) 64
  mc : Vector (BitVec 7) 16
  vc : Sparse (BitVec 7)
  tstat : Word
  actl : Word
  tcause : Word
  tval : Word
  tepc : Word
  tvec : Word
  lfaultLo : Word
  lfaultHi : Word
  dseqNext : BitVec 16
  muw : Word
  bfmt : Vector (BitVec 8) 16
  cbk : Vector (BitVec 256) 16
  ring : Sparse RingEntry
  /-- Completion words queued so far (R200). -/
  cord : BitVec 16
  /-- Bundles fetched ahead, at most two (R87, R350). -/
  fetched : List (Word × BitVec 64)
  /-- Flags of the continuation record (R102). -/
  runnable : Bool
  progress : Bool
  cause : BitVec 3
  joinCell : Word
  /-- A save is ordered and waits for the boundary (R201). -/
  save : Option SaveWhy
  /-- The event that a wait interrupted by a trap is about has come meanwhile (R198). -/
  woken : Bool
  /-- The wait that a trap interrupted (`TCAUSE.WAIT` names its kind). -/
  waited : Option Wait
  /-- The operands of the bundle on which it last stalled, in field order: of them the record names the first that is empty (R102). -/
  awaited : List Reg
  /-- The pages of its bundle whose misses have been asked for while the bundle waits for misses to end (R341). -/
  walked : List Nat
  /-- The trap with which the MMP resumes a thread whose page fault it cannot resolve (R344). -/
  failed : Option (BitVec 8 × Word)
  /-- The page fault that it was saved for has been served (R344). -/
  served : Bool
  /-- Fences taken: the successor set, and the events that it waits for (R168). -/
  fences : List (BitVec 4 × List Nat)
  /-- A memory-core program (R225). -/
  prog : Option McProgram
deriving DecidableEq, Repr, Inhabited

/-- A record that holds no thread (log 2). -/
def Thread.none : Thread :=
  { handle := 0, world := 0, asid := 0, prio := 0, graph := 0, node := 0, team := 0, member := Option.none
    core := 0, slot := 0, win := 1, status := .idle, pc := 0
    s := Vector.replicate 64 0, m := (Vector.replicate 16 0).set 0 (BitVec.allOnes 64)
    x := Vector.replicate 8 0, v := [], sc := Vector.replicate 64 0, mc := Vector.replicate 16 0, vc := []
    tstat := 0, actl := 0, tcause := 0, tval := 0, tepc := 0, tvec := 0, lfaultLo := 0, lfaultHi := 0
    dseqNext := 0, muw := 1, bfmt := Vector.replicate 16 1, cbk := Vector.replicate 16 0
    ring := [], cord := 0, fetched := [], runnable := false, progress := false, cause := 0, joinCell := 0
    save := Option.none, woken := false, waited := Option.none, awaited := [], walked := [], failed := Option.none, served := false, fences := []
    prog := Option.none }

/-- A TLB entry: ASID, virtual page number in 64 KiB units, whether of 32 MiB, and its leaf (R341). -/
structure TlbEntry where
  asid : BitVec 12
  page : Nat
  big : Bool
  leaf : Word
deriving DecidableEq, Repr, Inhabited

/-- A line of a channel buffer (R223, R224): its number, the key identifier of its fill, whether it has been written since,
and what the DRAM holds of an encrypted one. -/
structure BufLine where
  line : Nat
  key : Option (BitVec 13)
  dirty : Bool
  under : Option (BitVec 512)
deriving DecidableEq, Repr, Inhabited

/-- What a compute core holds beside its threads. -/
structure CoreState where
  tlb : List TlbEntry
  /-- Location cache, most recently used first; `none` is "directory" (R180). -/
  loc : List (Handle × Option (BitVec 11))
  mortar : List Packet
  /-- Forwarding entries, most recently written first; `none` is "directory" (R190). -/
  fwd : List (Handle × Option (BitVec 11))
  /-- Requests outstanding (R159). -/
  outst : Nat
  /-- The landing agent's sequence counter (R177). -/
  seq : BitVec 31
  /-- Slot that issued last (R89). -/
  last : BitVec 3
  /-- The core's copy of its tile's owner (R233). -/
  tileOwner : Option Handle
deriving DecidableEq, Repr, Inhabited

/-- A core at reset (log 3). -/
def CoreState.init : CoreState :=
  { tlb := [], loc := [], mortar := [], fwd := [], outst := 0, seq := 0, last := 7, tileOwner := Option.none }

/-- A bound tree: the engine's copy of the descriptor (R252, R253). -/
structure Tree where
  desc : Word
  world : World
  asid : BitVec 12
  base : Word
  cap : Nat
  bs : Nat
  two : Bool
  cpuct : BitVec 32
  lambda : BitVec 32
  fpv : BitVec 32
  root : BitVec 32
  bump : BitVec 32
  free : BitVec 32
  lazy : BitVec 32
  nfree : BitVec 32
  nlazy : BitVec 32
  bnext : BitVec 16
  /-- Blocks set aside for expansions that have been let through (R263). -/
  reserved : Nat
deriving DecidableEq, Repr, Inhabited

/-- What a cluster holds. -/
structure ClusterState where
  tlb : List TlbEntry
  /-- Pending count of each event line, and the waiters in order (R123). -/
  events : Sparse Nat
  waiters : List (BitVec 8 × Handle)
  /-- The tree table (R253). -/
  trees : Sparse (Option Tree)
  /-- The resume queue, in order (R331). -/
  queue : List Handle
deriving DecidableEq, Repr, Inhabited

/-- A cluster at reset. -/
def ClusterState.init : ClusterState :=
  { tlb := [], events := [], waiters := [], trees := [], queue := [] }

/-- An operand slot (R230). -/
structure OpSlot where
  owner : Option Handle
  world : World
  fmt : BitVec 8
  mx : Bool
  sh : Bool
  lastWorld : Option World
  data : Sparse Byte
  scale : Sparse Byte
  book : Sparse Byte
deriving DecidableEq, Repr, Inhabited

/-- A slot at reset (R230). -/
def OpSlot.init : OpSlot :=
  { owner := Option.none, world := 0, fmt := 0, mx := false, sh := false, lastWorld := Option.none
    data := [], scale := [], book := [] }

/-- An accumulator tile: element (r, c) at key 128 r + c (R233). `cls`: 0 unset, 1 FP32, 2 INT32. -/
structure Tile where
  elems : Sparse (BitVec 32)
  owner : Option Handle
  cls : BitVec 2
  count : Nat
  /-- Sequence number of the command of the last counted K-step (R247). -/
  lseq : BitVec 16
deriving DecidableEq, Repr, Inhabited

/-- A tile at reset (R233). -/
def Tile.init : Tile := { elems := [], owner := Option.none, cls := 0, count := 0, lseq := 0 }

/-- A matrix unit and its arbiter (R230, R233, R237). -/
structure UnitState where
  slots : Sparse OpSlot
  tiles : Sparse Tile
  cur : BitVec 3
  turns : Nat
  weight : Nat
  /-- No core has been ready since the last K-step: the next one that is takes the unit (R237). -/
  idle : Bool
deriving DecidableEq, Repr, Inhabited

/-- A unit at reset: c = 7, k = 0, W = 0 (R237). -/
def UnitState.init : UnitState := { slots := [], tiles := [], cur := 7, turns := 0, weight := 0, idle := false }

/-- A team and its barrier (R122, R324). -/
structure Team where
  graph : BitVec 8
  node : BitVec 16
  home : BitVec 7
  members : List Handle
  left : List Handle
  arrived : List Handle
  /-- Threads, recruits included, that have not exited. -/
  alive : Nat
  /-- Order of placement, for R333. -/
  placed : Nat
  /-- When a bundle of one of its threads last took effect (R332). -/
  acted : Nat
deriving DecidableEq, Repr, Inhabited

/-- State of an engine command. -/
inductive CmdState | queued | running | parked | waiting
deriving DecidableEq, Repr, Inhabited

/-- What a network command holds beside (R296, R297, R305). -/
structure NetCmd where
  dst : BitVec 12
  cls : BitVec 4
  mode : NetMode
  tag : BitVec 12
  gen : BitVec 12
  msg : BitVec 32
  /-- CSN of its first packet. -/
  csn : BitVec 32
  ob : Bool
  /-- Entropy field, and bytes of a packet's payload. -/
  e : Nat
  seg : Nat
  /-- An NSEND.L. -/
  land : Bool
  /-- Network target, or the landing address of NSEND.L. -/
  target : Word
  /-- Local source, the landing address of the destination, or the value of NSEND.L. -/
  place : Word
  len : Nat
  op : AmoOp
  dbl : Bool
  /-- Operand and compare value of NATOM, and where its old value lands. -/
  b : Word
  c : Word
  reply : Option Word
  /-- Packets in all, sent; the offsets of those answered; status of the first refusal. -/
  packets : Nat
  sent : Nat
  got : List Nat
  /-- The offsets of those whose first acknowledgement, or reply, has been received (R313). -/
  heard : List Nat
  status : BitVec 8
  /-- Register of the completion word (R304 sd). -/
  d : BitVec 6
deriving DecidableEq, Repr, Inhabited

/-- An engine command from its ISSUE to its completion (R171). -/
structure Command where
  handle : Handle
  seq : BitVec 16
  port : Port
  kind : BitVec 8
  words : List Word
  core : BitVec 11
  world : World
  asid : BitVec 12
  weight : BitVec 4
  /-- Its place in the issue order, and the earlier events of its thread that it waits for (R82). -/
  n : Nat
  waits : List Nat
  state : CmdState
  /-- Iteration vector (R200). -/
  vec : BitVec 64
  /-- Bytes written or K-steps performed. -/
  count : Nat
  /-- Landings not yet acknowledged or refused, and whether one was refused. -/
  acks : Nat
  refused : Bool
  /-- The late fault it is parked with: cause, SUB, TVAL. -/
  fault : Option (BitVec 8 × BitVec 8 × Word)
  /-- Its completion word's ST and RES, once it has ended. -/
  fin : Option (BitVec 8 × BitVec 32)
  /-- An ACCZ in the E0 queue: its destination; no sequence number (R234). -/
  accz : Option (BitVec 6)
  net : Option NetCmd
  /-- The copy engine that has accepted it (R210). -/
  engine : BitVec 5 := 0
  /-- The run whose source is being read: the pieces still to be read, and the bytes that the others gave (R69, R212). -/
  reads : Option (List Piece × List Byte) := none
deriving DecidableEq, Repr, Inhabited

/-- Whose a range lock is (R217, R282). -/
inductive LockOwner | cmd (h : Handle) (q : BitVec 16) | bond (e : Nat)
deriving DecidableEq, Repr, Inhabited

/-- An entry of a range-lock table: the granules from `lo` up to `hi` (R217, R221). -/
structure Lock where
  die : BitVec 2
  world : World
  lo : Nat
  hi : Nat
  dst : Bool
  by' : Handle
  owner : LockOwner
  frames : List Nat
deriving DecidableEq, Repr, Inhabited

/-- An entry of the thread directory (R181). `state`: 0 Free, 1 Resident, 2 Suspended, 3 Moving. -/
structure DirEntry where
  state : BitVec 2
  gen : BitVec 8
  world : World
  core : BitVec 11
  slot : BitVec 3
  image : Word
deriving DecidableEq, Repr, Inhabited

/-- A directory entry at reset (log 3). -/
def DirEntry.init : DirEntry := { state := 0, gen := 0, world := 0, core := 0, slot := 0, image := 0 }

/-- An entry of the address-space table (R338). -/
structure AsidEntry where
  world : World
  root : Word
deriving DecidableEq, Repr, Inhabited

/-- An entry of the page ownership table (R358). `st`: 0 free, 1 owned, 2 scrubbing. -/
structure Owner where
  world : World
  st : BitVec 2
  lg : Bool
deriving DecidableEq, Repr, Inhabited

/-- Reset value of R358. -/
def Owner.init : Owner := { world := 0, st := 0, lg := false }

/-- A page fault that the MMP serves (R344): the threads that wait, each with the trap that it takes if the page
cannot be resolved. `tag`: the event asking the host for the page, and the frame that the host is to write. -/
structure PageFault where
  asid : BitVec 12
  page : Nat
  threads : List (Handle × BitVec 8 × Word)
  tag : Option (BitVec 32 × Nat)
  /-- Launches, and commands `GRUN`, whose patch list lies there (R322, R335). -/
  launches : List (BitVec 8)
  gruns : List (Handle × BitVec 16)
deriving DecidableEq, Repr, Inhabited

/-- A valid entry of the bond table (R275). -/
structure BondEntry where
  base : Word
  scr : Word
  tag : BitVec 32
  seq : BitVec 32
  dims : List (BitVec 32)
  ndim : BitVec 8
  fmt : BitVec 8
  busy : Bool
  failed : Bool
  announced : Bool
  reason : BitVec 4
  world : World
  asid : BitVec 12
  fco : BitVec 12
  state : BitVec 32
deriving DecidableEq, Repr, Inhabited

/-- A mesh (R274). -/
structure Mesh where
  sizes : List Nat
  coords : List Nat
  map : MeshMap
deriving DecidableEq, Repr, Inhabited

/-- A bond instruction that has announced, or a conversion under way (R280, R282). `decision`: none undecided, some none go,
some (reason, coordinate) fault. -/
structure BondWait where
  /-- This device's own announcement. -/
  ann : Announcement
  /-- Linear coordinates of the members. -/
  group : List Nat
  asid : BitVec 12
  /-- Die of the issuing thread, whose table holds the locks. -/
  die : BitVec 2
  entry : BitVec 12
  dstEntry : Option (BitVec 12)
  /-- Threads stalled on it, their destinations, and the addresses of their bundles. -/
  waiters : List (Handle × BitVec 6 × Word)
  /-- Where results are to land. -/
  dests : List (Origin × BitVec 6)
  /-- Those of them whose bundle took effect within the drain of a save, which does not wait for them (R282). -/
  drained : List Origin
  decision : Option (Option (BitVec 4 × BitVec 12))
  /-- The contribution, read when the locks were taken. -/
  mine : Option (List Byte)
  /-- The result, once the conversion has ended: threads whose bundle has not yet taken effect still wait for it. -/
  result : Option Word
  /-- It is being withdrawn: the coordinator has not yet answered (R282, R290). -/
  leaving : Bool
deriving DecidableEq, Repr, Inhabited

/-- State of a window (R298). -/
inductive WinKind | memory | buffer | revoking
deriving DecidableEq, Repr, Inhabited

/-- A record of a circular buffer (R303). -/
structure BufRec where
  start : Nat
  size : Nat
  len : Nat
  pad : Bool
  /-- Sender's message, and bytes placed. -/
  src : BitVec 12
  cls : BitVec 4
  mode : NetMode
  msg : BitVec 32
  placed : Nat
  taken : Bool
deriving DecidableEq, Repr, Inhabited

/-- An open window (R298). -/
structure Window where
  kind : WinKind
  world : World
  asid : BitVec 12
  perm : BitVec 3
  base : Word
  len : Nat
  prod : Nat
  cons : Nat
  inflight : Nat
  recs : List BufRec
  /-- CBPOP takes waiting, in order (R308). -/
  takers : List (Origin × BitVec 6)
  /-- Who revokes it (R309). -/
  revoker : Option (Origin × BitVec 6)
deriving DecidableEq, Repr, Inhabited

/-- A connection as its sender holds it (R296). -/
structure Conn where
  dst : BitVec 12
  cls : BitVec 4
  mode : NetMode
  csn : BitVec 32
  msg : BitVec 32
  /-- Lowest CSN that has been abandoned (R301). -/
  broken : Option (BitVec 32)
  /-- Classes 14 and 15: packets not yet acknowledged, by CSN and message number, and what they carry (R191, R282). -/
  open' : List (BitVec 32 × BitVec 32 × Kept)
  /-- CSNs of bond engines' packets that were not answered in time: an acknowledgement that comes later still counts (R280, R313). -/
  late : List (BitVec 32)
  /-- Job IDs whose packets it has carried. -/
  jobs : List (BitVec 24)
deriving DecidableEq, Repr, Inhabited

/-- A connection as its receiver holds it: all CSNs below `low` are placed, and those of `above`. -/
structure RxConn where
  src : BitVec 12
  cls : BitVec 4
  mode : NetMode
  low : BitVec 32
  above : List (BitVec 32)
  /-- Lowest CSN that the sender has abandoned (R301). -/
  broken : Option (BitVec 32)
  /-- Job IDs whose packets it has carried. -/
  jobs : List (BitVec 24)
deriving DecidableEq, Repr, Inhabited

/-- Packets sent and acknowledged on one path (R308 mode 3, R313). -/
structure Path where
  dst : BitVec 12
  cls : BitVec 4
  entropy : BitVec 8
  sent : BitVec 32
  acked : BitVec 32
deriving DecidableEq, Repr, Inhabited

/-- A peer map entry (R294, R368 0x07). -/
structure Peer where
  lomkin : Bool
  netCc : Bool
  rxCc : Bool
deriving DecidableEq, Repr, Inhabited

/-- A security association (R310). -/
structure SecAssoc where
  cur : Option (BitVec 256)
  next : Option (BitVec 256)
  used : Nat
  /-- The keys under which packets are accepted: both until the first packet under the next one. -/
  rxCur : Option (BitVec 256)
  rxNext : Option (BitVec 256)
deriving DecidableEq, Repr, Inhabited

/-- A launch channel (R320, R321). -/
structure Channel where
  en : Bool
  devl : Bool
  pmax : BitVec 3
  wt : BitVec 4
  wdk : BitVec 6
  progthr : BitVec 6
  vec : BitVec 11
  world : World
  fifo : List Word
  drop : Bool
  ended : Bool
  badw : Bool
  lgraph : BitVec 8
  err : BitVec 2
  /-- The function it is assigned to (R361). -/
  func : BitVec 6
  running : Option (BitVec 8)
deriving DecidableEq, Repr, Inhabited

/-- A channel at reset (R320). -/
def Channel.init : Channel :=
  { en := false, devl := false, pmax := 7, wt := 1, wdk := 30, progthr := 24, vec := 0, world := 0, fifo := []
    drop := false, ended := false, badw := false, lgraph := 0, err := 0, func := 0, running := Option.none }

/-- A running launch (R323). `chan` none: a GRUN of command `grun` (R335). -/
structure Launch where
  graph : BitVec 8
  chan : Option (BitVec 4)
  grun : Option (Handle × BitVec 16)
  asid : BitVec 12
  world : World
  pmax : BitVec 3
  wdk : BitVec 6
  progthr : BitVec 6
  /-- Waiting for a page of the patch list (R322). -/
  patch : Option Word
  /-- Reason and node of its abort: it ends when the last of its threads has ended (R328). -/
  aborting : Option (BitVec 8 × BitVec 16)
deriving DecidableEq, Repr, Inhabited

/-- A team queued for placement (R323, R333). -/
structure TeamWait where
  graph : BitVec 8
  node : BitVec 16
  team : Nat
deriving DecidableEq, Repr, Inhabited

/-- TDISP states (R361). -/
inductive Tdisp | unlocked | locked | run | error
deriving DecidableEq, Repr, Inhabited

/-- A PCIe function (R356, R361, R365, R367). -/
structure Func where
  tdisp : Tdisp
  world : World
  vecFirst : Nat
  vecCount : Nat
  ide : Bool
  apbase : Word
  /-- The state that it goes to once the destruction of its world has ended (R361, R363). -/
  leaving : Option Tdisp
deriving DecidableEq, Repr, Inhabited

/-- A function at reset (log 3). -/
def Func.init : Func := { tdisp := .unlocked, world := 0, vecFirst := 0, vecCount := 0, ide := false, apbase := 0, leaving := Option.none }

/-- An entry of the error log (R374). -/
structure LogEntry where
  kind : BitVec 16
  world : World
  detail : BitVec 32
  addr : Word
  seq : Word
  time : Nat
deriving DecidableEq, Repr, Inhabited

/-- What a tree instruction still has to do at its engine (R258 to R268); indices are those of records. -/
inductive TreeOp
  | bind (addr : Word) (init : Bool)
  | unbind
  /-- The node at which the descent stands, and its depth; none before the root. -/
  | desc (at' : Option (Nat × Nat))
  | expand (leaf : Nat) (table : Word) (k : Nat) (reserved : Bool)
  /-- Node, value, full or not, nodes updated, nodes without virtual loss. -/
  | back (x : Nat) (v : BitVec 32) (full : Bool) (n z : Nat)
  | reroot (c : Nat)
  | read (x : Nat) (v : BitVec 9)
  | stat (f : BitVec 3)
  | free (m n : Nat)
  /-- The result that an expansion's engine has already answered (R263). -/
  | told (v : Word)
deriving DecidableEq, Repr, Inhabited

/-- A tree instruction at the engine of its cluster. -/
structure TreeReq where
  o : Origin
  d : BitVec 6
  cluster : BitVec 7
  t : BitVec 4
  asid : BitVec 12
  op : TreeOp
  /-- The engine has accepted it: it has begun to act (R82, R168). -/
  begun : Bool
deriving DecidableEq, Repr, Inhabited

/-- A bond instruction that acts at once when its entry is not busy (R285, R286, R289, R290). -/
inductive BondOp
  | decl (e : BitVec 12) (desc : Word) | set (e : BitVec 12) (st : BitVec 32) | qry (e : BitVec 12) (f : BitVec 4)
  | drop (e : BitVec 12)
deriving DecidableEq, Repr, Inhabited

/-- A request to the network engine that is no command (R307 to R309). -/
inductive NetOp
  | wopen (base len : Word) (perm : BitVec 3) | wrevoke (w : BitVec 16) | wqry (f : BitVec 3) (a : Word)
  | cbopen (base size : Word) | take (w : BitVec 16) | free (w : BitVec 16) | restart (q : BitVec 16) | cancel (q : BitVec 16)
deriving DecidableEq, Repr, Inhabited

/-- What follows when every translation agent has acknowledged (R346, R348, R359). -/
inductive ShootJob
  | tlbi (o : Origin) (d : BitVec 6)
  /-- A page moves: its frame, its frames in number, where to, and the entries that mapped it. -/
  | move (frame n : Nat) (dest : MoveTo) (leaves : List (Nat × Word))
  /-- Frames are scrubbed, then their entries hold `to'`. -/
  | scrub (frames : List Nat) (to' : Owner)
deriving DecidableEq, Repr, Inhabited

/-- An invalidation under way: the agents that have not acknowledged, each with what it removes (R347). -/
structure Shootdown where
  left : List (Agent × Word × BitVec 2)
  job : ShootJob
deriving DecidableEq, Repr, Inhabited

/-- A range that system software has mapped: what the MMP keeps of it (R344, R368 0x02). -/
structure MapRange where
  asid : BitVec 12
  base : Nat
  len : Nat
  leaf : Word
deriving DecidableEq, Repr, Inhabited

/-- An action that the machine itself has caused and that waits for its turn: a row of the table that is no
encoding. `runEvent` gives each the meaning of its row. -/
inductive Event
  /-- The action of a tree engine, of a bond engine, of a network engine, of the MMP at its ring, a host write that waits for
  range locks: these belong to the rows of the instructions or host accesses that caused them. -/
  | treeAction (r : TreeReq)
  | bondRequest (o : Origin) (d : BitVec 6) (asid : BitVec 12) (op : BondOp)
  /-- A bond instruction that the engine has accepted and that waits for a busy entry (R283). -/
  | bondWaiting (o : Origin) (d : BitVec 6) (asid : BitVec 12) (op : BondOp)
  | bondLock (k : BondKey)
  /-- A bond engine's message leaves for another device; one of the announcements there has had no answer in time (R280, R296). -/
  | bondSend (dst : BitVec 12) (m : BondMsg)
  | bondTimeout (dst : BitVec 12)
  | netRequest (o : Origin) (d : BitVec 6) (asid : BitVec 12) (op : NetOp)
  | netSend (h : Handle) (q : BitVec 16)
  | netLand (p : Packet)
  /-- A packet that has passed its checks is placed or read piece by piece (R69, R300): what is left, and what has been read. -/
  | netPlace (p : NetPacket) (left : List Piece) (got : List Byte)
  /-- The answer to a packet that has arrived leaves: an acknowledgement or a refusal (R298, R300, R310). -/
  | answerOut (p : NetPacket) (why : Option NetRefuse)
  | serveRing
  /-- An interface whose world is being destroyed goes to its next state (R363). -/
  | leaveLock (f : BitVec 6) (st : Tdisp)
  | phase3Entry
  | bar2Write (f : BitVec 6) (off : BitVec 36) (data : Bytes)
  | sleepTimeout (h : Handle)
  | threadExitComplete (h : Handle)
  | preemptAtDispatcher (o : Origin) (d : BitVec 6) (t : Handle)
  | eventLanding (p : Packet)
  | directoryLookup (o : Origin) (d : BitVec 6) (t : Handle)
  | claimAtUnit (o : Origin) (d : BitVec 6) (unit : BitVec 8) (spec : Word)
  | releaseAtUnit (o : Origin) (d : BitVec 6) (spec : Word)
  | acczAtHead (core : BitVec 11)
  | accrdSnapshot (o : Origin) (v : BitVec 9) (c : BitVec 6) (core : BitVec 11) (row : BitVec 7) (half : Bool)
  | bondAnnouncement (n : Announcement)
  | bondDecision (k : BondKey) (go : Bool) (reason : BitVec 4) (coord : BitVec 12)
  | bondWithdrawal (n : Announcement)
  | bondConversion (k : BondKey) (data : PeerData)
  | windowRevokeComplete (o : Origin) (d : BitVec 6) (w : BitVec 16)
  | mma (core : BitVec 11)
  | kStep (unit : BitVec 8)
  | drain (core : BitVec 11)
  | mzero (core : BitVec 11)
  | mresume (h : Handle) (q : BitVec 16)
  | mcancel (h : Handle) (q : BitVec 16)
  | copy (h : Handle) (q : BitVec 16)
  | copyf (h : Handle) (q : BitVec 16)
  | copyr (h : Handle) (q : BitVec 16)
  | copyc (h : Handle) (q : BitVec 16)
  | mcrun (h : Handle) (q : BitVec 16)
  | mcrunEnd (h : Handle) (q : BitVec 16)
  | grun (h : Handle) (q : BitVec 16)
  | depdec (h : Handle) (q : BitVec 16)
  | completionLanding (h : Handle) (q : BitVec 16)
  | readRequest (r : ReadReq)
  | writeRequest (r : WriteReq)
  | amoAtHome (r : AmoReq)
  | landingArrival (core : BitVec 11) (p : Packet)
  | directoryResolve (p : Packet)
  | slotLanding (p : Packet)
  | memoryLanding (p : Packet)
  | landingAcknowledgement (p : Packet) (place : BitVec 12)
  | landingRefusal (p : Packet) (sub : BitVec 8)
  | checkFailure (p : Packet)
  | busy (p : Packet)
  | busyResend (p : Packet)
  | saveStart (h : Handle)
  | saveReport (h : Handle)
  | resume (h : Handle) (core : BitVec 11) (slot : BitVec 3)
  | teamPlacement
  | launchStart (c : BitVec 4)
  | tlbMissWalk (cluster : BitVec 7) (asid : BitVec 12) (va : Word)
  | pageFaultService (asid : BitVec 12) (va : Word)
  | invalidationAtAgent (g : Agent) (tag : Word) (sel : BitVec 2)
  | netWrite (p : NetPacket)
  | netReadRequest (p : NetPacket)
  | netReadReply (p : NetPacket)
  | netAtomic (p : NetPacket)
  | netAtomicReply (p : NetPacket)
  | netMessage (p : NetPacket)
  | netLanding (p : NetPacket)
  | orderedPacketRelease (p : NetPacket)
  | rudiPacket (p : NetPacket)
  | netAcknowledgement (p : NetPacket)
  | netRefusal (p : NetPacket) (why : NetRefuse)
  | transportResend (p : NetPacket)
deriving DecidableEq, Repr, Inhabited

/-- What the device has sent to the outside. -/
inductive OutMsg
  | msix (v : BitVec 11) | landAnswer (p : Packet) (place : BitVec 12) (sub : BitVec 8)
  /-- A packet, the port that it leaves on, and the bytes of its extension header and payload (R296, R299). -/
  | packet (port : BitVec 4) (bytes : Bytes) (p : NetPacket)
  | netAnswer (port : BitVec 4) (p : NetPacket) (why : Option NetRefuse)
  /-- A bond engine's message, as a packet of class 14: its port, its extension header and its CSN (R296, R299). -/
  | bond (port : BitVec 4) (header : Bytes) (csn : BitVec 32) (dst : BitVec 12) (m : BondMsg)
  /-- Word to the receiver of a connection that its sender has abandoned a packet (R301). -/
  | abandoned (dst : BitVec 12) (cls : BitVec 4) (mode : NetMode) (csn : BitVec 32)
  | spdm (f : BitVec 6) (kind : Nat) (data : BitVec 512) | measure (f : BitVec 6) (m : List (BitVec 384)) | spdmError (f : BitVec 6)
  | report (f : BitVec 6) (data : BitVec 768) | tdisp (f : BitVec 6) (s : Tdisp)
  | bar2 (data : Bytes) | ring (op : BitVec 8) (status : BitVec 8) | pageRequest (asid : BitVec 12) (page : Nat) (tag : BitVec 32) (frame : Nat) | pageOut (frame : Nat) (data : Bytes)
  | warn (sa : BitVec 10) (exhausted : Bool) | dump (base : Word) (data : Bytes)
deriving DecidableEq, Repr, Inhabited

/-- How the last bundle ended, by which a step joins its two instructions (R31, R33). `window`: a trap of the
decoding or of the register window; `trapped`: of an execution check; `held`: a structural limit; `unchecked`: it waits before its
execution checks are made. -/
inductive Report | done | stalled | held | unchecked | window | trapped
deriving DecidableEq, Repr, Inhabited

/-- The machine. -/
structure State where
  -- the model's own fields
  th : Thread
  rest : List Thread
  pending : List Event
  inputs : List Instr
  outbox : List OutMsg
  turn : Nat
  clock : Nat
  /-- Events issued so far. -/
  stamp : Nat
  last : Report
  -- units
  dev : BitVec 12
  dir : Sparse DirEntry
  cores : Sparse CoreState
  clusters : Sparse ClusterState
  units : Sparse UnitState
  teams : Sparse (Option Team)
  teamNext : Nat
  /-- Landings sent and not yet acknowledged, and those an agent holds back (R177, R179). -/
  copies : List Packet
  heldBack : List Packet
  /-- Location caches of the landing agents of engines and homes (R177, R180). -/
  agentLocs : List (Agent × List (Handle × Option (BitVec 11)))
  cmds : List Command
  locks : List Lock
  -- memory and translation
  mem : Memory
  /-- Channel buffers: the lines of a set, most recently used first, under 128 times its memory core's number plus its own
  (R223). `mem` holds a buffered line as the buffer has it, any other as the DRAM has it. -/
  buffers : Sparse (List BufLine)
  asids : Sparse (Option AsidEntry)
  owners : Sparse Owner
  keySlots : Sparse (Option (World × BitVec 512))
  pageFaults : List PageFault
  pageTag : BitVec 32
  shootdowns : List Shootdown
  ranges : List MapRange
  /-- Local addresses of the 4 KiB tables that the MMP has taken. -/
  tables : List Nat
  -- bond engine
  bonds : Sparse (Option BondEntry)
  meshes : Sparse (Option Mesh)
  bondWaits : List BondWait
  announced : List Announcement
  psyncs : Sparse Nat
  psyncBack : List (BitVec 4 × Nat)
  -- network
  windows : Sparse (Option Window)
  conns : List Conn
  rxConns : List RxConn
  rxHeld : List NetPacket
  /-- Packets whose landing has been handed to the package fabric and is not yet answered (R191). -/
  rxLandings : List NetPacket
  paths : List Path
  tagGens : Sparse (BitVec 12)
  secAssocs : Sparse (Option SecAssoc)
  jobs : Sparse (Option World)
  peers : Sparse (Option Peer)
  netTimeout : BitVec 8
  pfc : BitVec 16
  portsDown : BitVec 16
  nstale : BitVec 64
  -- scheduler
  gmem : Memory
  channels : Vector Channel 16
  launches : List Launch
  queue : List TeamWait
  rrCur : Nat
  rrTurns : Nat
  rrWeight : Nat
  placedNext : Nat
  -- host, trust, reliability
  phase : BitVec 3
  trained : Bool
  rcause : BitVec 8
  dumpSt : BitVec 2
  fcause : BitVec 8
  capcl : BitVec 128
  capst : BitVec 24
  /-- Stacks (true) and clusters that have failed: they are fused out at the next bring-up (R373). -/
  broken : List (Bool × BitVec 7)
  capport : BitVec 16
  dumpBase : Word
  dumpLen : BitVec 20
  elHead : BitVec 32
  elTail : BitVec 32
  elVec : BitVec 11
  elEn : Bool
  elLost : BitVec 32
  errLog : Sparse (Option LogEntry)
  mrqHead : Word
  mrqTail : Word
  mevHead : Word
  mevTail : Word
  ringMem : Memory
  msixPending : List (BitVec 11)
  msixMem : Memory
  funcs : Sparse Func
  /-- Sessions of SPDM by function and number: established, and between key exchange and finish (R355). -/
  sessions : List (BitVec 6 × BitVec 6)
  handshakes : List (BitVec 6 × BitVec 6)
  ideKeys : List (BitVec 6 × BitVec 256)
  measurements : Vector (BitVec 384) 4
  svn : BitVec 32
  /-- Marked banks, and corrections of each bank in this pass (R373). -/
  marked : List Nat
  corrected : Sparse Nat
  /-- Symbol errors that stand in the arrays of die SRAM, by the address of their word and their bank (R373). -/
  upsets : List (Nat × Nat)
deriving DecidableEq, Repr

/-- The machine at power-on, phase 0 (R369). No thread runs until firmware is verified and the host
launches a graph (log 1). -/
def State.reset : State :=
  { th := Thread.none, rest := [], pending := [], inputs := [], outbox := [], turn := 0, clock := 0, stamp := 0, last := .done
    dev := 0x005, dir := [], cores := [], clusters := [], units := [], teams := [], teamNext := 0
    copies := [], heldBack := [], agentLocs := [], cmds := [], locks := []
    mem := [], buffers := [], asids := [], owners := [], keySlots := [], pageFaults := [], pageTag := 0, shootdowns := [], ranges := [], tables := []
    bonds := [], meshes := [], bondWaits := [], announced := [], psyncs := [], psyncBack := []
    windows := [], conns := [], rxConns := [], rxHeld := [], rxLandings := [], paths := [], tagGens := [], secAssocs := [], jobs := []
    peers := [], netTimeout := 28, pfc := 0, portsDown := 0, nstale := 0
    gmem := [], channels := Vector.replicate 16 Channel.init, launches := [], queue := []
    rrCur := 16, rrTurns := 0, rrWeight := 0, placedNext := 0
    phase := 0, trained := false, rcause := 0, dumpSt := 0, fcause := 0
    capcl := BitVec.allOnes 128, capst := BitVec.allOnes 24, broken := [], capport := BitVec.allOnes 16
    dumpBase := 0, dumpLen := 0, elHead := 0, elTail := 0, elVec := 0, elEn := false, elLost := 0, errLog := []
    mrqHead := 0, mrqTail := 0, mevHead := 0, mevTail := 0, ringMem := [], msixPending := [], msixMem := []
    funcs := [], sessions := [], handshakes := [], ideKeys := [], measurements := Vector.replicate 4 0, svn := 0, marked := [], corrected := [], upsets := [] }

end Sys2Proof.Machine
end

