-- ==== Sys2Proof/Machine/Ops.lean ====
section
/-! DEFINITION. The named operations that every meaning is built from: registers and presence, threads,
memory bytes, traps and the return from one. -/

namespace Sys2Proof.Machine

open Sys2Proof

/-- What a step answers. -/
abbrev Out := Host.Outcome State Fault Refusal

/-! ### Numbers -/

/-- Sign extension of the low n bits to 64 bits. -/
def sext64 {n : Nat} (x : BitVec n) : Word := x.signExtend 64
/-- Zero extension to 64 bits. -/
def zext64 {n : Nat} (x : BitVec n) : Word := x.zeroExtend 64
/-- A word of a number. -/
def word (n : Nat) : Word := BitVec.ofNat 64 n
/-- 1 or 0. -/
def boolWord (b : Bool) : Word := if b then 1 else 0
/-- The word of a negative status: −n (R259, R284, R308). -/
def status (n : Nat) : Word := -(BitVec.ofNat 64 n)
/-- One bit of a word. -/
def bit {n : Nat} (x : BitVec n) (i : Nat) : Bool := x.getLsbD i
/-- n bytes of a number, the lowest first (R2). -/
def leBytes : Nat → Nat → List Byte
  | 0, _ => []
  | n + 1, x => BitVec.ofNat 8 x :: leBytes n (x / 256)
/-- The number of a byte string, the lowest first. -/
def ofLe : List Byte → Nat
  | [] => 0
  | b :: r => b.toNat + 256 * ofLe r
/-- The byte string with `b` in place of its bytes from `off` on, as far as it reaches. -/
def patch (l : List Byte) (off : Nat) (b : List Byte) : List Byte :=
  l.take off ++ b.take (l.length - off) ++ l.drop (off + b.length)
/-- `n` bytes of a byte string from `off` on, zeros past its end. -/
def slice (l : List Byte) (off n : Nat) : List Byte :=
  (l.drop off).take n ++ List.replicate (n - (l.length - off)) 0

/-! ### Registers of a thread (R91, R92) -/

/-- Read of a scalar register; `S0` reads zero (R29). -/
def rdS (t : Thread) (r : BitVec 6) : Word := if r = 0 then 0 else t.s[r.toNat]'r.isLt
/-- Write of a scalar register; a write to `S0` is discarded (R29). -/
def wrS (t : Thread) (r : BitVec 6) (v : Word) : Thread :=
  if r = 0 then t else { t with s := t.s.set r.toNat v r.isLt }
/-- Read of a mask register; `M0` reads all ones (R92). -/
def rdM (t : Thread) (r : BitVec 4) : Word := if r = 0 then BitVec.allOnes 64 else t.m[r.toNat]'r.isLt
/-- Write of a mask register; a write to `M0` is discarded (R92). -/
def wrM (t : Thread) (r : BitVec 4) (v : Word) : Thread :=
  if r = 0 then t else { t with m := t.m.set r.toNat v r.isLt }
/-- Read of an index register (R30). -/
def rdX (t : Thread) (r : BitVec 3) : BitVec 10 := t.x[r.toNat]'r.isLt
/-- Write of an index register (R30). -/
def wrX (t : Thread) (r : BitVec 3) (v : BitVec 10) : Thread := { t with x := t.x.set r.toNat v r.isLt }
/-- Read of a vector register by window index. -/
def rdV (t : Thread) (r : BitVec 9) : Lanes := sget 0 t.v r.toNat
/-- Write of a vector register by window index. -/
def wrV (t : Thread) (r : BitVec 9) (v : Lanes) : Thread := { t with v := sset 0 t.v r.toNat v }
/-- Format tag of a bank (R57). -/
def rdBfmt (t : Thread) (b : BitVec 4) : BitVec 8 := t.bfmt[b.toNat]'b.isLt
/-- Write of a format tag. -/
def wrBfmt (t : Thread) (b : BitVec 4) (f : BitVec 8) : Thread := { t with bfmt := t.bfmt.set b.toNat f b.isLt }
/-- A codebook (R52). -/
def rdCbk (t : Thread) (b : BitVec 4) : BitVec 256 := t.cbk[b.toNat]'b.isLt
/-- Write of a codebook. -/
def wrCbk (t : Thread) (b : BitVec 4) (v : BitVec 256) : Thread := { t with cbk := t.cbk.set b.toNat v b.isLt }
/-- Bank of a window index (R57). -/
def bankOf (r : BitVec 9) : BitVec 4 := bits r 5 4

/-- The window index that a vector specifier names (R29): values 248 to 255 read `X0` to `X7`. -/
def specIndex (t : Thread) (v : BitVec 8) : BitVec 10 :=
  if v.toNat < 248 then v.zeroExtend 10 else rdX t (bits v 0 3)
/-- The vector register of a specifier that lies in the window. -/
def spec (t : Thread) (v : BitVec 8) : BitVec 9 := bits (specIndex t v) 0 9
/-- Size of the window in registers (R91). -/
def winSize (t : Thread) : Nat := 32 * t.win.toNat

/-! ### Presence (R94) -/

/-- Remaining arrivals of a register. -/
def count (t : Thread) (r : Reg) : BitVec 7 :=
  match r with
  | .s n => t.sc[n.toNat]'n.isLt
  | .m n => t.mc[n.toNat]'n.isLt
  | .v n => sget 0 t.vc n.toNat

/-- `S0` and `M0`, which are always present (R92). -/
def fixedReg (r : Reg) : Bool := r = .s 0 || r = .m 0

/-- Present exactly when the count is 0; `S0` and `M0` always (R92, R94). -/
def present (t : Thread) (r : Reg) : Bool := fixedReg r || count t r = 0

/-- Set the count; `S0` and `M0` keep none (R92). -/
def setCount (t : Thread) (r : Reg) (c : BitVec 7) : Thread :=
  if fixedReg r then t
  else
    match r with
    | .s n => { t with sc := t.sc.set n.toNat c n.isLt }
    | .m n => { t with mc := t.mc.set n.toNat c n.isLt }
    | .v n => { t with vc := sset 0 t.vc n.toNat c }

/-- Write of register bits by an arrival, from a byte offset upward; `sel` says which bytes are written. -/
def landBytes (t : Thread) (r : Reg) (off : Nat) (b : List Byte) (sel : Nat → Bool) : Thread :=
  match r with
  | .s n => wrS t n (word (ofLe b))
  | .m n => wrM t n (word (ofLe b))
  | .v n =>
    let old := leBytes 256 (rdV t n).toNat
    let new := (upFrom 0 256).map (fun i =>
      if off ≤ i && i < off + b.length && sel i then b.getD (i - off) 0 else old.getD i 0)
    wrV t n (BitVec.ofNat 2048 (ofLe new))

/-- An arrival after its write: the count falls by one; into a present register it sets `LOVR` (R80, R94). -/
def countArrival (t : Thread) (r : Reg) : Thread :=
  if fixedReg r then t
  else if count t r = 0 then { t with tstat := t.tstat ||| 0x20 }
  else setCount t r (count t r - 1)

/-- Does an arrival into `r` wake the wait (R90, R117)? -/
def wakesWait (t : Thread) (r : Reg) (w : Wait) : Bool :=
  match w with
  | .waitp q _ => q = r && present t r
  | .sleep => true
  | _ => false

/-- A sleeping thread whose wait an arrival ends becomes Ready (R90, R116, R117). -/
def wakeArrival (t : Thread) (r : Reg) : Thread :=
  match t.status with
  | .sleeping w => if wakesWait t r w then { t with status := .ready } else t
  | _ => t

/-- A whole arrival at a register of a thread that is not away. One into `S0` or `M0` is discarded (R92), and wakes no
thread either: whether it reaches a register in the sense of R117 the spec does not say (log 19). -/
def arrive (t : Thread) (r : Reg) (off : Nat) (b : List Byte) (sel : Nat → Bool) : Thread :=
  if fixedReg r then t else wakeArrival (countArrival (landBytes t r off b sel) r) r

/-! ### Tables of the machine -/

/-- The core of a device-wide number. -/
def coreOf (s : State) (c : BitVec 11) : CoreState := sget CoreState.init s.cores c.toNat
/-- Write of a core. -/
def setCore (s : State) (c : BitVec 11) (k : CoreState) : State :=
  { s with cores := sset CoreState.init s.cores c.toNat k }
/-- Cluster of a core (R5). -/
def clusterOf (c : BitVec 11) : BitVec 7 := bits c 4 7
/-- Compute die of a core (R5). -/
def dieOf (c : BitVec 11) : BitVec 2 := bits c 9 2
/-- Matrix unit of a core's octet (R5). -/
def unitOf (c : BitVec 11) : BitVec 8 := bits c 3 8
/-- The cluster of a device-wide number. -/
def clusterAt (s : State) (c : BitVec 7) : ClusterState := sget ClusterState.init s.clusters c.toNat
/-- Write of a cluster. -/
def setCluster (s : State) (c : BitVec 7) (k : ClusterState) : State :=
  { s with clusters := sset ClusterState.init s.clusters c.toNat k }
/-- The matrix unit of a device-wide number. -/
def unitAt (s : State) (u : BitVec 8) : UnitState := sget UnitState.init s.units u.toNat
/-- Write of a matrix unit. -/
def setUnit (s : State) (u : BitVec 8) (k : UnitState) : State :=
  { s with units := sset UnitState.init s.units u.toNat k }
/-- Is the cluster there (R366 `CAPCL`)? -/
def clusterPresent (s : State) (c : BitVec 7) : Bool := bit s.capcl c.toNat
/-- Directory entry of a handle's index (R181). -/
def dirOf (s : State) (i : BitVec 16) : DirEntry := sget DirEntry.init s.dir i.toNat
/-- Write of a directory entry. -/
def setDir (s : State) (i : BitVec 16) (e : DirEntry) : State := { s with dir := sset DirEntry.init s.dir i.toNat e }
/-- Directory index of a handle (R10). -/
def hIndex (h : Handle) : BitVec 16 := bits h 0 16
/-- Generation of a handle (R10). -/
def hGen (h : Handle) : BitVec 8 := bits h 16 8
/-- Add an action to those that wait. -/
def pend (s : State) (i : Event) : State := { s with pending := s.pending ++ [i] }
/-- Add an action, unless it waits already. -/
def pendOnce (s : State) (i : Event) : State := if s.pending.contains i then s else pend s i
/-- Put an action before those that wait: it goes on with what it has begun. -/
def pendFirst (s : State) (i : Event) : State := { s with pending := i :: s.pending }
/-- What the device sends out. -/
def send (s : State) (m : OutMsg) : State := { s with outbox := s.outbox ++ [m] }
/-- A free choice among `n`, read at the step count (log 8). One of one is no choice. -/
def choose (s : State) (n : Nat) : Nat := if n ≤ 1 then 0 else Config.freeChoice s.clock % n

/-! ### Threads wherever they are -/

/-- A thread proper, not a memory-core program, that exists. -/
def isLive (t : Thread) : Bool := t.prog.isNone && t.status ≠ .idle && t.status ≠ .ended
/-- Is the thread in a slot (R90)? -/
def inSlot (t : Thread) : Bool :=
  isLive t && (match t.status with
    | .away _ => false
    | .exiting away => !away
    | _ => true)
/-- Is the thread saved (R90)? -/
def isAway (t : Thread) : Bool :=
  isLive t && (match t.status with
    | .away _ => true
    | _ => false)
/-- Every thread record of the machine. -/
def allThreads (s : State) : List Thread := s.th :: s.rest
/-- The live thread of a handle. -/
def findThread (s : State) (h : Handle) : Option Thread :=
  if isLive s.th && s.th.handle = h then some s.th else s.rest.find? (fun t => isLive t && t.handle = h)
/-- Change of the live thread of a handle, wherever it is. -/
def modThread (s : State) (h : Handle) (f : Thread → Thread) : State :=
  if isLive s.th && s.th.handle = h then { s with th := f s.th }
  else { s with rest := s.rest.map (fun t => if isLive t && t.handle = h then f t else t) }
/-- The memory-core program of a command. -/
def isProg (h : Handle) (q : BitVec 16) (t : Thread) : Bool :=
  match t.prog with
  | none => false
  | some p => t.handle = h && p.seq = q && t.status ≠ .ended && t.status ≠ .idle
/-- Change of a memory-core program. -/
def modProg (s : State) (h : Handle) (q : BitVec 16) (f : Thread → Thread) : State :=
  if isProg h q s.th then { s with th := f s.th }
  else { s with rest := s.rest.map (fun t => if isProg h q t then f t else t) }
/-- A new thread record beside the one in focus; ended records are dropped. -/
def addThread (s : State) (t : Thread) : State :=
  { s with rest := s.rest.filter (fun u => u.status ≠ .ended && u.status ≠ .idle) ++ [t] }
/-- The first element that satisfies `p`, and the list without it. -/
def pickOut {α : Type} (p : α → Bool) : List α → Option (α × List α)
  | [] => none
  | x :: r =>
    if p x then some (x, r)
    else
      match pickOut p r with
      | none => none
      | some (y, r') => some (y, x :: r')
/-- Bring a record that satisfies `p` into focus; the one in focus joins the others. -/
def focusOn (s : State) (p : Thread → Bool) : State :=
  if p s.th then s
  else
    match pickOut p s.rest with
    | none => s
    | some (t, r) =>
      { s with th := t
               rest := if s.th.status = .idle || s.th.status = .ended then r else r ++ [s.th] }

/-! ### Memory by local physical address -/

/-- Stacks present on a die, ascending (R372). -/
def presentStacks (s : State) (d : Nat) : List Nat := (upFrom 0 6).filter (fun i => bit s.capst (d * 6 + i))
/-- Clusters present on a die, by their number within it, ascending (R372). -/
def presentClusters (s : State) (d : Nat) : List Nat := (upFrom 0 32).filter (fun i => bit s.capcl (d * 32 + i))
/-- Stacks present on a die: they say how much HBM it has (R337, R372). -/
def stacksOf (s : State) (d : Nat) : Nat := (presentStacks s d).length
/-- Clusters present on a die: they say how much SRAM it has (R372). -/
def clustersOf (s : State) (d : Nat) : Nat := (presentClusters s d).length
/-- Die whose HBM holds the address (R337). -/
def hbmDie (s : State) (a : Nat) : Option Nat :=
  let d := a / 2 ^ 40
  if d < 4 && a % 2 ^ 40 < stacksOf s d * (96 * 10 ^ 9) then some d else none
/-- Base of die SRAM (R337). -/
def sramBase : Nat := 0x1E0000000000
/-- Die whose SRAM holds the address (R337, R372). -/
def sramDie (s : State) (a : Nat) : Option Nat :=
  if sramBase ≤ a && a < sramBase + 4 * 0x4000000 then
    let d := (a - sramBase) / 0x4000000
    if (a - sramBase) % 0x4000000 < clustersOf s d * 2 ^ 21 then some d else none
  else none
/-- Does the address exist (R337)? -/
def assigned (s : State) (a : Nat) : Bool := (hbmDie s a).isSome || (sramDie s a).isSome
/-- Device-reserved HBM: the top 16 GiB of each die's range (R337); in phases 0 to 2 the top 8 MiB of each
die's SRAM (R370). -/
def reserved (s : State) (a : Nat) : Bool :=
  (match hbmDie s a with
   | some d => stacksOf s d * (96 * 10 ^ 9) - 2 ^ 34 ≤ a % 2 ^ 40
   | none => false) ||
  (match sramDie s a with
   | some d => s.phase.toNat < 3 && clustersOf s d * 2 ^ 21 - 2 ^ 23 ≤ (a - sramBase) % 0x4000000
   | none => false)

/-- The byte at a local physical address. -/
def rdByte (s : State) (a : Nat) : Byte := sget 0 s.mem a
/-- Write of a byte. -/
def wrByte (m : Memory) (a : Nat) (b : Byte) : Memory := sset 0 m a b
/-- Bytes from an address upward. -/
def rdMem (m : Memory) : Nat → Nat → List Byte
  | _, 0 => []
  | a, n + 1 => sget 0 m a :: rdMem m (a + 1) n
/-- Write of bytes from an address upward. -/
def wrMem (m : Memory) : Nat → List Byte → Memory
  | _, [] => m
  | a, b :: r => wrMem (wrByte m a b) (a + 1) r
/-- Bytes of the machine's memory. -/
def rdBytes (s : State) (a n : Nat) : List Byte := rdMem s.mem a n
/-- Write of bytes of the machine's memory. -/
def wrBytes (s : State) (a : Nat) (b : List Byte) : State := { s with mem := wrMem s.mem a b }

/-! ### What the host is told (R367, R374) -/

/-- An entry of the MMP's event ring, `MEVHEAD` mod 256: operation, status 0, world, tag, arguments (R367). DESIGN CHOICE: one that the host
has not yet taken is overwritten (log 31). -/
def postEvent (s : State) (kind : Nat) (w : World) (tag : BitVec 32) (a b : Word) : State :=
  let bytes := leBytes 1 (Config.eventOp kind).toNat ++ leBytes 1 0 ++ leBytes 2 w.toNat ++ leBytes 4 tag.toNat ++
    leBytes 56 (Config.eventArgs kind a b).toNat
  { s with ringMem := wrMem s.ringMem (0x4000 + s.mevHead.toNat % 256 * 64) bytes, mevHead := s.mevHead + 1 }

/-- The error log (R374): entry HEAD mod 4,096, then HEAD + 1, the oldest unread one overwritten and counted; `TAIL` is the
host's. An entry that is signalled is an event too (R367). -/
def logError (s : State) (kind : BitVec 16) (w : World) (detail : BitVec 32) (addr seq : Word) : State :=
  let e : LogEntry := { kind := kind, world := w, detail := detail, addr := addr, seq := seq, time := (Config.freeWord s.clock).toNat }
  let full := (s.elHead - s.elTail).toNat ≥ 4096
  let s := { s with errLog := sset none s.errLog (s.elHead.toNat % 4096) (some e)
                    elHead := s.elHead + 1
                    elLost := if full && s.elLost ≠ BitVec.allOnes 32 then s.elLost + 1 else s.elLost }
  if s.elEn then postEvent { send s (.msix s.elVec) with msixPending := s.msixPending ++ [s.elVec] } 3 w 0 (zext64 kind) addr else s

/-! ### Soft errors of SRAM (R373) -/

/-- One correction in a bank: it is logged, and the 16th within a pass marks the bank (R373, R374). -/
def correction (s : State) (a b : Nat) : State :=
  let n := sget 0 s.corrected b + 1
  let s := logError { s with corrected := sset 0 s.corrected b n } 3 0 (BitVec.ofNat 32 b) (word a) 0
  if 16 ≤ n && !s.marked.contains b then logError { s with marked := s.marked ++ [b] } 4 0 (BitVec.ofNat 32 b) 0 0 else s

/-- A read of bytes corrects the symbol errors that stand in their words, of 16 bytes each; those of a marked bank are erasures (R373). -/
def correctRead (s : State) (a n : Nat) : State :=
  (s.upsets.filter (fun e => a / 16 ≤ e.1 / 16 && e.1 < a + n && !s.marked.contains e.2)).foldl (fun s e => correction s e.1 e.2) s

/-! ### Homes (R8, R9, R222, R372) -/

/-- The memory core of an HBM address, and the number of its 64-byte line in that core's channel: granules of 256 bytes go round
the present stacks, then round their 32 channels (R222, R223, R372). -/
def channelOf (s : State) (a : Nat) : Option (Nat × Nat) :=
  (hbmDie s a).map (fun d =>
    let g := a % 2 ^ 40 / 256
    let n := stacksOf s d
    (d * 192 + (presentStacks s d).getD (g % n) 0 * 32 + g / n % 32, g / n / 32 * 4 + a % 256 / 64))

/-- The slice of a die SRAM address: granules of 4 KiB go round the present slices (R9, R372). -/
def sliceOf (s : State) (a : Nat) : Option Nat :=
  (sramDie s a).map (fun d => d * 32 + (presentClusters s d).getD ((a - sramBase) % 0x4000000 / 4096 % clustersOf s d) 0)

/-- The agent that is home to a byte: the memory core of its channel, or its slice (R8, R68). -/
def homeOf (s : State) (a : Nat) : Option Agent :=
  match channelOf s a with
  | some (m, _) => some (.memoryCore (BitVec.ofNat 10 m))
  | none => (sliceOf s a).map (fun n => .slice (BitVec.ofNat 7 n))

/-! ### Channel buffers (R223, R224) -/

/-- Key material of an identifier: zeros for an empty slot (R357). -/
def keyOf (s : State) (k : BitVec 13) : BitVec 512 :=
  match sget none s.keySlots k.toNat with
  | some (_, key) => key
  | none => 0

/-- Fabric physical address of a local one (R340). -/
def fabric (s : State) (a : Nat) : Nat := s.dev.toNat * 2 ^ 45 + a

/-- The 64 bytes of a line as one number. -/
def rdLine (s : State) (l : Nat) : BitVec 512 := BitVec.ofNat 512 (ofLe (rdBytes s (64 * l) 64))
/-- Write of a line. -/
def wrLine (s : State) (l : Nat) (x : BitVec 512) : State := wrBytes s (64 * l) (leBytes 64 x.toNat)

/-- A line leaves its buffer: one that has been written is written back under its tag; of another the DRAM keeps what it
held (R223, R224). -/
def dropLine (s : State) (x : BufLine) : State :=
  match x.key with
  | none => s
  | some k => wrLine s x.line (if x.dirty then Config.encLine (keyOf s k) (fabric s (64 * x.line)) (rdLine s x.line) else x.under.getD 0)

/-- A line is filled under a key identifier: the buffer holds its plaintext (R224). -/
def fillLine (s : State) (l : Nat) (key : Option (BitVec 13)) : State × BufLine :=
  match key with
  | none => (s, { line := l, key := none, dirty := false, under := none })
  | some k =>
    let y := rdLine s l
    (wrLine s l (Config.decLine (keyOf s k) (fabric s (64 * l)) y), { line := l, key := key, dirty := false, under := some y })

/-- An access to a byte reaches its line in the channel buffer, which becomes its set's most recently used: one that is not there
takes a way, the least recently used of 16 where all are taken; one that is there under another key identifier leaves and is filled
again (R223, R224). Die SRAM has no buffer. -/
def touchLine (s : State) (a : Nat) (key : Option (BitVec 13)) (write : Bool) : State :=
  match channelOf s a with
  | none => s
  | some (m, n) =>
    let i := m * 128 + n % 128
    let set := sget [] s.buffers i
    let mine := set.find? (fun x => x.line = a / 64)
    let others := set.filter (fun x => x.line ≠ a / 64)
    let put (s : State) (x : BufLine) (l : List BufLine) : State :=
      { s with buffers := sset [] s.buffers i ({ x with dirty := x.dirty || write } :: l) }
    match mine with
    | some x =>
      if x.key = key then put s x others
      else
        let (s1, y) := fillLine (dropLine s x) (a / 64) key
        put s1 y others
    | none =>
      let (s1, y) := fillLine ((others.drop 15).foldl dropLine s) (a / 64) key
      put s1 y (others.take 15)

/-- Read of one piece at its home: of the channel's buffer, or of an array of die SRAM, whose symbol errors it corrects (R223, R373). -/
def rdPiece (s : State) (p : Piece) : State × List Byte :=
  let s := correctRead (touchLine s p.addr p.key false) p.addr p.len
  (s, rdBytes s p.addr p.len)

/-- Write of one piece at its home, from the payload. -/
def wrPiece (s : State) (p : Piece) (data : List Byte) : State :=
  wrBytes (touchLine s p.addr p.key true) p.addr (slice data p.off p.len)

/-- Bytes of several pieces, in order. -/
def rdPieces (s : State) : List Piece → State × List Byte
  | [] => (s, [])
  | p :: r =>
    let (s, b) := rdPiece s p
    let (s, c) := rdPieces s r
    (s, b ++ c)

/-- Write of several pieces. -/
def wrPieces (s : State) (l : List Piece) (data : List Byte) : State := l.foldl (fun s p => wrPiece s p data) s

/-- Every line of an interval is reached (R223). -/
def touchLines (s : State) (a n : Nat) (key : Option (BitVec 13)) (write : Bool) : State :=
  (upFrom (a / 64) ((a + n + 63) / 64 - a / 64)).foldl (fun s l => touchLine s (64 * l) key write) s

/-- The bytes that two pieces share. -/
def overlap (p q : Piece) : Bool := p.addr < q.addr + q.len && q.addr < p.addr + p.len

/-! ### Traps (R194 to R199) -/

/-- Causes of traps (R195). -/
inductive Cause
  | illegal | execPool | misalign | fetchFault | loadFault | storeFault | protect | rangeLocked | format | badLa
  | landingRefused | landingCheck | landingOverrun | engineFault | slotFault | treeFault | placementFault
  | netFault | trap | break' | progress
deriving DecidableEq, Repr, Inhabited

/-- Cause codes (R195). -/
def causeCode : Cause → BitVec 8
  | .illegal => 0x01 | .execPool => 0x02 | .misalign => 0x03 | .fetchFault => 0x04 | .loadFault => 0x05
  | .storeFault => 0x06 | .protect => 0x07 | .rangeLocked => 0x08 | .format => 0x09 | .badLa => 0x0A
  | .landingRefused => 0x10 | .landingCheck => 0x11 | .landingOverrun => 0x12 | .engineFault => 0x18
  | .slotFault => 0x19 | .treeFault => 0x1A | .placementFault => 0x1B | .netFault => 0x1C | .trap => 0x20
  | .break' => 0x21 | .progress => 0x28

/-- `TSTAT.INTRAP` (R96). -/
def inTrap (t : Thread) : Bool := bit t.tstat 6

/-- What a trap records beside its cause and value (R194, R196). -/
structure TrapInfo where
  cause : BitVec 8
  val : Word
  epc : Word
  async : Bool
  wait : BitVec 3
  port : BitVec 2
  seq : BitVec 16
  sub : BitVec 8
deriving DecidableEq, Repr, Inhabited

/-- `TCAUSE` as R196 forms it. -/
def tcauseOf (i : TrapInfo) : Word :=
  (0#24 ++ i.sub ++ i.seq ++ 0#2 ++ i.port ++ i.wait ++ (if i.async then 1#1 else 0#1) ++ i.cause).cast (by decide)

/-- Taking a trap (R196): with `INTRAP` 1 or no handler the thread stops fatally (R199), its trap registers
receiving the cause all the same; otherwise it enters its handler. -/
def trapEntry (t : Thread) (i : TrapInfo) : Thread :=
  let r := { t with tcause := tcauseOf i, tval := i.val, tepc := i.epc }
  if inTrap t || t.tvec = 0 then { r with save := some .fatal }
  else { r with tstat := t.tstat ||| 0x40, pc := t.tvec }

/-- A trap of a bundle itself: not asynchronous, no wait, no command (R196). -/
def preciseInfo (c : Cause) (val epc : Word) : TrapInfo :=
  { cause := causeCode c, val := val, epc := epc, async := false, wait := 0, port := 0, seq := 0, sub := 0 }

/-- A trap ends a memory-core program at once: cause and address of its bundle (R227). -/
def progTrap (t : Thread) (c : BitVec 8) (pc : Word) : Thread :=
  match t.prog with
  | none => t
  | some p => { t with prog := some { p with ended := some (c, pc) }, status := .exiting false }

/-- A precise trap of the thread in focus at its bundle. -/
def trapFocus (s : State) (c : Cause) (val epc : Word) : State :=
  if s.th.prog.isSome then
    match s.th.prog with
    | some p => pend { s with th := progTrap s.th (causeCode c) s.th.pc } (.mcrunEnd s.th.handle p.seq)
    | none => s
  else { s with th := trapEntry s.th (preciseInfo c val epc) }

/-- Return from a trap (R132): the program counter from `TEPC`, `INTRAP` 0, `WAIT` 0 (R198). -/
def trapReturn (t : Thread) : Thread :=
  { t with pc := t.tepc, tstat := t.tstat &&& ~~~0x40, tcause := t.tcause &&& ~~~0xE00 }

/-- The code of a wait (R194). -/
def waitCode : Wait → BitVec 3
  | .waitp _ _ => 1
  | .sleep => 2
  | .evw _ => 3
  | .teambar => 4
  | .pop _ _ => 5

/-- A trap taken at a bundle boundary (R196, R198): it wakes a sleeping thread and names the wait, which it
does not cancel; `TEPC` names the bundle that the thread would issue next. -/
def trapAtBoundary (t : Thread) (cause : BitVec 8) (val : Word) (port : BitVec 2) (seq : BitVec 16) (sub : BitVec 8) :
    Thread :=
  let w : Option Wait := match t.status with
    | .sleeping w => some w
    | _ => none
  let i : TrapInfo :=
    { cause := cause, val := val, epc := t.pc, async := true, wait := (w.map waitCode).getD 0, port := port, seq := seq, sub := sub }
  trapEntry { t with status := .ready, waited := w, woken := false } i

end Sys2Proof.Machine
end

