-- ==== Sys2Proof/Machine/Image.lean ====
section
/-! DEFINITION. The dispatch ring as the core holds it, the continuation record and the context image of a saved thread, and the
device-reserved memory in which they stand (R100, R102, R103, R181, R188, R200, R337, R370). -/

namespace Sys2Proof.Machine

open Sys2Proof

/-! ### The ring of a thread (R200) -/

/-- Ring entry of a sequence number. -/
def ringAt (t : Thread) (q : BitVec 16) : RingEntry := sget RingEntry.free t.ring (q.toNat % 64)
/-- Write of a ring entry. -/
def ringSet (t : Thread) (q : BitVec 16) (e : RingEntry) : Thread :=
  { t with ring := sset RingEntry.free t.ring (q.toNat % 64) e }
/-- Change of the ring entry of a live command. -/
def ringMod (t : Thread) (q : BitVec 16) (f : RingEntry → RingEntry) : Thread :=
  let e := ringAt t q
  if e.state ≠ 0 && e.seq = q then ringSet t q (f e) else t

/-- Commands outstanding (R100). -/
def outstanding64 (t : Thread) : Nat := (t.ring.filter (fun e => e.2.state ≠ 0)).length
/-- How long ago a command was numbered. -/
def ageOf (t : Thread) (q : BitVec 16) : Nat := (t.dseqNext - q).toNat
/-- The oldest entry that satisfies `p`. -/
def oldest (t : Thread) (p : RingEntry → Bool) : Option RingEntry :=
  ((t.ring.map (·.2)).filter (fun e => e.state ≠ 0 && p e)).foldl (fun (b : Option RingEntry) e =>
    match b with
    | none => some e
    | some o => if ageOf t o.seq < ageOf t e.seq then some e else b) none
/-- Not yet complete: states 1 to 3. -/
def incomplete (e : RingEntry) : Bool := e.state = 1 || e.state = 2 || e.state = 3
/-- `DSEQ` (R100). -/
def dseqWord (t : Thread) : Word :=
  let o := match oldest t incomplete with
    | some e => e.seq
    | none => t.dseqNext
  (0#25 ++ BitVec.ofNat 7 (outstanding64 t) ++ o ++ t.dseqNext).cast (by decide)

/-! ### Record and image (R102, R103) -/

/-- The awaited register of a thread that is not running: that of its `WAITP`, or the first empty one of the operands on which its bundle
stalled (R102). -/
def awaitedReg (t : Thread) : Option Reg :=
  match t.status with
  | .saving (some (.waitp r _)) | .away (some (.waitp r _)) | .restoring (some (.waitp r _)) => some r
  | .saving (some _) | .away (some _) | .restoring (some _) => none
  | _ => t.awaited.find? (fun r => !present t r)

/-- Bytes 16 to 19 of the record (R102). -/
def awaitedField (t : Thread) : Nat :=
  match (awaitedReg t).filter (fun r => !present t r) with
  | none => 3
  | some r =>
    let c : Nat × Nat := match r with
      | .s n => (0, n.toNat)
      | .v n => (1, n.toNat)
      | .m n => (2, n.toNat)
    c.1 + 4 * c.2 + 2048 * (count t r).toNat

/-- The 64 bytes of the continuation record of a thread whose image lies at `image` (R102); a thread of no team has index 0xFFFF
(log 11). -/
def recordBytes (t : Thread) (image : Word) : List Byte :=
  leBytes 8 t.pc.toNat ++ leBytes 4 t.handle.toNat ++ leBytes 2 t.world.toNat ++ leBytes 1 t.prio.toNat ++
    leBytes 1 ((if t.runnable then 1 else 0) + (if inTrap t then 2 else 0) + (if t.progress then 4 else 0)) ++
    leBytes 4 (awaitedField t) ++ leBytes 2 (winSize t) ++ leBytes 2 (t.member.elim 0xFFFF (·.toNat)) ++ leBytes 8 image.toNat ++
    leBytes 8 (t.node.toNat + 65536 * t.graph.toNat) ++ leBytes 8 t.joinCell.toNat ++ leBytes 8 t.cause.toNat ++ leBytes 8 0

/-- The 16 bytes of a ring entry (R200). -/
def ringBytes (e : RingEntry) : List Byte :=
  leBytes 2 e.seq.toNat ++ leBytes 1 (e.port.toNat + (if e.q then 4 else 0) + (if e.lc then 8 else 0)) ++ leBytes 1 e.state.toNat ++
    leBytes 1 e.kind.toNat ++ leBytes 1 e.status.toNat ++ leBytes 2 e.cord.toNat ++ leBytes 8 e.vec.toNat

/-- Bytes of an image: 4 KiB and the window (R103). -/
def imageSize (t : Thread) : Nat := 4096 + 256 * winSize t

/-- The bytes of the context image (R103). -/
def imageBytes (t : Thread) : List Byte :=
  let words (l : List Word) : List Byte := l.flatMap (fun x => leBytes 8 x.toNat)
  let pad (n : Nat) : List Byte := List.replicate n 0
  words ((upFrom 0 64).map (fun i => rdS t (BitVec.ofNat 6 i))) ++ words ((upFrom 0 16).map (fun i => rdM t (BitVec.ofNat 4 i))) ++
    (upFrom 0 8).flatMap (fun i => leBytes 2 (rdX t (BitVec.ofNat 3 i)).toNat) ++
    words [t.tstat, t.actl, t.muw, dseqWord t, t.tvec, t.tepc, t.tcause, t.tval, t.lfaultLo, t.lfaultHi] ++
    t.bfmt.toList.flatMap (fun f => leBytes 1 f.toNat) ++ pad 16 ++ t.cbk.toList.flatMap (fun c => leBytes 32 c.toNat) ++
    (upFrom 0 64).flatMap (fun i => leBytes 1 (count t (.s (BitVec.ofNat 6 i))).toNat) ++
    (upFrom 0 16).flatMap (fun i => leBytes 1 (count t (.m (BitVec.ofNat 4 i))).toNat) ++ pad 176 ++
    (upFrom 0 512).flatMap (fun i => leBytes 1 (if i < winSize t then (count t (.v (BitVec.ofNat 9 i))).toNat else 0)) ++
    (upFrom 0 64).flatMap (fun i => ringBytes (sget RingEntry.free t.ring i)) ++ pad 1024 ++
    (upFrom 0 (winSize t)).flatMap (fun i => leBytes 256 (rdV t (BitVec.ofNat 9 i)).toNat)

/-! ### Device-reserved memory (R181, R337, R370) -/

/-- The reserve of a die: the top 8 MiB of its SRAM in phases 0 to 2, the top 16 GiB of its HBM after that. -/
def reserveOf (s : State) (d : Nat) : Nat × Nat :=
  if s.phase.toNat < 3 then (sramBase + d * 0x4000000 + clustersOf s d * 2 ^ 21 - 2 ^ 23, 2 ^ 23)
  else (d * 2 ^ 40 + stacksOf s d * (96 * 10 ^ 9) - 2 ^ 34, 2 ^ 34)

/-- Bytes of a die's share of directory and continuation table, the lowest of its reserve (R181, log 11). -/
def tableShare : Nat := (2 ^ 20 + 2 ^ 22) / 4

/-- Where that share begins: above firmware's staging region, which HBM of die 0 has (R351). -/
def shareBase (s : State) (d : Nat) : Nat := (reserveOf s d).1 + (if s.phase.toNat < 3 || 0 < d then 0 else 2 ^ 28)

/-- Place of the continuation record of a directory index (R181, log 11). -/
def recordPlace (s : State) (i : BitVec 16) : Nat := shareBase s (i.toNat % 4) + 2 ^ 18 + 64 * (i.toNat / 4)

/-- The intervals of a die's reserve that are taken: images, and the MMP's tables. -/
def reserveTaken (s : State) : List (Nat × Nat) :=
  s.dir.filterMap (fun e =>
    if e.2.image = 0 then none
    else some (e.2.image.toNat % 2 ^ 45, ((findThread s (e.2.gen ++ BitVec.ofNat 16 e.1)).map imageSize).getD 0)) ++
  s.tables.map (fun a => (a, 4096)) ++
  s.asids.filterMap (fun e => e.2.map (fun x => (x.root.toNat % 2 ^ 45, 65536)))

/-- Free places of `n` bytes in a die's reserve, 4 KiB aligned (R102): after its share of the tables, or after what
is taken. -/
def imagePlaces (s : State) (d n : Nat) : List Nat :=
  let (base, len) := reserveOf s d
  let low := shareBase s d + tableShare
  let taken := reserveTaken s
  ((low :: taken.map (fun t => (t.1 + t.2 + 4095) / 4096 * 4096)).filter (fun a =>
    low ≤ a && a + n ≤ base + len && taken.all (fun t => t.1 + t.2 ≤ a || a + n ≤ t.1))).eraseDups

/-- Where a thread's image is to lie: any free place in the reserve of its core's die; none while there is no room (R370, log 8). -/
def imagePlace (s : State) (t : Thread) : Option Nat :=
  let l := imagePlaces s (dieOf t.core).toNat (imageSize t)
  l[choose s l.length]?

/-- Image and record of a saved thread are written as it stands (R103, R188). -/
def writeImage (s : State) (h : Handle) : State :=
  match findThread s h with
  | none => s
  | some t =>
    let e := dirOf s (hIndex h)
    if isAway t && e.image ≠ 0 then
      let a := e.image.toNat % 2 ^ 45
      let r := recordPlace s (hIndex h)
      let s := wrBytes (touchLines s a (imageSize t) none true) a (imageBytes t)
      wrBytes (touchLines s r 64 none true) r (recordBytes t e.image)
    else s

end Sys2Proof.Machine
end

