-- ==== Sys2Proof/Machine/Translate.lean ====
section
/-! DEFINITION. Translation: the page-table walk, TLBs, the fill port, and the checks of an access
(R156 to R158, R219, R337 to R343). -/

namespace Sys2Proof.Machine

open Sys2Proof

/-- Kinds of access: read, write, fetch. -/
inductive Acc | r | w | x
deriving DecidableEq, Repr, Inhabited

/-- What a walk finds (R340, R343). -/
inductive Finding
  | leaf (big : Bool) (l : Word) | absent | unmapped (malformed : Bool)
deriving DecidableEq, Repr, Inhabited

/-- Permission of a leaf (R340). -/
def allows (l : Word) : Acc → Bool
  | .r => bit l 2
  | .w => bit l 3
  | .x => bit l 4

/-- A 64-bit entry of a table, at a fabric physical address of this device. -/
def entryAt (s : State) (table : Nat) (i : Nat) : Word :=
  word (ofLe (rdBytes s (table % 2 ^ 45 + 8 * i) 8))

/-- The leaf formats that break no rule of R340. -/
def leafOk (big : Bool) (l : Word) : Bool :=
  bit l 0 && bit l 1 && field l 6 2 = 0 && field l 21 1 = 0 && field l 63 1 = 0 && (!big || field l 22 9 = 0)

/-- A table entry that breaks no rule of R340. -/
def tableOk (e : Word) : Bool := bit e 0 && !bit e 1 && field e 2 16 = 0 && field e 63 1 = 0

/-- The next table (R340). -/
def nextTable (e : Word) : Nat := field e 18 45 * 4096

/-- An entry that is not valid, at a level that may hold leaves (R340): its `KIND` is one of four, and at the last level `L` is 1
(R339). At level 2 with `L` 0 it maps nothing (log 12). -/
def absentEntry (e : Word) (last : Bool) : Finding :=
  if 3 < field e 2 3 || (last && !bit e 1) then .unmapped true
  else if field e 2 3 = 0 || !bit e 1 then .unmapped false
  else .absent

/-- The walk from a root table (R339, R340). -/
def walkFrom (s : State) (root va : Nat) : Finding :=
  let e0 := entryAt s root (va / 2 ^ 43)
  if !bit e0 0 then .unmapped false
  else if !tableOk e0 then .unmapped true
  else
    let e1 := entryAt s (nextTable e0) (va / 2 ^ 34 % 512)
    if !bit e1 0 then .unmapped false
    else if !tableOk e1 then .unmapped true
    else
      let e2 := entryAt s (nextTable e1) (va / 2 ^ 25 % 512)
      if !bit e2 0 then absentEntry e2 false
      else if bit e2 1 then (if leafOk true e2 then .leaf true e2 else .unmapped true)
      else if !tableOk e2 then .unmapped true
      else
        let e3 := entryAt s (nextTable e2) (va / 2 ^ 16 % 512)
        if !bit e3 0 then absentEntry e3 true
        else if leafOk false e3 then .leaf false e3
        else .unmapped true

/-- The places of the entries that a walk reads (R339). -/
def walkPath (s : State) (root va : Nat) : List Nat :=
  let place (table i : Nat) : Nat := table % 2 ^ 45 + 8 * i
  let e0 := entryAt s root (va / 2 ^ 43)
  let e1 := entryAt s (nextTable e0) (va / 2 ^ 34 % 512)
  let e2 := entryAt s (nextTable e1) (va / 2 ^ 25 % 512)
  place root (va / 2 ^ 43) ::
    (if !tableOk e0 then [] else place (nextTable e0) (va / 2 ^ 34 % 512) ::
      (if !tableOk e1 then [] else place (nextTable e1) (va / 2 ^ 25 % 512) ::
        (if !tableOk e2 then [] else [place (nextTable e2) (va / 2 ^ 16 % 512)])))

/-- A walk reads the tables through the memory cores, under no key (R223, R341). -/
def touchWalk (s : State) (asid : BitVec 12) (va : Nat) : State :=
  match sget none s.asids asid.toNat with
  | none => s
  | some a => (walkPath s a.root.toNat va).foldl (fun s p => touchLine s p none false) s

/-- The walk of an address space (R338): one that is not valid maps nothing. -/
def walk (s : State) (asid : BitVec 12) (va : Nat) : Finding :=
  match sget none s.asids asid.toNat with
  | none => .unmapped false
  | some a => walkFrom s a.root.toNat va

/-- Is the page of an address a 32 MiB one that is not present: an absent entry of level 2 (R339, R340)? -/
def absentBig (s : State) (asid : BitVec 12) (va : Nat) : Bool :=
  match sget none s.asids asid.toNat with
  | none => false
  | some x =>
    let e0 := entryAt s x.root.toNat (va / 2 ^ 43)
    let e1 := entryAt s (nextTable e0) (va / 2 ^ 34 % 512)
    let e2 := entryAt s (nextTable e1) (va / 2 ^ 25 % 512)
    tableOk e0 && tableOk e1 && !bit e2 0 && absentEntry e2 false = .absent

/-- The page that a fault is about, by the number of its first 64 KiB (R344). -/
def faultPage (s : State) (asid : BitVec 12) (va : Nat) : Nat := if absentBig s asid va then va / 2 ^ 25 * 512 else va / 65536

/-- Fabric physical address that a leaf gives (R340). -/
def leafAddr (big : Bool) (l : Word) (va : Nat) : Nat :=
  field l 22 41 * 65536 + (if big then va % 2 ^ 25 else va % 65536)

/-- The key of a leaf (R340). -/
def leafKey (l : Word) : Option (BitVec 13) := if bit l 5 then some (bits l 8 13) else none

/-- World of an address space. -/
def asidWorld (s : State) (asid : BitVec 12) : Option World := (sget none s.asids asid.toNat).map (·.world)

/-- Does a world own the frames of a leaf (R358)? -/
def ownsFrame (s : State) (w : World) (big : Bool) (frame : Nat) : Bool :=
  let o := sget Owner.init s.owners frame
  o.st = 1 && o.world = w && (!big || o.lg)

/-- The fill port (R342, R357, R358): the table has no entry for a frame of another device, and none of the page's bytes lies in
device-reserved memory. -/
def fillPort (s : State) (asid : BitVec 12) (big : Bool) (l : Word) : Bool :=
  let a := leafAddr big l 0 % 2 ^ 45
  match asidWorld s asid with
  | none => false
  | some w =>
    leafAddr big l 0 / 2 ^ 45 = s.dev.toNat && ownsFrame s w big (a / 65536) && !reserved s a &&
      !reserved s (a + (if big then 2 ^ 25 else 65536) - 1) &&
    (match leafKey l with
     | none => true
     | some k =>
       match sget none s.keySlots k.toNat with
       | some (kw, _) => kw = w
       | none => false)

/-- Does a TLB entry hold the page of an address (R341)? -/
def tlbHits (asid : BitVec 12) (va : Nat) (e : TlbEntry) : Bool :=
  e.asid = asid && (if e.big then e.page / 512 = va / 2 ^ 25 else e.page = va / 65536)

/-- What one translation comes to (R343). `device`: bits [63:56] or another device (R156). -/
inductive Access | ok (addr : Nat) (key : Option (BitVec 13)) | device | denied | absent | unmapped
deriving DecidableEq, Repr, Inhabited

/-- The outcome for a leaf; in reduced service an access to HBM is denied (R370). -/
def leafAccess (s : State) (asid : BitVec 12) (fill : Bool) (big : Bool) (l : Word) (va : Nat) (acc : Acc) : Access :=
  let a := leafAddr big l va
  if a / 2 ^ 45 ≠ s.dev.toNat then .device
  else if s.phase = 2 && (hbmDie s (a % 2 ^ 45)).isSome then .denied
  else if (fill && !fillPort s asid big l) || !allows l acc then .denied
  else .ok (a % 2 ^ 45) (leafKey l)

/-- Translation through TLBs, else by a walk and the fill port (R341 to R343). -/
def seek (s : State) (tlbs : List (List TlbEntry)) (asid : BitVec 12) (va : Nat) (acc : Acc) : Access :=
  if 2 ^ 56 ≤ va then .device
  else
    match tlbs.flatten.find? (tlbHits asid va) with
    | some e => leafAccess s asid false e.big e.leaf va acc
    | none =>
      match walk s asid va with
      | .leaf big l => leafAccess s asid true big l va acc
      | .absent => .absent
      | .unmapped _ => .unmapped

/-- The TLBs that serve a thread: its core's, then its cluster's; a memory-core program has no core's (R341). -/
def tlbsOf (s : State) (t : Thread) : List (List TlbEntry) :=
  let cl := (clusterAt s (clusterOf t.core)).tlb
  if t.prog.isSome then [cl] else [(coreOf s t.core).tlb, cl]

/-- The TLB that serves an engine command of a core (R341). -/
def tlbsOfCore (s : State) (c : BitVec 11) : List (List TlbEntry) := [(clusterAt s (clusterOf c)).tlb]

/-- The walk that a miss asks for, one for each page of an address space (R341). -/
def walkFor (c : BitVec 7) (asid : BitVec 12) (va : Nat) : Event := .tlbMissWalk c asid (word (va / 65536 * 65536))

/-- Misses of a cluster that are outstanding (R341). -/
def missesOut (s : State) (c : BitVec 7) : Nat :=
  (s.pending.filter (fun e => match e with
    | .tlbMissWalk d _ _ => d = c
    | _ => false)).length

/-- Are 32 of them outstanding (R341)? -/
def missesFull (s : State) (c : BitVec 7) : Bool := 32 ≤ missesOut s c

/-- Ask for a walk, unless it is outstanding already or no miss more can be (R341). -/
def askWalk (s : State) (c : BitVec 7) (asid : BitVec 12) (va : Nat) : State :=
  if s.pending.contains (walkFor c asid va) || missesFull s c then s else pend s (walkFor c asid va)

/-- Does a translation open a miss: no TLB holds its page, and no walk for the page is outstanding (R341)? -/
def missOpens (s : State) (tlbs : List (List TlbEntry)) (c : BitVec 7) (asid : BitVec 12) (va : Nat) : Bool :=
  va < 2 ^ 56 && !s.pending.contains (walkFor c asid va) && !tlbs.any (fun l => l.any (tlbHits asid va))

/-- Misses that a cluster can still open (R341). -/
def missRoom (s : State) (c : BitVec 7) : Nat := 32 - missesOut s c

/-- Does an access wait because one of the misses that it opens would be the cluster's 33rd (R341)? -/
def missWaits (s : State) (tlbs : List (List TlbEntry)) (c : BitVec 7) (asid : BitVec 12) (vas : List Nat) : Bool :=
  missRoom s c < ((vas.filter (missOpens s tlbs c asid)).map (· / 65536)).eraseDups.length

/-- The entry that serves, moved to the front of a core's TLB of 64 entries (R341). -/
def tlbFront (e : TlbEntry) (l : List TlbEntry) : List TlbEntry := (e :: l.filter (fun f => f ≠ e)).take 64

/-- Set of a cluster's TLB that holds an entry, of 256 (R341, log 44). -/
def tlbSetOf (e : TlbEntry) : Nat := Config.tlbSet e.asid.toNat (if e.big then e.page / 512 else e.page) % 256

/-- The entry that serves, moved to the front of a cluster's TLB: eight ways for each set, the least recently used giving way
(R341). -/
def tlbWays (e : TlbEntry) (l : List TlbEntry) : List TlbEntry :=
  let r := l.filter (fun f => f ≠ e)
  if r.length < 8 then e :: r
  else e :: ((r.filter (fun f => tlbSetOf f = tlbSetOf e)).take 7 ++ r.filter (fun f => tlbSetOf f ≠ tlbSetOf e))

/-- An access uses the TLBs: the entry that serves becomes the most recently used, a core miss that the
cluster serves fills the core's TLB, and a cluster miss starts a walk (R341). -/
def useTlb (s : State) (c : BitVec 11) (engine : Bool) (asid : BitVec 12) (va : Nat) : State :=
  let k := coreOf s c
  let cl := clusterAt s (clusterOf c)
  match if engine then none else k.tlb.find? (tlbHits asid va) with
  | some e => setCore s c { k with tlb := tlbFront e k.tlb }
  | none =>
    match cl.tlb.find? (tlbHits asid va) with
    | some e =>
      let s := setCluster s (clusterOf c) { cl with tlb := tlbWays e cl.tlb }
      if engine then s else setCore s c { k with tlb := tlbFront e k.tlb }
    | none => askWalk s (clusterOf c) asid va

/-! ### Accesses and their checks -/

/-- Part of an access: at most 8 bytes, crossing no 8-byte boundary (R69). -/
structure Chunk where
  va : Nat
  len : Nat
  off : Nat
  acc : Acc
deriving DecidableEq, Repr, Inhabited

/-- The parts of `n` bytes from `va` on, the first of them at byte `off` of the payload. -/
def chunksFrom (acc : Acc) : Nat → Nat → Nat → Nat → List Chunk
  | 0, _, _, _ => []
  | fuel + 1, va, n, off =>
    if n = 0 then []
    else
      let k := min n (8 - va % 8)
      { va := va, len := k, off := off, acc := acc } :: chunksFrom acc fuel (va + k) (n - k) (off + k)

/-- The parts of an access (R69). -/
def chunks (acc : Acc) (va n off : Nat) : List Chunk := chunksFrom acc (n / 8 + 2) va n off

/-- Why an access does not go on: a trap, a page to be served, or something to wait for: a lock, or room for a miss, the walks of the
pages `walks` being asked for meanwhile. -/
inductive Bad | trap (c : Cause) (val : Word) | suspend (va : Nat) (c : Cause) | wait (walks : List Nat)
deriving DecidableEq, Repr, Inhabited

/-- The fault of R156 and R343 by kind of access. -/
def faultOf : Acc → Cause
  | .r => .loadFault
  | .w => .storeFault
  | .x => .fetchFault

/-- Is the byte interval inside a lock's interval (R217)? -/
def lockCovers (l : Lock) (w : World) (lo n : Nat) : Bool := l.world = w && lo < l.hi && l.lo < lo + n

/-- Is this lock the source interval of the thread's own parked command (R83, R219)? -/
def ownParked (s : State) (h : Handle) (l : Lock) : Bool :=
  !l.dst &&
  (match l.owner with
   | .cmd h' q => h' = h && s.cmds.any (fun c => c.handle = h && c.seq = q && decide (c.state = .parked))
   | .bond _ => false)

/-- The first locked byte of a part, if any (R219). A memory-core program is not the issuing thread. -/
def lockedAt (s : State) (t : Thread) (c : Chunk) : Option Nat :=
  match s.locks.find? (fun l => lockCovers l t.world c.va c.len && !(c.acc = .r && t.prog.isNone && ownParked s t.handle l)) with
  | none => none
  | some l => some (max c.va l.lo)

/-- Translation of one part of an access (R156, R343). -/
def translateBad (s : State) (t : Thread) (c : Chunk) : Option Bad :=
  match seek s (tlbsOf s t) t.asid c.va c.acc with
  | .device => some (.trap (faultOf c.acc) (word c.va))
  | .absent | .unmapped =>
    if t.prog.isSome then some (.trap (faultOf c.acc) (word c.va)) else some (.suspend c.va (faultOf c.acc))
  | _ => none

/-- Translation of the parts of an access, in order: the first that fails, or whose miss would be the cluster's 33rd, which waits while
those before it are walked (R156, R341, R343). A page whose walk has been made for this bundle opens no miss again. -/
def translateAll (s : State) (t : Thread) (room : Nat) : List Nat → List Chunk → Option Bad
  | _, [] => none
  | seen, c :: r =>
    let p := c.va / 65536
    let opens := missOpens s (tlbsOf s t) (clusterOf t.core) t.asid c.va && !t.walked.contains p && !seen.contains p
    if opens && room ≤ seen.length then some (.wait seen)
    else
      match translateBad s t c with
      | some b => some b
      | none => translateAll s t room (if opens then seen ++ [p] else seen) r

/-- Permission of a part (R343). -/
def protectBad (s : State) (t : Thread) (c : Chunk) : Option Bad :=
  match seek s (tlbsOf s t) t.asid c.va c.acc with
  | .denied => some (.trap .protect (word c.va))
  | _ => none

/-- Range locks of a part (R219): a thread traps, a memory-core program waits. -/
def lockBad (s : State) (t : Thread) (c : Chunk) : Option Bad :=
  match lockedAt s t c with
  | none => none
  | some a => if t.prog.isSome then some (.wait []) else some (.trap .rangeLocked (word a))

/-- Alignment: each address with its required alignment (R157). -/
def misaligned (l : List (Nat × Nat)) : Option Bad :=
  (l.find? (fun e => e.1 % e.2 ≠ 0)).map (fun e => .trap .misalign (word e.1))

/-- The checks of R158 in their order: alignment, translation, PROTECT, RANGE_LOCKED, each over every access
before the next kind. -/
def accessBad (s : State) (t : Thread) (al : List (Nat × Nat)) (cs : List Chunk) : Option Bad :=
  match misaligned al with
  | some b => some b
  | none =>
    match translateAll s t (missRoom s (clusterOf t.core)) [] cs with
    | some b => some b
    | none =>
      match cs.findSome? (protectBad s t) with
      | some b => some b
      | none => cs.findSome? (lockBad s t)

/-- The place of a part whose checks passed. -/
def pieceOf (s : State) (tlbs : List (List TlbEntry)) (asid : BitVec 12) (c : Chunk) : Option Piece :=
  match seek s tlbs asid c.va c.acc with
  | .ok a k => some { addr := a, va := c.va, len := c.len, off := c.off, key := k }
  | _ => none

/-- The places of an access whose checks passed. -/
def piecesOf (s : State) (t : Thread) (cs : List Chunk) : List Piece := cs.filterMap (pieceOf s (tlbsOf s t) t.asid)

/-- The pages of an access use the TLBs (R341). -/
def useTlbs (s : State) (t : Thread) (cs : List Chunk) : State :=
  (cs.map (·.va / 65536)).eraseDups.foldl (fun s p => useTlb s t.core t.prog.isSome t.asid (p * 65536)) s

end Sys2Proof.Machine
end

