-- ==== Sys2Proof/Machine/Landing.lean ====
section
/-! DEFINITION. Landing addresses, packets and requests: how they are formed, kept, sent and ordered
(R10, R11, R73 to R79, R159, R176 to R180). -/

namespace Sys2Proof.Machine

open Sys2Proof

/-! ### Landing addresses (R10) -/

/-- Space of a landing address: 0 memory, 1 register, 2 slot, 3 event. -/
def laSpace (la : Word) : Nat := field la 62 2
/-- Device of a landing address; a memory address is of the sender's own space. -/
def laDev (la : Word) : BitVec 12 := bits la 48 12
/-- Class of a register landing address. -/
def laClass (la : Word) : Nat := field la 60 2
/-- Thread handle. -/
def laHandle (la : Word) : Handle := bits la 24 24
/-- Register number. -/
def laNum (la : Word) : BitVec 9 := bits la 15 9
/-- Lane. -/
def laLane (la : Word) : Nat := field la 9 6
/-- Matrix unit of a slot landing address. -/
def laUnit (la : Word) : BitVec 8 := bits la 40 8
/-- Slot. -/
def laSlot (la : Word) : Nat := field la 34 6
/-- Byte offset in the slot. -/
def laOff (la : Word) : Nat := field la 20 14
/-- Side-band part, which only packets of MLOAD carry (R246). -/
def laPart (la : Word) : Nat := field la 18 2
/-- Cluster of an event landing address. -/
def laCluster (la : Word) : BitVec 7 := bits la 41 7
/-- Event line. -/
def laLine (la : Word) : BitVec 8 := bits la 33 8
/-- Virtual address of a memory landing address. -/
def laVa (la : Word) : Nat := field la 0 56

/-- Malformed landing addresses (R10). -/
def laMalformed (la : Word) : Bool :=
  if laSpace la = 0 then field la 56 6 ≠ 0
  else if laSpace la = 1 then
    field la 0 9 ≠ 0 || laClass la = 3 || (laClass la = 0 && (64 ≤ (laNum la).toNat || laLane la ≠ 0)) ||
      (laClass la = 2 && (16 ≤ (laNum la).toNat || laLane la ≠ 0))
  else if laSpace la = 2 then field la 60 2 ≠ 0 || field la 0 20 ≠ 0
  else field la 60 2 ≠ 0 || field la 0 33 ≠ 0

/-- A payload of `n` bytes that would cross the end of its register, lanes or slot (R11, R157, R165). -/
def laCrosses (la : Word) (n : Nat) (lamk : Bool) : Bool :=
  if laSpace la = 1 then
    if laClass la = 1 then 64 < laLane la + (n + 3) / 4 || (lamk && laLane la ≠ 0)
    else 8 < n
  else if laSpace la = 2 then laOff la % min n 8 ≠ 0 || 16384 < laOff la + n
  else false

/-- A place at another device that is no 9624, which takes no landings (R294). -/
def laUnreachable (s : State) (la : Word) : Bool :=
  laSpace la ≠ 0 && laDev la ≠ s.dev &&
    (match sget none s.peers (laDev la).toNat with
     | some p => !p.lomkin
     | none => true)

/-- The register that a register landing address names. -/
def laReg (la : Word) : Reg :=
  if laClass la = 1 then .v (laNum la) else if laClass la = 2 then .m (bits (laNum la) 0 4) else .s (bits (laNum la) 0 6)

/-- The landing address of a register of a thread of this device. -/
def regLa (dev : BitVec 12) (h : Handle) (r : Reg) : Word :=
  let (c, n) : BitVec 2 × BitVec 9 := match r with
    | .s n => (0, n.zeroExtend 9)
    | .v n => (1, n)
    | .m n => (2, n.zeroExtend 9)
  (1#2 ++ c ++ dev ++ h ++ n ++ 0#15).cast (by decide)

/-! ### Check code (R178) -/

/-- CRC-32C of one byte more. -/
def crcByte (c : BitVec 32) (b : Byte) : BitVec 32 :=
  (upFrom 0 8).foldl (fun c _ => if bit c 0 then (c >>> 1) ^^^ 0x82F63B78 else c >>> 1) (c ^^^ b.zeroExtend 32)
/-- CRC-32C of a byte string. -/
def crc32c (l : List Byte) : BitVec 32 := ~~~(l.foldl crcByte (BitVec.allOnes 32))
/-- The check code of a packet: header bytes 0 to 7, bytes 32 to 39, the payload. -/
def crcOf (la : Word) (lmask : BitVec 64) (payload : List Byte) : BitVec 32 :=
  crc32c (leBytes 8 la.toNat ++ leBytes 8 lmask.toNat ++ payload)

/-! ### Senders and numbers (R176, R177) -/

/-- Sequence field of an engine command's landings (R176). -/
def cmdSeq (q : BitVec 16) : BitVec 32 := 0x8000#16 ++ q

/-- The next number for a request or landing of a thread, from its core's counter; a memory-core program's
carry its command (R177, R226). -/
def newOrigin (s : State) (t : Thread) : State × Origin :=
  match t.prog with
  | some p =>
    ({ s with stamp := s.stamp + 1 },
     { by' := t.handle, dev := s.dev, core := t.core, seq := cmdSeq p.seq, world := t.world, agent := .memoryCore (BitVec.ofNat 10 p.mc)
       n := s.stamp })
  | none =>
    let k := coreOf s t.core
    ({ setCore s t.core { k with seq := k.seq + 1 } with stamp := s.stamp + 1 },
     { by' := t.handle, dev := s.dev, core := t.core, seq := 0#1 ++ k.seq, world := t.world, agent := .core t.core, n := s.stamp })

/-- The origin of a landing of an engine command (R176). -/
def cmdOrigin (s : State) (h : Handle) (w : World) (core : BitVec 11) (q : BitVec 16) (g : Agent) : State × Origin :=
  ({ s with stamp := s.stamp + 1 },
   { by' := h, dev := s.dev, core := core, seq := cmdSeq q, world := w, agent := g, n := s.stamp })

/-- Of one sender (R79, R176): a thread, or one command of an engine. -/
def sameSender (a b : Origin) : Bool :=
  a.by' = b.by' && a.dev = b.dev && bit a.seq 31 = bit b.seq 31 && (!bit a.seq 31 || a.seq = b.seq)

/-- A thread as a sender. -/
def senderOf (s : State) (t : Thread) : Origin :=
  { by' := t.handle, dev := s.dev, core := t.core, world := t.world, agent := .core t.core, n := s.stamp
    seq := match t.prog with
      | some p => cmdSeq p.seq
      | none => 0 }

/-- A packet as its agent forms it (R176, R178). -/
def packet (o : Origin) (la : Word) (payload : List Byte) : Packet :=
  { la := la, o := o, rel := false, cond := false, hasMask := false, fwd := false, hops := 0, lmask := 0
    payload := payload, crc := crcOf la 0 payload, tries := 1, counted := false, score := o.core, reply := false, pieces := [] }

/-- A packet whose lane mask is valid (R176). -/
def maskedPacket (o : Origin) (la : Word) (payload : List Byte) (mask : BitVec 64) : Packet :=
  { packet o la payload with hasMask := true, lmask := mask, crc := crcOf la mask payload }

/-- A number for each agent, by which `Config.fabricPort` tells them apart (log 43). -/
def agentCode : Agent → Nat
  | .core n => n.toNat
  | .cluster n => 0x800 + n.toNat
  | .slice n => 0x900 + n.toNat
  | .memoryCore n => 0xA00 + n.toNat
  | .unit n => 0xE00 + n.toNat
  | .copy n => 0xF00 + n.toNat
  | .tree n => 0xF80 + n.toNat
  | .bond n => 0x1000 + n.toNat
  | .net n => 0x1004 + n.toNat
  | .dispatcher => 0x1006
  | .directory n => 0x1008 + n.toNat

/-- What a packet is (R176): a landing, or an answer to one. -/
inductive PacketType | landing | ack (place : BitVec 12) | refusal (sub : BitVec 8) | checkFailure | busy
deriving DecidableEq, Repr, Inhabited

/-- `TYPE` (R176). -/
def PacketType.code : PacketType → Nat
  | .landing => 1
  | .ack _ => 2
  | .refusal _ => 3
  | .checkFailure => 4
  | .busy => 5

/-- Bytes 28 to 31: the core of an acknowledgement, the subcode of a refusal (R176). -/
def PacketType.extra : PacketType → Nat
  | .ack place => place.toNat
  | .refusal sub => sub.toNat
  | _ => 0

/-- `FLG` (R176). -/
def flagByte (p : Packet) : Nat :=
  (if p.rel then 1 else 0) + (if p.cond then 2 else 0) + (if p.hasMask then 4 else 0) + (if p.fwd then 8 else 0) + 16 * p.hops.toNat

/-- The 40 bytes of a header (R176). -/
def headerBytes (p : Packet) (k : PacketType) : List Byte :=
  leBytes 8 p.la.toNat ++ leBytes 4 p.o.by'.toNat ++ leBytes 2 p.o.dev.toNat ++ leBytes 2 p.score.toNat ++ leBytes 4 p.o.seq.toNat ++
    leBytes 2 (Config.fabricPort (agentCode p.o.agent)).toNat ++ leBytes 2 p.o.world.toNat ++
    leBytes 2 (if k = .landing then p.payload.length else 0) ++ leBytes 1 (flagByte p) ++ leBytes 1 k.code ++ leBytes 4 k.extra ++
    leBytes 8 p.lmask.toNat

/-- A packet as it travels: header, payload, check code; an answer has no more than its header (R176). -/
def packetBytes (p : Packet) (k : PacketType) : List Byte :=
  headerBytes p k ++ (if k = .landing then p.payload ++ leBytes 4 p.crc.toNat else [])

/-- Payload of an 8-byte value: a vector lane takes bits [31:0] (R165). -/
def putPayload (la : Word) (v : Word) : List Byte :=
  if laSpace la = 1 && laClass la = 1 then leBytes 4 v.toNat else leBytes 8 v.toNat

/-! ### Register locations (R68) -/

/-- The lanes that a payload writes. -/
def lanesOfPacket (p : Packet) : BitVec 64 :=
  if p.hasMask then p.lmask
  else BitVec.ofNat 64 ((2 ^ ((p.payload.length + 3) / 4) - 1) * 2 ^ laLane p.la)

/-- A register location: landing address without its lane, and the lanes. -/
abbrev RegPlace := Word × BitVec 64

/-- The register location of a landing. -/
def packetPlace (p : Packet) : Option RegPlace :=
  if laSpace p.la = 1 then
    some (p.la &&& ~~~0x7FFF, if laClass p.la = 1 then lanesOfPacket p else 1)
  else none

/-- Do two register locations meet? -/
def placesMeet (a b : Option RegPlace) : Bool :=
  match a, b with
  | some a, some b => a.1 = b.1 && a.2 &&& b.2 ≠ 0
  | _, _ => false

/-! ### Location caches (R180) -/

/-- The location cache of an agent. -/
def locOf (s : State) (g : Agent) : List (Handle × Option (BitVec 11)) :=
  match g with
  | .core c => (coreOf s c).loc
  | g => ((s.agentLocs.find? (fun e => e.1 = g)).map (·.2)).getD []

/-- Write of a location cache, of 64 entries. -/
def setLoc (s : State) (g : Agent) (l : List (Handle × Option (BitVec 11))) : State :=
  match g with
  | .core c => setCore s c { coreOf s c with loc := l.take 64 }
  | g => { s with agentLocs := (g, l.take 64) :: s.agentLocs.filter (fun e => e.1 ≠ g) }

/-- A handle's entry becomes the most recently used. -/
def locPut (s : State) (g : Agent) (h : Handle) (v : Option (BitVec 11)) : State :=
  setLoc s g ((h, v) :: (locOf s g).filter (fun e => e.1 ≠ h))

/-- A handle's entry is removed (R180). -/
def locDrop (s : State) (g : Agent) (h : Handle) : State :=
  setLoc s g ((locOf s g).filter (fun e => e.1 ≠ h))

/-! ### Sending -/

/-- A packet leaves its agent: to the network engine for another device (R191), else by its space; a register
landing goes to the cached core or to the directory agent (R180). -/
def transmit (s : State) (p : Packet) : State :=
  if laSpace p.la = 0 then pend s (.memoryLanding p)
  else if laDev p.la ≠ s.dev then pend s (.netLand p)
  else if laSpace p.la = 1 then
    match (locOf s p.o.agent).find? (fun e => e.1 = laHandle p.la) with
    | some (_, some c) => pend (locPut s p.o.agent (laHandle p.la) (some c)) (.landingArrival c p)
    | some (_, none) => pend (locPut s p.o.agent (laHandle p.la) none) (.directoryResolve p)
    | none => pend s (.directoryResolve p)
  else if laSpace p.la = 2 then pend s (.slotLanding p)
  else pend s (.eventLanding p)

/-- Does an earlier landing of the sender hold this one back (R179)? -/
def heldBy (l : List Packet) (p : Packet) : Bool :=
  l.any (fun q => sameSender q.o p.o && q.o.n < p.o.n && placesMeet (packetPlace q) (packetPlace p))

/-- The agent keeps a copy and sends the landing, or holds it back (R177, R179). -/
def sendOut (s : State) (p : Packet) : State :=
  if heldBy (s.copies ++ s.heldBack) p then { s with heldBack := s.heldBack ++ [p] }
  else transmit { s with copies := s.copies ++ [p] } p

/-- A landing is formed, with the core at which its sender then is, and sent (R176). DEDUCED: of a sender that is Suspended or Moving that is
the core which its record names, the one it left or the one it moves to; of one that is gone it is the core at issue (log 12). -/
def sendLanding (s : State) (p : Packet) : State :=
  sendOut s { p with score := ((findThread s p.o.by').map (·.core)).getD p.o.core }

/-- Landings held back leave as soon as nothing holds them (R179). -/
def releaseHeld (s : State) : State := s.heldBack.foldl sendOut { s with heldBack := [] }

/-- One landing, whatever has become of its bytes on the way: no two have one place in the issue order. -/
def samePacket (p q : Packet) : Bool := p.o = q.o

/-- Has a slot landing passed its tests and been written in part (R69)? -/
def slotBusy (s : State) (u : BitVec 8) (i : Nat) : Bool :=
  s.pending.any (fun e => match e with
    | .slotLanding p => p.pieces ≠ [] && laUnit p.la = u && laSlot p.la = i
    | _ => false)

/-- The agent's copy goes (R177). -/
def dropCopy (s : State) (p : Packet) : State :=
  match pickOut (samePacket p) s.copies with
  | none => s
  | some (_, r) => releaseHeld { s with copies := r }

/-- The answer to a request of a thread lands in a register of its own (R124, R160, R176). -/
def answerTo (s : State) (o : Origin) (g : Agent) (r : Reg) (v : Word) (counted : Bool) : State :=
  let la := regLa o.dev o.by' r
  sendLanding s { packet { o with agent := g } la (leBytes 8 v.toNat) with counted := counted, reply := true }

/-! ### Requests in flight -/

/-- The thread or command on whose behalf an event happens, where order between its events counts. -/
def evOrigin : Event → Option Origin
  | .readRequest r => some r.o
  | .writeRequest r => some r.o
  | .amoAtHome r => some r.o
  | .landingArrival _ p => some p.o
  | .directoryResolve p => some p.o
  | .slotLanding p => some p.o
  | .memoryLanding p => some p.o
  | .eventLanding p => some p.o
  | .preemptAtDispatcher o _ _ => some o
  | .directoryLookup o _ _ => some o
  | .treeAction r => some r.o
  | .bondRequest o _ _ _ => some o
  | .bondWaiting o _ _ _ => some o
  | .netRequest o _ _ _ => some o
  | .netLand p => some p.o
  | _ => none

/-- The memory that an event accesses, that in which an `LDL` lands among it (R73, R220). -/
def evPieces : Event → List Piece
  | .readRequest r =>
    r.pieces ++ (match r.reply with
      | .land _ _ l | .row _ l => l
      | _ => [])
  | .writeRequest r => r.pieces
  | .amoAtHome r => [{ addr := r.addr, va := r.va, len := if r.dbl then 8 else 4, off := 0, key := r.key }]
  | .memoryLanding p => p.pieces
  | _ => []

/-- The register location at which an event, or the reply that it forms, lands. -/
def evPlace (dev : BitVec 12) : Event → Option RegPlace
  | .readRequest r =>
    match r.reply with
    | .scalar d _ => some (regLa dev r.o.by' (.s d), 1)
    | .lanes v m => some (regLa dev r.o.by' (.v v), m)
    | .land la _ _ => packetPlace (packet r.o la (List.replicate 8 0))
    | .row la _ => packetPlace (packet r.o la r.got)
  | .amoAtHome r => some (regLa dev r.o.by' (.s r.d), 1)
  | .landingArrival _ p => packetPlace p
  | .directoryResolve p => packetPlace p
  | .netLand p => packetPlace p
  | .preemptAtDispatcher o d _ => some (regLa dev o.by' (.s d), 1)
  | .directoryLookup o d _ => some (regLa dev o.by' (.s d), 1)
  | .treeAction r =>
    match r.op with
    | .read _ v => some (regLa dev r.o.by' (.v v), 0xFF)
    | _ => some (regLa dev r.o.by' (.s r.d), 1)
  | .bondRequest o d _ _ => some (regLa dev o.by' (.s d), 1)
  | .bondWaiting o d _ _ => some (regLa dev o.by' (.s d), 1)
  | .netRequest o d _ _ => some (regLa dev o.by' (.s d), 1)
  | _ => none

/-- Is the event a release (R74)? -/
def evRelease : Event → Bool
  | .readRequest r =>
    match r.reply with
    | .land _ rel _ => rel
    | _ => false
  | .writeRequest r => r.rel
  | .amoAtHome r => r.rel
  | .landingArrival _ p => p.rel
  | .directoryResolve p => p.rel
  | .slotLanding p => p.rel
  | .memoryLanding p => p.rel
  | .eventLanding p => p.rel
  | .netLand p => p.rel
  | .treeAction _ => true
  | .bondRequest _ _ _ _ => true
  | _ => false

/-- Is the event an acquire not yet performed (R74)? -/
def evAcquire : Event → Bool
  | .readRequest r => r.acq
  | .amoAtHome r => r.acq
  | _ => false

/-- Is it a memory access or atomic of a thread that is not yet performed? -/
def evMemory : Event → Bool
  | .readRequest _ => true
  | .writeRequest _ => true
  | .amoAtHome _ => true
  | _ => false

/-- Event `f` of the same sender stands before an origin in program order. -/
def evBefore (f : Event) (o : Origin) : Bool :=
  match evOrigin f with
  | some p => sameSender p o && p.n < o.n
  | none => false

/-- Is the event an engine command of a thread that its engine has not yet accepted: a tree, bond or window instruction (R70, R168)? -/
def evCommand : Event → Bool
  | .treeAction r => !r.begun
  | .bondRequest _ _ _ _ | .netRequest _ _ _ _ => true
  | _ => false

/-- Is the event an action of a tree, bond or network engine for such an instruction, accepted or not? -/
def evEngine : Event → Bool
  | .treeAction _ | .bondRequest _ _ _ _ | .netRequest _ _ _ _ => true
  | _ => false

/-- Has a sender, a thread, an engine command before an origin in its issue order that is not yet accepted (R74)? -/
def commandBefore (s : State) (o : Origin) : Bool :=
  s.pending.any (fun f => evBefore f o && evCommand f) ||
    (!bit o.seq 31 && s.cmds.any (fun c => c.handle = o.by' && decide (c.state = .queued) && c.n < o.n))

/-- Is an event held until an earlier one of its sender is performed: a release, an event after an acquire,
overlapping bytes, or one register location (R73, R74, R79)? The release of an engine command waits for no acceptance, whether or not the
command has itself been accepted (R74). -/
def blocked (s : State) (e : Event) : Bool :=
  match evOrigin e with
  | none => false
  | some o =>
    (evRelease e &&
      (s.pending.any (fun f => evBefore f o && evMemory f) ||
       (s.copies ++ s.heldBack).any (fun p => sameSender p.o o && p.o.n < o.n && !p.reply) ||
       (!evEngine e && commandBefore s o))) ||
    s.pending.any (fun f => evBefore f o &&
      (evAcquire f || (evPieces f).any (fun a => (evPieces e).any (overlap a)))) ||
    ((evPlace s.dev e).isSome &&
      (match e with
       | .landingArrival _ _ | .directoryResolve _ | .netLand _ =>
         s.pending.any (fun f => evBefore f o && placesMeet (evPlace s.dev f) (evPlace s.dev e)) ||
         (s.copies ++ s.heldBack).any (fun p => sameSender p.o o && p.o.n < o.n && placesMeet (packetPlace p) (evPlace s.dev e))
       | _ => false))

/-- Is a read a landing's (LDL)? -/
def landsRead (r : ReadReq) : Bool :=
  match r.reply with
  | .land _ _ _ | .row _ _ => true
  | _ => false

/-- The events of a sender in a set of R76 that are not yet performed (R168). -/
def outstanding (s : State) (o : Origin) (set : BitVec 4) : List Nat :=
  s.pending.filterMap (fun e =>
    match e with
    | .readRequest r => if sameSender r.o o && (bit set 0 || (bit set 2 && landsRead r)) then some r.o.n else none
    | .writeRequest r => if sameSender r.o o && bit set 1 then some r.o.n else none
    | .amoAtHome r => if sameSender r.o o && (bit set 0 || bit set 1) then some r.o.n else none
    | e => match evOrigin e with
      | some p => if sameSender p o && bit set 3 && evCommand e then some p.n else none
      | none => none) ++
  (s.copies ++ s.heldBack).filterMap (fun p =>
    if sameSender p.o o && !p.reply && bit set 2 then some p.o.n else none) ++
  s.cmds.filterMap (fun c =>
    if c.handle = o.by' && !bit o.seq 31 && bit set 3 && decide (c.state = .queued) then some c.n else none)

/-- Is an answer open that an engine gives later: that of a take, of a revocation, of an invalidation (R308, R309, R346)? -/
def answerOpen (s : State) (o : Origin) : Bool :=
  s.windows.any (fun e => match e.2 with
    | some w => w.takers.any (fun t => sameSender t.1 o) || w.revoker.any (fun t => sameSender t.1 o)
    | none => false) ||
  s.shootdowns.any (fun x => match x.job with
    | .tlbi p _ => sameSender p o
    | _ => false)

/-- Everything of a sender that has been sent and not yet answered: what EXIT and a save wait for. -/
def unanswered (s : State) (o : Origin) : Bool :=
  s.pending.any (fun e =>
    match evOrigin e with
    | some p => sameSender p o
    | none => false) || answerOpen s o ||
  (s.copies ++ s.heldBack).any (fun p => sameSender p.o o)

/-- Is the event an acquire of the thread? -/
def acquireOf (s : State) (t : Thread) (e : Event) : Bool :=
  evAcquire e && (match evOrigin e with
    | some p => sameSender p (senderOf s t)
    | none => false)

/-- Is an acquire of the thread not yet performed? It holds every later bundle, so that nothing of the thread comes before it
(R74, log 7). -/
def acquiring (s : State) (t : Thread) : Bool := s.pending.any (acquireOf s t)

/-- Does a fence of the thread still hold events of a set (R168)? -/
def fenced (s : State) (t : Thread) (set : BitVec 4) : Bool :=
  let now := outstanding s (senderOf s t) 0xF
  t.fences.any (fun f => f.1 &&& set ≠ 0 && f.2.any (fun n => now.contains n))

/-- Requests of a memory-core program that have not been answered, stream rows apart (R226, R228): those on their way to their homes,
and the landings whose copies are kept. -/
def progRequests (s : State) (o : Origin) (rows : List Nat) : Nat :=
  (s.pending.filter (fun e => evMemory e && (match evOrigin e with
    | some p => sameSender p o && !rows.contains p.n
    | none => false))).length + ((s.copies ++ s.heldBack).filter (fun p => sameSender p.o o && !rows.contains p.o.n)).length

/-- Is the bound on outstanding requests reached (R159, R226)? -/
def requestsFull (s : State) (t : Thread) : Bool :=
  if t.prog.isSome then
    64 ≤ progRequests s (senderOf s t) ((t.prog.map (fun p => p.streams.flatMap (·.2))).getD [])
  else 256 ≤ (coreOf s t.core).outst

/-- One request more is counted (R159). -/
def countRequest (s : State) (t : Thread) : State :=
  if t.prog.isSome then s
  else setCore s t.core { coreOf s t.core with outst := (coreOf s t.core).outst + 1 }

/-- One request less (R159). -/
def uncountRequest (s : State) (c : BitVec 11) : State :=
  setCore s c { coreOf s c with outst := (coreOf s c).outst - 1 }

/-! ### Failures of landings (R185) -/

/-- `ReceiveFailure` at the thread: its new record, and whether the failure stands only in the error log. -/
def receiveFailure (t : Thread) (la : Word) (sub : BitVec 8) (seq : BitVec 32) : Thread × Bool :=
  let pend := field t.lfaultHi 8 8
  let pend' : BitVec 8 := if pend = 255 then 255 else BitVec.ofNat 8 (pend + 1)
  if pend = 0 && !inTrap t then
    ({ t with lfaultLo := la, lfaultHi := (seq ++ 0#16 ++ pend' ++ sub).cast (by decide) }, false)
  else
    ({ t with lfaultHi := (bits t.lfaultHi 32 32 ++ 0#15 ++ 1#1 ++ pend' ++ bits t.lfaultHi 0 8).cast (by decide) }, true)

/-- A failure reaches the sender wherever it is; one without a sender stands only in the device error log
(R185). -/
def failLanding (s : State) (h : Handle) (w : World) (la : Word) (sub : BitVec 8) (seq : BitVec 32) : State :=
  match findThread s h with
  | none => logError s 1 w (sub.zeroExtend 32) la (seq.zeroExtend 64)
  | some t =>
    let r := receiveFailure t la sub seq
    let s := writeImage (modThread s h (fun _ => r.1)) h
    if r.2 then logError s 2 w (sub.zeroExtend 32) la (seq.zeroExtend 64) else s

end Sys2Proof.Machine
end

