-- ==== Sys2Proof/Machine/Agreement.lean ====
section
/-! DEFINITION. Meshes, groups and their coordinators, announcements and withdrawals (R274, R276, R279, R280, R282). -/

namespace Sys2Proof.Machine

open Sys2Proof

/-! ### The mesh (R274) -/

/-- The mesh of a world. -/
def meshOf (s : State) (w : World) : Option Mesh := sget none s.meshes w.toNat
/-- Linear coordinate: axis 0 is outermost. -/
def linearOf (sizes coords : List Nat) : Nat := (sizes.zip coords).foldl (fun n e => n * e.1 + e.2) 0
/-- The coordinates of a linear coordinate. -/
def coordsFrom : List Nat → Nat → List Nat
  | [], _ => []
  | _ :: r, n =>
    let inner := r.foldl (· * ·) 1
    n / inner :: coordsFrom r (n % inner)
/-- Devices of a mesh. -/
def meshSize (m : Mesh) : Nat := m.sizes.foldl (· * ·) 1
/-- The device's own linear coordinate. -/
def ownCoord (m : Mesh) : Nat := linearOf m.sizes m.coords
/-- Device number at a linear coordinate. -/
def deviceAt (m : Mesh) (i : Nat) : BitVec 12 := m.map.getD i 0

/-! ### State words (R276) -/

/-- The byte of an axis. -/
def axisByte (st : BitVec 32) (i : Nat) : BitVec 8 := bits st (8 * i) 8
/-- 0 replicated, 1 sharded, 2 partial, 3 reserved. -/
def axisState (st : BitVec 32) (i : Nat) : Nat := field (axisByte st i) 0 2
/-- Sharded dimension. -/
def axisDim (st : BitVec 32) (i : Nat) : Nat := field (axisByte st i) 2 2
/-- The axes on which two state words differ, ascending (R279). -/
def changedAxes (m : Mesh) (a b : BitVec 32) : List Nat :=
  (upFrom 0 m.sizes.length).filter (fun i => axisByte a i ≠ axisByte b i)

/-! ### Groups (R279, R280, R291) -/

/-- The axes along which an announcement agrees. -/
def announcedAxes (m : Mesh) (n : Announcement) : List Nat :=
  match n.key with
  | .tensor .. => changedAxes m n.cur n.want
  | .sync _ mask _ => (upFrom 0 m.sizes.length).filter (fun i => bit mask i)
/-- The members whose coordinates equal those of `at'` on every other axis, ascending. -/
def groupAlong (m : Mesh) (axes : List Nat) (at' : Nat) : List Nat :=
  let c := coordsFrom m.sizes at'
  (upFrom 0 (meshSize m)).filter (fun i =>
    ((coordsFrom m.sizes i).zip c).zipIdx.all (fun e => axes.contains e.2 || e.1.1 = e.1.2))
/-- The group of an announcement. -/
def groupOf (m : Mesh) (n : Announcement) : List Nat := groupAlong m (announcedAxes m n) n.src
/-- The coordinator: coordinate 0 on every changing axis, the lowest of the group. -/
def coordinator (g : List Nat) : Nat := g.headD 0

/-- Do two announcements concern one tensor, or one PSYNC? -/
def sameMatter (a b : Announcement) : Bool :=
  match a.key, b.key with
  | .tensor v t _, .tensor w u _ => v = w && t = u
  | k, l => k = l

/-- The status byte of a withdrawal by PDROP or by a reset, which the other members find as reason 3 (R281, R290). -/
def droppedStatus : BitVec 8 := 0xFF

/-- An entry of the bond table. -/
def bondAt (s : State) (e : BitVec 12) : Option BondEntry := sget none s.bonds e.toNat
/-- Write of an entry. -/
def setBond (s : State) (e : BitVec 12) (b : Option BondEntry) : State := { s with bonds := sset none s.bonds e.toNat b }
/-- Change of a valid entry. -/
def modBond (s : State) (e : BitVec 12) (f : BondEntry → BondEntry) : State :=
  match bondAt s e with
  | some b => setBond s e (some (f b))
  | none => s

/-- A member's announcement is taken back at the coordinator before it has decided: with `droppedStatus` it stays as
what the others disagree with, else it is gone (R280, R282, R290). -/
def takeBack (s : State) (n : Announcement) : State :=
  let mine (a : Announcement) : Bool := a.key = n.key && a.src = n.src && a.world = n.world
  if n.status = droppedStatus then { s with announced := s.announced.map (fun a => if mine a then { a with status := droppedStatus } else a) }
  else { s with announced := s.announced.filter (fun a => !mine a) }

/-- This device's own wait is over without a decision: the entry is announced no more, and a PSYNC, which has not taken effect, gives its
number back (R282, R291). -/
def dropWait (s : State) (w : BondWait) : State :=
  let s := modBond { s with bondWaits := s.bondWaits.erase w } w.entry (fun b => { b with announced := false })
  match w.ann.key with
  | .tensor .. => s
  | .sync _ mask k => { s with psyncBack := s.psyncBack ++ [(mask, k)] }

/-- A withdrawal of the device's own announcement: at once where this device coordinates, else by a message, one for a wait, whose answer
is to come (R280, R282). -/
def withdraw (s : State) (w : BondWait) (st : BitVec 8) : State :=
  let n := { w.ann with status := st }
  match meshOf s n.world with
  | none => dropWait s w
  | some m =>
    if coordinator w.group = n.src then dropWait (takeBack s n) w
    else if w.leaving then s
    else
      let at' := deviceAt m (coordinator w.group)
      pendOnce (pend { s with bondWaits := s.bondWaits.map (fun v => if v = w then { v with leaving := true } else v) }
        (.bondSend at' (.withdraw n))) (.bondTimeout at')

/-- A thread that is to be saved leaves the agreements it is stalled on: where others are stalled on the same one it stands,
else it is withdrawn (R282). -/
def leaveAgreements (s : State) (h : Handle) : State :=
  (s.bondWaits.filter (fun w => w.decision.isNone && w.waiters.any (fun e => e.1 = h))).foldl (fun s w =>
    if w.waiters.any (fun e => e.1 ≠ h) then
      { s with bondWaits := s.bondWaits.map (fun v => if v = w then { v with waiters := v.waiters.filter (fun e => e.1 ≠ h) } else v) }
    else withdraw s w 0) s

end Sys2Proof.Machine
end

