-- ==== Sys2Proof/Machine/Connect.lean ====
section
/-! DEFINITION. Connections as their sender and their receiver hold them: numbers, tags, acknowledgements and
refusals (R296, R297, R300, R301). -/

namespace Sys2Proof.Machine

open Sys2Proof

/-- I/O die whose engine serves a connection (R296). -/
def netDie (dst : BitVec 12) (cls : BitVec 4) : Nat := if bit dst 0 = bit cls 0 then 0 else 1
/-- Key of a request tag: 4,096 of each engine (R297). -/
def tagKey (dst : BitVec 12) (cls : BitVec 4) (tag : BitVec 12) : Nat := 4096 * netDie dst cls + tag.toNat
/-- Does CSN `a` come before `b`, numbers wrapping? -/
def csnBefore (a b : BitVec 32) : Bool := a ≠ b && (b - a).toNat < 2 ^ 31

/-! ### As the sender holds it -/

/-- Is it this connection? -/
def isConn (dst : BitVec 12) (cls : BitVec 4) (m : NetMode) (k : Conn) : Bool := k.dst = dst && k.cls = cls && k.mode = m
/-- A connection, set up on first use (R296). -/
def connOf (s : State) (dst : BitVec 12) (cls : BitVec 4) (m : NetMode) : Conn :=
  (s.conns.find? (isConn dst cls m)).getD { dst := dst, cls := cls, mode := m, csn := 0, msg := 0, broken := none, open' := [], late := [], jobs := [] }
/-- Write of it. -/
def setConn (s : State) (k : Conn) : State :=
  { s with conns := k :: s.conns.filter (fun x => !isConn k.dst k.cls k.mode x) }

/-! ### As the receiver holds it -/

/-- Is it this connection? -/
def isRx (p : NetPacket) (k : RxConn) : Bool := k.src = p.src && k.cls = p.cls && k.mode = p.mode
/-- The connection of a packet that has arrived. -/
def rxOf (s : State) (p : NetPacket) : RxConn :=
  (s.rxConns.find? (isRx p)).getD { src := p.src, cls := p.cls, mode := p.mode, low := 0, above := [], broken := none, jobs := [] }
/-- Write of it. -/
def setRx (s : State) (p : NetPacket) (k : RxConn) : State := { s with rxConns := k :: s.rxConns.filter (fun x => !isRx p x) }
/-- Of one connection. -/
def sameConn (p q : NetPacket) : Bool := p.src = q.src && p.cls = q.cls && p.mode = q.mode

/-- The lowest of two CSNs abandoned. -/
def lowest (a : Option (BitVec 32)) (c : BitVec 32) : Option (BitVec 32) :=
  match a with
  | some b => some (if csnBefore b c then b else c)
  | none => some c

/-- A packet's CSN has been abandoned: the sender's side, and word of it to the receiver, where this device is that at once; held packets
behind it are looked at again (R301). -/
def abandon (s : State) (dst : BitVec 12) (cls : BitVec 4) (m : NetMode) (c : BitVec 32) : State :=
  let k := connOf s dst cls m
  let s := setConn s { k with broken := lowest k.broken c }
  if dst = s.dev then
    let mine (x : RxConn) : Bool := x.src = dst && x.cls = cls && x.mode = m
    let x := (s.rxConns.find? mine).getD { src := dst, cls := cls, mode := m, low := 0, above := [], broken := none, jobs := [] }
    let s := { s with rxConns := { x with broken := lowest x.broken c } :: s.rxConns.filter (fun x => !mine x) }
    (s.rxHeld.filter (fun q => q.src = dst && q.cls = cls && q.mode = m)).foldl (fun s q => pendOnce s (.orderedPacketRelease q)) s
  else send s (.abandoned dst cls m c)

/-- Is the packet to be placed in CSN order (R301)? -/
def ordered (p : NetPacket) : Bool := p.ob || p.mode = .rod
/-- Has it been placed already? -/
def placedAlready (k : RxConn) (c : BitVec 32) : Bool := csnBefore c k.low || k.above.contains c
/-- Is it behind an abandoned one? -/
def behindBroken (k : RxConn) (c : BitVec 32) : Bool :=
  match k.broken with
  | some b => csnBefore b c
  | none => false

/-- The lowest CSN not placed moves past those that are. -/
def advanceLow : Nat → RxConn → RxConn
  | 0, k => k
  | n + 1, k => if k.above.contains k.low then advanceLow n { k with low := k.low + 1, above := k.above.filter (fun c => c ≠ k.low) } else k

/-- A packet is acknowledged; an unreliable one is not (R300). -/
def netAck (s : State) (p : NetPacket) : State :=
  if p.mode = .uud then s
  else if p.src = s.dev then pend s (.netAcknowledgement p)
  else pend s (.answerOut p none)

/-- A packet is refused (R298, R301); an unreliable one is dropped and logged (R303, R374). -/
def netRefuse (s : State) (p : NetPacket) (why : NetRefuse) : State :=
  if p.mode = .uud then logError s 7 ((sget none s.jobs p.job.toNat).getD 0) 0 0 0
  else
    let k := rxOf s p
    let s := match why with
      | .status _ => setRx s p { k with broken := lowest k.broken p.csn }
      | _ => s
    let s := (s.rxHeld.filter (fun q => sameConn p q)).foldl (fun s q => pendOnce s (.orderedPacketRelease q)) s
    if p.src = s.dev then pend s (.netRefusal p why) else pend s (.answerOut p (some why))

/-- A packet has been placed: its CSN counts, and held ones whose turn has come are looked at (R301). -/
def netMark (s : State) (p : NetPacket) : State :=
  let k := rxOf s p
  let k := advanceLow (k.above.length + 1) { k with above := k.above ++ [p.csn], jobs := if k.jobs.contains p.job then k.jobs else p.job :: k.jobs }
  let s := setRx s p k
  (s.rxHeld.filter (fun q => sameConn p q && q.csn = k.low)).foldl (fun s q => pendOnce s (.orderedPacketRelease q)) s

/-- A packet has been placed, and is acknowledged (R300). -/
def netPlaced (s : State) (p : NetPacket) : State := netAck (netMark s p) p

/-- The landing that a packet carried has been answered: performed or refused, it counts as placed or as abandoned; one
whose check code failed will come again (R191, R301). -/
def landingAnswered (s : State) (l : Packet) (sub : BitVec 8) : State :=
  match pickOut (fun p : NetPacket => (p.landing.map (samePacket l)).getD false) s.rxLandings with
  | none => s
  | some (p, r) =>
    let s := { s with rxLandings := r }
    if sub = 0 then netPlaced s p
    else if sub = 0xFF then s
    else
      let k := rxOf s p
      netPlaced (setRx s p { k with broken := lowest k.broken p.csn }) p

end Sys2Proof.Machine
end

