-- ==== Sys2Proof/WellFormed.lean ====
section
/-! DEFINITION. Which instructions the encoding admits: the limits that the entries set beyond the
width of a field. A bundle that breaks one decodes to no instruction and traps ILLEGAL (R34). -/

namespace Sys2Proof

/-- Lanes of a `VPUTL` by its count field (R165). -/
def lanesOf (n : BitVec 2) : Nat :=
  match n.toNat with
  | 0 => 1
  | 1 => 2
  | 2 => 16
  | _ => 32

/-- The shared fields of a network command: class 0 to 13, 2 to the e entropy values for e 0 to 8, and
one value under ROD (R304). -/
def netModOk (x : NetMod) : Bool := x.cc.toNat < 14 && x.e.toNat < 9 && (x.dm != .rod || x.e = 0)

/-- An instruction that the encoding admits. The rows that are no encodings are always well formed. -/
def wf : Instr → Bool
  -- the pattern of an illegal bundle: slot 0 is a write conflict's and holds no encoding (R33)
  | .unassigned slot detail => slot ≠ 0 && (slot = 3 || detail.toNat < 2 ^ 32)
  -- fields that run past the register (R108)
  | .bfxu _ _ l p => p.toNat + l.toNat < 64
  | .bfx _ _ l p => p.toNat + l.toNat < 64
  | .bfi _ _ l p => p.toNat + l.toNat < 64
  -- LDU of a double is unassigned (R160)
  | .ldu _ _ wd _ => wd != .d
  | .lduAq _ _ wd => wd != .d
  -- log2 of the run is 0 to 6 (R163)
  | .vlds _ _ _ _ run _ => run ≠ 7
  | .vsts _ _ _ _ run _ => run ≠ 7
  | .vldg _ _ _ _ run _ => run ≠ 7
  | .vstg _ _ _ _ run _ => run ≠ 7
  -- the lanes end by lane 63 (R165)
  | .vputl _ _ _ _ n f => f.toNat + lanesOf n ≤ 64
  -- FADD has no double form; only CAS has a compare value (R167)
  | .amo _ _ _ c op dbl _ => (op = .cas || c = 0) && !(op = .fadd && dbl)
  -- the command block ends by S63 (R169)
  | .issue n a _ => a.toNat + n.toNat < 64
  -- at least one tag (R229)
  | .swait m => m ≠ 0
  -- PQRY fields 0 to 6, a PSYNC mask that is not 0 (R284)
  | .pqry _ _ f => f.toNat < 7
  | .psync _ _ m => m ≠ 0
  -- TSTAT modes 0 to 6 (R268)
  | .tstat _ _ f => f ≠ 7
  -- network fields (R304, R305)
  | .nput _ _ _ _ x => netModOk x && x.dm != .uud
  | .nget _ _ _ _ x => netModOk x && x.dm != .uud
  | .nsend _ _ _ _ x => netModOk x
  | .nsendL _ _ _ cc _ => cc.toNat < 14
  | .natom _ _ _ c _ op dbl x =>
    netModOk x && x.dm != .uud && x.e = 0 && x.seg = 0 && (op = .cas || c = 0) && !(op = .fadd && dbl)
  -- WQRY modes 0 to 4 (R308)
  | .wqry _ _ f => f.toNat < 5
  -- every value of every field
  | .nop | .nopA | .add .. | .sub .. | .and .. | .or .. | .xor .. | .andn .. | .orn .. | .xnor .. | .sll ..
  | .srl .. | .sra .. | .ror .. | .slt .. | .sltu .. | .seq .. | .sne .. | .min .. | .max .. | .minu ..
  | .maxu .. | .mul .. | .mulh .. | .mulhu .. | .div .. | .divu .. | .rem .. | .remu .. | .clz .. | .ctz ..
  | .popc .. | .brev .. | .bswap .. | .sextB .. | .sextH .. | .sextW .. | .zextB .. | .zextH .. | .zextW ..
  | .addi .. | .andi .. | .ori .. | .xori .. | .slti .. | .sltiu .. | .muli .. | .slli .. | .srli ..
  | .srai .. | .rori .. | .addpc .. | .xset .. | .xget .. | .movi .. | .movih .. | .bcond .. | .j ..
  | .jal .. | .jl .. | .jalr .. | .empty .. | .emptyMask .. | .vempty .. | .fill .. | .waitp .. | .sleep ..
  | .sleepTimeout .. | .yield | .exit | .threadExitComplete .. | .migrate .. | .preempt ..
  | .preemptAtDispatcher .. | .teambar | .evw .. | .evs .. | .eventLanding .. | .gettid .. | .gettidQ ..
  | .directoryLookup .. | .fork .. | .join .. | .rdsr .. | .wrsr .. | .trap .. | .bkpt | .tret | .pool ..
  | .ld .. | .st .. | .ldl .. | .ldAq .. | .stRl .. | .ldlRl .. | .vld .. | .vst .. | .put .. | .pute ..
  | .vput .. | .lamk .. | .fence .. | .pop .. | .portst .. | .seqwait .. | .vadd .. | .vsub .. | .vmul ..
  | .vfma .. | .vfms .. | .vmin .. | .vmax .. | .vand .. | .vor .. | .vxor .. | .vshl .. | .vshr ..
  | .vsra .. | .vaddi .. | .vshli .. | .vshri .. | .vsrai .. | .vadds .. | .vsubs .. | .vmuls .. | .vfmas ..
  | .vbcast .. | .vins .. | .vcmp .. | .vcmps .. | .vsel .. | .vmov .. | .vpack .. | .vunpk .. | .vperm ..
  | .vrot .. | .vrev .. | .vzip .. | .vuzp .. | .vred .. | .vscan .. | .vdot4 .. | .vabs .. | .vneg ..
  | .vnot .. | .vclz .. | .vpopc .. | .vsqrt .. | .vrcp .. | .vrsq .. | .vexp2 .. | .vlog2 .. | .vflr ..
  | .vceil .. | .mand .. | .mor .. | .mxor .. | .mandn .. | .mnot .. | .vext .. | .viota .. | .setbf ..
  | .ldcb .. | .claim .. | .claimAtUnit .. | .release .. | .releaseAtUnit .. | .accz .. | .acczAtHead ..
  | .mload .. | .accrd .. | .accrdSnapshot .. | .launch .. | .tlbw .. | .tlbi .. | .tbind ..
  | .tbindUnbind .. | .tdesc .. | .texpand .. | .tback .. | .treroot .. | .trdn .. | .tfree .. | .pdecl ..
  | .pset .. | .pload .. | .pconv .. | .pdrop .. | .bondAnnouncement .. | .bondDecision ..
  | .bondWithdrawal .. | .bondConversion .. | .nfence | .nfenceRs .. | .nfenceCn .. | .wopen .. | .wrevoke ..
  | .windowRevokeComplete .. | .cbopen .. | .cbpopTake .. | .cbpopFree .. | .sload .. | .sstore ..
  | .spref .. | .mma .. | .kStep .. | .drain .. | .mzero .. | .mresume .. | .mcancel .. | .copy ..
  | .copyf .. | .copyr .. | .copyc .. | .mcrun .. | .mcrunEnd .. | .grun .. | .depdec ..
  | .completionLanding .. | .engineFaultTrap .. | .landingFailureTrap .. | .progress .. | .progressTrap ..
  | .readRequest .. | .writeRequest .. | .amoAtHome .. | .landingArrival .. | .directoryResolve ..
  | .slotLanding .. | .memoryLanding .. | .landingAcknowledgement .. | .landingRefusal .. | .checkFailure ..
  | .busy .. | .busyResend .. | .saveStart .. | .saveReport .. | .resume .. | .teamPlacement
  | .blockedTeamEviction | .priorityPreemption .. | .chtrig .. | .chctl .. | .launchStart ..
  | .tlbMissWalk .. | .pageFaultService .. | .pageMigration .. | .invalidationAtAgent ..
  | .setAddressSpaceEntry .. | .mapRange .. | .unmapRange .. | .hostPageWritten .. | .installMesh ..
  | .jobTableEntry .. | .peerMapEntry .. | .networkParameters .. | .bindFunctionToWorld ..
  | .assignChannel .. | .assignMsixVectors .. | .installKey .. | .removeKey .. | .frameOwnerChange ..
  | .netWrite .. | .netReadRequest .. | .netReadReply .. | .netAtomic .. | .netAtomicReply ..
  | .netMessage .. | .netLanding .. | .orderedPacketRelease .. | .rudiPacket .. | .netAcknowledgement ..
  | .netRefusal .. | .networkTimeout .. | .saKeyInstall .. | .spdmVersion .. | .spdmCapabilities ..
  | .spdmAlgorithms .. | .spdmDigests .. | .spdmCertificate .. | .spdmChallenge .. | .spdmMeasurements ..
  | .spdmKeyExchange .. | .spdmFinish .. | .spdmHeartbeat .. | .spdmKeyUpdate .. | .spdmEndSession ..
  | .ideKm .. | .protectedKeyInstall .. | .lockInterfaceRequest .. | .startInterfaceRequest ..
  | .stopInterfaceRequest .. | .getDeviceInterfaceState .. | .getDeviceInterfaceReport ..
  | .ideStreamFailure .. | .barAddressChange .. | .apbase .. | .hostBar2Write .. | .hostBar2Read ..
  | .registerWrite .. | .powerOn | .firmwareActivation | .trainingComplete | .phase3Entry | .hotReset
  | .linkDown | .functionLevelReset .. | .scrubPass .. | .uncorrectableError .. | .thermalTrip | .supplyTrip
  | .unknownOperation .. | .transportResend .. | .portDown .. | .portUp .. | .fetchFault .. => true

end Sys2Proof
end

