-- ==== Sys2Proof/Decode.lean ====
section
/-! DEFINITION. Bundles to instructions and back, from the encoding tables R25 to R43 and the layouts
of the L-form entries. Decoding is total; what it turns down it turns down by name. -/

namespace Sys2Proof

/-- Why a pattern is no instruction (R34). -/
inductive Reject
  /-- An unassigned major opcode. -/
  | major
  /-- An unassigned value of a function, condition, mode, kind or format field. -/
  | function
  /-- A reserved field, or a field that the entry does not use, is not 0. -/
  | reserved
  /-- A specifier beyond its limit. -/
  | register
  /-- A field outside the range that the entry gives. -/
  | range
  /-- Fewer than eight bytes. -/
  | short
deriving DecidableEq, Repr, Inhabited

/-- The instruction, if the condition holds. -/
def need (b : Bool) (r : Reject) (i : Except Reject Instr) : Except Reject Instr :=
  if b then i else .error r

/-! ### The codes of small fields -/

/-- R36, major 0x10. -/
def condCode : Cond → BitVec 3
  | .eq => 0 | .ne => 1 | .lt => 2 | .ge => 3 | .ltu => 4 | .geu => 5

/-- R36, major 0x10. -/
def condOf (x : BitVec 3) : Option Cond :=
  match x.toNat with
  | 0 => some .eq | 1 => some .ne | 2 => some .lt | 3 => some .ge | 4 => some .ltu | 5 => some .geu
  | _ => none

/-- R26. -/
def widthCode : Width → BitVec 2
  | .b => 0 | .h => 1 | .w => 2 | .d => 3

/-- R26. -/
def widthOf (x : BitVec 2) : Width :=
  match x.toNat with
  | 0 => .b | 1 => .h | 2 => .w | _ => .d

/-- R167. -/
def amoCode : AmoOp → BitVec 4
  | .swap => 0 | .add => 1 | .and => 2 | .or => 3 | .xor => 4 | .min => 5 | .max => 6 | .minu => 7
  | .maxu => 8 | .cas => 9 | .fadd => 10

/-- R167. -/
def amoOf (x : BitVec 4) : Option AmoOp :=
  match x.toNat with
  | 0 => some .swap | 1 => some .add | 2 => some .and | 3 => some .or | 4 => some .xor | 5 => some .min
  | 6 => some .max | 7 => some .minu | 8 => some .maxu | 9 => some .cas | 10 => some .fadd | _ => none

/-- R36, major 0x1C. -/
def scopeCode : Scope → BitVec 3
  | .co => 0 | .cl => 1 | .di => 2 | .dv => 3 | .sy => 4

/-- R36, major 0x1C. -/
def scopeOf (x : BitVec 3) : Option Scope :=
  match x.toNat with
  | 0 => some .co | 1 => some .cl | 2 => some .di | 3 => some .dv | 4 => some .sy | _ => none

/-- R169. -/
def portCode : Port → BitVec 6
  | .e0 => 0 | .e1 => 1 | .e2 => 2

/-- R169. -/
def portOf (x : BitVec 6) : Option Port :=
  match x.toNat with
  | 0 => some .e0 | 1 => some .e1 | 2 => some .e2 | _ => none

/-- R41. -/
def vcondCode : VCond → BitVec 4
  | .eq => 0 | .ne => 1 | .lt => 2 | .le => 3 | .gt => 4 | .ge => 5 | .unord => 6

/-- R41. -/
def vcondOf (x : BitVec 4) : Option VCond :=
  match x.toNat with
  | 0 => some .eq | 1 => some .ne | 2 => some .lt | 3 => some .le | 4 => some .gt | 5 => some .ge
  | 6 => some .unord | _ => none

/-- R54. -/
def rndCode : Rnd → BitVec 3
  | .rne => 0 | .rtz => 1 | .rup => 2 | .rdn => 3 | .rto => 4

/-- R54. -/
def rndOf (x : BitVec 3) : Option Rnd :=
  match x.toNat with
  | 0 => some .rne | 1 => some .rtz | 2 => some .rup | 3 => some .rdn | 4 => some .rto | _ => none

/-- R41. -/
def redCode : RedOp → BitVec 8
  | .add => 0 | .min => 1 | .max => 2 | .and => 3 | .or => 4 | .xor => 5

/-- R41. -/
def redOf (x : BitVec 8) : Option RedOp :=
  match x.toNat with
  | 0 => some .add | 1 => some .min | 2 => some .max | 3 => some .and | 4 => some .or | 5 => some .xor
  | _ => none

/-- R304. -/
def netModeCode : NetMode → BitVec 2
  | .rud => 0 | .rod => 1 | .uud => 2

/-- R304. -/
def netModeOf (x : BitVec 2) : Option NetMode :=
  match x.toNat with
  | 0 => some .rud | 1 => some .rod | 2 => some .uud | _ => none

/-- One bit. -/
def bitOf (b : Bool) : BitVec 1 := if b then 1 else 0

/-- The class of a presence operand and its number (R114). -/
def pregCode : PReg → BitVec 3 × BitVec 8
  | .s n => (0, n.zeroExtend 8)
  | .v n => (1, n)
  | .m n => (2, n.zeroExtend 8)

/-- The presence operand of a class and a number (R114). -/
def pregOf (mode : BitVec 3) (n : BitVec 8) : Except Reject PReg :=
  match mode.toNat with
  | 0 => if n.toNat < 64 then .ok (.s (bits n 0 6)) else .error .register
  | 1 => .ok (.v n)
  | 2 => if n.toNat < 16 then .ok (.m (bits n 0 4)) else .error .register
  | _ => .error .function

/-- The network fields that commands share, F[42:30] (R304). -/
def netModOf (f : BitVec 57) : Except Reject NetMod :=
  match netModeOf (bits f 41 2) with
  | none => .error .function
  | some dm =>
    let x : NetMod := { cc := bits f 30 4, ob := bits f 34 1 = 1, e := bits f 35 4, seg := bits f 39 2, dm := dm }
    if netModOk x then .ok x else .error .range

/-! ### The C-slot (R36 to R39) -/

/-- Scalar ALU, major 0x01 (R37). -/
def decodeAlu (d a b : BitVec 6) (fn : BitVec 7) : Except Reject Instr :=
  let one (i : Instr) : Except Reject Instr := need (b = 0) .reserved (.ok i)
  match fn.toNat with
  | 0x00 => .ok (.add d a b)
  | 0x01 => .ok (.sub d a b)
  | 0x02 => .ok (.and d a b)
  | 0x03 => .ok (.or d a b)
  | 0x04 => .ok (.xor d a b)
  | 0x05 => .ok (.andn d a b)
  | 0x06 => .ok (.orn d a b)
  | 0x07 => .ok (.xnor d a b)
  | 0x08 => .ok (.sll d a b)
  | 0x09 => .ok (.srl d a b)
  | 0x0A => .ok (.sra d a b)
  | 0x0B => .ok (.ror d a b)
  | 0x0C => .ok (.slt d a b)
  | 0x0D => .ok (.sltu d a b)
  | 0x0E => .ok (.seq d a b)
  | 0x0F => .ok (.sne d a b)
  | 0x10 => .ok (.min d a b)
  | 0x11 => .ok (.max d a b)
  | 0x12 => .ok (.minu d a b)
  | 0x13 => .ok (.maxu d a b)
  | 0x18 => .ok (.mul d a b)
  | 0x19 => .ok (.mulh d a b)
  | 0x1A => .ok (.mulhu d a b)
  | 0x1C => .ok (.div d a b)
  | 0x1D => .ok (.divu d a b)
  | 0x1E => .ok (.rem d a b)
  | 0x1F => .ok (.remu d a b)
  | 0x20 => one (.clz d a)
  | 0x21 => one (.ctz d a)
  | 0x22 => one (.popc d a)
  | 0x23 => one (.brev d a)
  | 0x24 => one (.bswap d a)
  | 0x28 => one (.sextB d a)
  | 0x29 => one (.sextH d a)
  | 0x2A => one (.sextW d a)
  | 0x2B => one (.zextB d a)
  | 0x2C => one (.zextH d a)
  | 0x2D => one (.zextW d a)
  | _ => .error .function

/-- Thread and system, major 0x14 (R38). -/
def decodeSystem (d a b : BitVec 6) (fn : BitVec 7) : Except Reject Instr :=
  let none' (i : Instr) : Except Reject Instr := need (d = 0 && a = 0 && b = 0) .reserved (.ok i)
  let onlyA (i : Instr) : Except Reject Instr := need (d = 0 && b = 0) .reserved (.ok i)
  match fn.toNat with
  | 0x00 => none' .exit
  | 0x01 => none' .yield
  | 0x02 => onlyA (.sleep a)
  | 0x03 => none' .teambar
  | 0x04 => onlyA (.join a)
  | 0x05 => onlyA (.migrate a)
  | 0x06 => need (b = 0) .reserved (.ok (.preempt d a))
  | 0x07 => onlyA (.evw a)
  | 0x08 => onlyA (.evs a)
  | 0x10 => none' .tret
  | 0x11 => none' .bkpt
  | 0x12 => .ok (.tlbw d a b)
  | 0x13 => .ok (.tlbi d a b)
  | _ => .error .function

/-- Engine ports, major 0x1E (R39, R169). -/
def decodePorts (d a b : BitVec 6) (fn : BitVec 7) : Except Reject Instr :=
  match fn.toNat with
  | 0x00 =>
    match portOf b with
    | none => .error .register
    | some p =>
      need (bits d 4 2 = 0) .reserved
        (need (a.toNat + (bits d 0 4).toNat < 64) .range (.ok (.issue (bits d 0 4) a p)))
  | 0x01 =>
    match portOf b with
    | none => .error .register
    | some p => need (a = 0) .reserved (.ok (.pop d p))
  | 0x02 =>
    match portOf b with
    | none => .error .register
    | some p => need (a = 0) .reserved (.ok (.portst d p))
  | 0x03 => need (d = 0 && b = 0) .reserved (.ok (.seqwait a))
  | _ => .error .function

/-- Ordered scalar memory, major 0x27 (R39): kind [2:0], width [4:3], order [6:5]. -/
def decodeOrdered (d a b : BitVec 6) (fn : BitVec 7) : Except Reject Instr :=
  let wd := widthOf (bits fn 3 2)
  need (b = 0) .reserved
    (match (bits fn 0 3).toNat, (bits fn 5 2).toNat with
     | 0, 1 => .ok (.ldAq d a wd)
     | 1, 1 => need (wd != .d) .function (.ok (.lduAq d a wd))
     | 2, 2 => .ok (.stRl d a wd)
     | 3, 2 => .ok (.ldlRl d a wd)
     | _, _ => .error .function)

/-- Matrix access, major 0x1D (R39). -/
def decodeMatrix (d a b : BitVec 6) (fn : BitVec 7) : Except Reject Instr :=
  match fn.toNat with
  | 0x00 => need (b = 0) .reserved (.ok (.claim d a))
  | 0x01 => need (b = 0) .reserved (.ok (.release d a))
  | 0x02 => need (a = 0 && b = 0) .reserved (.ok (.accz d))
  | _ => .error .function

/-- A C-slot word (R26, R36). -/
def decodeC (w : BitVec 32) : Except Reject Instr :=
  let d := bits w 19 6
  let a := bits w 13 6
  let b := bits w 7 6
  let fn := bits w 0 7
  let i13 := bits w 0 13
  let wd := widthOf (bits w 11 2)
  let i11 := bits w 0 11
  let vd := bits w 17 8
  let va := bits w 11 6
  let mode := bits w 8 3
  let i8 := bits w 0 8
  match (bits w 25 6).toNat with
  | 0x00 => need (bits w 0 25 = 0) .reserved (.ok .nop)
  | 0x01 => decodeAlu d a b fn
  | 0x02 => .ok (.addi d a i13)
  | 0x03 => .ok (.andi d a i13)
  | 0x04 => .ok (.ori d a i13)
  | 0x05 => .ok (.xori d a i13)
  | 0x06 => .ok (.slti d a i13)
  | 0x07 => .ok (.sltiu d a i13)
  | 0x08 =>
    need (bits w 8 5 = 0) .reserved
      (.ok (match (bits w 6 2).toNat with
        | 0 => .slli d a (bits w 0 6)
        | 1 => .srli d a (bits w 0 6)
        | 2 => .srai d a (bits w 0 6)
        | _ => .rori d a (bits w 0 6)))
  | 0x09 =>
    need ((bits w 0 6).toNat + (bits w 6 6).toNat < 64) .range
      (.ok (if bits w 12 1 = 0 then .bfxu d a (bits w 6 6) (bits w 0 6) else .bfx d a (bits w 6 6) (bits w 0 6)))
  | 0x0A =>
    need (bits w 12 1 = 0) .reserved
      (need ((bits w 0 6).toNat + (bits w 6 6).toNat < 64) .range (.ok (.bfi d a (bits w 6 6) (bits w 0 6))))
  | 0x0B => .ok (.muli d a i13)
  | 0x0C => need (a = 0) .reserved (.ok (.addpc d i13))
  | 0x0D => need (bits w 16 3 = 0 && i13 = 0) .reserved (.ok (.xget d (bits w 13 3)))
  | 0x10 =>
    match condOf (bits w 22 3) with
    | none => .error .function
    | some c => .ok (.bcond c (bits w 16 6) (bits w 10 6) (bits w 0 10))
  | 0x11 => .ok (.j (bits w 0 25))
  | 0x12 => .ok (.jal (bits w 0 25))
  | 0x13 => .ok (.jalr d a i13)
  | 0x14 => decodeSystem d a b fn
  | 0x15 =>
    if bits w 12 1 = 0 then need (a = 0 && bits w 4 8 = 0) .reserved (.ok (.gettid d (bits w 0 4)))
    else need (bits w 0 12 = 0) .reserved (.ok (.gettidQ d a))
  | 0x16 => need (a = 0 && bits w 12 1 = 0) .reserved (.ok (.rdsr d (bits w 0 12)))
  | 0x17 => need (d = 0 && bits w 12 1 = 0) .reserved (.ok (.wrsr a (bits w 0 12)))
  | 0x18 =>
    need (va = 0 && bits w 6 2 = 0) .reserved
      (match pregOf mode vd with
       | .ok (.s r) => .ok (.empty r (bits w 0 6))
       | .ok (.v r) => .ok (.vempty r (bits w 0 6))
       | .ok (.m r) => .ok (.emptyMask r (bits w 0 6))
       | .error e => .error e)
  | 0x19 =>
    need (va = 0 && i8 = 0) .reserved
      (match pregOf mode vd with
       | .ok r => .ok (.fill r)
       | .error e => .error e)
  | 0x1A =>
    need (va = 0 && bits w 1 7 = 0) .reserved
      (match pregOf mode vd with
       | .ok r => .ok (.waitp r (bits w 0 1 = 1))
       | .error e => .error e)
  | 0x1B => need (d = 0 && a = 0) .reserved (.ok (.trap i13))
  | 0x1C =>
    need (d = 0 && a = 0 && bits w 12 1 = 0) .reserved
      (match scopeOf (bits w 8 3) with
       | none => .error .function
       | some sc => .ok (.fence (bits w 11 1 = 1) sc (bits w 4 4) (bits w 0 4)))
  | 0x1D => decodeMatrix d a b fn
  | 0x1E => decodePorts d a b fn
  | 0x1F => need (bits w 22 3 = 0) .reserved (.ok (.xset (bits w 19 3) a i13))
  | 0x20 => .ok (.ld d a wd i11)
  | 0x21 => need (wd != .d) .function (.ok (.ldu d a wd i11))
  | 0x22 => .ok (.st d a wd i11)
  | 0x23 => .ok (.ldl d a wd i11)
  | 0x27 => decodeOrdered d a b fn
  | 0x28 => need (bits w 9 2 = 0) .reserved (.ok (.vld vd va (bits w 8 1 = 1) i8))
  | 0x29 => need (bits w 9 2 = 0) .reserved (.ok (.vst vd va (bits w 8 1 = 1) i8))
  | 0x2A =>
    need (b = 0 && bits w 2 5 = 0) .reserved
      (.ok (if bits w 1 1 = 1 then .pute d a (bits w 0 1 = 1) else .put d a (bits w 0 1 = 1)))
  | 0x2B => need (bits w 10 1 = 0 && i8 = 0) .reserved (.ok (.vput vd va (bits w 9 1 = 1) (bits w 8 1 = 1)))
  | 0x2C =>
    need (bits w 10 1 = 0) .reserved
      (need ((bits w 0 6).toNat + lanesOf (bits w 6 2) ≤ 64) .range
        (.ok (.vputl vd va (bits w 9 1 = 1) (bits w 8 1 = 1) (bits w 6 2) (bits w 0 6))))
  | 0x2D => need (bits w 9 2 = 0 && bits w 4 4 = 0) .reserved (.ok (.lamk vd va (bits w 8 1 = 1) (bits w 0 4)))
  | _ => .error .major

/-! ### The A-slot (R40, R41) -/

/-- Unary functions, major 0x23 (R41). -/
def decodeUnary (d a : BitVec 8) (f : BitVec 8) (m : BitVec 2) : Except Reject Instr :=
  match f.toNat with
  | 0x00 => .ok (.vabs d a m)
  | 0x01 => .ok (.vneg d a m)
  | 0x02 => .ok (.vnot d a m)
  | 0x03 => .ok (.vclz d a m)
  | 0x04 => .ok (.vpopc d a m)
  | 0x05 => .ok (.vsqrt d a m)
  | 0x06 => .ok (.vrcp d a m)
  | 0x07 => .ok (.vrsq d a m)
  | 0x08 => .ok (.vexp2 d a m)
  | 0x09 => .ok (.vlog2 d a m)
  | 0x0A => .ok (.vflr d a m)
  | 0x0B => .ok (.vceil d a m)
  | _ => .error .function

/-- Mask logic, major 0x24 (R41, R145). -/
def decodeMask (vd va vb : BitVec 8) (m : BitVec 2) : Except Reject Instr :=
  let d := bits vd 0 4
  let a := bits va 0 4
  let b := bits vb 0 4
  need (bits va 4 4 = 0 && bits vb 4 4 = 0 && m = 0) .reserved
    (match (bits vd 4 4).toNat with
     | 0 => .ok (.mand d a b)
     | 1 => .ok (.mor d a b)
     | 2 => .ok (.mxor d a b)
     | 3 => .ok (.mandn d a b)
     | 4 => need (b = 0) .reserved (.ok (.mnot d a))
     | _ => .error .function)

/-- Fixed permutes, major 0x1F: kind and parameter (R41). -/
def decodePermute (d a : BitVec 8) (kind : BitVec 2) (k : BitVec 6) (m : BitVec 2) : Except Reject Instr :=
  match kind.toNat with
  | 0 => .ok (.vrot d a k m)
  | 1 => need (k = 0) .reserved (.ok (.vrev d a m))
  | 2 => need (bits k 1 5 = 0) .function (.ok (.vzip d a (bits k 0 1 = 1) m))
  | _ => need (bits k 1 5 = 0) .function (.ok (.vuzp d a (bits k 0 1 = 1) m))

/-- The AVS forms: x selects the half, `0b10` and `0b11` are unassigned (R27). -/
def decodeAvs (op : Nat) (d a : BitVec 8) (b : BitVec 6) (x m : BitVec 2) : Except Reject Instr :=
  let hi : Bool := x = 1
  need (x.toNat < 2) .function
    (match op with
     | 0x12 => .ok (.vadds d a b hi m)
     | 0x13 => .ok (.vsubs d a b hi m)
     | 0x14 => .ok (.vmuls d a b hi m)
     | 0x15 => .ok (.vfmas d a b hi m)
     | 0x16 => need (a = 0) .reserved (.ok (.vbcast d b hi m))
     | 0x17 => need (a.toNat < 64) .register (.ok (.vins d (bits a 0 6) b hi m))
     | _ =>
       match vcondOf (bits d 4 4) with
       | none => .error .function
       | some c => .ok (.vcmps c (bits d 0 4) a b hi m))

/-- The AVC forms: part, rounding, saturation; bit 0 reserved (R27, R150, R151). -/
def decodeAvc (op : Nat) (d a : BitVec 8) (p : BitVec 3) (r : BitVec 3) (s : Bool) (m : BitVec 2) (z : BitVec 1) :
    Except Reject Instr :=
  need (z = 0) .reserved
    (match op with
     | 0x1B =>
       match rndOf r with
       | none => .error .function
       | some r => .ok (.vmov d a p r s m)
     | 0x1C => need (r = 0 && !s) .reserved (.ok (.vpack d a p m))
     | _ => need (r = 0) .reserved (.ok (.vunpk d a p s m)))

/-- An A-slot word (R27, R40). -/
def decodeA (w : BitVec 32) : Except Reject Instr :=
  let d := bits w 18 8
  let a := bits w 10 8
  let b := bits w 2 8
  let m := bits w 0 2
  match (bits w 26 6).toNat with
  | 0x00 => need (bits w 0 26 = 0) .reserved (.ok .nopA)
  | 0x01 => .ok (.vadd d a b m)
  | 0x02 => .ok (.vsub d a b m)
  | 0x03 => .ok (.vmul d a b m)
  | 0x04 => .ok (.vfma d a b m)
  | 0x05 => .ok (.vfms d a b m)
  | 0x06 => .ok (.vmin d a b m)
  | 0x07 => .ok (.vmax d a b m)
  | 0x08 => .ok (.vand d a b m)
  | 0x09 => .ok (.vor d a b m)
  | 0x0A => .ok (.vxor d a b m)
  | 0x0B => .ok (.vshl d a b m)
  | 0x0C => .ok (.vshr d a b m)
  | 0x0D => .ok (.vsra d a b m)
  | 0x0E => .ok (.vaddi d a b m)
  | 0x0F => .ok (.vshli d a b m)
  | 0x10 => .ok (.vshri d a b m)
  | 0x11 => .ok (.vsrai d a b m)
  | 0x12 => decodeAvs 0x12 d a (bits w 4 6) (bits w 2 2) m
  | 0x13 => decodeAvs 0x13 d a (bits w 4 6) (bits w 2 2) m
  | 0x14 => decodeAvs 0x14 d a (bits w 4 6) (bits w 2 2) m
  | 0x15 => decodeAvs 0x15 d a (bits w 4 6) (bits w 2 2) m
  | 0x16 => decodeAvs 0x16 d a (bits w 4 6) (bits w 2 2) m
  | 0x17 => decodeAvs 0x17 d a (bits w 4 6) (bits w 2 2) m
  | 0x18 =>
    match vcondOf (bits w 22 4) with
    | none => .error .function
    | some c => .ok (.vcmp c (bits w 18 4) a b m)
  | 0x19 => decodeAvs 0x19 d a (bits w 4 6) (bits w 2 2) m
  | 0x1A => .ok (.vsel d a b m)
  | 0x1B => decodeAvc 0x1B d a (bits w 7 3) (bits w 4 3) (bits w 3 1 = 1) (bits w 1 2) (bits w 0 1)
  | 0x1C => decodeAvc 0x1C d a (bits w 7 3) (bits w 4 3) (bits w 3 1 = 1) (bits w 1 2) (bits w 0 1)
  | 0x1D => decodeAvc 0x1D d a (bits w 7 3) (bits w 4 3) (bits w 3 1 = 1) (bits w 1 2) (bits w 0 1)
  | 0x1E => .ok (.vperm d a b m)
  | 0x1F => decodePermute d a (bits w 8 2) (bits w 2 6) m
  | 0x20 =>
    match redOf b with
    | none => .error .function
    | some o => .ok (.vred d a o m)
  | 0x21 =>
    match redOf b with
    | none => .error .function
    | some o => .ok (.vscan d a o m)
  | 0x22 => .ok (.vdot4 d a b m)
  | 0x23 => decodeUnary d a b m
  | 0x24 => decodeMask d a b m
  | 0x25 =>
    need (m = 0) .reserved
      (need (d.toNat < 64 && b.toNat < 64) .register (.ok (.vext (bits w 18 6) a (bits w 2 6))))
  | 0x26 => need (a = 0) .reserved (.ok (.viota d b m))
  | 0x27 => need (a = 0 && m = 0 && bits w 22 4 = 0) .reserved (.ok (.setbf (bits w 18 4) b))
  | 0x28 => need (b = 0 && m = 0 && bits w 22 4 = 0) .reserved (.ok (.ldcb (bits w 18 4) a))
  | _ => .error .major

/-! ### The L-form (R28, R42) -/

/-- Tree instructions, majors 0x10 to 0x17 (R259 to R268). -/
def decodeTree (op : Nat) (f : BitVec 57) : Except Reject Instr :=
  let d := bits f 0 6
  let t := bits f 8 4
  let a := bits f 12 6
  let b := bits f 18 6
  let c := bits f 24 6
  let mode := bits f 30 3
  need (bits f 33 24 = 0 && (op = 0x15 || bits f 6 2 = 0)) .reserved
    (match op with
     | 0x10 =>
       need (b = 0 && c = 0) .reserved
         (match mode.toNat with
          | 0 => .ok (.tbind d t a false)
          | 1 => .ok (.tbind d t a true)
          | 2 => need (a = 0) .reserved (.ok (.tbindUnbind d t))
          | _ => .error .function)
     | 0x11 => need (a = 0 && b = 0 && c = 0 && mode = 0) .reserved (.ok (.tdesc d t))
     | 0x12 => need (mode = 0) .reserved (.ok (.texpand d t a b c))
     | 0x13 => need (c = 0) .reserved (need (mode.toNat < 2) .function (.ok (.tback d t a b (mode = 1))))
     | 0x14 => need (b = 0 && c = 0 && mode = 0) .reserved (.ok (.treroot d t a))
     | 0x15 => need (b = 0 && c = 0 && mode = 0) .reserved (.ok (.trdn (bits f 0 8) t a))
     | 0x16 => need (a = 0 && b = 0 && c = 0) .reserved (need (mode ≠ 7) .function (.ok (.tstat d t mode)))
     | _ => need (b = 0 && c = 0 && mode = 0) .reserved (.ok (.tfree d t a)))

/-- Bond instructions, majors 0x18 to 0x1E (R284). Whether `sa` of PQRY with field 5 or 6, which read no entry (R289), is an unused
field, R284 does not say: DESIGN CHOICE, any `sa` is accepted (log 40). -/
def decodeBond (op : Nat) (f : BitVec 57) : Except Reject Instr :=
  let d := bits f 0 6
  let a := bits f 6 6
  let b := bits f 12 6
  let c := bits f 18 6
  let i := bits f 24 4
  need (bits f 28 29 = 0) .reserved
    (match op with
     | 0x18 => need (c = 0 && i = 0) .reserved (.ok (.pdecl d a b))
     | 0x19 => need (c = 0 && i = 0) .reserved (.ok (.pset d a b))
     | 0x1A => need (c = 0 && i = 0) .reserved (.ok (.pload d a b))
     | 0x1B => need (i = 0) .reserved (.ok (.pconv d a b c))
     | 0x1C => need (b = 0 && c = 0) .reserved (need (i.toNat < 7) .function (.ok (.pqry d a i)))
     | 0x1D => need (b = 0 && c = 0 && i = 0) .reserved (.ok (.pdrop d a))
     | _ => need (b = 0 && c = 0) .reserved (need (i ≠ 0) .function (.ok (.psync d a i))))

/-- Network commands, majors 0x20 to 0x23 (R304, R305). -/
def decodeNet (op : Nat) (f : BitVec 57) : Except Reject Instr :=
  let d := bits f 0 6
  let a := bits f 6 6
  let b := bits f 12 6
  let c := bits f 18 6
  let r := bits f 24 6
  let o := bits f 43 4
  let dbl : Bool := bits f 47 1 = 1
  let land : Bool := bits f 48 1 = 1
  need (bits f 49 8 = 0) .reserved
    (match netModOf f with
     | .error e => .error e
     | .ok x =>
       match op with
       | 0x20 =>
         need (r = 0 && o = 0 && !dbl && !land) .reserved (need (x.dm != .uud) .function (.ok (.nput d a b c x)))
       | 0x21 =>
         need (r = 0 && o = 0 && !dbl && !land) .reserved (need (x.dm != .uud) .function (.ok (.nget d a b c x)))
       | 0x22 =>
         match amoOf o with
         | none => .error .function
         | some o =>
           need (!land && x.e = 0 && x.seg = 0 && (o = .cas || c = 0)) .reserved
             (need (x.dm != .uud && !(o = .fadd && dbl)) .function (.ok (.natom d a b c r o dbl x)))
       | _ =>
         need (r = 0 && o = 0 && !dbl) .reserved
           (if land then
              need (c = 0 && x.e = 0 && x.seg = 0 && x.dm == .rud) .reserved (.ok (.nsendL d a b x.cc x.ob))
            else .ok (.nsend d a b c x)))

/-- Fence and window instructions, majors 0x24 to 0x29 (R307, R308). Whether `sa` of WQRY mode 4, which names no window, is an unused
field, the rules do not say: DESIGN CHOICE, any `sa` is accepted (log 40). -/
def decodeWindow (op : Nat) (f : BitVec 57) : Except Reject Instr :=
  let d := bits f 0 6
  let a := bits f 6 6
  let b := bits f 12 6
  let c := bits f 18 6
  let mode := bits f 24 4
  need (bits f 28 29 = 0 && c = 0) .reserved
    (match op with
     | 0x24 =>
       match mode.toNat with
       | 0 => need (d = 0 && a = 0 && b = 0) .reserved (.ok .nfence)
       | 1 => need (b = 0) .reserved (.ok (.nfenceRs d a))
       | 2 => need (b = 0) .reserved (.ok (.nfenceCn d a))
       | _ => .error .function
     | 0x25 => need (bits f 27 1 = 0) .reserved (.ok (.wopen d a b (bits f 24 3)))
     | 0x26 => need (b = 0 && mode = 0) .reserved (.ok (.wrevoke d a))
     | 0x27 =>
       need (b = 0) .reserved
         (need (mode.toNat < 5) .function (.ok (.wqry d a (bits f 24 3))))
     | 0x28 => need (mode = 0) .reserved (.ok (.cbopen d a b))
     | _ =>
       need (b = 0) .reserved
         (match mode.toNat with
          | 0 => .ok (.cbpopTake d a)
          | 1 => .ok (.cbpopFree d a)
          | _ => .error .function))

/-- An L-form field value under its major opcode (R42). -/
def decodeL (op : BitVec 6) (f : BitVec 57) : Except Reject Instr :=
  let d := bits f 0 6
  match op.toNat with
  | 0x01 => .ok (.movi d (bits f 6 51))
  | 0x02 => need (bits f 22 35 = 0) .reserved (.ok (.movih d (bits f 6 16)))
  | 0x03 => .ok (.jl d (bits f 6 51))
  | 0x04 =>
    need (bits f 49 8 = 0) .reserved
      (.ok (.fork d (bits f 6 6) (bits f 12 12) (bits f 24 1 = 1) (bits f 25 24)))
  | 0x05 =>
    need (bits f 32 25 = 0) .reserved
      (match amoOf (bits f 24 4) with
       | none => .error .function
       | some o =>
         let dbl : Bool := bits f 28 1 = 1
         need (bits f 29 1 = 1 && !(o = .fadd && dbl)) .function
           (need (o = .cas || bits f 18 6 = 0) .reserved
             (.ok (.amo d (bits f 6 6) (bits f 12 6) (bits f 18 6) o dbl (bits f 30 2)))))
  | 0x06 =>
    need (bits f 28 29 = 0) .reserved
      (need (bits f 24 3 ≠ 7) .function
        (.ok (.vlds (bits f 0 8) (bits f 8 6) (bits f 14 6) (bits f 20 4) (bits f 24 3) (bits f 27 1 = 1))))
  | 0x07 =>
    need (bits f 28 29 = 0) .reserved
      (need (bits f 24 3 ≠ 7) .function
        (.ok (.vsts (bits f 0 8) (bits f 8 6) (bits f 14 6) (bits f 20 4) (bits f 24 3) (bits f 27 1 = 1))))
  | 0x08 =>
    need (bits f 30 27 = 0) .reserved
      (need (bits f 26 3 ≠ 7) .function
        (.ok (.vldg (bits f 0 8) (bits f 8 6) (bits f 14 8) (bits f 22 4) (bits f 26 3) (bits f 29 1 = 1))))
  | 0x09 =>
    need (bits f 30 27 = 0) .reserved
      (need (bits f 26 3 ≠ 7) .function
        (.ok (.vstg (bits f 0 8) (bits f 8 6) (bits f 14 8) (bits f 22 4) (bits f 26 3) (bits f 29 1 = 1))))
  | 0x0A =>
    need (bits f 18 39 = 0) .reserved
      (.ok (.mload (bits f 0 8) (bits f 8 6) (bits f 14 3) (bits f 17 1 = 1)))
  | 0x0B => need (bits f 20 37 = 0) .reserved (.ok (.accrd (bits f 0 8) (bits f 8 6) (bits f 14 6)))
  | 0x0C => need (bits f 18 39 = 0) .reserved (.ok (.launch d (bits f 6 6) (bits f 12 6)))
  | 0x10 => decodeTree 0x10 f
  | 0x11 => decodeTree 0x11 f
  | 0x12 => decodeTree 0x12 f
  | 0x13 => decodeTree 0x13 f
  | 0x14 => decodeTree 0x14 f
  | 0x15 => decodeTree 0x15 f
  | 0x16 => decodeTree 0x16 f
  | 0x17 => decodeTree 0x17 f
  | 0x18 => decodeBond 0x18 f
  | 0x19 => decodeBond 0x19 f
  | 0x1A => decodeBond 0x1A f
  | 0x1B => decodeBond 0x1B f
  | 0x1C => decodeBond 0x1C f
  | 0x1D => decodeBond 0x1D f
  | 0x1E => decodeBond 0x1E f
  | 0x20 => decodeNet 0x20 f
  | 0x21 => decodeNet 0x21 f
  | 0x22 => decodeNet 0x22 f
  | 0x23 => decodeNet 0x23 f
  | 0x24 => decodeWindow 0x24 f
  | 0x25 => decodeWindow 0x25 f
  | 0x26 => decodeWindow 0x26 f
  | 0x27 => decodeWindow 0x27 f
  | 0x28 => decodeWindow 0x28 f
  | 0x29 => decodeWindow 0x29 f
  | 0x30 =>
    need (bits f 44 13 = 0) .reserved
      (.ok (.sload d (bits f 6 6) (bits f 12 6) (bits f 18 6) (bits f 24 8) (bits f 32 8) (bits f 40 4)))
  | 0x31 =>
    need (bits f 44 13 = 0) .reserved
      (.ok (.sstore d (bits f 6 6) (bits f 12 6) (bits f 18 6) (bits f 24 8) (bits f 32 8) (bits f 40 4)))
  | 0x32 =>
    need (bits f 40 17 = 0 && d = 0 && bits f 18 6 = 0) .reserved
      (.ok (.spref (bits f 6 6) (bits f 12 6) (bits f 24 8) (bits f 32 8)))
  | 0x33 => need (bits f 16 41 = 0) .reserved (need (bits f 0 16 ≠ 0) .function (.ok (.swait (bits f 0 16))))
  | 0x3E => need (bits f 16 41 = 0) .reserved (.ok (.pool (bits f 0 16)))
  | _ => .error .major

/-! ### Bundles -/

/-- A decoded bundle: two instructions, one long one, or a pattern that is none, with the slot that
fails first and the detail that TVAL records (R25, R33). -/
inductive Bundle
  | pair (c a : Instr)
  | long (i : Instr)
  | illegal (slot : BitVec 2) (detail : BitVec 57) (why : Reject)
deriving DecidableEq, Repr, Inhabited

/-- Word 0 of a bundle (R25). -/
def word0 (b : BitVec 64) : BitVec 32 := bits b 0 32
/-- Word 1 of a bundle (R25). -/
def word1 (b : BitVec 64) : BitVec 32 := bits b 32 32
/-- The L-form field value F of a bundle (R28). -/
def longField (b : BitVec 64) : BitVec 57 := bits b 32 32 ++ bits b 0 25

/-- Decode of a bundle: C-slot first, then A-slot, or L-form (R25, R33). -/
def decodeBundle (b : BitVec 64) : Bundle :=
  if bits b 31 1 = 1 then
    match decodeC (word0 b) with
    | .error r => .illegal 1 ((word0 b).zeroExtend 57) r
    | .ok c =>
      match decodeA (word1 b) with
      | .error r => .illegal 2 ((word1 b).zeroExtend 57) r
      | .ok a => .pair c a
  else
    match decodeL (bits b 25 6) (longField b) with
    | .error r => .illegal 3 (longField b) r
    | .ok i => .long i

/-- Eight bytes, the first at the lowest address, as a little-endian number (R25). -/
def bundleOfBytes : List Byte → Option (BitVec 64 × List Byte)
  | b0 :: b1 :: b2 :: b3 :: b4 :: b5 :: b6 :: b7 :: r => some (b7 ++ b6 ++ b5 ++ b4 ++ b3 ++ b2 ++ b1 ++ b0, r)
  | _ => none

/-- Decode of a byte string: a bundle and the bytes after it. -/
def decodeBytes (l : List Byte) : Except Reject (Bundle × List Byte) :=
  match bundleOfBytes l with
  | none => .error .short
  | some (b, r) => .ok (decodeBundle b, r)

/-- The one instruction that a bundle holds beside `NOP`s; the first of two. -/
def instrOf : Bundle → Option Instr
  | .pair c a => if a = .nopA then some c else if c = .nop then some a else some c
  | .long i => some i
  | .illegal _ _ _ => none

/-! ### The encoder -/

/-- Format CR (R26), bit 31 set. -/
def cr (op d a b : BitVec 6) (fn : BitVec 7) : BitVec 32 := (1#1 ++ op ++ d ++ a ++ b ++ fn).cast (by decide)
/-- Format CI (R26). -/
def ci (op d a : BitVec 6) (i : BitVec 13) : BitVec 32 := (1#1 ++ op ++ d ++ a ++ i).cast (by decide)
/-- Format CM (R26). -/
def cm (op d a : BitVec 6) (wd : BitVec 2) (i : BitVec 11) : BitVec 32 :=
  (1#1 ++ op ++ d ++ a ++ wd ++ i).cast (by decide)
/-- Format CB (R26). -/
def cb (op : BitVec 6) (c : BitVec 3) (a b : BitVec 6) (o : BitVec 10) : BitVec 32 :=
  (1#1 ++ op ++ c ++ a ++ b ++ o).cast (by decide)
/-- Format CJ (R26). -/
def cj (op : BitVec 6) (o : BitVec 25) : BitVec 32 := (1#1 ++ op ++ o).cast (by decide)
/-- Format CV (R26). -/
def cv (op : BitVec 6) (v : BitVec 8) (a : BitVec 6) (mode : BitVec 3) (i : BitVec 8) : BitVec 32 :=
  (1#1 ++ op ++ v ++ a ++ mode ++ i).cast (by decide)
/-- Formats AV and AVI (R27). -/
def av (op : BitVec 6) (d a b : BitVec 8) (m : BitVec 2) : BitVec 32 := (op ++ d ++ a ++ b ++ m).cast (by decide)
/-- Format AVS (R27). -/
def avs (op : BitVec 6) (d a : BitVec 8) (b : BitVec 6) (hi : Bool) (m : BitVec 2) : BitVec 32 :=
  (op ++ d ++ a ++ b ++ 0#1 ++ bitOf hi ++ m).cast (by decide)
/-- Format AVC (R27). -/
def avc (op : BitVec 6) (d a : BitVec 8) (p r : BitVec 3) (s : Bool) (m : BitVec 2) : BitVec 32 :=
  (op ++ d ++ a ++ p ++ r ++ bitOf s ++ m ++ 0#1).cast (by decide)

/-- The C-slot word of an instruction (R36 to R39). -/
def encodeC : Instr → Option (BitVec 32)
  | .nop => some (cj 0x00 0)
  | .add d a b => some (cr 0x01 d a b 0x00)
  | .sub d a b => some (cr 0x01 d a b 0x01)
  | .and d a b => some (cr 0x01 d a b 0x02)
  | .or d a b => some (cr 0x01 d a b 0x03)
  | .xor d a b => some (cr 0x01 d a b 0x04)
  | .andn d a b => some (cr 0x01 d a b 0x05)
  | .orn d a b => some (cr 0x01 d a b 0x06)
  | .xnor d a b => some (cr 0x01 d a b 0x07)
  | .sll d a b => some (cr 0x01 d a b 0x08)
  | .srl d a b => some (cr 0x01 d a b 0x09)
  | .sra d a b => some (cr 0x01 d a b 0x0A)
  | .ror d a b => some (cr 0x01 d a b 0x0B)
  | .slt d a b => some (cr 0x01 d a b 0x0C)
  | .sltu d a b => some (cr 0x01 d a b 0x0D)
  | .seq d a b => some (cr 0x01 d a b 0x0E)
  | .sne d a b => some (cr 0x01 d a b 0x0F)
  | .min d a b => some (cr 0x01 d a b 0x10)
  | .max d a b => some (cr 0x01 d a b 0x11)
  | .minu d a b => some (cr 0x01 d a b 0x12)
  | .maxu d a b => some (cr 0x01 d a b 0x13)
  | .mul d a b => some (cr 0x01 d a b 0x18)
  | .mulh d a b => some (cr 0x01 d a b 0x19)
  | .mulhu d a b => some (cr 0x01 d a b 0x1A)
  | .div d a b => some (cr 0x01 d a b 0x1C)
  | .divu d a b => some (cr 0x01 d a b 0x1D)
  | .rem d a b => some (cr 0x01 d a b 0x1E)
  | .remu d a b => some (cr 0x01 d a b 0x1F)
  | .clz d a => some (cr 0x01 d a 0 0x20)
  | .ctz d a => some (cr 0x01 d a 0 0x21)
  | .popc d a => some (cr 0x01 d a 0 0x22)
  | .brev d a => some (cr 0x01 d a 0 0x23)
  | .bswap d a => some (cr 0x01 d a 0 0x24)
  | .sextB d a => some (cr 0x01 d a 0 0x28)
  | .sextH d a => some (cr 0x01 d a 0 0x29)
  | .sextW d a => some (cr 0x01 d a 0 0x2A)
  | .zextB d a => some (cr 0x01 d a 0 0x2B)
  | .zextH d a => some (cr 0x01 d a 0 0x2C)
  | .zextW d a => some (cr 0x01 d a 0 0x2D)
  | .addi d a i => some (ci 0x02 d a i)
  | .andi d a i => some (ci 0x03 d a i)
  | .ori d a i => some (ci 0x04 d a i)
  | .xori d a i => some (ci 0x05 d a i)
  | .slti d a i => some (ci 0x06 d a i)
  | .sltiu d a i => some (ci 0x07 d a i)
  | .muli d a i => some (ci 0x0B d a i)
  | .slli d a n => some (ci 0x08 d a (0#5 ++ 0#2 ++ n))
  | .srli d a n => some (ci 0x08 d a (0#5 ++ 1#2 ++ n))
  | .srai d a n => some (ci 0x08 d a (0#5 ++ 2#2 ++ n))
  | .rori d a n => some (ci 0x08 d a (0#5 ++ 3#2 ++ n))
  | .bfxu d a l p => some (ci 0x09 d a (0#1 ++ l ++ p))
  | .bfx d a l p => some (ci 0x09 d a (1#1 ++ l ++ p))
  | .bfi d a l p => some (ci 0x0A d a (0#1 ++ l ++ p))
  | .addpc d i => some (ci 0x0C d 0 i)
  | .xset x a i => some (ci 0x1F (0#3 ++ x) a i)
  | .xget d x => some (ci 0x0D d (0#3 ++ x) 0)
  | .bcond c a b o => some (cb 0x10 (condCode c) a b o)
  | .j o => some (cj 0x11 o)
  | .jal o => some (cj 0x12 o)
  | .jalr d a i => some (ci 0x13 d a i)
  | .empty r n => some (cv 0x18 (r.zeroExtend 8) 0 0 (0#2 ++ n))
  | .vempty r n => some (cv 0x18 r 0 1 (0#2 ++ n))
  | .emptyMask r n => some (cv 0x18 (r.zeroExtend 8) 0 2 (0#2 ++ n))
  | .fill r => some (cv 0x19 (pregCode r).2 0 (pregCode r).1 0)
  | .waitp r q => some (cv 0x1A (pregCode r).2 0 (pregCode r).1 (0#7 ++ bitOf q))
  | .sleep a => some (cr 0x14 0 a 0 0x02)
  | .yield => some (cr 0x14 0 0 0 0x01)
  | .exit => some (cr 0x14 0 0 0 0x00)
  | .migrate a => some (cr 0x14 0 a 0 0x05)
  | .preempt d a => some (cr 0x14 d a 0 0x06)
  | .teambar => some (cr 0x14 0 0 0 0x03)
  | .evw a => some (cr 0x14 0 a 0 0x07)
  | .evs a => some (cr 0x14 0 a 0 0x08)
  | .gettid d i => some (ci 0x15 d 0 (0#1 ++ 0#8 ++ i))
  | .gettidQ d a => some (ci 0x15 d a (1#1 ++ 0#12))
  | .join a => some (cr 0x14 0 a 0 0x04)
  | .rdsr d n => some (ci 0x16 d 0 (0#1 ++ n))
  | .wrsr a n => some (ci 0x17 0 a (0#1 ++ n))
  | .trap c => some (ci 0x1B 0 0 c)
  | .bkpt => some (cr 0x14 0 0 0 0x11)
  | .tret => some (cr 0x14 0 0 0 0x10)
  | .tlbw d a b => some (cr 0x14 d a b 0x12)
  | .tlbi d a b => some (cr 0x14 d a b 0x13)
  | .ld d a wd i => some (cm 0x20 d a (widthCode wd) i)
  | .ldu d a wd i => some (cm 0x21 d a (widthCode wd) i)
  | .st d a wd i => some (cm 0x22 d a (widthCode wd) i)
  | .ldl l a wd i => some (cm 0x23 l a (widthCode wd) i)
  | .ldAq d a wd => some (cr 0x27 d a 0 (1#2 ++ widthCode wd ++ 0#3))
  | .lduAq d a wd => some (cr 0x27 d a 0 (1#2 ++ widthCode wd ++ 1#3))
  | .stRl d a wd => some (cr 0x27 d a 0 (2#2 ++ widthCode wd ++ 2#3))
  | .ldlRl l a wd => some (cr 0x27 l a 0 (2#2 ++ widthCode wd ++ 3#3))
  | .vld v a q i => some (cv 0x28 v a (0#2 ++ bitOf q) i)
  | .vst v a r i => some (cv 0x29 v a (0#2 ++ bitOf r) i)
  | .put l a r => some (cr 0x2A l a 0 (0#6 ++ bitOf r))
  | .pute l a r => some (cr 0x2A l a 0 (0#5 ++ 1#1 ++ bitOf r))
  | .vput v l e r => some (cv 0x2B v l (0#1 ++ bitOf e ++ bitOf r) 0)
  | .vputl v l e r n f => some (cv 0x2C v l (0#1 ++ bitOf e ++ bitOf r) (n ++ f))
  | .lamk v l r k => some (cv 0x2D v l (0#2 ++ bitOf r) (0#4 ++ k))
  | .fence i sc u p => some (ci 0x1C 0 0 (0#1 ++ bitOf i ++ scopeCode sc ++ u ++ p))
  | .claim d a => some (cr 0x1D d a 0 0x00)
  | .release d a => some (cr 0x1D d a 0 0x01)
  | .accz d => some (cr 0x1D d 0 0 0x02)
  | .issue n a p => some (cr 0x1E (0#2 ++ n) a (portCode p) 0x00)
  | .pop d p => some (cr 0x1E d 0 (portCode p) 0x01)
  | .portst d p => some (cr 0x1E d 0 (portCode p) 0x02)
  | .seqwait a => some (cr 0x1E 0 a 0 0x03)
  | _ => none

/-- The A-slot word of an instruction (R40, R41). -/
def encodeA : Instr → Option (BitVec 32)
  | .nopA => some (av 0x00 0 0 0 0)
  | .vadd d a b m => some (av 0x01 d a b m)
  | .vsub d a b m => some (av 0x02 d a b m)
  | .vmul d a b m => some (av 0x03 d a b m)
  | .vfma d a b m => some (av 0x04 d a b m)
  | .vfms d a b m => some (av 0x05 d a b m)
  | .vmin d a b m => some (av 0x06 d a b m)
  | .vmax d a b m => some (av 0x07 d a b m)
  | .vand d a b m => some (av 0x08 d a b m)
  | .vor d a b m => some (av 0x09 d a b m)
  | .vxor d a b m => some (av 0x0A d a b m)
  | .vshl d a b m => some (av 0x0B d a b m)
  | .vshr d a b m => some (av 0x0C d a b m)
  | .vsra d a b m => some (av 0x0D d a b m)
  | .vaddi d a i m => some (av 0x0E d a i m)
  | .vshli d a i m => some (av 0x0F d a i m)
  | .vshri d a i m => some (av 0x10 d a i m)
  | .vsrai d a i m => some (av 0x11 d a i m)
  | .vadds d a b hi m => some (avs 0x12 d a b hi m)
  | .vsubs d a b hi m => some (avs 0x13 d a b hi m)
  | .vmuls d a b hi m => some (avs 0x14 d a b hi m)
  | .vfmas d a b hi m => some (avs 0x15 d a b hi m)
  | .vbcast d b hi m => some (avs 0x16 d 0 b hi m)
  | .vins d l b hi m => some (avs 0x17 d (0#2 ++ l) b hi m)
  | .vcmp c k a b m => some (av 0x18 (vcondCode c ++ k) a b m)
  | .vcmps c k a b hi m => some (avs 0x19 (vcondCode c ++ k) a b hi m)
  | .vsel d a b m => some (av 0x1A d a b m)
  | .vmov d a p r s m => some (avc 0x1B d a p (rndCode r) s m)
  | .vpack d a p m => some (avc 0x1C d a p 0 false m)
  | .vunpk d a p s m => some (avc 0x1D d a p 0 s m)
  | .vperm d a b m => some (av 0x1E d a b m)
  | .vrot d a k m => some (av 0x1F d a (0#2 ++ k) m)
  | .vrev d a m => some (av 0x1F d a (1#2 ++ 0#6) m)
  | .vzip d a hi m => some (av 0x1F d a (2#2 ++ 0#5 ++ bitOf hi) m)
  | .vuzp d a hi m => some (av 0x1F d a (3#2 ++ 0#5 ++ bitOf hi) m)
  | .vred d a o m => some (av 0x20 d a (redCode o) m)
  | .vscan d a o m => some (av 0x21 d a (redCode o) m)
  | .vdot4 d a b m => some (av 0x22 d a b m)
  | .vabs d a m => some (av 0x23 d a 0x00 m)
  | .vneg d a m => some (av 0x23 d a 0x01 m)
  | .vnot d a m => some (av 0x23 d a 0x02 m)
  | .vclz d a m => some (av 0x23 d a 0x03 m)
  | .vpopc d a m => some (av 0x23 d a 0x04 m)
  | .vsqrt d a m => some (av 0x23 d a 0x05 m)
  | .vrcp d a m => some (av 0x23 d a 0x06 m)
  | .vrsq d a m => some (av 0x23 d a 0x07 m)
  | .vexp2 d a m => some (av 0x23 d a 0x08 m)
  | .vlog2 d a m => some (av 0x23 d a 0x09 m)
  | .vflr d a m => some (av 0x23 d a 0x0A m)
  | .vceil d a m => some (av 0x23 d a 0x0B m)
  | .mand d a b => some (av 0x24 (0#4 ++ d) (0#4 ++ a) (0#4 ++ b) 0)
  | .mor d a b => some (av 0x24 (1#4 ++ d) (0#4 ++ a) (0#4 ++ b) 0)
  | .mxor d a b => some (av 0x24 (2#4 ++ d) (0#4 ++ a) (0#4 ++ b) 0)
  | .mandn d a b => some (av 0x24 (3#4 ++ d) (0#4 ++ a) (0#4 ++ b) 0)
  | .mnot d a => some (av 0x24 (4#4 ++ d) (0#4 ++ a) 0 0)
  | .vext d a l => some (av 0x25 (0#2 ++ d) a (0#2 ++ l) 0)
  | .viota d i m => some (av 0x26 d 0 i m)
  | .setbf b f => some (av 0x27 (0#4 ++ b) 0 f 0)
  | .ldcb c a => some (av 0x28 (0#4 ++ c) a 0 0)
  | _ => none

/-- Layout of the tree instructions (R259). -/
def lTree (d : BitVec 8) (t : BitVec 4) (a b c : BitVec 6) (mode : BitVec 3) : BitVec 57 :=
  (0#24 ++ mode ++ c ++ b ++ a ++ t ++ d).cast (by decide)
/-- Layout of the bond, fence and window instructions (R284, R307). -/
def lFour (d a b c : BitVec 6) (i : BitVec 4) : BitVec 57 := (0#29 ++ i ++ c ++ b ++ a ++ d).cast (by decide)
/-- Layout of the network commands (R304). -/
def lNet (d a b c r : BitVec 6) (x : NetMod) (o : BitVec 4) (dbl land : Bool) : BitVec 57 :=
  (0#8 ++ bitOf land ++ bitOf dbl ++ o ++ netModeCode x.dm ++ x.seg ++ x.e ++ bitOf x.ob ++ x.cc ++ r ++ c ++ b ++ a ++ d).cast
    (by decide)
/-- Layout of the strided vector accesses (R163). -/
def lStride (v : BitVec 8) (a b : BitVec 6) (m : BitVec 4) (run : BitVec 3) (q : Bool) : BitVec 57 :=
  (0#29 ++ bitOf q ++ run ++ m ++ b ++ a ++ v).cast (by decide)
/-- Layout of the gather forms (R163). -/
def lGather (v : BitVec 8) (a : BitVec 6) (vb : BitVec 8) (m : BitVec 4) (run : BitVec 3) (q : Bool) : BitVec 57 :=
  (0#27 ++ bitOf q ++ run ++ m ++ vb ++ a ++ v).cast (by decide)
/-- Layout of the stream instructions (R228). -/
def lStream (d a b c : BitVec 6) (rows len : BitVec 8) (tag : BitVec 4) : BitVec 57 :=
  (0#13 ++ tag ++ len ++ rows ++ c ++ b ++ a ++ d).cast (by decide)
/-- A scalar destination in the 8-bit field (R259). -/
def d8 (d : BitVec 6) : BitVec 8 := 0#2 ++ d

/-- The major opcode and the field value of a long instruction (R42). -/
def encodeL : Instr → Option (BitVec 6 × BitVec 57)
  | .movi d i => some (0x01, (i ++ d : BitVec 57))
  | .movih d i => some (0x02, (0#35 ++ i ++ d : BitVec 57))
  | .jl d o => some (0x03, (o ++ d : BitVec 57))
  | .fork sa sc maxr die body => some (0x04, ((0#8 ++ body ++ bitOf die ++ maxr ++ sc ++ sa).cast (by decide)))
  | .amo d a b c op dbl ord => some (0x05, ((0#25 ++ ord ++ 1#1 ++ bitOf dbl ++ amoCode op ++ c ++ b ++ a ++ d).cast (by decide)))
  | .vlds v a b m run q => some (0x06, lStride v a b m run q)
  | .vsts v a b m run q => some (0x07, lStride v a b m run q)
  | .vldg v a vb m run q => some (0x08, lGather v a vb m run q)
  | .vstg v a vb m run q => some (0x09, lGather v a vb m run q)
  | .mload v a n r => some (0x0A, ((0#39 ++ bitOf r ++ n ++ a ++ v).cast (by decide)))
  | .accrd v c a => some (0x0B, ((0#37 ++ a ++ c ++ v).cast (by decide)))
  | .launch d a b => some (0x0C, ((0#39 ++ b ++ a ++ d).cast (by decide)))
  | .tbind d t a init => some (0x10, lTree (d8 d) t a 0 0 (0#2 ++ bitOf init))
  | .tbindUnbind d t => some (0x10, lTree (d8 d) t 0 0 0 2)
  | .tdesc d t => some (0x11, lTree (d8 d) t 0 0 0 0)
  | .texpand d t a b c => some (0x12, lTree (d8 d) t a b c 0)
  | .tback d t a b vl => some (0x13, lTree (d8 d) t a b 0 (0#2 ++ bitOf vl))
  | .treroot d t a => some (0x14, lTree (d8 d) t a 0 0 0)
  | .trdn v t a => some (0x15, lTree v t a 0 0 0)
  | .tstat d t f => some (0x16, lTree (d8 d) t 0 0 0 f)
  | .tfree d t a => some (0x17, lTree (d8 d) t a 0 0 0)
  | .pdecl d a b => some (0x18, lFour d a b 0 0)
  | .pset d a b => some (0x19, lFour d a b 0 0)
  | .pload d a b => some (0x1A, lFour d a b 0 0)
  | .pconv d a b c => some (0x1B, lFour d a b c 0)
  | .pqry d a f => some (0x1C, lFour d a 0 0 f)
  | .pdrop d a => some (0x1D, lFour d a 0 0 0)
  | .psync d a m => some (0x1E, lFour d a 0 0 m)
  | .nput d t a n x => some (0x20, lNet d t a n 0 x 0 false false)
  | .nget d t l n x => some (0x21, lNet d t l n 0 x 0 false false)
  | .natom d t b c r op dbl x => some (0x22, lNet d t b c r x (amoCode op) dbl false)
  | .nsend d t a n x => some (0x23, lNet d t a n 0 x 0 false false)
  | .nsendL d l b cc ob => some (0x23, lNet d l b 0 0 { cc := cc, ob := ob, e := 0, seg := 0, dm := .rud } 0 false true)
  | .nfence => some (0x24, lFour 0 0 0 0 0)
  | .nfenceRs d a => some (0x24, lFour d a 0 0 1)
  | .nfenceCn d a => some (0x24, lFour d a 0 0 2)
  | .wopen d a b perm => some (0x25, lFour d a b 0 (0#1 ++ perm))
  | .wrevoke d a => some (0x26, lFour d a 0 0 0)
  | .wqry d a f => some (0x27, lFour d a 0 0 (0#1 ++ f))
  | .cbopen d a b => some (0x28, lFour d a b 0 0)
  | .cbpopTake d a => some (0x29, lFour d a 0 0 0)
  | .cbpopFree d a => some (0x29, lFour d a 0 0 1)
  | .sload d a b c rows len tag => some (0x30, lStream d a b c rows len tag)
  | .sstore d a b c rows len tag => some (0x31, lStream d a b c rows len tag)
  | .spref a b rows len => some (0x32, lStream 0 a b 0 rows len 0)
  | .swait m => some (0x33, (0#41 ++ m : BitVec 57))
  | .pool n => some (0x3E, (0#41 ++ n : BitVec 57))
  | _ => none

/-- The bundle of a long instruction: P = 0, the major, F[24:0] and F[56:25] (R28). -/
def longBundle (op : BitVec 6) (f : BitVec 57) : BitVec 64 :=
  (bits f 25 32 ++ 0#1 ++ op ++ bits f 0 25).cast (by decide)

/-- The bundle of two words (R25). -/
def pairBundle (c a : BitVec 32) : BitVec 64 := a ++ c

/-- The bundle of one instruction, the other slot holding `NOP` (R19, R35); none for the rows that are
no encodings. -/
def encode (i : Instr) : Option (BitVec 64) :=
  match encodeC i with
  | some c => some (pairBundle c (av 0 0 0 0 0))
  | none =>
    match encodeA i with
    | some a => some (pairBundle (cj 0 0) a)
    | none =>
      match encodeL i with
      | some (op, f) => some (longBundle op f)
      | none => none

/-! ### The words of spec/opcode_table.json -/

/-- The bundle that a table row's bits stand for. A row of 32 bits is a C-slot word 0 with P set, or an
A-slot word 1 of a bundle whose C-slot holds `NOP`; where a word with bit 31 set can be either, it is
the C-slot's if that decodes. A row of 64 bits is a whole bundle. -/
def tableBundle (nbits w : Nat) : BitVec 64 :=
  if nbits ≤ 32 then
    let x := BitVec.ofNat 32 w
    if bits x 31 1 = 1 then
      match decodeC x with
      | .ok _ => pairBundle x 0
      | .error _ => pairBundle 0x80000000 x
    else pairBundle 0x80000000 x
  else BitVec.ofNat 64 w

/-- The eight bytes of a bundle as memory holds them, lowest address first (R25). -/
def bytesOfBundle (b : BitVec 64) : List Byte :=
  [bits b 0 8, bits b 8 8, bits b 16 8, bits b 24 8, bits b 32 8, bits b 40 8, bits b 48 8, bits b 56 8]

/-- The instruction read from a row's bits, through its bytes. -/
def decodeTableWord (nbits w : Nat) : Option Instr :=
  match decodeBytes (bytesOfBundle (tableBundle nbits w)) with
  | .error _ => none
  | .ok (b, _) => instrOf b

end Sys2Proof
end

