-- ==== Sys2Proof/Machine/Plan.lean ====
section
/-! DEFINITION. What an instruction asks for before it takes effect, and how a bundle ends: a trap, a stall,
a page to be served, or its effect (R31, R33, R90, R344). -/

namespace Sys2Proof.Machine

open Sys2Proof

/-- The issue slot of an instruction, as `TVAL` of ILLEGAL names it (R33). -/
inductive Slot | c | a | l
deriving DecidableEq, Repr, Inhabited

/-- Its code (R33). -/
def Slot.code : Slot → BitVec 2
  | .c => 1
  | .a => 2
  | .l => 3

/-- An instruction: the vector specifiers it names, the registers that must be present, its execution check, registers for which it
waits after the check, a structural limit that holds it, and the state after its effect. -/
structure Plan where
  specs : List (BitVec 8)
  needs : List Reg
  bad : Option Bad
  late : List Reg := []
  hold : Bool
  next : State

/-- The first specifier that names an index outside the window (R29). -/
def outside (t : Thread) (l : List (BitVec 8)) : Option (BitVec 10) :=
  (l.map (specIndex t)).find? (fun i => winSize t ≤ i.toNat)

/-- `TVAL` of a register outside the window (R33). -/
def windowVal (slot : Slot) (i : BitVec 10) : Word := (slot.code ++ 1#1 ++ 0#51 ++ i).cast (by decide)

/-- `TVAL` of another ILLEGAL (R33). -/
def illegalVal (code : BitVec 2) (detail : BitVec 57) : Word := (code ++ 0#5 ++ detail).cast (by decide)

/-- Word 0 of a C-slot instruction, as `TVAL` of ILLEGAL holds it (R33). -/
def wordC (i : Instr) : BitVec 57 := ((encodeC i).getD 0).zeroExtend 57
/-- F of an L-form, as `TVAL` of ILLEGAL holds it (R33). -/
def fieldL (i : Instr) : BitVec 57 := ((encodeL i).map (·.2)).getD 0

/-- ILLEGAL at a bundle whose decoding fails, before any operand is waited for (R33, R34). -/
def illegalNow (code : BitVec 2) (detail : BitVec 57) (s : State) : Out :=
  .next { trapFocus s .illegal (illegalVal code detail) s.th.pc with last := .window }

/-- A translation that fails is a miss: the walk that it asks for records a malformed entry (R340, R341). Of a thread the page fault asks
for it. -/
def missOf (s : State) (c : Cause) (val : Word) : State :=
  if s.th.prog.isSome && (c = .loadFault || c = .storeFault || c = .fetchFault) && field val 56 8 = 0
  then askWalk s (clusterOf s.th.core) s.th.asid val.toNat else s

/-- A thread meets an absent page: it is to be saved, and the MMP is asked, once for a page (R344). -/
def suspendFor (s : State) (va : Nat) (c : Cause) : State :=
  let t := s.th
  let w : Handle × BitVec 8 × Word := (t.handle, causeCode c, word va)
  let s := askWalk { s with th := { t with save := some .fault, served := false } } (clusterOf t.core) t.asid va
  let page := faultPage s t.asid va
  if s.pageFaults.any (fun f => f.asid = t.asid && f.page = page) then
    { s with pageFaults := s.pageFaults.map (fun f =>
        if f.asid = t.asid && f.page = page then { f with threads := f.threads ++ [w] } else f) }
  else
    pend { s with pageFaults := s.pageFaults ++ [{ asid := t.asid, page := page, threads := [w], tag := none, launches := [], gruns := [] }] }
      (.pageFaultService t.asid (word (page * 65536)))

/-- A bundle stalls on its operands, of which its thread awaits the first empty one in field order (R102). -/
def awaitFirst (l : List Reg) (s : State) : State := { s with th := { s.th with awaited := l } }

/-- A bundle waits before its execution checks are made; the walks of these pages are asked for (R341). -/
def waitChecks (walks : List Nat) (s : State) : State :=
  { walks.foldl (fun s p => askWalk s (clusterOf s.th.core) s.th.asid (p * 65536))
      { s with th := { s.th with walked := s.th.walked ++ walks } } with last := .unchecked }

/-- A bundle that has taken effect. -/
def finish (s : State) : State := { s with last := .done }

/-- How a bundle of this instruction alone ends (R33). -/
def conclude (slot : Slot) (p : Plan) (s : State) : Out :=
  match outside s.th p.specs with
  | some i => .next { trapFocus s .illegal (windowVal slot i) s.th.pc with last := .window }
  | none =>
    if p.needs.all (present s.th) then
      match p.bad with
      | some (.trap c v) => .next { trapFocus (missOf s c v) c v s.th.pc with last := .trapped }
      | some (.suspend va c) => .next { suspendFor s va c with last := .trapped }
      | some (.wait l) => .next (waitChecks l s)
      | none =>
        if p.late.all (present s.th) then (if p.hold then .next { s with last := .held } else .next (finish p.next))
        else .next { awaitFirst (p.late ++ p.needs) s with last := .stalled }
    else .next { awaitFirst (p.late ++ p.needs) s with last := .stalled }

/-- The thread in focus with another state. -/
def setTh (s : State) (t : Thread) : State := { s with th := t }

/-- Execution goes on with the next bundle. -/
def advance (t : Thread) : Thread := { t with pc := t.pc + 8 }

/-- A plan without specifiers, checks and limits. -/
def plainPlan (needs : List Reg) (next : State) : Plan :=
  { specs := [], needs := needs, bad := none, hold := false, next := next }

/-- The address `8 · off` bundles from the program counter. -/
def bundlesOn {n : Nat} (t : Thread) (off : BitVec n) : Word := t.pc + sext64 off * 8

end Sys2Proof.Machine
end

