-- ==== Sys2Proof/Machine/Engines.lean ====
section
/-! DEFINITION. The dispatch ring and the life of engine commands (R100, R170 to R174, R200). -/

namespace Sys2Proof.Machine

open Sys2Proof

/-! ### Ports (R169) -/

/-- Port number (R169). -/
def portNum : Port → BitVec 2
  | .e0 => 0
  | .e1 => 1
  | .e2 => 2

/-- Scopes of the ports (R82) are those of the releases of ISSUE; the model's releases hold at `.SY` (log 7). -/
def portDepth : Port → Nat
  | .e0 => 16
  | .e1 => 128
  | .e2 => 16

/-! ### Commands -/

/-- The command of a thread and sequence number. -/
def findCmd (s : State) (h : Handle) (q : BitVec 16) : Option Command :=
  s.cmds.find? (fun c => c.handle = h && c.seq = q && c.accz.isNone)
/-- Change of a command. -/
def modCmd (s : State) (h : Handle) (q : BitVec 16) (f : Command → Command) : State :=
  { s with cmds := s.cmds.map (fun c => if c.handle = h && c.seq = q && c.accz.isNone then f c else c) }
/-- The command is gone. -/
def dropCmd (s : State) (h : Handle) (q : BitVec 16) : State :=
  { s with cmds := s.cmds.filter (fun c => !(c.handle = h && c.seq = q && c.accz.isNone)) }
/-- Its range locks are removed (R218). -/
def unlock (s : State) (h : Handle) (q : BitVec 16) : State :=
  { s with locks := s.locks.filter (fun l => l.owner ≠ .cmd h q) }

/-! ### The queues of a matrix unit (R236) -/

/-- The entries of a core's E0 queue, in order; MRESUME and MCANCEL have an entry of their own. -/
def matrixQueue (s : State) (core : BitVec 11) : List Command :=
  s.cmds.filter (fun c => c.core = core && c.port = .e0 && c.net.isNone && c.fin.isNone &&
    (c.accz.isSome || (c.kind ≠ 4 && c.kind ≠ 5)))

/-- The action of the entry at the head of a core's queue. -/
def headAction (core : BitVec 11) (c : Command) : Event :=
  if c.accz.isSome then .acczAtHead core
  else if c.kind = 1 then .mma core
  else if c.kind = 2 then .drain core
  else .mzero core

/-- The entry that has come to the head of a core's queue is to be acted on. -/
def nextHead (s : State) (core : BitVec 11) : State :=
  match matrixQueue s core with
  | [] => s
  | c :: _ => if s.pending.contains (headAction core c) then s else pend s (headAction core c)

/-! ### Ends -/

/-- A command ends with a status and a result; its completion landing is due (R82, R172), and a matrix queue goes on
(R236). -/
def endOne (s : State) (h : Handle) (q : BitVec 16) (st : BitVec 8) (res : BitVec 32) : State :=
  let core := (findCmd s h q).bind (fun c => if c.port = .e0 && c.net.isNone then some c.core else none)
  let s := pend (modCmd s h q (fun c => { c with state := .running, fault := none, reads := none, fin := some (st, res) })) (.completionLanding h q)
  match core with
  | some k => nextHead s k
  | none => s

/-- A request tag is free again; its generation advances (R297). -/
def freeTag (s : State) (n : NetCmd) : State :=
  let k := tagKey n.dst n.cls n.tag
  { s with tagGens := sset 0 s.tagGens k (sget 0 s.tagGens k + 1) }

/-- The landing of a command is given up without a refusal to its sender. -/
def dropLanding (s : State) (h : Handle) (q : BitVec 16) : State :=
  match s.copies.find? (fun l => l.o.by' = h && l.o.seq = cmdSeq q) with
  | some l => modCmd (dropCopy s l) h q (fun c => { c with acks := c.acks - 1 })
  | none => s

/-- The commands that carry the ordering bit behind an abandoned one on its connection (R301, R306). -/
def brokenBy (s : State) (n : NetCmd) : List Command :=
  s.cmds.filter (fun c => c.fin.isNone && c.accz.isNone &&
    (match c.net with
     | some m => m.dst = n.dst && m.cls = n.cls && m.mode = n.mode && (m.ob || m.mode = .rod) && csnBefore n.csn m.csn
     | none => false))

/-- A network command ends behind an abandoned packet, with `ST` 9: the landing of an NSEND.L goes nowhere (R301). One with packets that
are sent and not answered ends so once they are (R300). -/
def breakCmd (s : State) (c : Command) : State :=
  match c.net with
  | some m =>
    if c.state ≠ .parked && m.got.length < m.sent then
      modCmd s c.handle c.seq (fun c => { c with net := c.net.map (fun m => { m with status := if m.status = 0 then 9 else m.status }) })
    else freeTag (endOne (if m.land then dropLanding s c.handle c.seq else s) c.handle c.seq 9 (BitVec.ofNat 32 c.count)) m
  | none => s

/-- The replies to a network command that its engine has kept go with it (R306). -/
def dropReplies (s : State) (h : Handle) (q : BitVec 16) : State :=
  { s with pending := s.pending.filter (fun e => match e with
      | .netReadReply p => !(p.by' = h && p.seq = q)
      | _ => true) }

/-- A command ends. A network command gives its tag back; one that has abandoned a packet breaks the order that later
flagged ones stand in, and they end with `ST` 9 (R297, R301). -/
def endCmd (s : State) (h : Handle) (q : BitVec 16) (st : BitVec 8) (res : BitVec 32) : State :=
  let s1 := endOne s h q st res
  match (findCmd s h q).bind (·.net) with
  | none => s1
  | some n =>
    let s2 := freeTag s1 n
    if st = 0 then s2
    else (brokenBy s2 n).foldl breakCmd (abandon (dropReplies s2 h q) n.dst n.cls n.mode n.csn)

/-- The result of a command that ends before its end: bytes written or K-steps performed (R214, R245). -/
def countOf (c : Command) : BitVec 32 := BitVec.ofNat 32 c.count

/-- A thread's ring changes: of a saved thread also in its image (R103, R200). -/
def modRing (s : State) (h : Handle) (f : Thread → Thread) : State := writeImage (modThread s h f) h

/-- A parked command is cancelled: a fault not delivered is withdrawn, and it completes with `ST` 1; its locks are removed once
the writes that it has sent are performed, just before its completion landing (R200, R216, R243, R306). -/
def cancelCmd (s : State) (c : Command) : State :=
  let s := modRing s c.handle (fun t => ringMod t c.seq (fun e => { e with state := 1, status := 0, vec := 0 }))
  endCmd s c.handle c.seq 1 (countOf c)

/-- A parked command of the thread goes on from its iteration vector (R215, R243, R306); a matrix command is checked again at the
head of its queue first (R244). -/
def restartCmd (s : State) (c : Command) : State :=
  let s := modRing s c.handle (fun t => ringMod t c.seq (fun e => { e with state := 1, status := 0, vec := 0 }))
  modCmd s c.handle c.seq (fun d => { d with state := if c.port = .e0 && c.net.isNone then .waiting else .running, fault := none })

/-- A thread past its EXIT, or gone. -/
def gone (s : State) (h : Handle) : Bool :=
  match findThread s h with
  | none => true
  | some t =>
    match t.status with
    | .exiting _ => true
    | _ => false

/-- An engine finds a fault: the command is parked at its iteration vector and the thread's ring entry says so
(R200). A command whose thread has exited cannot be restarted and is cancelled. -/
def parkCmd (s : State) (h : Handle) (q : BitVec 16) (cause : Cause) (sub : BitVec 8) (val : Word) : State :=
  match findCmd s h q with
  | none => s
  | some c =>
    if gone s h then cancelCmd s c
    else
      let s := modCmd s h q (fun c => { c with state := .parked, fault := some (causeCode cause, sub, val) })
      modRing s h (fun t => ringMod t q (fun e => { e with state := 2, status := sub, vec := c.vec }))

/-- A command of the thread that is parked (R215, R243, R307). -/
def parkedCmd (s : State) (h : Handle) (q : BitVec 16) : Option Command :=
  (findCmd s h q).bind (fun c => if c.state = .parked then some c else none)

/-- Every parked command of a thread is cancelled (R119, R200). -/
def cancelParked (s : State) (h : Handle) : State :=
  (s.cmds.filter (fun c => c.handle = h && c.state = .parked)).foldl cancelCmd s

/-- A completion word (R172). -/
def completionWord (q : BitVec 16) (st : BitVec 8) (port : BitVec 2) (res : BitVec 32) : Word :=
  (res ++ (0#6 ++ port) ++ st ++ q).cast (by decide)

/-- The oldest completion word of a port, in completion order (R172). -/
def firstWord (t : Thread) (p : Port) : Option RingEntry :=
  let l := (t.ring.map (·.2)).filter (fun e => e.state = 4 && e.port = portNum p)
  l.foldl (fun b e =>
    match b with
    | none => some e
    | some o => if (t.cord - o.cord).toNat < (t.cord - e.cord).toNat then some e else b) none

/-- POP takes a word: to the register, its ring entry free (R172). -/
def takeWord (t : Thread) (d : BitVec 6) (e : RingEntry) : Thread :=
  ringSet (wrS t d (completionWord e.seq e.status e.port (bits e.vec 0 32))) e.seq RingEntry.free

/-- A thread that sleeps in POP and finds a word takes it (R172). -/
def wakePop (t : Thread) : Thread :=
  match t.status with
  | .sleeping (.pop p d) =>
    match firstWord t p with
    | some e => { takeWord t d e with status := .ready }
    | none => t
  | _ => t

/-- A command completes at its thread's ring: with `Q` a word is queued, else the entry is free (R200). -/
def ringComplete (t : Thread) (q : BitVec 16) (st : BitVec 8) (res : BitVec 32) : Thread :=
  let e := ringAt t q
  if e.state = 0 || e.seq ≠ q then t
  else if e.q then
    wakePop { ringSet t q { e with state := 4, status := st, cord := t.cord, vec := res.zeroExtend 64 } with cord := t.cord + 1 }
  else ringSet t q RingEntry.free

/-- The earlier events that a command waits for have been performed: those of ISSUE without the engine commands before it, of a
network command with them (R74, R82, R85). -/
def cmdFree (s : State) (c : Command) : Bool :=
  let now := outstanding s { by' := c.handle, dev := s.dev, core := c.core, seq := 0, world := c.world, agent := .core c.core, n := c.n }
    (if c.net.isSome then 0xF else 7)
  !c.waits.any (fun n => now.contains n)

/-- Entries of a port's issue queue of a core that are taken (R170, R210, R236). -/
def queueUsed (s : State) (core : BitVec 11) (p : Port) : Nat :=
  (s.cmds.filter (fun c => c.core = core && c.port = p && c.net.isNone && c.fin.isNone &&
    (match p with
     | .e0 => c.accz.isSome || (c.kind ≠ 4 && c.kind ≠ 5)
     | _ => decide (c.state = .queued)))).length

/-- Completion entries of a port of a core that are spoken for (R170, R171). -/
def wordsUsed (s : State) (core : BitVec 11) (p : Port) : Nat :=
  ((allThreads s).filter (fun t => inSlot t && t.core = core)).foldl
    (fun n t => n + (t.ring.filter (fun e => e.2.q && e.2.port = portNum p && e.2.state ≠ 0)).length) 0

/-- Iteration vector of counters, the innermost first (R200). -/
def vecOf : List Nat → Nat
  | [] => 0
  | c :: r => c % 4096 + 4096 * vecOf r

/-- Counter i of an iteration vector. -/
def counterOf (v : BitVec 64) (i : Nat) : Nat := v.toNat / 4096 ^ i % 4096

/-- The next point of a loop nest with counts (iterations minus 1), the innermost first; none after the last. -/
def nextPoint : List Nat → List Nat → Option (List Nat)
  | [], _ => none
  | _, [] => none
  | c :: cs, n :: ns =>
    if c < n then some ((c + 1) :: cs)
    else (nextPoint cs ns).map (fun r => 0 :: r)

/-- Signed value of a bit field. -/
def sfield (x : Word) (lo w : Nat) : Int := (x.extractLsb' lo w).toInt

end Sys2Proof.Machine
end

