-- ==== Sys2Proof/Machine/Numbers.lean ====
section
/-! DEFINITION. Number formats, exact values, rounding and conversion (04_numbers R45 to R67, R140 to
R142). Values are exact dyadic numbers; each operation forms its result exactly and rounds once. -/

namespace Sys2Proof.Machine

open Sys2Proof

/-! ### Formats -/

/-- The element formats (R45). -/
inductive Fmt
  | int32 | fp32 | bf16 | fp16 | e4m3 | e5m2 | int8 | e3m2 | e2m3 | e2m1 | cb4 | uint8 | e8m0
deriving DecidableEq, Repr, Inhabited

/-- The classes of R45. -/
inductive FmtClass | int | float | code | scale
deriving DecidableEq, Repr, Inhabited

/-- The format of a code; none for a reserved code (R45). -/
def fmtOf (c : BitVec 8) : Option Fmt :=
  match c.toNat with
  | 0x00 => some .int32 | 0x01 => some .fp32 | 0x02 => some .bf16 | 0x03 => some .fp16 | 0x05 => some .e4m3
  | 0x06 => some .e5m2 | 0x07 => some .int8 | 0x08 => some .e3m2 | 0x09 => some .e2m3 | 0x0A => some .e2m1
  | 0x0B => some .cb4 | 0x0C => some .uint8 | 0x0D => some .e8m0
  | _ => none

/-- Class of a format (R45). -/
def fmtClass : Fmt → FmtClass
  | .int32 => .int | .int8 => .int | .uint8 => .int | .cb4 => .code | .e8m0 => .scale
  | .fp32 => .float | .bf16 => .float | .fp16 => .float | .e4m3 => .float | .e5m2 => .float
  | .e3m2 => .float | .e2m3 => .float | .e2m1 => .float

/-- Container width in bits (R45). -/
def fmtWidth : Fmt → Nat
  | .int32 => 32 | .fp32 => 32 | .bf16 => 16 | .fp16 => 16 | .e2m1 => 4 | .cb4 => 4
  | .e4m3 => 8 | .e5m2 => 8 | .int8 => 8 | .e3m2 => 8 | .e2m3 => 8 | .uint8 => 8 | .e8m0 => 8

/-- Bits of the container that an element uses: 6 for the 6-bit formats (R46). -/
def fmtUsed : Fmt → Nat
  | .e3m2 => 6
  | .e2m3 => 6
  | f => fmtWidth f

/-- Parameters of a float format (R47): exponent and mantissa bits, bias, infinity and NaN, and the
exponent and mantissa fields of the largest finite value. -/
structure FloatParams where
  eb : Nat
  mb : Nat
  bias : Nat
  hasInf : Bool
  hasNan : Bool
  topE : Nat
  topM : Nat
deriving DecidableEq, Repr, Inhabited

/-- R47. The formats that are no floats read as FP32; no rule asks for their parameters. -/
def floatParams : Fmt → FloatParams
  | .bf16 => { eb := 8, mb := 7, bias := 127, hasInf := true, hasNan := true, topE := 254, topM := 127 }
  | .fp16 => { eb := 5, mb := 10, bias := 15, hasInf := true, hasNan := true, topE := 30, topM := 1023 }
  | .e5m2 => { eb := 5, mb := 2, bias := 15, hasInf := true, hasNan := true, topE := 30, topM := 3 }
  | .e4m3 => { eb := 4, mb := 3, bias := 7, hasInf := false, hasNan := true, topE := 15, topM := 6 }
  | .e3m2 => { eb := 3, mb := 2, bias := 3, hasInf := false, hasNan := false, topE := 7, topM := 3 }
  | .e2m3 => { eb := 2, mb := 3, bias := 1, hasInf := false, hasNan := false, topE := 3, topM := 7 }
  | .e2m1 => { eb := 2, mb := 1, bias := 1, hasInf := false, hasNan := false, topE := 3, topM := 1 }
  | _ => { eb := 8, mb := 23, bias := 127, hasInf := true, hasNan := true, topE := 254, topM := 0x7FFFFF }

/-- Canonical NaN (R49). -/
def canonNan : Fmt → Nat
  | .bf16 => 0x7FC0
  | .fp16 => 0x7E00
  | .e5m2 => 0x7E
  | .e4m3 => 0x7F
  | .e8m0 => 0xFF
  | _ => 0x7FC00000

/-- Range of an integer format (R53). -/
def intRange : Fmt → Int × Int
  | .int8 => (-128, 127)
  | .uint8 => (0, 255)
  | _ => (-2147483648, 2147483647)

/-! ### Exact values and flags -/

/-- An exact value: a NaN (signalling or quiet), an infinity or a zero with its sign, or m · 2^e with m
not 0. -/
inductive Exact
  | nan (signalling : Bool)
  | inf (neg : Bool)
  | zero (neg : Bool)
  | fin (m : Int) (e : Int)
deriving DecidableEq, Repr, Inhabited

/-- The five flags of R56. -/
structure Flags where
  nv : Bool
  dz : Bool
  of' : Bool
  uf : Bool
  nx : Bool
deriving DecidableEq, Repr, Inhabited

/-- No flag. -/
def noFlags : Flags := { nv := false, dz := false, of' := false, uf := false, nx := false }

/-- The flags that either raises. -/
def orFlags (a b : Flags) : Flags :=
  { nv := a.nv || b.nv, dz := a.dz || b.dz, of' := a.of' || b.of', uf := a.uf || b.uf, nx := a.nx || b.nx }

/-- m · 2^e with the zero of m taken as +0. -/
def numOf (m : Int) (e : Int) : Exact := if m = 0 then .zero false else .fin m e

/-- The sign: true for less than zero or −0. -/
def numNeg : Exact → Bool
  | .nan _ => false
  | .inf n => n
  | .zero n => n
  | .fin m _ => m < 0

/-- Is it a NaN? -/
def numIsNan : Exact → Bool
  | .nan _ => true
  | _ => false

/-- Is it a signalling NaN? -/
def numIsSig : Exact → Bool
  | .nan s => s
  | _ => false

/-- The value of an exponent and mantissa field (R48). -/
def decodeFloat (f : Fmt) (x : Nat) : Exact :=
  let p := floatParams f
  let m := x % 2 ^ p.mb
  let e := x / 2 ^ p.mb % 2 ^ p.eb
  let s : Bool := x / 2 ^ (p.mb + p.eb) % 2 = 1
  if p.hasInf && e = 2 ^ p.eb - 1 then
    if m = 0 then .inf s else .nan (m < 2 ^ (p.mb - 1))
  else if p.hasNan && !p.hasInf && e = 2 ^ p.eb - 1 && m = 2 ^ p.mb - 1 then .nan false
  else if e = 0 && m = 0 then .zero s
  else
    let k : Nat := if e = 0 then m else 2 ^ p.mb + m
    let e' : Int := (if e = 0 then 1 else (e : Int)) - p.bias - p.mb
    .fin (if s then -(k : Int) else k) e'

/-- The value of an element's encoding (R48, R51 to R53); `cb` is the codebook that a code reads. -/
def decodeElem (f : Fmt) (cb : BitVec 256) (x : Nat) : Exact :=
  match f with
  | .int32 => numOf (BitVec.ofNat 32 x).toInt 0
  | .int8 => numOf (BitVec.ofNat 8 x).toInt 0
  | .uint8 => numOf (x % 256) 0
  | .e8m0 => if x % 256 = 255 then .nan false else .fin 1 ((x % 256 : Nat) - 127)
  | .cb4 => decodeFloat .bf16 (cb.toNat / 2 ^ (16 * (x % 16)) % 2 ^ 16)
  | f => decodeFloat f x

/-- The integer value of an integer element. -/
def intElem (f : Fmt) (x : Nat) : Int :=
  match f with
  | .int8 => (BitVec.ofNat 8 x).toInt
  | .uint8 => (x % 256 : Nat)
  | _ => (BitVec.ofNat 32 x).toInt

/-- The low w bits of an integer result (R53). -/
def wrapInt (f : Fmt) (x : Int) : Nat := (x % (2 ^ fmtWidth f : Nat)).toNat

/-! ### Rounding (R54, R55) -/

/-- |m| · 2^e on the grid 2^q: the multiple, and whether it is exact. `odd` bits below the grid decide by
the mode (R54). -/
def gridRound (mode : Rnd) (neg : Bool) (m : Nat) (e q : Int) : Nat × Bool :=
  if q ≤ e then (m * 2 ^ (e - q).toNat, true)
  else
    let k := (q - e).toNat
    -- far below half of the spacing, only "inexact" is left
    let lost := Nat.log2 m + 2 < k
    let lo := if lost then 0 else m / 2 ^ k
    let r := if lost then 1 else m % 2 ^ k
    let half := if lost then 4 else 2 ^ (k - 1)
    if r = 0 then (lo, true)
    else
      let up : Bool :=
        match mode with
        | .rne => half < r || (r = half && lo % 2 = 1)
        | .rtz => false
        | .rup => !neg
        | .rdn => neg
        | .rto => lo % 2 = 0
      (if up then lo + 1 else lo, false)

/-- Bits of a float with the sign. -/
def withSign (p : FloatParams) (neg : Bool) (x : Nat) : Nat := if neg then x + 2 ^ (p.mb + p.eb) else x

/-- Exponent and mantissa fields of n · 2^q, which lies on the grid of the format. -/
def encodeOnGrid (p : FloatParams) (n : Nat) (q : Int) : Nat × Nat :=
  let emin : Int := 1 - p.bias
  let l : Int := Nat.log2 n + q
  if l < emin then (0, n * 2 ^ (q - (emin - p.mb)).toNat)
  else
    let s : Int := l - p.mb - q
    let x := if s ≤ 0 then n * 2 ^ (-s).toNat else n / 2 ^ s.toNat
    ((l + p.bias).toNat, x - 2 ^ p.mb)

/-- `Round(x, fmt, mode, sat)` (R55): the encoding and the flags. -/
def roundTo (f : Fmt) (mode : Rnd) (sat : Bool) (x : Exact) : Nat × Flags :=
  let p := floatParams f
  let big : Nat := p.topE * 2 ^ p.mb + p.topM
  match x with
  | .nan _ => if p.hasNan then (canonNan f, noFlags) else (0, { noFlags with nv := true })
  | .inf s =>
    if p.hasInf && !sat then (withSign p s ((2 ^ p.eb - 1) * 2 ^ p.mb), noFlags)
    else (withSign p s big, { noFlags with of' := true })
  | .zero s => (withSign p s 0, noFlags)
  | .fin m e =>
    let s : Bool := m < 0
    let a := m.natAbs
    let emin : Int := 1 - p.bias
    let l : Int := Nat.log2 a + e
    let q : Int := if emin ≤ l then l - p.mb else emin - p.mb
    let (n, exact) := gridRound mode s a e q
    if n = 0 then (withSign p s 0, { noFlags with nx := !exact })
    else
      let (ef, mf) := encodeOnGrid p n q
      let uf := !exact && ef = 0
      if p.topE < ef || (ef = p.topE && p.topM < mf) then
        let fl : Flags := { noFlags with of' := true, nx := !exact }
        if p.hasInf && !sat && (mode = .rne || (mode = .rup && !s) || (mode = .rdn && s)) then
          (withSign p s ((2 ^ p.eb - 1) * 2 ^ p.mb), fl)
        else (withSign p s big, fl)
      else (withSign p s (ef * 2 ^ p.mb + mf), { noFlags with nx := !exact, uf := uf })

/-- Rounding to FP32 with RNE, and the value of the result. -/
def round32 (x : Exact) : Exact := decodeFloat .fp32 (roundTo .fp32 .rne false x).1

/-! ### Exact arithmetic -/

/-- Negation. -/
def numNegate : Exact → Exact
  | .nan s => .nan s
  | .inf n => .inf !n
  | .zero n => .zero !n
  | .fin m e => .fin (-m) e

/-- The sum of two dyadic numbers that are not zero; an exact zero is +0 (R59). -/
def addFin (m : Int) (e : Int) (m' : Int) (e' : Int) : Exact :=
  if e ≤ e' then numOf (m + m' * 2 ^ (e' - e).toNat) e else numOf (m * 2 ^ (e - e').toNat + m') e'

/-- The exact sum and whether it is invalid: a signalling NaN, or infinities of both signs (R56). A zero
sum is −0 only where both terms are −0 (R59). -/
def numAdd (a b : Exact) : Exact × Bool :=
  match a, b with
  | .nan s, .nan t => (.nan false, s || t)
  | .nan s, _ => (.nan false, s)
  | _, .nan t => (.nan false, t)
  | .inf s, .inf t => if s = t then (.inf s, false) else (.nan false, true)
  | .inf s, _ => (.inf s, false)
  | _, .inf t => (.inf t, false)
  | .zero s, .zero t => (.zero (s && t), false)
  | .zero _, x => (x, false)
  | x, .zero _ => (x, false)
  | .fin m e, .fin m' e' => (addFin m e m' e', false)

/-- The exact product and whether it is invalid: a signalling NaN, or 0 × ∞ (R56). -/
def numMul (a b : Exact) : Exact × Bool :=
  let s := numNeg a != numNeg b
  match a, b with
  | .nan s, .nan t => (.nan false, s || t)
  | .nan s, _ => (.nan false, s)
  | _, .nan t => (.nan false, t)
  | .inf _, .zero _ => (.nan false, true)
  | .zero _, .inf _ => (.nan false, true)
  | .inf _, _ => (.inf s, false)
  | _, .inf _ => (.inf s, false)
  | .zero _, _ => (.zero s, false)
  | _, .zero _ => (.zero s, false)
  | .fin m e, .fin m' e' => (.fin (m * m') (e + e'), false)

/-- a · b + d, exact; invalid where the product or the sum is (R56, R136). -/
def numFma (a b d : Exact) : Exact × Bool :=
  let (p, i) := numMul a b
  let (r, j) := numAdd p d
  (r, i || j || numIsSig d)

/-- The ordering of two values that are no NaNs: −1, 0 or 1. Zeros of both signs are equal. -/
def numCmp (a b : Exact) : Int :=
  match a, b with
  | .inf s, .inf t => if s = t then 0 else if s then -1 else 1
  | .inf s, _ => if s then -1 else 1
  | _, .inf t => if t then 1 else -1
  | .fin m e, .fin m' e' =>
    let d := if e ≤ e' then m - m' * 2 ^ (e' - e).toNat else m * 2 ^ (e - e').toNat - m'
    if d < 0 then -1 else if d = 0 then 0 else 1
  | .fin m _, _ => if m < 0 then -1 else 1
  | _, .fin m _ => if m < 0 then 1 else -1
  | _, _ => 0

/-- `VMIN` (`big` false) and `VMAX` of R137: −0 below +0, a NaN gives way, a signalling one is invalid. -/
def numPick (big : Bool) (a b : Exact) : Exact × Bool :=
  let sig := numIsSig a || numIsSig b
  match a, b with
  | .nan _, .nan _ => (.nan false, sig)
  | .nan _, x => (x, sig)
  | x, .nan _ => (x, sig)
  | .zero s, .zero t => (.zero (if big then s && t else s || t), false)
  | a, b => (if (if big then 0 ≤ numCmp a b else numCmp a b ≤ 0) then a else b, false)

/-- A quotient of two positive numbers, truncated far below any grid, its last bit set where something
is lost: it rounds as the exact quotient does. -/
def stickyDiv (m : Nat) (e : Int) (m' : Nat) (e' : Int) : Int × Int :=
  let k := Nat.log2 m' + 64
  let q := m * 2 ^ k / m'
  let r := m * 2 ^ k % m'
  (((2 * q + (if r = 0 then 0 else 1) : Nat) : Int), e - e' - k - 1)

/-- The integer square root, bit by bit from bit `n` downward. -/
def isqrtFrom (x : Nat) : Nat → Nat → Nat
  | 0, acc => acc
  | n + 1, acc => isqrtFrom x n (if (acc + 2 ^ n) * (acc + 2 ^ n) ≤ x then acc + 2 ^ n else acc)

/-- The integer square root of x below 2^256. -/
def isqrt (x : Nat) : Nat := isqrtFrom x 128 0

/-- The square root of m · 2^e with m positive, with a sticky last bit as in `stickyDiv`. -/
def stickySqrt (m : Nat) (e : Int) : Int × Int :=
  -- an even exponent, and at least 64 bits of root
  let k : Nat := if e % 2 = 0 then 128 else 129
  let x := m * 2 ^ k
  let r := isqrt x
  (((2 * r + (if r * r = x then 0 else 1) : Nat) : Int), (e - k) / 2 - 1)

/-- 1/a with the flags NV, DZ (R140). -/
def numRecip (a : Exact) : Exact × Flags :=
  match a with
  | .nan s => (.nan false, { noFlags with nv := s })
  | .zero s => (.inf s, { noFlags with dz := true })
  | .inf s => (.zero s, noFlags)
  | .fin m e =>
    let (q, e') := stickyDiv 1 0 m.natAbs e
    (.fin (if m < 0 then -q else q) e', noFlags)

/-- √a (R140). -/
def numSqrt (a : Exact) : Exact × Flags :=
  match a with
  | .nan s => (.nan false, { noFlags with nv := s })
  | .zero s => (.zero s, noFlags)
  | .inf s => if s then (.nan false, { noFlags with nv := true }) else (.inf false, noFlags)
  | .fin m e =>
    if m < 0 then (.nan false, { noFlags with nv := true })
    else
      let (r, e') := stickySqrt m.natAbs e
      (.fin r e', noFlags)

/-- 1/√a (R140): the root of the reciprocal, both with sticky bits far below the grid. -/
def numRsqrt (a : Exact) : Exact × Flags :=
  match a with
  | .nan s => (.nan false, { noFlags with nv := s })
  | .zero s => (.inf s, { noFlags with dz := true })
  | .inf s => if s then (.nan false, { noFlags with nv := true }) else (.zero false, noFlags)
  | .fin m e =>
    if m < 0 then (.nan false, { noFlags with nv := true })
    else
      -- 2^k / m is exact in its integer part and remainder; the root of the integer part with a sticky bit
      let n := m.natAbs
      let k : Nat := if (e + Nat.log2 n) % 2 = 0 then 128 + Nat.log2 n else 129 + Nat.log2 n
      let q := 2 ^ k / n
      let r := isqrt q
      let exact : Bool := r * r = q && 2 ^ k % n = 0
      (.fin ((2 * r + (if exact then 0 else 1) : Nat) : Int) ((-e - k) / 2 - 1), noFlags)

/-- Rounding to an integral value: the greatest integer at or below (`up` false), or the least at or
above; a zero result keeps the sign (R140). -/
def numIntegral (up : Bool) (a : Exact) : Exact × Flags :=
  match a with
  | .nan s => (.nan false, { noFlags with nv := s })
  | .fin m e =>
    if 0 ≤ e then (.fin m e, noFlags)
    else
      let (n, _) := gridRound (if up then .rup else .rdn) (m < 0) m.natAbs e 0
      if n = 0 then (.zero (m < 0), noFlags) else (.fin (if m < 0 then -(n : Int) else n) 0, noFlags)
  | x => (x, noFlags)

/-! ### Exponential and logarithm -/

/-- `EXPT[j]` = the FP32 value nearest to 2^(j/64) (R141). -/
def expTable : List Nat :=
  [0x3F800000, 0x3F8164D2, 0x3F82CD87, 0x3F843A29, 0x3F85AAC3, 0x3F871F62, 0x3F88980F, 0x3F8A14D5,
   0x3F8B95C2, 0x3F8D1ADF, 0x3F8EA43A, 0x3F9031DC, 0x3F91C3D3, 0x3F935A2B, 0x3F94F4F0, 0x3F96942D] ++
  [0x3F9837F0, 0x3F99E046, 0x3F9B8D3A, 0x3F9D3EDA, 0x3F9EF532, 0x3FA0B051, 0x3FA27043, 0x3FA43516,
   0x3FA5FED7, 0x3FA7CD94, 0x3FA9A15B, 0x3FAB7A3A, 0x3FAD583F, 0x3FAF3B79, 0x3FB123F6, 0x3FB311C4] ++
  [0x3FB504F3, 0x3FB6FD92, 0x3FB8FBAF, 0x3FBAFF5B, 0x3FBD08A4, 0x3FBF179A, 0x3FC12C4D, 0x3FC346CD,
   0x3FC5672A, 0x3FC78D75, 0x3FC9B9BE, 0x3FCBEC15, 0x3FCE248C, 0x3FD06334, 0x3FD2A81E, 0x3FD4F35B] ++
  [0x3FD744FD, 0x3FD99D16, 0x3FDBFBB8, 0x3FDE60F5, 0x3FE0CCDF, 0x3FE33F89, 0x3FE5B907, 0x3FE8396A,
   0x3FEAC0C7, 0x3FED4F30, 0x3FEFE4BA, 0x3FF28177, 0x3FF5257D, 0x3FF7D0DF, 0x3FFA83B3, 0x3FFD3E0C]

/-- `RECIP[j]` (R142). -/
def recipTable : List Nat :=
  [0x3F800000, 0x3F7A232D, 0x3F76603E, 0x3F72B9D6, 0x3F6F2EB7, 0x3F6BBDB3, 0x3F6865AC, 0x3F652598,
   0x3F61FC78, 0x3F5EE95C, 0x3F5BEB62, 0x3F5901B2, 0x3F562B81, 0x3F53680D, 0x3F50B6A0, 0x3F4E168A] ++
  [0x3F4B8728, 0x3F4907DA, 0x3F46980C, 0x3F443730, 0x3F41E4BC, 0x3F3FA030, 0x3F3D6910, 0x3F3B3EE7,
   0x3F392144, 0x3F370FBB, 0x3F3509E7, 0x3F330F63, 0x3F311FD4, 0x3F2F3ADE, 0x3F2D602B, 0x3F2B8F6A] ++
  [0x3F29C84A, 0x3F280A81, 0x3F2655C4, 0x3F24A9CF, 0x3F23065E, 0x3F216B31, 0x3F1FD80A, 0x3F1E4CAD,
   0x3F1CC8E1, 0x3F1B4C70, 0x3F19D723, 0x3F1868C8, 0x3F17012E, 0x3F15A025, 0x3F144581, 0x3F12F114] ++
  [0x3F11A2B4, 0x3F105A38, 0x3F0F177A, 0x3F0DDA52, 0x3F0CA29C, 0x3F0B7034, 0x3F0A42F8, 0x3F091AC7,
   0x3F07F781, 0x3F06D905, 0x3F05BF37, 0x3F04A9FA, 0x3F039930, 0x3F028CC0, 0x3F01848E, 0x3F000000]

/-- `LOGT[j]`, from the stored `RECIP[j]` (R142). -/
def logTable : List Nat :=
  [0x00000000, 0x3D08E68D, 0x3D626FCC, 0x3D9D5182, 0x3DC8C50D, 0x3DF3975C, 0x3E0EE690, 0x3E23B551,
   0x3E383A17, 0x3E4C76EA, 0x3E606DB6, 0x3E74205F, 0x3E83C856, 0x3E8D602E, 0x3E96D887, 0x3EA03234] ++
  [0x3EA96DEF, 0x3EB28C80, 0x3EBB8E97, 0x3EC474E2, 0x3ECD4011, 0x3ED5F0C3, 0x3EDE8798, 0x3EE70525,
   0x3EEF69FF, 0x3EF7B6B5, 0x3EFFEBCB, 0x3F0404E8, 0x3F08089D, 0x3F0C0146, 0x3F0FEF1F, 0x3F13D260] ++
  [0x3F17AB44, 0x3F1B79FF, 0x3F1F3ECA, 0x3F22F9D5, 0x3F26AB53, 0x3F2A5375, 0x3F2DF268, 0x3F31885D,
   0x3F35157E, 0x3F3899F4, 0x3F3C15EE, 0x3F3F8991, 0x3F42F506, 0x3F465873, 0x3F49B3FA, 0x3F4D07C5] ++
  [0x3F5053F6, 0x3F5398AF, 0x3F56D60F, 0x3F5A0C3A, 0x3F5D3B4E, 0x3F60636B, 0x3F6384AF, 0x3F669F36,
   0x3F69B31C, 0x3F6CC084, 0x3F6FC782, 0x3F72C831, 0x3F75C2B1, 0x3F78B713, 0x3F7BA577, 0x3F800000]

/-- An FP32 constant of R141 or R142 by its encoding. -/
def const32 (x : Nat) : Exact := decodeFloat .fp32 x

/-- One fused step of R141 and R142: a · b + c rounded to FP32. -/
def fmaStep (a b c : Exact) : Exact := round32 (numFma a b c).1

/-- `VEXP2` before the final rounding (R141). -/
def numExp2 (x : Exact) : Exact × Flags :=
  match x with
  | .nan s => (.nan false, { noFlags with nv := s })
  | .inf s => (if s then .zero false else .inf false, noFlags)
  | _ =>
    -- k := RoundHalfEven(64 x)
    let k : Int :=
      match x with
      | .fin m e =>
        let (n, _) := gridRound .rne (m < 0) m.natAbs (e + 6) 0
        if m < 0 then -(n : Int) else n
      | _ => 0
    let j : Nat := (k % 64).toNat
    let e : Int := (k - j) / 64
    let f := (numAdd x (numOf (-k) (-6))).1
    let p := fmaStep (const32 0x3D635847) f (const32 0x3E75FDF0)
    let p := fmaStep p f (const32 0x3F317218)
    let p := fmaStep p f (.fin 1 0)
    let q := round32 (numMul (const32 (expTable.getD j 0)) p).1
    match q with
    | .fin m e' => (.fin m (e' + e), noFlags)
    | q => (q, noFlags)

/-- `VLOG2` before the final rounding (R142). -/
def numLog2 (x : Exact) : Exact × Flags :=
  match x with
  | .nan s => (.nan false, { noFlags with nv := s })
  | .zero _ => (.inf true, { noFlags with dz := true })
  | .inf s => if s then (.nan false, { noFlags with nv := true }) else (.inf false, noFlags)
  | .fin n e0 =>
    if n < 0 then (.nan false, { noFlags with nv := true })
    else
      let a := n.natAbs
      let l := Nat.log2 a
      let e : Int := e0 + l
      let m : Exact := .fin a (-(l : Int))
      -- j := Floor(64 (m - 1))
      let j : Nat := 64 * (a - 2 ^ l) / 2 ^ l
      let t := fmaStep m (const32 (recipTable.getD j 0)) (.fin (-1) 0)
      let q := fmaStep (const32 0xBEB8AA3B) t (const32 0x3EF6384F)
      let q := fmaStep q t (const32 0xBF38AA3B)
      let q := fmaStep q t (const32 0x3FB8AA3B)
      let q := round32 (numMul q t).1
      let s := round32 (numAdd (const32 (logTable.getD j 0)) q).1
      ((numAdd (numOf e 0) s).1, noFlags)

/-! ### Conversion (R58) -/

/-- A float value to an integer format: rounded without bound, then kept in range; what sets `FNV` sets
nothing else. -/
def toInt (f : Fmt) (mode : Rnd) (x : Exact) : Nat × Flags :=
  let (lo, hi) := intRange f
  let nv : Flags := { noFlags with nv := true }
  match x with
  | .nan _ => (0, nv)
  | .inf s => (wrapInt f (if s then lo else hi), nv)
  | .zero _ => (0, noFlags)
  | .fin m e =>
    let (n, exact) :=
      if 0 < e && 64 < e then (2 ^ 64, true) else gridRound mode (m < 0) m.natAbs e 0
    let v : Int := if m < 0 then -(n : Int) else n
    if v < lo then (wrapInt f lo, nv)
    else if hi < v then (wrapInt f hi, nv)
    else (wrapInt f v, { noFlags with nx := !exact })

/-- A value to `E8M0`: the power of two at or below its magnitude. A magnitude of 2^128 or more, which no
float of 32 bits reaches, would clamp to 0xFE. DEDUCED (log 46): a value below 2^-127 raises `FUF`, and `FNX` beside it where its
magnitude is no power of two, as zero's is not. -/
def toScale (x : Exact) : Nat × Flags :=
  match x with
  | .nan s => (0xFF, { noFlags with nv := s })
  | .inf _ => (0xFF, { noFlags with nv := true })
  | .zero _ => (0, { noFlags with uf := true, nx := true })
  | .fin m e =>
    let a := m.natAbs
    let l : Int := Nat.log2 a + e
    let nx : Bool := a ≠ 2 ^ Nat.log2 a
    if l < -127 then (0, { noFlags with uf := true, nx := nx })
    else (min (l + 127).toNat 0xFE, { noFlags with nx := nx })

/-- `Convert(x, src, dst, rnd, sat)` of an element's value; `FORMAT` cases are the caller's (R58). A signalling
NaN source is an invalid operation (R56). -/
def convertNum (src dst : Fmt) (mode : Rnd) (sat : Bool) (x : Exact) : Nat × Flags :=
  match fmtClass src, fmtClass dst with
  | .int, .int =>
    let v : Int := match x with
      | .fin m _ => m
      | _ => 0
    let (lo, hi) := intRange dst
    (wrapInt dst (if sat then (if v < lo then lo else if hi < v then hi else v) else v), noFlags)
  | _, .int => toInt dst mode x
  | _, .scale => toScale x
  | _, _ =>
    let (b, fl) := roundTo dst mode sat x
    (b, orFlags fl { noFlags with nv := numIsSig x })

end Sys2Proof.Machine
end

