-- ==== Sys2Proof/Machine/Memory.lean ====
section
/-! DEFINITION. Loads, stores, vector accesses, landing instructions, atomics, the fence, and the requests
at their homes (R156 to R168, R246). -/

namespace Sys2Proof.Machine

open Sys2Proof

/-- Bytes of an access width. -/
def widthBytes : Width → Nat
  | .b => 1
  | .h => 2
  | .w => 4
  | .d => 8

/-- What a memory instruction asks for: `rw` the sets of R76 that its events belong to. -/
def memPlan (s : State) (specs : List (BitVec 8)) (needs : List Reg) (rw : BitVec 4) (bad : Option Bad) (next : State) : Plan :=
  { specs := specs, needs := needs, bad := bad, next := next
    hold := requestsFull s s.th || fenced s s.th rw }

/-- A counted request: a number is taken and the pages use the TLBs (R159, R341). -/
def beginRequest (s : State) (cs : List Chunk) : State × Origin :=
  newOrigin (countRequest (useTlbs s s.th cs) s.th) s.th

/-! ### Loads and stores (R160) -/

/-- A scalar load (R160). -/
def loadScalar (d a : BitVec 6) (wd : Width) (off : Word) (signed acq : Bool) (s : State) : Out :=
  let t := s.th
  let va := (rdS t a + off).toNat
  let n := widthBytes wd
  let cs := chunks .r va n 0
  let (s1, o) := beginRequest s cs
  let r : ReadReq := { o := o, pieces := piecesOf s t cs, got := List.replicate n 0, reply := .scalar d signed, acq := acq }
  conclude .c (memPlan s [] [.s d, .s a] 1 (accessBad s t [(va, n)] cs)
    (pend (setTh s1 (advance (setCount t (.s d) 1))) (.readRequest r))) s

/-- A scalar store (R160). -/
def storeScalar (d a : BitVec 6) (wd : Width) (off : Word) (rel : Bool) (s : State) : Out :=
  let t := s.th
  let va := (rdS t a + off).toNat
  let n := widthBytes wd
  let cs := chunks .w va n 0
  let (s1, o) := beginRequest s cs
  let r : WriteReq := { o := o, pieces := piecesOf s t cs, data := leBytes n (rdS t d).toNat, rel := rel }
  conclude .c (memPlan s [] [.s d, .s a] 2 (accessBad s t [(va, n)] cs) (pend (setTh s1 (advance t)) (.writeRequest r))) s

/-- LD (R160). -/
def execLd (d a : BitVec 6) (wd : Width) (i : BitVec 11) (s : State) : Out := loadScalar d a wd (sext64 i) true false s
/-- LDU (R160). -/
def execLdu (d a : BitVec 6) (wd : Width) (i : BitVec 11) (s : State) : Out := loadScalar d a wd (sext64 i) false false s
/-- ST (R160). -/
def execSt (d a : BitVec 6) (wd : Width) (i : BitVec 11) (s : State) : Out := storeScalar d a wd (sext64 i) false s
/-- LD.AQ (R160): an acquire. -/
def execLdAq (d a : BitVec 6) (wd : Width) (s : State) : Out := loadScalar d a wd 0 true true s
/-- LDU.AQ (R160): an acquire. -/
def execLduAq (d a : BitVec 6) (wd : Width) (s : State) : Out := loadScalar d a wd 0 false true s
/-- ST.RL (R160): a release. -/
def execStRl (d a : BitVec 6) (wd : Width) (s : State) : Out := storeScalar d a wd 0 true s

/-! ### Landing addresses of instructions (R157, R158, R166) -/

/-- Alignment that a memory-space landing of n bytes needs (R157). -/
def laAlign (la : Word) (n : Nat) : List (Nat × Nat) := if laSpace la = 0 then [(laVa la, min n 8)] else []
/-- The parts of a memory-space landing, checked as a write. -/
def laChunks (la : Word) (n : Nat) : List Chunk := if laSpace la = 0 then chunks .w (laVa la) n 0 else []
/-- BAD_LA: malformed, past its end, conditional where the space is no register, or at a device that takes no landings
(R10, R157, R166, R294). -/
def laBad (s : State) (la : Word) (n : Nat) (lamk cond : Bool) : Option Bad :=
  if laMalformed la || laCrosses la n lamk || (cond && laSpace la ≠ 1) || laUnreachable s la then some (.trap .badLa la) else none

/-- Payload of LDL: the bytes read, shaped by the target (R161). -/
def ldlPayload (la : Word) (b : List Byte) : List Byte :=
  if laSpace la = 1 then
    if laClass la = 1 then (if b.length = 8 then b else leBytes 4 (ofLe b)) else leBytes 8 (ofLe b)
  else b

/-- LDL (R161): a read, and a landing of its value. -/
def landLoad (l a : BitVec 6) (wd : Width) (off : Word) (rel : Bool) (s : State) : Out :=
  let t := s.th
  let la := rdS t l
  let va := (rdS t a + off).toNat
  let n := widthBytes wd
  let src := chunks .r va n 0
  let dst := laChunks la n
  let (s1, o) := beginRequest s (src ++ dst)
  let r : ReadReq :=
    { o := o, pieces := piecesOf s t src, got := List.replicate n 0, reply := .land la rel (piecesOf s t dst), acq := false }
  let bad := match accessBad s t ((va, n) :: laAlign la n) (src ++ dst) with
    | some b => some b
    | none => laBad s la (ldlPayload la (List.replicate n 0)).length false false
  conclude .c (memPlan s [] [.s l, .s a] 5 bad (pend (setTh s1 (advance t)) (.readRequest r))) s

/-- LDL (R161). -/
def execLdl (l a : BitVec 6) (wd : Width) (i : BitVec 11) (s : State) : Out := landLoad l a wd (sext64 i) false s
/-- LDL.RL (R161): a release, before its read. -/
def execLdlRl (l a : BitVec 6) (wd : Width) (s : State) : Out := landLoad l a wd 0 true s

/-! ### Vector accesses (R162 to R164) -/

/-- Address of VLD and VST. -/
def vectorAddr (t : Thread) (a : BitVec 6) (i : BitVec 8) : Nat := (rdS t a + sext64 i * 256).toNat

/-- VLD (R162). -/
def execVld (v : BitVec 8) (a : BitVec 6) (q : Bool) (i : BitVec 8) (s : State) : Out :=
  let t := s.th
  let va := vectorAddr t a i
  let cs := chunks .r va 256 0
  let d := spec t v
  let (s1, o) := beginRequest s cs
  let r : ReadReq :=
    { o := o, pieces := piecesOf s t cs, got := List.replicate 256 0, reply := .lanes d (BitVec.allOnes 64), acq := q }
  conclude .c (memPlan s [v] [.v d, .s a] 1 (accessBad s t [(va, 4)] cs)
    (pend (setTh s1 (advance (setCount t (.v d) 1))) (.readRequest r))) s

/-- VST (R162). -/
def execVst (v : BitVec 8) (a : BitVec 6) (r : Bool) (i : BitVec 8) (s : State) : Out :=
  let t := s.th
  let va := vectorAddr t a i
  let cs := chunks .w va 256 0
  let (s1, o) := beginRequest s cs
  let q : WriteReq := { o := o, pieces := piecesOf s t cs, data := leBytes 256 (rdV t (spec t v)).toNat, rel := r }
  conclude .c (memPlan s [v] [.v (spec t v), .s a] 2 (accessBad s t [(va, 4)] cs) (pend (setTh s1 (advance t)) (.writeRequest q))) s

/-- Is any lane of group j active (R163)? -/
def groupActive (mask : Word) (run j : Nat) : Bool := mask.toNat / 2 ^ (j * run) % 2 ^ run ≠ 0

/-- The active groups. -/
def activeGroups (mask : Word) (run : Nat) : List Nat := (upFrom 0 (64 / run)).filter (groupActive mask run)

/-- The parts of the active lanes of the active groups, by group base (R163). The rule has the active groups checked, and does not say
whether the lanes of one that are not active are checked with it: the model checks the active lanes alone, its choice (log 22). -/
def laneChunks (acc : Acc) (mask : Word) (run : Nat) (base : Nat → Word) : List Chunk :=
  (activeGroups mask run).flatMap (fun j =>
    ((upFrom (j * run) run).filter (bit mask)).map (fun l =>
      { va := (base j + word (4 * (l - j * run))).toNat, len := 4, off := 4 * l, acc := acc }))

/-- Of two lanes that name one word, the higher stays (R163). -/
def lastLanes : List Piece → List Piece
  | [] => []
  | p :: r => if r.any (overlap p) then lastLanes r else p :: lastLanes r

/-- A strided or gathered load (R163, R164). -/
def loadGroups (v : BitVec 8) (specs : List (BitVec 8)) (needs : List Reg) (k : BitVec 4) (run : Nat) (q : Bool)
    (base : Nat → Word) (s : State) : Out :=
  let t := s.th
  let mask := rdM t k
  let cs := laneChunks .r mask run base
  let d := spec t v
  let (s1, o) := beginRequest s cs
  let r : ReadReq := { o := o, pieces := piecesOf s t cs, got := List.replicate 256 0, reply := .lanes d mask, acq := q }
  let p := memPlan s (v :: specs) ([Reg.v d] ++ needs ++ [.m k]) 1
    (accessBad s t ((activeGroups mask run).map (fun j => ((base j).toNat, 4))) cs)
    (pend (setTh s1 (advance (setCount t (.v d) 1))) (.readRequest r))
  conclude .l (if mask = 0 then { p with hold := false, next := setTh s (advance t) } else p) s

/-- A strided or gathered store (R163, R164). -/
def storeGroups (v : BitVec 8) (specs : List (BitVec 8)) (needs : List Reg) (k : BitVec 4) (run : Nat) (q : Bool)
    (base : Nat → Word) (s : State) : Out :=
  let t := s.th
  let mask := rdM t k
  let cs := laneChunks .w mask run base
  let (s1, o) := beginRequest s cs
  let r : WriteReq :=
    { o := o, pieces := lastLanes (piecesOf s t cs), data := leBytes 256 (rdV t (spec t v)).toNat, rel := q }
  let p := memPlan s (v :: specs) ([Reg.v (spec t v)] ++ needs ++ [.m k]) 2
    (accessBad s t ((activeGroups mask run).map (fun j => ((base j).toNat, 4))) cs)
    (pend (setTh s1 (advance t)) (.writeRequest r))
  conclude .l (if mask = 0 then { p with hold := false, next := setTh s (advance t) } else p) s

/-- Base of group j, strided. -/
def strided (t : Thread) (a b : BitVec 6) (j : Nat) : Word := rdS t a + word j * rdS t b
/-- Lane j of a register, sign-extended. -/
def laneSigned (x : Lanes) (j : Nat) : Word := sext64 (bits x (32 * j) 32)
/-- Base of group j, gathered. -/
def gathered (t : Thread) (a : BitVec 6) (vb : BitVec 8) (j : Nat) : Word := rdS t a + laneSigned (rdV t (spec t vb)) j

/-- VLDS (R163). -/
def execVlds (v : BitVec 8) (a b : BitVec 6) (m : BitVec 4) (run : BitVec 3) (q : Bool) (s : State) : Out :=
  loadGroups v [] [.s a, .s b] m (2 ^ run.toNat) q (strided s.th a b) s
/-- VSTS (R163). -/
def execVsts (v : BitVec 8) (a b : BitVec 6) (m : BitVec 4) (run : BitVec 3) (q : Bool) (s : State) : Out :=
  storeGroups v [] [.s a, .s b] m (2 ^ run.toNat) q (strided s.th a b) s
/-- VLDG (R163). -/
def execVldg (v : BitVec 8) (a : BitVec 6) (vb : BitVec 8) (m : BitVec 4) (run : BitVec 3) (q : Bool) (s : State) : Out :=
  loadGroups v [vb] [.s a, .v (spec s.th vb)] m (2 ^ run.toNat) q (gathered s.th a vb) s
/-- VSTG (R163). -/
def execVstg (v : BitVec 8) (a : BitVec 6) (vb : BitVec 8) (m : BitVec 4) (run : BitVec 3) (q : Bool) (s : State) : Out :=
  storeGroups v [vb] [.s a, .v (spec s.th vb)] m (2 ^ run.toNat) q (gathered s.th a vb) s

/-! ### Landing instructions (R165, R166) -/

/-- The parts that a memory landing stores: all of it, or the selected lanes (R165). -/
def storedChunks (la : Word) (n : Nat) (mask : Option Word) : List Chunk :=
  if laSpace la ≠ 0 then []
  else
    match mask with
    | none => chunks .w (laVa la) n 0
    | some m => ((upFrom 0 64).filter (bit m)).map (fun l => { va := laVa la + 4 * l, len := 4, off := 4 * l, acc := .w })

/-- A landing instruction sends one landing (R165, R166). -/
def landNow (slot : Slot) (specs : List (BitVec 8)) (needs : List Reg) (la : Word) (payload : List Byte) (mask : Option Word)
    (cond rel : Bool) (s : State) : Out :=
  let t := s.th
  let n := payload.length
  let cs := laChunks la n
  let (s1, o) := beginRequest s cs
  let p := match mask with
    | none => packet o la payload
    | some m => maskedPacket o la payload m
  let p := { p with rel := rel, cond := cond, counted := true, pieces := piecesOf s t (storedChunks la n mask) }
  let bad := match accessBad s t (laAlign la n) cs with
    | some b => some b
    | none => laBad s la n mask.isSome cond
  conclude slot (memPlan s specs needs 4 bad (sendLanding (setTh s1 (advance t)) p)) s

/-- PUT (R165). -/
def execPut (l a : BitVec 6) (r : Bool) (s : State) : Out :=
  landNow .c [] [.s l, .s a] (rdS s.th l) (putPayload (rdS s.th l) (rdS s.th a)) none false r s
/-- PUTE (R166). -/
def execPute (l a : BitVec 6) (r : Bool) (s : State) : Out :=
  landNow .c [] [.s l, .s a] (rdS s.th l) (putPayload (rdS s.th l) (rdS s.th a)) none true r s
/-- VPUT (R165). -/
def execVput (v : BitVec 8) (l : BitVec 6) (e r : Bool) (s : State) : Out :=
  landNow .c [v] [.v (spec s.th v), .s l] (rdS s.th l) (leBytes 256 (rdV s.th (spec s.th v)).toNat) none e r s
/-- Lanes that VPUTL sends (R165). -/
def putLanes (n : BitVec 2) : Nat := if n = 0 then 1 else if n = 1 then 2 else if n = 2 then 16 else 32
/-- VPUTL (R165). -/
def execVputl (v : BitVec 8) (l : BitVec 6) (e r : Bool) (n : BitVec 2) (f : BitVec 6) (s : State) : Out :=
  landNow .c [v] [.v (spec s.th v), .s l] (rdS s.th l)
    (slice (leBytes 256 (rdV s.th (spec s.th v)).toNat) (4 * f.toNat) (4 * putLanes n)) none e r s
/-- LAMK (R165): all lanes travel, the mask selects those written. -/
def execLamk (v : BitVec 8) (l : BitVec 6) (r : Bool) (k : BitVec 4) (s : State) : Out :=
  landNow .c [v] [.v (spec s.th v), .s l, .m k] (rdS s.th l) (leBytes 256 (rdV s.th (spec s.th v)).toNat) (some (rdM s.th k))
    false r s

/-! ### Atomics (R167) -/

/-- AMO (R167): its checks come before it waits for its destination. -/
def execAmo (d a b c : BitVec 6) (op : AmoOp) (dbl : Bool) (ord : BitVec 2) (s : State) : Out :=
  let t := s.th
  let va := (rdS t a).toNat
  let n := if dbl then 8 else 4
  let cs := chunks .w va n 0
  let (s1, o) := beginRequest s cs
  let p : Piece := ((piecesOf s t cs).head?).getD default
  let r : AmoReq :=
    { o := o, addr := p.addr, va := va, key := p.key, dbl := dbl, op := op, b := rdS t b, c := rdS t c, d := d
      acq := bit ord 0, rel := bit ord 1 }
  let needs := if op = .cas then [Reg.s a, .s b, .s c] else [.s a, .s b]
  conclude .l { memPlan s [] needs 3 (accessBad s t [(va, n)] cs)
    (pend (setTh s1 (advance (setCount t (.s d) 1))) (.amoAtHome r)) with late := [.s d] } s

/-- `FADD` of two FP32 words: rounded once, no flag (R49, R59, R167). -/
def addFp32 (x y : Nat) : Nat := (roundTo .fp32 .rne false (numAdd (decodeFloat .fp32 x) (decodeFloat .fp32 y)).1).1

/-- The value that an atomic leaves, on words of w bits (R167). -/
def amoNew (op : AmoOp) (w : Nat) (old b c : Nat) : Nat :=
  let x := BitVec.ofNat w old
  let y := BitVec.ofNat w b
  match op with
  | .swap => y.toNat
  | .add => (x + y).toNat
  | .and => (x &&& y).toNat
  | .or => (x ||| y).toNat
  | .xor => (x ^^^ y).toNat
  | .min => if x.slt y then x.toNat else y.toNat
  | .max => if x.slt y then y.toNat else x.toNat
  | .minu => min x.toNat y.toNat
  | .maxu => max x.toNat y.toNat
  | .cas => if x = BitVec.ofNat w c then y.toNat else x.toNat
  | .fadd => addFp32 x.toNat y.toNat

/-! ### Fence (R168) -/

/-- FENCE (R168): later events of the successor set wait for the earlier ones of the predecessor set. FENCE.I
waits for them itself before it discards the fetch buffer, so that every later fetch comes after them (R87,
log 7). -/
def execFence (i : Bool) (_sc : Scope) (u p : BitVec 4) (s : State) : Out :=
  let t := s.th
  let now := outstanding s (senderOf s t) 0xF
  let old := t.fences.filter (fun f => f.2.any (fun n => now.contains n))
  let mine := outstanding s (senderOf s t) p
  let t1 := { advance t with fences := if mine = [] || u = 0 then old else old ++ [(u, mine)] }
  conclude .c
    { specs := [], needs := [], bad := none, hold := i && mine ≠ []
      next := setTh s (if i then { t1 with fetched := [] } else t1) } s

/-! ### Slots from the core (R246) -/

/-- Limits of MLOAD by part (R246). -/
def mloadBad (v : Word) (n : Nat) : Bool :=
  let part := field v 6 2
  let row := field v 8 7
  if part = 0 then 128 < row + 2 * n
  else if part = 1 then !(row = 0 || row = 64) || 128 < row + 64 * n
  else if part = 2 then n ≠ 1 || row ≠ 0
  else true

/-- Landing address of the k-th register of MLOAD (R246). -/
def mloadLa (dev : BitVec 12) (unit : BitVec 8) (v : Word) (k : Nat) : Word :=
  let part := field v 6 2
  let row := field v 8 7
  let off := if part = 0 then 128 * (row + 2 * k) else if part = 1 then 4 * row + 256 * k else 0
  (2#2 ++ 0#2 ++ dev ++ unit ++ (bits v 0 6) ++ BitVec.ofNat 14 off ++ (bits v 6 2) ++ 0#18).cast (by decide)

/-- The landings of MLOAD, one for each register (R246). -/
def mloadSend (v : Word) (rel : Bool) (t : Thread) (base : Nat) : List Nat → State → State
  | [], s => s
  | k :: r, s =>
    let (s, o) := newOrigin (countRequest s t) t
    let b := leBytes 256 (rdV t (BitVec.ofNat 9 (base + k))).toNat
    let p := packet o (mloadLa s.dev (unitOf t.core) v k) (if field v 6 2 = 2 then b.take 32 else b)
    mloadSend v rel t base r (sendLanding s { p with rel := rel, counted := true })

/-- MLOAD (R246): registers vs to vs + n − 1 lie within the window; each landing counts as a request. -/
def execMload (v : BitVec 8) (a : BitVec 6) (n : BitVec 3) (r : Bool) (s : State) : Out :=
  let t := s.th
  let base := (specIndex t v).toNat
  let k := n.toNat + 1
  let x := rdS t a
  if winSize t < base + k && base < winSize t then
    .next { trapFocus s .illegal (windowVal .l (BitVec.ofNat 10 (winSize t))) t.pc with last := .window }
  else
    let p := memPlan s [v] ((upFrom base k).map (fun i => Reg.v (BitVec.ofNat 9 i)) ++ [.s a]) 4
      (if mloadBad x k then some (.trap .badLa x) else none) (mloadSend x r t base (upFrom 0 k) (setTh s (advance t)))
    conclude .l { p with hold := p.hold || 256 < (coreOf s t.core).outst + k } s

/-! ### At the homes (R8, R71, R160, R167) -/

/-- The list without its i-th element, and the element. -/
def takeAt {α : Type} : Nat → List α → Option (α × List α)
  | _, [] => none
  | 0, x :: r => some (x, r)
  | n + 1, x :: r => (takeAt n r).map (fun e => (e.1, x :: e.2))

/-- The agent that forms the reply to an access whose last piece is at an address: its home (R8, R177). -/
def replyAgent (s : State) (o : Origin) (a : Nat) : Agent := (homeOf s a).getD o.agent

/-- The reply to a read, which agent `g` forms: an arrival in the thread's own register, or the landing of LDL; a memory-core program's
registers are written in place (R160, R161, R226). The reply to a vector load carries its lane mask, all ones for VLD, with FLG[2] 1: R176
gives the two for LAMK alone, and this is the model's choice (log 12). -/
def replyRead (s : State) (g : Agent) (r : ReadReq) : State :=
  match r.reply with
  | .scalar d signed =>
    let v := if signed then BitVec.ofInt 64 (BitVec.ofNat (8 * r.got.length) (ofLe r.got)).toInt else word (ofLe r.got)
    if bit r.o.seq 31 then modProg s r.o.by' (bits r.o.seq 0 16) (fun t => arrive t (.s d) 0 (leBytes 8 v.toNat) (fun _ => true))
    else answerTo s r.o g (.s d) v true
  | .lanes v m =>
    let p := maskedPacket { r.o with agent := g } (regLa r.o.dev r.o.by' (.v v)) r.got m
    sendLanding s { p with counted := true, reply := true }
  | .land la rel pieces =>
    let p := packet { r.o with agent := g } la (ldlPayload la r.got)
    sendLanding s { p with rel := rel, counted := true, pieces := pieces }
  | .row la pieces => sendLanding s { packet { r.o with agent := g } la r.got with pieces := pieces }

/-- A read at its home: one piece, in any order; the last one brings the reply (R69, R71). -/
def execReadRequest (r : ReadReq) (s : State) : Out :=
  match takeAt (choose s r.pieces.length) r.pieces with
  | none => .next (replyRead s r.o.agent r)
  | some (p, rest) =>
    if assigned s p.addr then
      let (s1, b) := rdPiece s p
      let r1 := { r with pieces := rest, got := patch r.got p.off b }
      .next (if rest = [] then replyRead s1 (replyAgent s r.o p.addr) r1 else pendFirst s1 (.readRequest r1))
    else .fault (.unassignedAddress p.addr)

/-- A request of a core is answered (R159). -/
def answered (s : State) (o : Origin) : State := if bit o.seq 31 then s else uncountRequest s o.core

/-- A write at its home: one piece, in any order; the last one is acknowledged (R69, R71). -/
def execWriteRequest (r : WriteReq) (s : State) : Out :=
  match takeAt (choose s r.pieces.length) r.pieces with
  | none => .next (answered s r.o)
  | some (p, rest) =>
    if assigned s p.addr then
      let s1 := wrPiece s p r.data
      .next (if rest = [] then answered s1 r.o else pendFirst s1 (.writeRequest { r with pieces := rest }))
    else .fault (.unassignedAddress p.addr)

/-- An atomic at its home, in one action (R167). -/
def execAmoAtHome (r : AmoReq) (s : State) : Out :=
  if assigned s r.addr then
    let n := if r.dbl then 8 else 4
    let p : Piece := { addr := r.addr, va := r.va, len := n, off := 0, key := r.key }
    let (s1, b) := rdPiece s p
    let old := ofLe b
    let s2 := wrPiece s1 p (leBytes n (amoNew r.op (8 * n) old r.b.toNat r.c.toNat))
    let v := BitVec.ofInt 64 (BitVec.ofNat (8 * n) old).toInt
    .next (if bit r.o.seq 31 then
        modProg s2 r.o.by' (bits r.o.seq 0 16) (fun t => arrive t (.s r.d) 0 (leBytes 8 v.toNat) (fun _ => true))
      else answerTo s2 r.o (replyAgent s r.o r.addr) (.s r.d) v true)
  else .fault (.unassignedAddress r.addr)

end Sys2Proof.Machine
end

