-- ==== Sys2Proof/Machine/Sched.lean ====
section
/-! DEFINITION. What the dispatcher and its agents keep: graph memory, launches, teams, threads made and
ended, the resume queue (R122, R123, R201, R203, R316 to R333). -/

namespace Sys2Proof.Machine

open Sys2Proof

/-! ### Graph memory (R316 to R319) -/

/-- A number of graph memory. -/
def gRd (s : State) (a n : Nat) : Nat := ofLe (rdMem s.gmem a n)
/-- Write of a number of graph memory. -/
def gWr (s : State) (a n v : Nat) : State := { s with gmem := wrMem s.gmem a (leBytes n v) }
/-- Table entry of a graph. -/
def graphAt (g : BitVec 8) : Nat := 64 * g.toNat
/-- First node of a graph. -/
def firstNode (s : State) (g : BitVec 8) : Nat := gRd s (graphAt g + 4) 4
/-- Number of nodes. -/
def nodeCount (s : State) (g : BitVec 8) : Nat := gRd s (graphAt g + 8) 4
/-- Place of a graph-local node. -/
def nodeAt (s : State) (g : BitVec 8) (i : Nat) : Nat := 0x4000 + 96 * (firstNode s g + i)
/-- Is the graph valid? -/
def graphValid (s : State) (g : BitVec 8) : Bool := gRd s (graphAt g) 1 % 2 = 1
/-- World of a graph. -/
def graphWorld (s : State) (g : BitVec 8) : World := BitVec.ofNat 16 (gRd s (graphAt g + 2) 2)
/-- Status word of a graph (R318). -/
def graphStatus (s : State) (g : BitVec 8) : Word := word (gRd s (graphAt g + 24) 8)
/-- Write of the status word. -/
def setStatus (s : State) (g : BitVec 8) (w : Word) : State := gWr s (graphAt g + 24) 8 w.toNat
/-- `STATE` of a graph. -/
def graphState (s : State) (g : BitVec 8) : Nat := field (graphStatus s g) 0 4
/-- Teams of a node. -/
def nodeTeams (s : State) (g : BitVec 8) (i : Nat) : Nat := gRd s (nodeAt s g i + 16) 2
/-- Threads of a team of the node. -/
def nodeThreads (s : State) (g : BitVec 8) (i : Nat) : Nat := gRd s (nodeAt s g i + 18) 1
/-- Window of a node, w/32. -/
def nodeWindow (s : State) (g : BitVec 8) (i : Nat) : Nat := gRd s (nodeAt s g i + 19) 1
/-- Mode of a node: 0 weakly parallel, 1 parallel, 2 concurrent. -/
def nodeMode (s : State) (g : BitVec 8) (i : Nat) : Nat := gRd s (nodeAt s g i + 21) 1 % 4
/-- State of a node: 0 waiting, 1 released, 2 complete. -/
def nodeState (s : State) (g : BitVec 8) (i : Nat) : Nat := gRd s (nodeAt s g i + 54) 1
/-- Counter of a node. -/
def nodeCounter (s : State) (g : BitVec 8) (i : Nat) : Nat := gRd s (nodeAt s g i + 48) 2
/-- May the node's teams stand on this die? -/
def nodeDie (s : State) (g : BitVec 8) (i : Nat) (d : BitVec 2) : Bool :=
  let m := BitVec.ofNat 4 (gRd s (nodeAt s g i + 32) 1)
  m = 0 || bit m d.toNat
/-- Successors of a node, in pool order. -/
def successors (s : State) (g : BitVec 8) (i : Nat) : List Nat :=
  let a := nodeAt s g i
  (upFrom (gRd s (a + 28) 4) (gRd s (a + 26) 2)).map (fun k => gRd s (0x604000 + 2 * k) 2)

/-- The running launch of a graph. -/
def launchOf (s : State) (g : BitVec 8) : Option Launch := s.launches.find? (fun l => l.graph = g)
/-- Priority of a node's tasks under its launch (R333). -/
def taskPriority (s : State) (g : BitVec 8) (i : Nat) : BitVec 3 :=
  let p := gRd s (nodeAt s g i + 20) 1
  let m := match launchOf s g with
    | some l => l.pmax.toNat
    | none => 7
  BitVec.ofNat 3 (min p m)
/-- Does the launch of a graph release and place nothing more (R328)? -/
def aborting (s : State) (g : BitVec 8) : Bool :=
  match launchOf s g with
  | some l => l.aborting.isSome
  | none => true

/-! ### Signals -/

/-- An MSI-X vector is signalled. -/
def msix (s : State) (v : BitVec 11) : State := { send s (.msix v) with msixPending := s.msixPending ++ [v] }
/-- A launch channel. -/
def chanAt (s : State) (c : BitVec 4) : Channel := s.channels[c.toNat]'c.isLt
/-- Write of a channel. -/
def setChan (s : State) (c : BitVec 4) (k : Channel) : State := { s with channels := s.channels.set c.toNat k c.isLt }

/-! ### Slots and room (R91, R329, R330) -/

/-- Threads that hold a slot of a core. -/
def threadsOn (s : State) (c : BitVec 11) : List Thread :=
  (allThreads s).filter (fun t => inSlot t && t.core = c)
/-- Idle slots of a core, ascending. -/
def idleSlots (s : State) (c : BitVec 11) : List (BitVec 3) :=
  let on := threadsOn s c
  ((upFrom 0 8).map (BitVec.ofNat 3)).filter (fun k => !on.any (fun t => t.slot = k))
/-- Free physical banks of a core. -/
def freeBanks (s : State) (c : BitVec 11) : Nat :=
  16 - (threadsOn s c).foldl (fun n t => n + t.win.toNat) 0
/-- Threads of a window that a core can take. -/
def roomOn (s : State) (c : BitVec 11) (wb : Nat) : Nat := min (idleSlots s c).length (freeBanks s c / wb)
/-- Cores of a cluster. -/
def coresOf (k : BitVec 7) : List (BitVec 11) := (upFrom 0 16).map (fun i => BitVec.ofNat 11 (16 * k.toNat + i))
/-- Idle slots of a cluster. -/
def idleIn (s : State) (k : BitVec 7) : Nat :=
  128 - ((allThreads s).filter (fun t => inSlot t && clusterOf t.core = k)).length
/-- Can a cluster hold a team? -/
def clusterHolds (s : State) (k : BitVec 7) (n wb : Nat) : Bool :=
  n ≤ (coresOf k).foldl (fun m c => m + roomOn s c wb) 0
/-- Die of a cluster. -/
def dieOfCluster (k : BitVec 7) : BitVec 2 := bits k 5 2
/-- The first of the greatest by a measure. -/
def greatest {α : Type} (f : α → Nat) : List α → Option α
  | [] => none
  | x :: r =>
    match greatest f r with
    | none => some x
    | some y => if f x < f y then some y else some x
/-- The cluster for a team: the one with most idle slots that can hold it, then the lowest (R330). -/
def clusterFor (s : State) (ok : BitVec 2 → Bool) (n wb : Nat) : Option (BitVec 7) :=
  greatest (idleIn s) (((upFrom 0 128).map (BitVec.ofNat 7)).filter
    (fun k => clusterPresent s k && ok (dieOfCluster k) && clusterHolds s k n wb))
/-- The slot for one thread in a cluster: the core with most idle slots that has the banks, then the lowest
(R330). -/
def slotIn (s : State) (k : BitVec 7) (wb : Nat) : Option (BitVec 11 × BitVec 3) :=
  match greatest (fun c => (idleSlots s c).length) ((coresOf k).filter (fun c => 0 < roomOn s c wb)) with
  | none => none
  | some c => (idleSlots s c).head?.map (fun i => (c, i))

/-! ### Threads made (R93, R181, R330) -/

/-- The first Free index from `i` on, within `n`. -/
def freeFrom (s : State) : Nat → Nat → Option (BitVec 16)
  | 0, _ => none
  | n + 1, i =>
    let k := BitVec.ofNat 16 i
    if (dirOf s k).state = 0 then some k else freeFrom s n (i + 1)
/-- Any Free index of the directory: a free choice (R330, log 8). -/
def freeIndex (s : State) : Option (BitVec 16) := freeFrom s (min 65536 (s.dir.length + 1)) (choose s 65536)

/-- Free indices of the directory. -/
def freeIndices (s : State) : Nat := 65536 - (s.dir.filter (fun e => e.2.state ≠ 0)).length

/-- A new thread's record (R93). -/
def newThread (h : Handle) (w : World) (asid : BitVec 12) (prio : BitVec 3) (g : BitVec 8) (node : BitVec 16)
    (team : Nat) (member : Option (BitVec 4)) (core : BitVec 11) (slot : BitVec 3) (win : BitVec 5) (pc parm : Word) :
    Thread :=
  { wrS Thread.none 1 parm with
    handle := h, world := w, asid := asid, prio := prio, graph := g, node := node, team := team, member := member
    core := core, slot := slot, win := win, status := .ready, pc := pc, runnable := true }

/-- Give an index to a new thread: its generation advances and its entry reads Resident (R181); forwarding
entries of the handle on that core go (R190). -/
def takeIndex (s : State) (i : BitVec 16) (w : World) (core : BitVec 11) (slot : BitVec 3) : State × Handle :=
  let e := dirOf s i
  let e := { e with state := 1, gen := e.gen + 1, world := w, core := core, slot := slot, image := 0 }
  let h : Handle := e.gen ++ i
  let k := coreOf s core
  (setDir (setCore s core { k with fwd := k.fwd.filter (fun f => f.1 ≠ h) }) i e, h)

/-! ### The resume queue (R331) -/

/-- A continuation becomes runnable and enters its cluster's queue, by priority and then order (R331). -/
def enqueueResume (s : State) (h : Handle) : State :=
  match findThread s h with
  | none => s
  | some t =>
    let c := clusterOf t.core
    let k := clusterAt s c
    let before := k.queue.filter (fun g => match findThread s g with
      | some u => t.prio ≤ u.prio
      | none => false)
    let after := k.queue.filter (fun g => !before.contains g)
    pendOnce (setCluster s c { k with queue := before ++ [h] ++ after }) .teamPlacement

/-- A saved thread is made runnable with a resume cause, which its record says (R102); one already runnable is not queued twice (R188). -/
def makeRunnable (s : State) (h : Handle) (cause : BitVec 3) : State :=
  match findThread s h with
  | none => s
  | some t =>
    if t.runnable then s
    else enqueueResume (writeImage (modThread s h (fun t => { t with runnable := true, cause := cause })) h) h

/-- The wait in which a thread sleeps, or slept when its save began (R90, R201). -/
def currentWait (t : Thread) : Option Wait :=
  match t.status with
  | .sleeping w => some w
  | .away w | .saving w | .restoring w => w
  | _ => none

/-- A thread's wait for an event line or a barrier is over, wherever it is (R122, R123, R201); that of a thread in a handler
is the wait that the trap interrupted, in its older place (R198). One that waits for something else is not concerned. -/
def endWait (s : State) (w : Wait) (h : Handle) : State :=
  match findThread s h with
  | none => s
  | some t =>
    if t.waited = some w && !t.woken then modThread s h (fun t => { t with woken := true })
    else if currentWait t ≠ some w then s
    else match t.status with
    | .sleeping _ => modThread s h (fun t => { t with status := .ready })
    | .away _ => makeRunnable (modThread s h (fun t => { t with status := .away none })) h 6
    | .saving _ => modThread s h (fun t => { t with status := .saving none })
    | .restoring _ => modThread s h (fun t => { t with status := .restoring none })
    | _ => s

/-- Every cluster changed; those that are as at reset are not listed. -/
def mapClusters (s : State) (f : ClusterState → ClusterState) : State :=
  { s with clusters := (s.clusters.map (fun e => (e.1, f e.2))).filter (fun e => e.2 ≠ ClusterState.init) }

/-- A waiter that no longer waits leaves its line, in whichever cluster it is (R198). -/
def leaveLine (s : State) (h : Handle) : State := mapClusters s (fun k => { k with waiters := k.waiters.filter (fun w => w.2 ≠ h) })

/-- A continuation that is not to resume leaves the queue in which it stands (R331). -/
def leaveQueue (s : State) (h : Handle) : State := mapClusters s (fun k => { k with queue := k.queue.filter (fun g => g ≠ h) })

/-- A signal reaches an event line: the first waiter takes it, else it is counted (R123). -/
def signalLine (s : State) (c : BitVec 7) (line : BitVec 8) : State :=
  let k := clusterAt s c
  match pickOut (fun w => w.1 = line) k.waiters with
  | some ((_, h), r) => endWait (setCluster s c { k with waiters := r }) (.evw line) h
  | none => setCluster s c { k with events := sset 0 k.events line.toNat (min 65535 (sget 0 k.events line.toNat + 1)) }

/-- The dispatcher orders a resident thread saved, with resume cause 1 (R201, R207). -/
def orderSave (s : State) (h : Handle) : State :=
  pend (modThread s h (fun t =>
    match t.status with
    | .ready | .stalled | .sleeping _ | .restoring _ => if t.save.isSome then t else { t with save := some .preempt }
    | _ => t)) (.saveStart h)

/-! ### Teams (R122) -/

/-- A team. -/
def teamAt (s : State) (n : Nat) : Option Team := sget none s.teams n
/-- Write of a team. -/
def setTeam (s : State) (n : Nat) (t : Option Team) : State := { s with teams := sset none s.teams n t }
/-- Have all members that remain arrived? -/
def barrierFull (t : Team) : Bool := (t.members.filter (fun h => !t.left.contains h)).all (fun h => t.arrived.contains h)
/-- When every member that has not exited has arrived, all leave the barrier together (R122). -/
def settleBarrier (s : State) (n : Nat) : State :=
  match teamAt s n with
  | none => s
  | some t =>
    if barrierFull t && t.arrived ≠ [] then
      t.arrived.foldl (fun s h => endWait s .teambar h) (setTeam s n (some { t with arrived := [] }))
    else s

/-! ### Launches: dependence, completion, abort (R323 to R328) -/

/-- A thread's PC is read from the node's entry table, at the homes of its bytes and under their keys, in the launch's address space
(R319); where the table cannot be read the PC is a free value. Bits [2:0] of an entry that has them set are taken as 0: the spec gives no
outcome for such an entry, and this is the model's choice (log 13). -/
def entryPc (s : State) (asid : BitVec 12) (va : Nat) : State × Word :=
  let cs := chunks .r va 8 0
  let l := cs.filterMap (pieceOf s [] asid)
  if l.length = cs.length then
    let (s, b) := rdPieces s l
    (s, word (ofLe b) &&& ~~~7)
  else (s, Config.freeWord s.clock &&& ~~~7)

/-- The threads of a team, one after another, in a cluster (R330). -/
def placeMembers (s : State) (g : BitVec 8) (i : Nat) (l : Launch) (team : Nat) (k : BitVec 7) : List Nat → State × List Handle
  | [] => (s, [])
  | j :: r =>
    let a := nodeAt s g i
    match slotIn s k (nodeWindow s g i), freeIndex s with
    | some (c, slot), some ix =>
      let (s, h) := takeIndex s ix l.world c slot
      let (s, pc) := entryPc s l.asid (gRd s (a + 8) 8 + 8 * j)
      let t := newThread h l.world l.asid (taskPriority s g i) g (BitVec.ofNat 16 i) team (some (BitVec.ofNat 4 j)) c slot
        (BitVec.ofNat 5 (nodeWindow s g i)) pc (word (gRd s a 8))
      let (s, hs) := placeMembers (addThread s t) g i l team k r
      (s, h :: hs)
    | _, _ => (s, [])

/-- A team of a node is placed whole, in one cluster (R329, R330): not while the directory has fewer Free indices than it has
threads, which counts as no room. The spec names no outcome for that, and this is the model's choice (log 8). -/
def placeTeam (s : State) (g : BitVec 8) (i : Nat) : Option State :=
  match if freeIndices s < nodeThreads s g i then none else launchOf s g with
  | none => none
  | some l =>
    match clusterFor s (nodeDie s g i) (nodeThreads s g i) (nodeWindow s g i) with
    | none => none
    | some k =>
      let n := s.teamNext
      let (s, hs) := placeMembers { s with teamNext := n + 1 } g i l n k (upFrom 0 (nodeThreads s g i))
      let t : Team :=
        { graph := g, node := BitVec.ofNat 16 i, home := k, members := hs, left := [], arrived := [], alive := hs.length
          placed := s.placedNext, acted := s.clock }
      let s := gWr s (nodeAt s g i + 52) 2 (gRd s (nodeAt s g i + 52) 2 + 1)
      some { setTeam s n (some t) with placedNext := s.placedNext + 1 }

/-- Teams placed one after another; none if one finds no room. -/
def placeAll (s : State) (g : BitVec 8) (i : Nat) : Nat → Option State
  | 0 => some s
  | n + 1 => (placeTeam s g i).bind (fun s => placeAll s g i n)

/-- A launch ends: the status word, the channel, its vector, or the answer of its GRUN (R327, R335). -/
def endLaunch (s : State) (g : BitVec 8) (why : Option (BitVec 8 × BitVec 16)) : State :=
  match launchOf s g with
  | none => s
  | some l =>
    let w := graphStatus s g
    let w' : Word := match why with
      | none => ((bits w 32 32 + 1) ++ bits w 28 4 ++ 0#16 ++ 0#8 ++ 2#4).cast (by decide)
      | some (r, n) => (bits w 32 32 ++ bits w 28 4 ++ n ++ r ++ 3#4).cast (by decide)
    let s := { setStatus s g w' with launches := s.launches.filter (fun l => l.graph ≠ g)
                                     queue := s.queue.filter (fun q => q.graph ≠ g) }
    let s := match l.chan with
      | some c => msix (setChan s c { chanAt s c with ended := true, lgraph := g, running := none }) (chanAt s c).vec
      | none => s
    let s := match l.grun with
      | some (h, q) => if why.isNone then endCmd s h q 0 0 else endCmd s h q 1 (bits w' 0 32)
      | none => s
    ((upFrom 0 16).map (BitVec.ofNat 4)).foldl
      (fun s c => if (chanAt s c).fifo = [] then s else pendOnce s (.launchStart c)) s

/-- Threads of a launch that have not ended. -/
def launchThreads (s : State) (g : BitVec 8) : List Thread := (allThreads s).filter (fun t => isLive t && t.graph = g)

/-- A thread begins its exit: parked commands are cancelled, it issues no more, and the wait of R119 begins. A waiter of an event line
keeps its place until that wait is over: the spec does not say when it leaves it, and this is the model's choice (log 45). -/
def beginExit (s : State) (h : Handle) : State :=
  let s := leaveQueue (cancelParked s h) h
  pend (modThread s h (fun t => { t with status := .exiting (isAway t), save := none, waited := none })) (.threadExitComplete h)

/-- A launch is aborted: nothing more is released or placed, and every thread of it that stands at a boundary or
is saved is ended as by EXIT (R328). One whose save or restore is in progress follows when that is done. -/
def abortLaunch (s : State) (g : BitVec 8) (reason : BitVec 8) (node : BitVec 16) : State :=
  match launchOf s g with
  | none => s
  | some l =>
    if l.aborting.isSome then s
    else
      let mark (l : Launch) : Launch := if l.graph = g then { l with aborting := some (reason, node) } else l
      let s := { s with launches := s.launches.map mark, queue := s.queue.filter (fun q => q.graph ≠ g) }
      let s := (launchThreads s g).foldl (fun s t =>
        match t.status with
        | .saving _ => s
        | .restoring _ => s
        | .exiting _ => s
        | _ => beginExit s t.handle) s
      if launchThreads s g = [] then endLaunch s g (some (reason, node)) else s

/-- What the dispatcher still has to do for a graph: release a node, decrement its counter, complete it, count it. -/
inductive Work | rel (i : Nat) | dec (i : Nat) | fin (i : Nat) | count
deriving DecidableEq, Repr, Inhabited

/-- The teams of a released node are placed or queued (R323, R329). -/
def queueTeams (s : State) (g : BitVec 8) (i : Nat) : State :=
  if nodeMode s g i = 2 then
    match placeAll s g i (nodeTeams s g i) with
    | some s => s
    | none => abortLaunch s g 2 (BitVec.ofNat 16 i)
  else
    let wait (j : Nat) : TeamWait := { graph := g, node := BitVec.ofNat 16 i, team := j }
    pendOnce { s with queue := s.queue ++ (upFrom 0 (nodeTeams s g i)).map wait } .teamPlacement

/-- One piece of work, and what it brings with it (R323 to R325): a released node without teams completes at once;
a counter that reaches 0 releases its node; one that is 0 already aborts the launch; a node that completes
decrements its successors in pool order and then Remaining. -/
def oneWork (s : State) (g : BitVec 8) : Work → State × List Work
  | .rel i =>
    let s := gWr s (nodeAt s g i + 54) 1 1
    if nodeTeams s g i = 0 then (s, [.fin i]) else (queueTeams s g i, [])
  | .dec i =>
    let c := nodeCounter s g i
    if c = 0 then (abortLaunch s g 1 (BitVec.ofNat 16 i), [])
    else (gWr s (nodeAt s g i + 48) 2 (c - 1), if c = 1 then [.rel i] else [])
  | .fin i => (gWr s (nodeAt s g i + 54) 1 2, (successors s g i).map .dec ++ [.count])
  | .count => (gWr s (graphAt g + 16) 4 (gRd s (graphAt g + 16) 4 - 1), [])

/-- The work in order, until the launch is aborted. The first argument bounds its length. -/
def runWork : Nat → State → BitVec 8 → List Work → State
  | 0, s, _, _ => s
  | _, s, _, [] => s
  | n + 1, s, g, w :: r =>
    if aborting s g then s
    else
      let (s, more) := oneWork s g w
      runWork n s g (more ++ r)

/-- More than the nodes and successor entries of graph memory can give rise to. -/
def workBound : Nat := 2 ^ 34

/-- Nodes not yet complete. -/
def openNodes (s : State) (g : BitVec 8) : List Nat := (upFrom 0 (nodeCount s g)).filter (fun i => nodeState s g i ≠ 2)

/-- After a change: a launch whose nodes are all complete ends; one that cannot go on is aborted (R324, R326); one
that is aborting ends with its last thread (R328). -/
def settleLaunch (s : State) (g : BitVec 8) : State :=
  match launchOf s g with
  | none => s
  | some l =>
    match l.aborting with
    | some why => if launchThreads s g = [] then endLaunch s g (some why) else s
    | none =>
      if l.patch.isSome then s
      else if gRd s (graphAt g + 16) 4 = 0 then endLaunch s g none
      else if launchThreads s g = [] && !s.queue.any (fun q => q.graph = g) then
        let low := ((openNodes s g).filter (fun i => nodeState s g i = 0)).head?.getD 0
        abortLaunch s g 6 (BitVec.ofNat 16 low)
      else s

/-- Work, then what follows. -/
def workAnd (s : State) (g : BitVec 8) (l : List Work) : State := settleLaunch (runWork workBound s g l) g

/-- A team has completed: its node counts it, and completes when all have (R324). -/
def teamDone (s : State) (g : BitVec 8) (i : Nat) : State :=
  let done := gRd s (nodeAt s g i + 50) 2 + 1
  let s := gWr s (nodeAt s g i + 50) 2 done
  if done = nodeTeams s g i then workAnd s g [.fin i] else s

/-! ### Claims given up by an exit (R232, R233) -/

/-- Every slot and tile that a thread holds is given up, its bytes kept; the cores' copies follow. -/
def dropClaims (s : State) (h : Handle) : State :=
  let u := s.units.map (fun e =>
    let k := e.2
    let slots := k.slots.map (fun x => (x.1, if x.2.owner = some h then { x.2 with owner := none } else x.2))
    let tiles := k.tiles.map (fun x => (x.1, if x.2.owner = some h then { x.2 with owner := none } else x.2))
    (e.1, { k with slots := slots.filter (fun x => x.2 ≠ OpSlot.init), tiles := tiles.filter (fun x => x.2 ≠ Tile.init) }))
  let c := s.cores.map (fun e =>
    (e.1, if e.2.tileOwner = some h then { e.2 with tileOwner := none } else e.2))
  { s with units := u.filter (fun e => e.2 ≠ UnitState.init), cores := c.filter (fun e => e.2 ≠ CoreState.init) }

/-- A thread that has ended gives its claims up after its last matrix command has ended (R232, R244). -/
def dropClaimsIfIdle (s : State) (h : Handle) : State :=
  if s.cmds.any (fun c => c.handle = h && c.port = .e0 && c.net.isNone) then s else dropClaims s h

/-! ### Threads ended (R119) -/

/-- Has a thread a request of a matrix unit that has not been answered, or a command that its engine has not accepted: what its core
waits for at EXIT beside what `unanswered` names (R119)? -/
def requestsOpen (s : State) (h : Handle) : Bool :=
  s.pending.any (fun e =>
    match e with
    | .claimAtUnit o _ _ _ => o.by' = h
    | .releaseAtUnit o _ _ => o.by' = h
    | .accrdSnapshot o _ _ _ _ _ => o.by' = h
    | .windowRevokeComplete o _ _ => o.by' = h
    | _ => false) ||
  s.cmds.any (fun c => c.handle = h && (c.accz.isSome || c.state = .queued))

/-- The wait of an exit is over: the slot is idle, the team goes on without the thread, its entry is Free, and the
dispatcher counts it. -/
def endThread (s : State) (h : Handle) : State :=
  match findThread s h with
  | none => s
  | some t =>
    let s := dropClaimsIfIdle s h
    let s := leaveQueue (leaveLine s h) h
    let s := setDir s (hIndex h) { dirOf s (hIndex h) with state := 0, image := 0 }
    let s := { modThread s h (fun t => { t with status := .ended }) with
      bondWaits := s.bondWaits.map (fun w => { w with waiters := w.waiters.filter (fun e => e.1 ≠ h) }) }
    let s := pendOnce s .teamPlacement
    match teamAt s t.team with
    | none => settleLaunch s t.graph
    | some m =>
      let m := { m with alive := m.alive - 1
                        left := if t.member.isSome then m.left ++ [h] else m.left
                        arrived := m.arrived.filter (fun g => g ≠ h) }
      let s := settleBarrier (setTeam s t.team (some m)) t.team
      if m.alive = 0 then settleLaunch (teamDone (setTeam s t.team none) t.graph t.node.toNat) t.graph
      else settleLaunch s t.graph

end Sys2Proof.Machine
end

