-- ==== Sys2Proof/Machine/ThreadLife.lean ====
section
/-! DEFINITION. A thread's own life: sleep, yield, exit, move, teams and events, handles, range fork and join
(R117 to R128, R207). -/

namespace Sys2Proof.Machine

open Sys2Proof

/-! ### Requests with an answer in a scalar register -/

/-- An instruction that sends one counted request and empties its scalar destination, awaiting 1 (R94, R159). -/
def requestPlan (s : State) (d : BitVec 6) (reads : List Reg) (bad : Option Bad) (go : Origin → State → State) : Plan :=
  let t := s.th
  let s1 := setTh (countRequest s t) (advance (setCount t (.s d) 1))
  let (s2, o) := newOrigin s1 t
  { specs := [], needs := .s d :: reads, bad := bad, hold := requestsFull s t, next := go o s2 }

/-- A tree, bond or window instruction: a request that is an engine command, and that a fence may hold (R70, R76, R168). -/
def commandPlan (s : State) (d : BitVec 6) (reads : List Reg) (bad : Option Bad) (go : Origin → State → State) : Plan :=
  let p := requestPlan s d reads bad go
  { p with hold := p.hold || fenced s s.th 8 }

/-- Nothing of the thread's own accesses and landings is left to be performed: what the release of an engine command that acts at once
waits for (R74, log 7). -/
def allPerformed (s : State) (t : Thread) : Bool := outstanding s (senderOf s t) 7 = []

/-- Nor is an engine command of the thread left to be accepted: what every other release that acts at once waits for (R74, log 7). -/
def allAccepted (s : State) (t : Thread) : Bool := outstanding s (senderOf s t) 0xF = []

/-! ### Leaving the slot -/

/-- SLEEP (R117): no effect for 0 cycles. -/
def execSleep (a : BitVec 6) (s : State) : Out :=
  let t := advance s.th
  let next :=
    if rdS s.th a = 0 then setTh s t
    else
      let s := { s with pending := s.pending.filter (fun e => e ≠ .sleepTimeout t.handle) }
      pend (setTh s { t with status := .sleeping .sleep }) (.sleepTimeout t.handle)
  conclude .c (plainPlan [.s a] next) s

/-- The cycles of a SLEEP have passed (R117). -/
def execSleepTimeout (h : Handle) (s : State) : Out :=
  .next (modThread s h (fun t => if t.status = .sleeping .sleep then { t with status := .ready } else t))

/-- YIELD (R118): the thread is to be saved if its cluster's queue holds a continuation of its priority or
higher. -/
def execYield (s : State) : Out :=
  let t := advance s.th
  let wanted := (clusterAt s (clusterOf t.core)).queue.any (fun h =>
    match findThread s h with
    | some u => u.runnable && t.prio ≤ u.prio
    | none => false)
  conclude .c (plainPlan [] (setTh s (if wanted then { t with save := some .yield } else t))) s

/-- EXIT (R119); of a memory-core program it ends the MCRUN (R226). -/
def execExit (s : State) : Out :=
  let s1 := setTh s (advance s.th)
  let next := match s.th.prog with
    | some p => pend (setTh s1 { s1.th with status := .exiting false }) (.mcrunEnd s.th.handle p.seq)
    | none => beginExit s1 s.th.handle
  conclude .c (plainPlan [] next) s

/-- Is a landing being written into a slot that a thread holds (R230)? -/
def ownsBusySlot (s : State) (h : Handle) : Bool :=
  s.units.any (fun e => e.2.slots.any (fun x => x.2.owner = some h && slotBusy s (BitVec.ofNat 8 e.1) x.1))

/-- The wait of an exit: every request, landing and answer of the thread has come, and every engine command is
accepted (R119); a landing that is being written into a slot of the thread's comes to its end (R230). -/
def execThreadExitComplete (h : Handle) (s : State) : Out :=
  match findThread s h with
  | none => .next s
  | some t =>
    if unanswered s (senderOf s t) || requestsOpen s h || ownsBusySlot s h then .next (pend s (.threadExitComplete h))
    else .next (endThread s h)

/-- MIGRATE (R120). -/
def execMigrate (a : BitVec 6) (s : State) : Out :=
  let c : BitVec 11 := bits (rdS s.th a) 0 11
  let t := advance s.th
  conclude .c
    { specs := [], needs := [.s a], hold := false
      bad := if c ≠ s.th.core && !clusterPresent s (clusterOf c) then some (.trap .protect (zext64 c)) else none
      next := setTh s (if c = s.th.core then t else { t with save := some (.migrate c) }) } s

/-- PREEMPT (R121): of the thread itself it is answered 0, and the save follows at the boundary. -/
def execPreempt (d a : BitVec 6) (s : State) : Out :=
  let h : Handle := bits (rdS s.th a) 0 24
  conclude .c (requestPlan s d [.s a] none (fun o s =>
    if h = s.th.handle then answerTo (setTh s { s.th with save := some .preempt }) o .dispatcher (.s d) 0 true
    else pend s (.preemptAtDispatcher o d h))) s

/-- Are two threads of one task: one node of one graph (R121)? -/
def sameTask (a b : Thread) : Bool := a.graph = b.graph && a.node = b.node

/-- The dispatcher's answer to PREEMPT (R121, R207). -/
def execPreemptAtDispatcher (o : Origin) (d : BitVec 6) (h : Handle) (s : State) : Out :=
  let e := dirOf s (hIndex h)
  let mine := match findThread s h, findThread s o.by' with
    | some t, some u => sameTask t u
    | _, _ => false
  if e.state = 0 || e.gen ≠ hGen h || !mine then .next (answerTo s o .dispatcher (.s d) 2 true)
  else if e.state ≠ 1 then .next (answerTo s o .dispatcher (.s d) 1 true)
  else
    let s := orderSave s h
    .next (answerTo s o .dispatcher (.s d) 0 true)

/-! ### Teams, events and handles -/

/-- TEAMBAR (R122): a thread of no team traps PROTECT. The arrival is made once the thread's accesses are
performed and its engine commands accepted (R74, R81, log 7). -/
def execTeambar (s : State) : Out :=
  let t := s.th
  let arrived := match teamAt s t.team with
    | none => setTh s (advance t)
    | some m =>
      settleBarrier (setTeam (setTh s { advance t with status := .sleeping .teambar }) t.team
        (some { m with arrived := m.arrived ++ [t.handle] })) t.team
  conclude .c
    { specs := [], needs := [], hold := !allAccepted s t
      bad := if t.member.isNone then some (.trap .protect 0) else none
      next := arrived } s

/-- EVW (R123): takes a signal of its own cluster's line or sleeps, in the order of the waiters. -/
def execEvw (a : BitVec 6) (s : State) : Out :=
  let t := s.th
  let line : BitVec 8 := bits (rdS t a) 0 8
  let c := clusterOf t.core
  let k := clusterAt s c
  let n := sget 0 k.events line.toNat
  let next :=
    if 0 < n then setTh (setCluster s c { k with events := sset 0 k.events line.toNat (n - 1) }) (advance t)
    else setTh (setCluster s c { k with waiters := k.waiters ++ [(line, t.handle)] })
      { advance t with status := .sleeping (.evw line) }
  conclude .c (plainPlan [.s a] next) s

/-- The landing address of an event line. -/
def eventLa (dev : BitVec 12) (c : BitVec 7) (line : BitVec 8) : Word :=
  (3#2 ++ 0#2 ++ dev ++ c ++ line ++ 0#33).cast (by decide)

/-- EVS (R81, R123): a signal to its own cluster's line, a release. -/
def execEvs (a : BitVec 6) (s : State) : Out :=
  let t := s.th
  let (s1, o) := newOrigin (setTh s (advance t)) t
  let p := { packet o (eventLa s.dev (clusterOf t.core) (bits (rdS t a) 0 8)) (leBytes 8 0) with rel := true }
  conclude .c (plainPlan [.s a] (sendLanding s1 p)) s

/-- Does the check code of a packet hold (R178)? -/
def crcOk (p : Packet) : Bool := p.crc = crcOf p.la p.lmask p.payload

/-- A landing that is neither delivered nor held at a core is acknowledged (R176, R177). DESIGN CHOICE: bytes 28 and 29, for which the table
gives no value there, hold 0x0FFF (log 12). -/
def ackPlain (s : State) (p : Packet) : State := pend s (.landingAcknowledgement p 0xFFF)

/-- An event landing at its unit (R11, R123, R184): the payload and the world play no part. -/
def execEventLanding (p : Packet) (s : State) : Out :=
  if !crcOk p then .next (pend s (.checkFailure p))
  else if !clusterPresent s (laCluster p.la) then .next (pend s (.landingRefusal p 5))
  else .next (ackPlain (signalLine s (laCluster p.la) (laLine p.la)) p)

/-- GETTID (R124): all ones for a thread of no team, or past the team's size. -/
def execGettid (d : BitVec 6) (i : BitVec 4) (s : State) : Out :=
  let v : Word := match s.th.member.bind (fun _ => teamAt s s.th.team) with
    | none => BitVec.allOnes 64
    | some m =>
      match m.members[i.toNat]? with
      | some h => zext64 h
      | none => BitVec.allOnes 64
  conclude .c (plainPlan [.s d] (setTh s (advance (wrS s.th d v)))) s

/-- GETTID.Q (R124). -/
def execGettidQ (d a : BitVec 6) (s : State) : Out :=
  conclude .c (requestPlan s d [.s a] none (fun o t => pend t (.directoryLookup o d (bits (rdS s.th a) 0 24)))) s

/-- The directory's answer to GETTID.Q (R124). -/
def execDirectoryLookup (o : Origin) (d : BitVec 6) (h : Handle) (s : State) : Out :=
  let e := dirOf s (hIndex h)
  .next (answerTo s o (.directory (bits h 0 2)) (.s d) (boolWord (e.state ≠ 0 && e.gen = hGen h)) true)

/-! ### Range fork and join -/

/-- The part of memory that FORK and JOIN write. -/
def cellChunk (c : Word) : Chunk := { va := c.toNat, len := 8, off := 0, acc := .w }

/-- The place of `n` bytes of a join cell from byte `off` on. -/
def cellPart (s : State) (t : Thread) (c : Word) (off n : Nat) : Option Piece :=
  (pieceOf s (tlbsOf s t) t.asid (cellChunk c)).map (fun p => { p with addr := p.addr + off, len := n })

/-- Physical address of a join cell. -/
def cellAddr (s : State) (t : Thread) (c : Word) : Option Nat := (cellPart s t c 0 8).map (·.addr)

/-- A number of a join cell, read at its home; 0 where the cell has none. -/
def readCell (s : State) (t : Thread) (c : Word) (off n : Nat) : State × Nat :=
  match cellPart s t c off n with
  | some p =>
    let (s, b) := rdPiece s p
    (s, ofLe b)
  | none => (s, 0)

/-- Bytes of a join cell, from its first on, written at its home. -/
def writeCell (s : State) (t : Thread) (c : Word) (b : List Byte) : State :=
  match cellPart s t c 0 b.length with
  | some p => wrPiece s p b
  | none => s

/-- The checks of a join cell (R126, R128): alignment, translation as a write, die SRAM of the thread's die; then range locks, which R219's
list does not name for FORK and JOIN: that they trap as R83 has it of every thread's access is DEDUCED (log 22). -/
def cellBad (s : State) (t : Thread) (c : Word) : Option Bad :=
  if field c 0 6 ≠ 0 then some (.trap .misalign c)
  else
    match translateAll s t (missRoom s (clusterOf t.core)) [] [cellChunk c] with
    | some b => some b
    | none =>
      match protectBad s t (cellChunk c) with
      | some b => some b
      | none =>
        match cellAddr s t c with
        | none => none
        | some a => if sramDie s a = some (dieOf t.core).toNat then lockBad s t (cellChunk c) else some (.trap .protect c)

/-- Idle slots for recruits, in the order of the search: own core, own cluster, the die (R126); within a
distance ascending (log 8). -/
def forkSlots (s : State) (t : Thread) (die : Bool) : List (BitVec 11 × BitVec 3) :=
  let own := clusterOf t.core
  let clusters := own :: (if die then
      ((upFrom 0 32).map (fun i => BitVec.ofNat 7 (32 * (dieOf t.core).toNat + i))).filter (fun k => k ≠ own && clusterPresent s k)
    else [])
  let cores := t.core :: (clusters.flatMap coresOf).filter (fun c => c ≠ t.core)
  cores.flatMap (fun c => ((idleSlots s c).take (roomOn s c t.win.toNat)).map (fun k => (c, k)))

/-- Directory indices for recruits, as far as they go. -/
def forkHandles (s : State) (w : World) : List (BitVec 11 × BitVec 3) → State × List (Handle × BitVec 11 × BitVec 3)
  | [] => (s, [])
  | (c, k) :: r =>
    match freeIndex s with
    | none => (s, [])
    | some i =>
      let (s, h) := takeIndex s i w c k
      let (s, l) := forkHandles s w r
      (s, (h, c, k) :: l)

/-- Share j of a trip count: `S16` to `S19`, the join cell and the program counter of a participant (R126). -/
def participant (t : Thread) (n k j : Nat) (c pc : Word) : Thread :=
  let lo := n * j / (k + 1)
  let hi := n * (j + 1) / (k + 1)
  { wrS (wrS (wrS (wrS t 16 (word lo)) 17 (word hi)) 18 c) 19 (word j) with pc := pc, joinCell := c }

/-- A recruit: R93, then `S1` to `S15`, the formats, the codebooks and `TVEC` of the parent (R126). -/
def recruit (p : Thread) (h : Handle) (core : BitVec 11) (slot : BitVec 3) : Thread :=
  let t := newThread h p.world p.asid p.prio p.graph p.node p.team none core slot p.win 0 0
  let t := (upFrom 1 15).foldl (fun t i => wrS t (BitVec.ofNat 6 i) (rdS p (BitVec.ofNat 6 i))) t
  { t with bfmt := p.bfmt, cbk := p.cbk, tvec := p.tvec }

/-- Recruits take their slots, the first of them as participant j. -/
def addRecruits (s : State) (p : Thread) (n k : Nat) (c pc : Word) : Nat → List (Handle × BitVec 11 × BitVec 3) → State
  | _, [] => s
  | j, (h, core, slot) :: r => addRecruits (addThread s (participant (recruit p h core slot) n k j c pc)) p n k c pc (j + 1) r

/-- FORK (R125, R126). -/
def execFork (sa sc : BitVec 6) (maxr : BitVec 12) (die : Bool) (body : BitVec 24) (s : State) : Out :=
  let t := s.th
  let n := field (rdS t sa) 0 32
  let c := rdS t sc
  let pc := bundlesOn t body
  let (s1, l) := forkHandles s t.world ((forkSlots s t die).take (min maxr.toNat (n - 1)))
  let k := l.length
  let cell := leBytes 4 (k + 1) ++ leBytes 4 0 ++ leBytes 8 (t.pc + 8).toNat ++ leBytes 4 t.handle.toNat ++
    leBytes 2 (match t.member with
      | some i => i.toNat
      | none => 0xFFFF) ++ leBytes 2 0 ++ leBytes 8 n
  let s2 := writeCell s1 t c cell
  let s3 := match teamAt s2 t.team with
    | some m => setTeam s2 t.team (some { m with alive := m.alive + k })
    | none => s2
  conclude .l
    { specs := [], needs := [.s sa, .s sc, .s 16, .s 17, .s 18, .s 19], hold := !allAccepted s t, bad := cellBad s t c
      next := addRecruits (setTh (useTlbs s3 t [cellChunk c]) (participant t n k 0 c pc)) t n k c pc 1 l } s

/-- The last finisher of a join goes on, in the parent's place in its team (R128). -/
def lastFinisher (s : State) (c : Word) : State :=
  let t := s.th
  let (s, pc) := readCell s t c 8 8
  let (s, i) := readCell s t c 20 2
  let t' := { t with pc := word pc, joinCell := 0 }
  if i = 0xFFFF then setTh s t'
  else
    match teamAt s t.team with
    | none => setTh s t'
    | some m =>
      setTeam (setTh s { t' with member := some (BitVec.ofNat 4 i) }) t.team (some { m with members := m.members.set i t.handle })

/-- Does the last finisher find a continuation PC that no bundle can have? A program may have overwritten the cell (R25, R127). -/
def joinMisaligned (s : State) (t : Thread) (c : Word) : Bool :=
  (readCell s t c 0 4).2 = 1 && (readCell s t c 8 8).2 % 8 ≠ 0

/-- JOIN (R128). A last finisher whose continuation PC is no multiple of 8 traps MISALIGN at its bundle, the count unchanged: the spec
names no outcome beside R25's, and this is the model's choice (log 13). Its count is read once its release may be made. -/
def execJoin (a : BitVec 6) (s : State) : Out :=
  let t := s.th
  let c := rdS t a
  let n := (readCell s t c 0 4).2
  let wait := !allAccepted s t
  let s1 := useTlbs s t [cellChunk c]
  conclude .c
    { specs := [], needs := [.s a], hold := wait
      bad := match cellBad s t c with
        | some b => some b
        | none =>
          if wait then some (.wait [])
          else if n = 0 then some (.trap .protect c)
          else if joinMisaligned s t c then some (.trap .misalign (word (readCell s t c 8 8).2))
          else none
      next :=
        let s2 := writeCell s1 t c (leBytes 4 (n - 1))
        if n = 1 then lastFinisher s2 c else beginExit (setTh s2 (advance t)) t.handle } s

end Sys2Proof.Machine
end

