-- ==== Sys2Proof/Machine/Fabric.lean ====
section
/-! DEFINITION. The fates of landings: delivery, mortar, forwarding, holding, refusal, acknowledgement
(R176 to R193). -/

namespace Sys2Proof.Machine

open Sys2Proof

/-- The bytes of a packet that are written, by byte of the register or payload. -/
def selected (p : Packet) (i : Nat) : Bool := !p.hasMask || bit p.lmask (i / 4)

/-- A landing's arrival at its register (R11, R165). -/
def arrivePacket (t : Thread) (p : Packet) : Thread :=
  arrive t (laReg p.la) (if laClass p.la = 1 then 4 * laLane p.la else 0) p.payload (selected p)

/-- Does a landing name a vector register outside the thread's window (R184, subcode 6)? -/
def outsideWindow (t : Thread) (la : Word) : Bool := laClass la = 1 && winSize t ≤ (laNum la).toNat

/-- The tests of a core, and of the spill engine, in their order (R184). -/
def coreRefusal (t : Thread) (p : Packet) : Option (BitVec 8) :=
  if p.o.world ≠ t.world then some 3
  else if outsideWindow t p.la then some 6
  else if p.cond && !fixedReg (laReg p.la) && present t (laReg p.la) then some 4
  else none

/-- A landing is performed at a thread or refused; `place` is what the acknowledgement names. -/
def deliver (s : State) (t : Thread) (p : Packet) (place : BitVec 12) : State :=
  match coreRefusal t p with
  | some sub => pend s (.landingRefusal p sub)
  | none => pend (modThread s t.handle (fun t => arrivePacket t p)) (.landingAcknowledgement p place)

/-- The thread of a handle in a slot of a core. -/
def residentAt (s : State) (c : BitVec 11) (h : Handle) : Option Thread :=
  (findThread s h).bind (fun t => if inSlot t && t.core = c then some t else none)

/-- LANDING_ARRIVAL at a core (R182, R187): delivered, buffered, forwarded, or sent to the directory agent. -/
def execLandingArrival (core : BitVec 11) (p : Packet) (s : State) : Out :=
  let h := laHandle p.la
  let k := coreOf s core
  match residentAt s core h with
  | some t =>
    if !crcOk p then .next (pend s (.checkFailure p))
    else
      match t.status with
      | .saving _ | .restoring _ =>
        if 64 ≤ k.mortar.length then .next (pend s (.busy p))
        else .next (setCore s core { k with mortar := k.mortar ++ [p] })
      | _ => .next (deliver s t p (zext64 core |>.truncate 12))
  | none =>
    match k.fwd.find? (fun e => e.1 = h) with
    | some (_, some c) =>
      if p.hops.toNat < 2 then .next (pend s (.landingArrival c { p with hops := p.hops + 1, fwd := true }))
      else .next (pend s (.directoryResolve p))
    | _ => .next (pend s (.directoryResolve p))

/-- The register that the record of a saved thread names as awaited: that of its WAITP, or the operand that it lacked (R102). -/
def recordedReg (t : Thread) : Option Reg :=
  match currentWait t with
  | some (.waitp r _) => some r
  | some _ => none
  | none => t.awaited.head?

/-- A landing has been held: a record whose awaited register is complete awaits none, and is made runnable (R188). -/
def awaitedHeld (s : State) (h : Handle) : State :=
  match findThread s h with
  | none => s
  | some u =>
    match recordedReg u with
    | none => s
    | some r =>
      if present u r then
        makeRunnable (modThread s h (fun t => { t with
          awaited := []
          status := match t.status with
            | .away (some (.waitp _ _)) => .away none
            | x => x })) h 2
      else s

/-- Holding (R188): the image's register, and the record's awaited register. -/
def hold (s : State) (t : Thread) (p : Packet) : State :=
  match (if outsideWindow t p.la then some (6 : BitVec 8)
    else if p.cond && !fixedReg (laReg p.la) && present t (laReg p.la) then some 4 else none) with
  | some sub => pend s (.landingRefusal p sub)
  | none =>
    let s := awaitedHeld (modThread s t.handle (fun t => arrivePacket t p)) t.handle
    pend (writeImage s t.handle) (.landingAcknowledgement p 0xFFF)

/-- DIRECTORY_RESOLVE (R183): by the entry, in the order of its table. A landing that is only sent on keeps its check code unread; one
that ends here, held or refused, has it checked before any other test (R178, R184). -/
def execDirectoryResolve (p : Packet) (s : State) : Out :=
  let h := laHandle p.la
  let e := dirOf s (hIndex h)
  if e.state = 1 && e.gen = hGen h && e.world = p.o.world then .next (pend s (.landingArrival e.core { p with hops := 0 }))
  else if !crcOk p then .next (pend s (.checkFailure p))
  else if e.state = 0 then .next (pend s (.landingRefusal p 1))
  else if e.gen ≠ hGen h then .next (pend s (.landingRefusal p 2))
  else if e.world ≠ p.o.world then .next (pend s (.landingRefusal p 3))
  else
    match findThread s h with
    | none => .next (pend s (.landingRefusal p 1))
    | some t => .next (hold s t p)

/-- Bytes written into a table of bytes from `off` on. -/
def wrTable (m : Sparse Byte) (off : Nat) : List Byte → Sparse Byte
  | [] => m
  | b :: r => wrTable (sset 0 m off b) (off + 1) r

/-- A matrix unit exists where its cluster is present (R5). -/
def unitPresent (s : State) (u : BitVec 8) : Bool := clusterPresent s (bits u 1 7)

/-- The pieces of a slot landing, by their places in the slot (R69): of a masked one those of the selected lanes (R165). -/
def slotPieces (p : Packet) : List Piece :=
  (if p.hasMask then
    ((upFrom 0 ((p.payload.length + 3) / 4)).filter (bit p.lmask)).map (fun l =>
      ({ va := laOff p.la + 4 * l, len := 4, off := 4 * l, acc := .w } : Chunk))
  else chunks .w (laOff p.la) p.payload.length 0).map (fun c => { addr := c.va, va := c.va, len := c.len, off := c.off, key := none })

/-- One piece of a slot landing is written, into the data or a side-band (R230, R246). -/
def landSlot (x : OpSlot) (p : Packet) (y : Piece) : OpSlot :=
  let b := slice p.payload y.off y.len
  if laPart p.la = 1 then { x with scale := wrTable x.scale y.addr b }
  else if laPart p.la = 2 then { x with book := wrTable x.book y.addr b }
  else { x with data := wrTable x.data y.addr b }

/-- The pieces of a slot landing that has passed its tests, one after another and in any order; the last one is acknowledged (R69). -/
def slotStep (s : State) (p : Packet) (l : List Piece) : State :=
  match takeAt (choose s l.length) l with
  | none => ackPlain s p
  | some (y, rest) =>
    let u := laUnit p.la
    let k := unitAt s u
    let x := sget OpSlot.init k.slots (laSlot p.la)
    let s := setUnit s u { k with slots := sset OpSlot.init k.slots (laSlot p.la) (landSlot x p y) }
    if rest = [] then ackPlain s { p with pieces := [] } else pendFirst s (.slotLanding { p with pieces := rest })

/-- SLOT_LANDING (R69, R184, R230, R246): into the data or a side-band of a claimed slot of the sender's world, piece by piece; one whose
pieces are listed has passed its tests, and goes on while the slot is claimed. -/
def execSlotLanding (p : Packet) (s : State) : Out :=
  let u := laUnit p.la
  let k := unitAt s u
  let x := sget OpSlot.init k.slots (laSlot p.la)
  if p.pieces ≠ [] then .next (if x.owner.isNone then pend s (.landingRefusal p 5) else slotStep s p p.pieces)
  else if !crcOk p then .next (pend s (.checkFailure p))
  else if !unitPresent s u || x.owner.isNone then .next (pend s (.landingRefusal p 5))
  else if x.world ≠ p.o.world then .next (pend s (.landingRefusal p 3))
  else .next (slotStep s p (slotPieces p))

/-- MEMORY_LANDING (R11, R69): one piece of the store at its home, in any order. -/
def execMemoryLanding (p : Packet) (s : State) : Out :=
  if !crcOk p then .next (pend s (.checkFailure p))
  else
    match takeAt (choose s p.pieces.length) p.pieces with
    | none => .next (ackPlain s p)
    | some (x, rest) =>
      if assigned s x.addr then
        let s1 := wrPiece s x p.payload
        let p1 := { p with pieces := rest }
        .next (if rest = [] then ackPlain s1 p1 else pendFirst s1 (.memoryLanding p1))
      else .fault (.unassignedAddress x.addr)

/-- NSEND.L completes once its landing is answered and its packet is acknowledged (R300, R305), or given up. -/
def endLanded (s : State) (h : Handle) (q : BitVec 16) (lost : Bool) : State :=
  match findCmd s h q with
  | none => s
  | some c =>
    match c.net with
    | none => s
    | some n =>
      if n.land && c.acks = 0 && (lost || n.got ≠ []) && c.fin.isNone then
        (if c.refused then endCmd s h q 4 0 else endCmd s h q 0 (BitVec.ofNat 32 (putPayload n.target n.place).length))
      else s

/-- A landing of an engine command is answered: it counts it, and a landing of NSEND.L ends its command
(R177, R214, R245, R305). The bytes of a refused one are not written. -/
def cmdAnswered (s : State) (p : Packet) (refused lost : Bool) : State :=
  if bit p.o.seq 31 then
    let q : BitVec 16 := bits p.o.seq 0 16
    let gone (c : Command) : Nat := if refused && (c.net.isNone || c.kind = 0x21) then p.payload.length else 0
    let s := modCmd s p.o.by' q (fun c => { c with
      acks := c.acks - 1, refused := c.refused || refused, count := c.count - gone c
      fin := c.fin.map (fun e => (e.1, e.2 - BitVec.ofNat 32 (gone c))) })
    endLanded s p.o.by' q lost
  else s

/-- LANDING_ACKNOWLEDGEMENT at the agent that keeps the copy (R177, R180); of another device's landing it
travels back to it (R191). -/
def execLandingAcknowledgement (p : Packet) (place : BitVec 12) (s : State) : Out :=
  if p.o.dev ≠ s.dev then .next (landingAnswered (send s (.landAnswer p place 0)) p 0)
  else
    let s := dropCopy s p
    let s := if laSpace p.la = 1 && laDev p.la = s.dev then
        locPut s p.o.agent (laHandle p.la) (if place = 0xFFF then none else some (bits place 0 11))
      else s
    let s := if p.counted then answered s p.o else s
    .next (cmdAnswered s p false false)

/-- A landing has failed for good: the agent forgets it and its sender is told; a refusal removes its handle's entry of the location
cache, a final check failure does not (R177, R180, R185). -/
def failed (s : State) (p : Packet) (sub : BitVec 8) : State :=
  let s := dropCopy s p
  let s := if laSpace p.la = 1 && sub ≠ 0 then locDrop s p.o.agent (laHandle p.la) else s
  let s := if p.counted then answered s p.o else s
  let s := cmdAnswered s p true (sub = 0)
  failLanding s p.o.by' p.o.world p.la sub p.o.seq

/-- LANDING_REFUSAL (R185). -/
def execLandingRefusal (p : Packet) (sub : BitVec 8) (s : State) : Out :=
  if p.o.dev ≠ s.dev then .next (landingAnswered (send s (.landAnswer p 0xFFF sub)) p sub)
  else .next (failed s p sub)

/-- The agent's copy leaves again. -/
def resend (s : State) (p : Packet) (again : Bool) : State :=
  match s.copies.find? (samePacket p) with
  | none => s
  | some q =>
    let q1 := if again then { q with tries := q.tries + 1 } else q
    transmit { s with copies := s.copies.map (fun c => if samePacket p c then q1 else c) } q1

/-- CHECK_FAILURE (R178): the copy is sent again, four times in all; then the failure is final. -/
def execCheckFailure (p : Packet) (s : State) : Out :=
  if p.o.dev ≠ s.dev then .next (landingAnswered (send s (.landAnswer p 0xFFF 0xFF)) p 0xFF)
  else
    match s.copies.find? (samePacket p) with
    | none => .next s
    | some q => if q.tries < 4 then .next (resend s p true) else .next (failed s q 0)

/-- BUSY (R187): the agent sends again after 64 cycles. -/
def execBusy (p : Packet) (s : State) : Out := .next (pend s (.busyResend p))

/-- BUSY_RESEND (R187): it does not count towards the four sendings. Of a landing from another device, whose agent the busy answer does not
reach (R191 lists none), the target's directory agent resolves it again: the spec names no outcome, and this is the model's choice
(log 12). -/
def execBusyResend (p : Packet) (s : State) : Out :=
  if p.o.dev ≠ s.dev then .next (pend s (.directoryResolve p)) else .next (resend s p false)

end Sys2Proof.Machine
end

