-- ==== Sys2Proof/Machine/Ports.lean ====
section
/-! DEFINITION. Engine ports and completion (R82, R169 to R174, R200, R210, R236, R239, R335). -/

namespace Sys2Proof.Machine

open Sys2Proof

/-! ### Layouts that ISSUE checks -/

/-- Length of a command of a kind, from its word 0; none for an unassigned kind (R210, R239, R335). -/
def cmdLength (p : Port) (w0 : Word) : Option Nat :=
  let k := field w0 0 8
  let l := field w0 10 3
  let nest (n : Nat) := if 1 ≤ l && l ≤ 5 then some (n + l) else none
  match p with
  | .e0 => if k = 1 then nest 2 else if k = 2 then nest 3 else if k = 3 then some 3 else if k = 4 || k = 5 then some 2 else none
  | .e1 => if k = 1 || k = 2 then nest 4 else if k = 3 || k = 4 then some 2 else if k = 5 then some 5 else none
  | .e2 => if k = 1 || k = 2 then some 3 else none

/-- `Q` and `LC` (R171). -/
def wantsWord (w0 : Word) : Bool := bit w0 8
/-- `LC` (R171). -/
def wantsLanding (w0 : Word) : Bool := bit w0 9

/-- Word of the `CMPL` field of a layout, if it has one. -/
def cmplWord (p : Port) (k : Nat) : Option Nat :=
  match p with
  | .e0 => if k = 1 then some 1 else if k = 2 || k = 3 then some 2 else none
  | .e1 => if k = 1 || k = 2 || k = 5 then some 3 else none
  | .e2 => some 2

/-- Word of the destination field of a layout, if it has one. -/
def dstWord (p : Port) (k : Nat) : Option Nat :=
  match p with
  | .e0 => if k = 2 then some 1 else none
  | .e1 => if k = 1 || k = 2 then some 2 else none
  | .e2 => none

/-- The n-th word of a command. -/
def nthWord (ws : List Word) (i : Nat) : Word := ws.getD i 0

/-- Reserved bits that ISSUE itself checks (R215, R243, R335). -/
def issueFieldsOk (p : Port) (ws : List Word) : Bool :=
  let w0 := nthWord ws 0
  let w1 := nthWord ws 1
  let k := field w0 0 8
  match p with
  | .e0 => !(k = 4 || k = 5) || (field w0 9 55 = 0 && field w1 16 48 = 0)
  | .e1 => !(k = 3 || k = 4) || (field w0 9 55 = 0 && field w1 16 48 = 0)
  | .e2 => if k = 1 then field w0 18 46 = 0 && field w1 0 8 = 0 else field w0 10 54 = 0 && field w1 24 40 = 0

/-- A landing address that no destination of a command may have (R10, R211, R241). -/
def dstLaBad (la : Word) : Bool := laMalformed la || laSpace la = 3 || (laSpace la = 1 && laClass la ≠ 1)

/-- The first landing address of a command that ISSUE turns down (R171, R294). -/
def issueLaBad (s : State) (p : Port) (ws : List Word) : Option Word :=
  let w0 := nthWord ws 0
  let k := field w0 0 8
  let dst := match dstWord p k with
    | some i => if dstLaBad (nthWord ws i) || laUnreachable s (nthWord ws i) then some (nthWord ws i) else none
    | none => none
  let cmpl := match cmplWord p k with
    | some i =>
      let la := nthWord ws i
      if wantsLanding w0 && (laMalformed la || laCrosses la (putPayload la 0).length false || laUnreachable s la) then some la else none
    | none => none
  match dst with
  | some la => some la
  | none => cmpl

/-- The traps of ISSUE, in its order (R171). -/
def issueBad (s : State) (n : BitVec 4) (a : BitVec 6) (p : Port) (ws : List Word) : Option Bad :=
  if cmdLength p (nthWord ws 0) ≠ some (n.toNat + 1) || !issueFieldsOk p ws then
    some (.trap .illegal (illegalVal 1 (wordC (.issue n a p))))
  else (issueLaBad s p ws).map (fun la => .trap .badLa la)

/-! ### Commands accepted -/

/-- A command enters its engine's queue. -/
def enqueueCmd (s : State) (c : Command) : State :=
  let s := { s with cmds := s.cmds ++ [c] }
  match c.port with
  | .e0 =>
    if c.accz.isSome then nextHead s c.core
    else if c.kind = 4 then pend s (.mresume c.handle c.seq)
    else if c.kind = 5 then pend s (.mcancel c.handle c.seq)
    else nextHead s c.core
  | .e1 =>
    if c.kind = 1 then pend s (.copy c.handle c.seq)
    else if c.kind = 2 then pend s (.copyf c.handle c.seq)
    else if c.kind = 3 then pend s (.copyr c.handle c.seq)
    else if c.kind = 4 then pend s (.copyc c.handle c.seq)
    else pend s (.mcrun c.handle c.seq)
  | .e2 => if c.kind = 1 then pend s (.grun c.handle c.seq) else pend s (.depdec c.handle c.seq)

/-- A command as ISSUE forms it; E0 accepts it at once (R171, R236). -/
def newCommand (s : State) (t : Thread) (p : Port) (ws : List Word) : Command :=
  { handle := t.handle, seq := t.dseqNext, port := p, kind := bits (nthWord ws 0) 0 8, words := ws, core := t.core
    world := t.world, asid := t.asid, weight := bits t.muw 0 4, n := s.stamp, waits := outstanding s (senderOf s t) 7
    state := match p with
      | .e0 => .waiting
      | _ => .queued
    vec := 0, count := 0, acks := 0, refused := false, fault := none, fin := none, accz := none, net := none }

/-- Registers of a command block. -/
def blockRegs (a : BitVec 6) (n : Nat) : List (BitVec 6) := (upFrom 0 n).map (fun i => a + BitVec.ofNat 6 i)

/-- Is the further entry for MRESUME and MCANCEL taken (R236)? -/
def furtherTaken (s : State) (core : BitVec 11) : Bool :=
  s.cmds.any (fun c => c.core = core && c.port = .e0 && c.net.isNone && c.fin.isNone && c.accz.isNone && (c.kind = 4 || c.kind = 5))

/-- Does a full queue or ring hold an ISSUE (R170, R171)? -/
def issueHeld (s : State) (t : Thread) (p : Port) (w0 : Word) : Bool :=
  let k := field w0 0 8
  let full := match p with
    | .e0 => if k = 4 || k = 5 then furtherTaken s t.core else 16 ≤ queueUsed s t.core .e0
    | p => portDepth p ≤ queueUsed s t.core p
  full || 64 ≤ outstanding64 t || (ringAt t t.dseqNext).state ≠ 0 ||
    (wantsWord w0 && portDepth p ≤ wordsUsed s t.core p) || fenced s t 8

/-- ISSUE (R171). -/
def execIssue (n : BitVec 4) (a : BitVec 6) (p : Port) (s : State) : Out :=
  let t := s.th
  let rs := blockRegs a (n.toNat + 1)
  let ws := rs.map (rdS t)
  let w0 := nthWord ws 0
  let e : RingEntry :=
    { seq := t.dseqNext, port := portNum p, q := wantsWord w0, lc := wantsLanding w0, state := 1, kind := bits w0 0 8
      status := 0, cord := 0, vec := 0 }
  let t1 := { ringSet (advance t) t.dseqNext e with dseqNext := t.dseqNext + 1 }
  conclude .c
    { specs := [], needs := rs.map Reg.s, bad := issueBad s n a p ws, hold := issueHeld s t p w0
      next := enqueueCmd (setTh { s with stamp := s.stamp + 1 } t1) (newCommand s t p ws) } s

/-- POP (R172): takes the oldest word of the port in completion order, or sleeps until one comes. -/
def execPop (d : BitVec 6) (p : Port) (s : State) : Out :=
  let t := advance s.th
  let next := match firstWord t p with
    | some e => setTh s (takeWord t d e)
    | none => setTh s { t with status := .sleeping (.pop p d) }
  conclude .c (plainPlan [.s d] next) s

/-- PORTST (R173). Network commands, whose ring entries also name port 0, are no commands of `E0`. -/
def execPortst (d : BitVec 6) (p : Port) (s : State) : Out :=
  let t := s.th
  let free := min 255 (portDepth p - queueUsed s t.core p)
  let ready := (t.ring.filter (fun e => e.2.state = 4 && e.2.port = portNum p)).length
  let old := match oldest t (fun e => incomplete e && e.port = portNum p && e.kind.toNat < 0x20) with
    | some e => e.seq
    | none => t.dseqNext
  let v : Word := (0#32 ++ old ++ BitVec.ofNat 8 ready ++ BitVec.ofNat 8 free).cast (by decide)
  conclude .c (plainPlan [.s d] (setTh s (advance (wrS t d v)))) s

/-- SEQWAIT (R174): held until every command up to s is complete. -/
def execSeqwait (a : BitVec 6) (s : State) : Out :=
  let t := s.th
  let q : BitVec 16 := bits (rdS t a) 0 16
  conclude .c
    { specs := [], needs := [.s a], bad := none, next := setTh s (advance t)
      hold := t.ring.any (fun e => incomplete e.2 && (q - e.2.seq).toNat < 2 ^ 15) } s

/-! ### Completion (R82, R172, R200) -/

/-- A completion landing in memory space is checked when it is sent: alignment, device, translation, presence and
permission (R82). The place of the write, if it passes. -/
def completionPieces (s : State) (c : Command) (la : Word) : Option (List Piece) :=
  let va := laVa la
  if va % 8 ≠ 0 then none
  else
    match pieceOf s (tlbsOfCore s c.core) c.asid { va := va, len := 8, off := 0, acc := .w } with
    | some p => some [p]
    | none => none

/-- Does a landing of a command in memory space wait for a miss to end, 32 being outstanding in its cluster (R341)? -/
def landingWaits (s : State) (c : Command) (la : Word) : Bool :=
  laSpace la = 0 && missWaits s (tlbsOfCore s c.core) (clusterOf c.core) c.asid [laVa la]

/-- The landing address of a command's completion, if its layout asks for one (R82). -/
def completionLa (c : Command) : Option Word :=
  if c.net.isNone && wantsLanding (nthWord c.words 0) then (cmplWord c.port c.kind.toNat).map (nthWord c.words) else none

/-- Does the completion landing of a command wait so? -/
def completionWaits (s : State) (c : Command) : Bool := (completionLa c).any (landingWaits s c)

/-- The memory core that an MCRUN names, device-wide (R225). -/
def mcrunCore (c : Command) : Nat := 192 * (dieOf c.core).toNat + field (nthWord c.words 1) 0 8

/-- The agent that forms a command's landings (R177). -/
def cmdAgent (c : Command) : Agent :=
  match c.net with
  | some n => .net (BitVec.ofNat 1 (netDie n.dst n.cls))
  | none =>
    match c.port with
    | .e0 => .unit (unitOf c.core)
    | .e1 => if c.kind = 5 then .memoryCore (BitVec.ofNat 10 (mcrunCore c)) else .copy c.engine
    | .e2 => .dispatcher

/-- The completion landing of a command: `LC` of the layout, or the register of a network command; a translation that fails is a miss too
(R82, R305, R340). -/
def landCompletion (s : State) (c : Command) (w : Word) : State :=
  let go (s : State) (la : Word) : State :=
    let (s1, o) := cmdOrigin s c.handle c.world c.core c.seq (cmdAgent c)
    let p := { packet o la (putPayload la w) with rel := true }
    if laSpace la = 0 then
      let s2 := useTlb s1 c.core true c.asid (laVa la)
      match completionPieces s1 c la with
      | some l => sendLanding s2 { p with pieces := l }
      | none => failLanding s2 c.handle c.world la 7 o.seq
    else sendLanding s1 p
  match c.net, completionLa c with
  | some n, _ => if n.d = 0 then s else go s (regLa s.dev c.handle (.s n.d))
  | none, some la => go s la
  | none, none => s

/-- Does an ended entry before it in its core's matrix queue still owe its completion, and nothing else? The entries of one
queue complete in order (R236). -/
def behindEnded (s : State) (c : Command) : Bool :=
  let queued (e : Command) : Bool := e.port = .e0 && e.net.isNone && e.accz.isNone && e.kind ≠ 4 && e.kind ≠ 5
  queued c && (s.cmds.takeWhile (fun e => !(e.handle = c.handle && e.seq = c.seq))).any (fun e =>
    queued e && e.core = c.core && e.fin.isSome && e.acks = 0)

/-- COMPLETION_LANDING (R82): after every landing of the command is answered, its locks are removed, its landing
is sent, and its ring entry says so. -/
def execCompletionLanding (h : Handle) (q : BitVec 16) (s : State) : Out :=
  match findCmd s h q with
  | none => .next s
  | some c =>
    match c.fin with
    | none => .next s
    | some (st, res) =>
      if c.acks ≠ 0 || behindEnded s c || completionWaits s c then .next (pend s (.completionLanding h q))
      else
        let st := if st = 0 && c.refused && c.net.isNone && !(c.port = .e1 && c.kind = 5) then 4 else st
        let s := unlock s h q
        let s := landCompletion s c (completionWord q st (portNum c.port) res)
        let s := modRing s h (fun t => ringComplete t q st res)
        let s := dropCmd s h q
        .next (if (findThread s h).isNone then dropClaimsIfIdle s h else s)

end Sys2Proof.Machine
end

