-- ==== Sys2Proof/Machine/Flags.lean ====
section
/-! DEFINITION. The floating-point flags of a thread (R56, R96). -/

namespace Sys2Proof.Machine

open Sys2Proof

/-- The flags as bits of `TSTAT` (R96). -/
def flagBits (f : Flags) : Word :=
  (if f.nv then 1 else 0) ||| (if f.dz then 2 else 0) ||| (if f.of' then 4 else 0) ||| (if f.uf then 8 else 0) |||
    (if f.nx then 16 else 0)

/-- The flags that an instruction raises are sticky (R56). -/
def raise (t : Thread) (f : Flags) : Thread := { t with tstat := t.tstat ||| flagBits f }

/-- A flag of an invalid operation alone. -/
def invalidFlag (b : Bool) : Flags := { noFlags with nv := b }

end Sys2Proof.Machine
end

