-- ==== Sys2Proof/Machine/Operands.lean ====
section
/-! DEFINITION. Operands of the A-slot: elements of a vector register in its bank's format, the checks of
formats, and results written back (R46, R57, R59, R133, R134). -/

namespace Sys2Proof.Machine

open Sys2Proof

/-! ### Elements (R46) -/

/-- The first n elements of width w. -/
def elemsFrom (w : Nat) : Nat → Nat → List Nat
  | 0, _ => []
  | n + 1, x => x % 2 ^ w :: elemsFrom w n (x / 2 ^ w)
/-- The elements of a register, in order. -/
def elemsOf (w : Nat) (x : Lanes) : List Nat := elemsFrom w (2048 / w) x.toNat
/-- The number that elements form. -/
def joinElems (w : Nat) : List Nat → Nat
  | [] => 0
  | e :: r => e % 2 ^ w + 2 ^ w * joinElems w r
/-- The register that elements form. -/
def lanesOf (w : Nat) (l : List Nat) : Lanes := BitVec.ofNat 2048 (joinElems w l)
/-- Is element i active under a mask (R133)? -/
def activeElem (mask : Word) (w i : Nat) : Bool := bit mask (i * w / 32)

/-- A vector operand: its register, format, elements, and the codebook of its bank (R57, R134). -/
structure VOp where
  reg : BitVec 9
  fmt : Fmt
  els : List Nat
  book : BitVec 256

/-- The operand that a specifier names. A tag is never reserved (R45). -/
def vop (t : Thread) (v : BitVec 8) : VOp :=
  let r := spec t v
  let f := (fmtOf (rdBfmt t (bankOf r))).getD .fp32
  { reg := r, fmt := f, els := elemsOf (fmtWidth f) (rdV t r), book := rdCbk t (bankOf r) }

/-- Container width of an operand. -/
def VOp.width (o : VOp) : Nat := fmtWidth o.fmt
/-- Encoding of an element as it is read: bits [7:6] of a 6-bit format are ignored (R46). -/
def readCode (o : VOp) (x : Nat) : Nat := x % 2 ^ fmtUsed o.fmt
/-- Exact value of an element. -/
def readElem (o : VOp) (x : Nat) : Exact := decodeElem o.fmt o.book x
/-- Encoding of an element as it is written (R46). -/
def writeCode (f : Fmt) (x : Nat) : Nat := x % 2 ^ fmtUsed f

/-! ### Formats (R59, R134) -/

/-- What an instruction asks of the formats of its operands. -/
inductive FmtRule | either | widths | ofClass (c : FmtClass)
deriving DecidableEq, Repr, Inhabited

/-- Do the formats obey the rule? -/
def fmtsOk (rule : FmtRule) (l : List Fmt) : Bool :=
  let w := (l.head?.map fmtWidth).getD 0
  l.all (fun f => fmtWidth f = w) &&
    (match rule with
     | .widths => true
     | .either => l.all (fun f => fmtClass f = .int) || l.all (fun f => fmtClass f = .float)
     | .ofClass c => l.all (fun f => fmtClass f = c))

/-- `FORMAT` (R59). -/
def formatBad (ok : Bool) : Option Bad := if ok then none else some (.trap .format 0)

/-! ### Results -/

/-- The integer of an exact value that is one. -/
def exactInt : Exact → Int
  | .fin m e => m * 2 ^ e.toNat
  | _ => 0

/-- An exact result, and whether the operation was invalid, in the destination format: one rounding, or a
wrap (R53, R59). -/
def intoFmt (f : Fmt) (r : Exact × Bool) : Nat × Flags :=
  match fmtClass f with
  | .int => (wrapInt f (exactInt r.1), noFlags)
  | _ =>
    let (x, fl) := roundTo f .rne false r.1
    (x, orFlags fl (invalidFlag r.2))

/-- Elements of the destination, one after another: an active one takes its result, another keeps its bits
(R133). The operands give one value for each. -/
def elementwise {α : Type} (mask : Word) (w : Nat) (f : Nat → α → Nat × Flags) : Nat → List Nat → List α → List Nat × Flags
  | i, d :: ds, a :: as =>
    let (r, g) := elementwise mask w f (i + 1) ds as
    if activeElem mask w i then
      let (x, fl) := f d a
      (x :: r, orFlags fl g)
    else (d :: r, g)
  | _, ds, _ => (ds, noFlags)

/-- A mask register of the m field. -/
def mreg (m : BitVec 2) : BitVec 4 := m.zeroExtend 4

/-- An A-slot instruction that writes the elements of its destination. -/
def vecPlan (s : State) (d : VOp) (specs : List (BitVec 8)) (needs : List Reg) (ok : Bool) (res : List Nat × Flags) : Plan :=
  { specs := specs, needs := .v d.reg :: needs, bad := formatBad ok, hold := false
    next := setTh s (raise (advance (wrV s.th d.reg (lanesOf d.width res.1))) res.2) }

/-- The half of a scalar operand that x selects (R27). -/
def scalarHalf (t : Thread) (b : BitVec 6) (hi : Bool) : Nat := field (rdS t b) (if hi then 32 else 0) 32

end Sys2Proof.Machine
end

