-- ==== Sys2Proof/Machine/Vector.lean ====
section
/-! DEFINITION. Vector and format instructions (R133 to R155). -/

namespace Sys2Proof.Machine

open Sys2Proof

/-! ### Shared forms -/

/-- Three vector operands; the destination is read as well (R136). -/
def vecThree (rule : FmtRule) (f : VOp → VOp → VOp → Nat → Nat → Nat → Nat × Flags) (d a b : BitVec 8) (m : BitVec 2)
    (s : State) : Out :=
  let t := s.th
  let vd := vop t d
  let va := vop t a
  let vb := vop t b
  let res := elementwise (rdM t (mreg m)) vd.width (fun x (y : Nat × Nat) => f vd va vb x y.1 y.2) 0 vd.els (va.els.zip vb.els)
  conclude .a (vecPlan s vd [d, a, b] [.v va.reg, .v vb.reg, .m (mreg m)] (fmtsOk rule [va.fmt, vb.fmt, vd.fmt]) res) s

/-- Two vector operands. -/
def vecTwo (rule : FmtRule) (f : VOp → VOp → Nat → Nat → Nat × Flags) (needs : List Reg) (d a : BitVec 8) (m : BitVec 2)
    (s : State) : Out :=
  let t := s.th
  let vd := vop t d
  let va := vop t a
  let res := elementwise (rdM t (mreg m)) vd.width (f vd va) 0 vd.els va.els
  conclude .a (vecPlan s vd [d, a] (needs ++ [.v va.reg, .m (mreg m)]) (fmtsOk rule [va.fmt, vd.fmt]) res) s

/-! ### Elementwise arithmetic (R136, R137) -/

/-- An arithmetic function of exact values, of d, a and b. -/
abbrev Arith := Exact → Exact → Exact → Exact × Bool

/-- a + b. -/
def arAdd : Arith := fun _ a b => numAdd a b
/-- a − b. -/
def arSub : Arith := fun _ a b => numAdd a (numNegate b)
/-- a × b. -/
def arMul : Arith := fun _ a b => numMul a b
/-- a × b + d. -/
def arFma : Arith := fun d a b => numFma a b d
/-- d − a × b. -/
def arFms : Arith := fun d a b => numFma (numNegate a) b d
/-- The lesser (R137). -/
def arMin : Arith := fun _ a b => numPick false a b
/-- The greater (R137). -/
def arMax : Arith := fun _ a b => numPick true a b

/-- Three registers (R136). -/
def vecArith (f : Arith) (d a b : BitVec 8) (m : BitVec 2) (s : State) : Out :=
  vecThree .either (fun vd va vb x y z => intoFmt vd.fmt (f (readElem vd x) (readElem va y) (readElem vb z))) d a b m s

/-- A scalar element in the destination format (R59). -/
def vecScalar (f : Arith) (d a : BitVec 8) (b : BitVec 6) (hi : Bool) (m : BitVec 2) (s : State) : Out :=
  let h := scalarHalf s.th b hi
  vecTwo .either (fun vd va x y => intoFmt vd.fmt (f (readElem vd x) (readElem va y) (readElem vd (h % 2 ^ vd.width))))
    [.s b] d a m s

/-- VADD (R136). -/
def execVadd (d a b : BitVec 8) (m : BitVec 2) (s : State) : Out := vecArith arAdd d a b m s
/-- VSUB (R136). -/
def execVsub (d a b : BitVec 8) (m : BitVec 2) (s : State) : Out := vecArith arSub d a b m s
/-- VMUL (R136). -/
def execVmul (d a b : BitVec 8) (m : BitVec 2) (s : State) : Out := vecArith arMul d a b m s
/-- VFMA (R136). -/
def execVfma (d a b : BitVec 8) (m : BitVec 2) (s : State) : Out := vecArith arFma d a b m s
/-- VFMS (R136). -/
def execVfms (d a b : BitVec 8) (m : BitVec 2) (s : State) : Out := vecArith arFms d a b m s
/-- VMIN (R137). -/
def execVmin (d a b : BitVec 8) (m : BitVec 2) (s : State) : Out := vecArith arMin d a b m s
/-- VMAX (R137). -/
def execVmax (d a b : BitVec 8) (m : BitVec 2) (s : State) : Out := vecArith arMax d a b m s
/-- VADDI (R136): the immediate is an exact value. -/
def execVaddi (d a i : BitVec 8) (m : BitVec 2) (s : State) : Out :=
  vecTwo .either (fun vd va _ y => intoFmt vd.fmt (numAdd (readElem va y) (numOf i.toInt 0))) [] d a m s
/-- VADDS (R136). -/
def execVadds (d a : BitVec 8) (b : BitVec 6) (hi : Bool) (m : BitVec 2) (s : State) : Out := vecScalar arAdd d a b hi m s
/-- VSUBS (R136). -/
def execVsubs (d a : BitVec 8) (b : BitVec 6) (hi : Bool) (m : BitVec 2) (s : State) : Out := vecScalar arSub d a b hi m s
/-- VMULS (R136). -/
def execVmuls (d a : BitVec 8) (b : BitVec 6) (hi : Bool) (m : BitVec 2) (s : State) : Out := vecScalar arMul d a b hi m s
/-- VFMAS (R136). -/
def execVfmas (d a : BitVec 8) (b : BitVec 6) (hi : Bool) (m : BitVec 2) (s : State) : Out := vecScalar arFma d a b hi m s

/-! ### Bitwise forms and shifts (R136, R138) -/

/-- A bitwise form acts on encodings (R59). -/
def vecBits (f : Nat → Nat → Nat) (d a b : BitVec 8) (m : BitVec 2) (s : State) : Out :=
  vecThree .widths (fun vd va vb _ y z => (writeCode vd.fmt (f (readCode va y) (readCode vb z)), noFlags)) d a b m s

/-- VAND (R136). -/
def execVand (d a b : BitVec 8) (m : BitVec 2) (s : State) : Out := vecBits (· &&& ·) d a b m s
/-- VOR (R136). -/
def execVor (d a b : BitVec 8) (m : BitVec 2) (s : State) : Out := vecBits (· ||| ·) d a b m s
/-- VXOR (R136). -/
def execVxor (d a b : BitVec 8) (m : BitVec 2) (s : State) : Out := vecBits (· ^^^ ·) d a b m s

/-- A shift of an encoding of width w by n, for the destination format (R138). -/
abbrev Shift := Fmt → Nat → Nat → Nat → Nat

/-- Left. -/
def shLeft : Shift := fun _ w x n => if w ≤ n then 0 else x * 2 ^ n % 2 ^ w
/-- Right, filling with 0. -/
def shRight : Shift := fun _ w x n => if w ≤ n then 0 else x / 2 ^ n
/-- Right, filling with the sign bit of a signed destination format. -/
def shArith : Shift := fun f w x n =>
  let fill : Bool := f ≠ .uint8 && 2 ^ (w - 1) ≤ x
  let k := min n w
  x / 2 ^ k + (if fill then 2 ^ w - 2 ^ (w - k) else 0)

/-- Amounts from a register, read unsigned (R138). -/
def vecShift (f : Shift) (d a b : BitVec 8) (m : BitVec 2) (s : State) : Out :=
  vecThree (.ofClass .int) (fun vd _ _ _ y z => (f vd.fmt vd.width y z, noFlags)) d a b m s
/-- Amount from the immediate, read unsigned (R136). -/
def vecShiftImm (f : Shift) (d a i : BitVec 8) (m : BitVec 2) (s : State) : Out :=
  vecTwo (.ofClass .int) (fun vd _ _ y => (f vd.fmt vd.width y i.toNat, noFlags)) [] d a m s

/-- VSHL (R138). -/
def execVshl (d a b : BitVec 8) (m : BitVec 2) (s : State) : Out := vecShift shLeft d a b m s
/-- VSHR (R138). -/
def execVshr (d a b : BitVec 8) (m : BitVec 2) (s : State) : Out := vecShift shRight d a b m s
/-- VSRA (R138). -/
def execVsra (d a b : BitVec 8) (m : BitVec 2) (s : State) : Out := vecShift shArith d a b m s
/-- VSHLI (R138). -/
def execVshli (d a i : BitVec 8) (m : BitVec 2) (s : State) : Out := vecShiftImm shLeft d a i m s
/-- VSHRI (R138). -/
def execVshri (d a i : BitVec 8) (m : BitVec 2) (s : State) : Out := vecShiftImm shRight d a i m s
/-- VSRAI (R138). -/
def execVsrai (d a i : BitVec 8) (m : BitVec 2) (s : State) : Out := vecShiftImm shArith d a i m s

/-! ### Dot product of four (R139) -/

/-- An exact sum, and whether it is invalid: a signalling NaN or infinities of both signs among its terms (R56). -/
def exactSum (l : List Exact) : Exact × Bool :=
  let pos := l.any (fun x => x = .inf false)
  let neg := l.any (fun x => x = .inf true)
  let sum := match l with
    | [] => Exact.zero false
    | x :: r => r.foldl (fun a b => (numAdd a b).1) x
  (sum, l.any numIsSig || (pos && neg))

/-- One group: d + Σ aᵢ·bᵢ, exact. -/
def dotFour (d : Exact) (p : List (Exact × Exact)) : Exact × Bool :=
  let ps := p.map (fun e => numMul e.1 e.2)
  let r := exactSum (d :: ps.map (·.1))
  (r.1, r.2 || ps.any (·.2))

/-- Groups of four, one after another. -/
def dotGroups (mask : Word) (vd va vb : VOp) : Nat → List Nat → List Nat → List Nat → List Nat × Flags
  | i, d0 :: d1 :: d2 :: d3 :: ds, a0 :: a1 :: a2 :: a3 :: as, b0 :: b1 :: b2 :: b3 :: bs =>
    let (r, g) := dotGroups mask vd va vb (i + 4) ds as bs
    if activeElem mask vd.width i then
      let mul (x y : Nat) := (readElem va x, readElem vb y)
      let (x, fl) := intoFmt vd.fmt (dotFour (readElem vd d0) [mul a0 b0, mul a1 b1, mul a2 b2, mul a3 b3])
      (x :: 0 :: 0 :: 0 :: r, orFlags fl g)
    else (d0 :: d1 :: d2 :: d3 :: r, g)
  | _, ds, _, _ => (ds, noFlags)

/-- VDOT4 (R139). -/
def execVdot4 (d a b : BitVec 8) (m : BitVec 2) (s : State) : Out :=
  let t := s.th
  let vd := vop t d
  let va := vop t a
  let vb := vop t b
  conclude .a (vecPlan s vd [d, a, b] [.v va.reg, .v vb.reg, .m (mreg m)] (fmtsOk .either [va.fmt, vb.fmt, vd.fmt])
    (dotGroups (rdM t (mreg m)) vd va vb 0 vd.els va.els vb.els)) s

/-! ### Unary functions (R140 to R142) -/

/-- A function of an exact value, rounded once; an integer destination wraps. -/
def vecUnary (rule : FmtRule) (f : Exact → Exact × Flags) (d a : BitVec 8) (m : BitVec 2) (s : State) : Out :=
  vecTwo rule (fun vd va _ y =>
    let (x, fl) := f (readElem va y)
    let (r, g) := intoFmt vd.fmt (x, false)
    (r, orFlags fl g)) [] d a m s

/-- A function of an encoding of width w (R140). -/
def vecCode (rule : FmtRule) (f : Nat → Nat → Nat) (d a : BitVec 8) (m : BitVec 2) (s : State) : Out :=
  vecTwo rule (fun vd va _ y => (writeCode vd.fmt (f vd.width (readCode va y)), noFlags)) [] d a m s

/-- |a|; a NaN gives a NaN. -/
def numAbs (x : Exact) : Exact × Flags :=
  match x with
  | .nan sg => (.nan false, invalidFlag sg)
  | x => (if numNeg x then numNegate x else x, noFlags)
/-- −a. -/
def numMinus (x : Exact) : Exact × Flags :=
  match x with
  | .nan sg => (.nan false, invalidFlag sg)
  | x => (numNegate x, noFlags)

/-- Leading zero bits of an encoding of width w. -/
def clzBits (w x : Nat) : Nat := if x = 0 then w else w - 1 - Nat.log2 x
/-- One bits of an encoding of width w. -/
def popBits (w x : Nat) : Nat := ((upFrom 0 w).filter (fun i => x / 2 ^ i % 2 = 1)).length

/-- VABS (R140). -/
def execVabs (d a : BitVec 8) (m : BitVec 2) (s : State) : Out := vecUnary .either numAbs d a m s
/-- VNEG (R140). -/
def execVneg (d a : BitVec 8) (m : BitVec 2) (s : State) : Out := vecUnary .either numMinus d a m s
/-- VNOT (R140). -/
def execVnot (d a : BitVec 8) (m : BitVec 2) (s : State) : Out := vecCode .widths (fun w x => 2 ^ w - 1 - x) d a m s
/-- VCLZ (R140). -/
def execVclz (d a : BitVec 8) (m : BitVec 2) (s : State) : Out := vecCode (.ofClass .int) clzBits d a m s
/-- VPOPC (R140). -/
def execVpopc (d a : BitVec 8) (m : BitVec 2) (s : State) : Out := vecCode (.ofClass .int) popBits d a m s
/-- VSQRT (R140). -/
def execVsqrt (d a : BitVec 8) (m : BitVec 2) (s : State) : Out := vecUnary (.ofClass .float) numSqrt d a m s
/-- VRCP (R140). -/
def execVrcp (d a : BitVec 8) (m : BitVec 2) (s : State) : Out := vecUnary (.ofClass .float) numRecip d a m s
/-- VRSQ (R140). -/
def execVrsq (d a : BitVec 8) (m : BitVec 2) (s : State) : Out := vecUnary (.ofClass .float) numRsqrt d a m s
/-- VEXP2 (R141). -/
def execVexp2 (d a : BitVec 8) (m : BitVec 2) (s : State) : Out := vecUnary (.ofClass .float) numExp2 d a m s
/-- VLOG2 (R142). -/
def execVlog2 (d a : BitVec 8) (m : BitVec 2) (s : State) : Out := vecUnary (.ofClass .float) numLog2 d a m s
/-- VFLR (R140). -/
def execVflr (d a : BitVec 8) (m : BitVec 2) (s : State) : Out := vecUnary (.ofClass .float) (numIntegral false) d a m s
/-- VCEIL (R140). -/
def execVceil (d a : BitVec 8) (m : BitVec 2) (s : State) : Out := vecUnary (.ofClass .float) (numIntegral true) d a m s

/-! ### Compares, selects, mask logic (R143 to R145) -/

/-- Does a vector condition hold (R143)? -/
def vcondHolds (c : VCond) (a b : Exact) : Bool :=
  let un := numIsNan a || numIsNan b
  let k := numCmp a b
  match c with
  | .eq => !un && k = 0
  | .ne => un || k ≠ 0
  | .lt => !un && k < 0
  | .le => !un && k ≤ 0
  | .gt => !un && 0 < k
  | .ge => !un && 0 ≤ k
  | .unord => un

/-- The lanes, among those of a mask, in which the condition fails for an element; and the flags of those
lanes. -/
def compareFrom (c : VCond) (gov : Word) (w : Nat) : Nat → List (Exact × Exact) → Word × Flags
  | _, [] => (0, noFlags)
  | i, (a, b) :: r =>
    let (x, g) := compareFrom c gov w (i + 1) r
    if activeElem gov w i then
      (if vcondHolds c a b then x else x ||| (1 <<< (i * w / 32) : Word), orFlags g (invalidFlag (numIsSig a || numIsSig b)))
    else (x, g)

/-- A compare writes the active bits of its destination mask (R143). -/
def vecCompare (c : VCond) (k : BitVec 4) (specs : List (BitVec 8)) (needs : List Reg) (m : BitVec 2) (fs : List Fmt)
    (w : Nat) (l : List (Exact × Exact)) (s : State) : Out :=
  let t := s.th
  let gov := rdM t (mreg m)
  let (x, fl) := compareFrom c gov w 0 l
  conclude .a
    { specs := specs, needs := .m k :: (needs ++ [.m (mreg m)]), bad := formatBad (fmtsOk .either fs), hold := false
      next := setTh s (raise (advance (wrM t k ((rdM t k &&& ~~~gov) ||| (gov &&& ~~~x)))) fl) } s

/-- VCMP (R143). -/
def execVcmp (c : VCond) (k : BitVec 4) (a b : BitVec 8) (m : BitVec 2) (s : State) : Out :=
  let va := vop s.th a
  let vb := vop s.th b
  vecCompare c k [a, b] [.v va.reg, .v vb.reg] m [va.fmt, vb.fmt] va.width
    ((va.els.map (readElem va)).zip (vb.els.map (readElem vb))) s

/-- VCMPS (R143): the scalar element is taken in the format of va. -/
def execVcmps (c : VCond) (k : BitVec 4) (a : BitVec 8) (b : BitVec 6) (hi : Bool) (m : BitVec 2) (s : State) : Out :=
  let va := vop s.th a
  let x := readElem va (scalarHalf s.th b hi % 2 ^ va.width)
  vecCompare c k [a] [.v va.reg, .s b] m [va.fmt] va.width (va.els.map (fun e => (readElem va e, x))) s

/-- VSEL (R144): the mask selects, and every element is written. -/
def execVsel (d a b : BitVec 8) (m : BitVec 2) (s : State) : Out :=
  let t := s.th
  let vd := vop t d
  let va := vop t a
  let vb := vop t b
  let sel := rdM t (mreg m)
  let pick (i : Nat) (e : Nat × Nat) := if activeElem sel vd.width i then readElem va e.1 else readElem vb e.2
  let vals := (va.els.zip vb.els).zipIdx.map (fun e => pick e.2 e.1)
  let res := elementwise (BitVec.allOnes 64) vd.width (fun _ x => intoFmt vd.fmt (x, numIsSig x)) 0 vd.els vals
  conclude .a (vecPlan s vd [d, a, b] [.v va.reg, .v vb.reg, .m (mreg m)] (fmtsOk .either [va.fmt, vb.fmt, vd.fmt]) res) s

/-- Mask logic (R145). -/
def maskLogic (d : BitVec 4) (reads : List (BitVec 4)) (v : Word) (s : State) : Out :=
  conclude .a (plainPlan (.m d :: reads.map Reg.m) (setTh s (advance (wrM s.th d v)))) s

/-- MAND (R145). -/
def execMand (d a b : BitVec 4) (s : State) : Out := maskLogic d [a, b] (rdM s.th a &&& rdM s.th b) s
/-- MOR (R145). -/
def execMor (d a b : BitVec 4) (s : State) : Out := maskLogic d [a, b] (rdM s.th a ||| rdM s.th b) s
/-- MXOR (R145). -/
def execMxor (d a b : BitVec 4) (s : State) : Out := maskLogic d [a, b] (rdM s.th a ^^^ rdM s.th b) s
/-- MANDN (R145). -/
def execMandn (d a b : BitVec 4) (s : State) : Out := maskLogic d [a, b] (rdM s.th a &&& ~~~rdM s.th b) s
/-- MNOT (R145). -/
def execMnot (d a : BitVec 4) (s : State) : Out := maskLogic d [a] (~~~rdM s.th a) s

/-! ### Single values (R146) -/

/-- A form that writes the active elements of Vd from their index alone. -/
def vecFill (f : VOp → Nat → Nat × Flags) (needs : List Reg) (d : BitVec 8) (m : BitVec 2) (s : State) : Out :=
  let t := s.th
  let vd := vop t d
  let res := elementwise (rdM t (mreg m)) vd.width (fun _ (i : Nat) => f vd i) 0 vd.els (upFrom 0 vd.els.length)
  conclude .a (vecPlan s vd [d] (needs ++ [.m (mreg m)]) (fmtsOk .either [vd.fmt]) res) s

/-- VBCAST (R146): bits, unrounded. -/
def execVbcast (d : BitVec 8) (b : BitVec 6) (hi : Bool) (m : BitVec 2) (s : State) : Out :=
  let h := scalarHalf s.th b hi
  vecFill (fun vd _ => (writeCode vd.fmt h, noFlags)) [.s b] d m s

/-- VIOTA (R146). -/
def execViota (d i : BitVec 8) (m : BitVec 2) (s : State) : Out :=
  vecFill (fun vd k => intoFmt vd.fmt (numOf (i.toNat + k : Nat) 0, false)) [] d m s

/-- The lanes of a register. -/
def lanes32 (x : Lanes) : List Nat := elemsOf 32 x

/-- VINS (R146): one lane, whatever the format. -/
def execVins (d : BitVec 8) (l b : BitVec 6) (hi : Bool) (m : BitVec 2) (s : State) : Out :=
  let t := s.th
  let vd := vop t d
  let h := scalarHalf t b hi
  let x := if bit (rdM t (mreg m)) l.toNat then lanesOf 32 ((lanes32 (rdV t vd.reg)).set l.toNat h) else rdV t vd.reg
  conclude .a
    { specs := [d], needs := [.v vd.reg, .s b, .m (mreg m)], bad := formatBad (fmtsOk .either [vd.fmt]), hold := false
      next := setTh s (advance (wrV t vd.reg x)) } s

/-- VEXT (R146): a lane to a scalar register. -/
def execVext (d : BitVec 6) (a : BitVec 8) (l : BitVec 6) (s : State) : Out :=
  let t := s.th
  let va := vop t a
  conclude .a
    { specs := [a], needs := [.s d, .v va.reg], bad := formatBad (fmtsOk .either [va.fmt]), hold := false
      next := setTh s (advance (wrS t d (word (field (rdV t va.reg) (32 * l.toNat) 32)))) } s

/-! ### Permutes (R147) -/

/-- Result lanes, written where the governing bit is 1; `f` gives lane L from the lanes of D and A. -/
def vecPermute (f : Nat → List Nat → List Nat → Nat) (reads : List Reg) (specs : List (BitVec 8)) (d a : BitVec 8) (m : BitVec 2)
    (s : State) : Out :=
  let t := s.th
  let rd := spec t d
  let ra := spec t a
  let x := lanes32 (rdV t rd)
  let y := lanes32 (rdV t ra)
  let gov := rdM t (mreg m)
  let z := (upFrom 0 64).map (fun i => if bit gov i then f i x y else x.getD i 0)
  conclude .a
    { specs := [d, a] ++ specs, needs := [.v rd, .v ra] ++ reads ++ [.m (mreg m)], bad := none, hold := false
      next := setTh s (advance (wrV t rd (lanesOf 32 z))) } s

/-- VPERM (R147). -/
def execVperm (d a b : BitVec 8) (m : BitVec 2) (s : State) : Out :=
  let k := lanes32 (rdV s.th (spec s.th b))
  vecPermute (fun i _ y => y.getD (k.getD i 0 % 64) 0) [.v (spec s.th b)] [b] d a m s
/-- VROT (R147). -/
def execVrot (d a : BitVec 8) (k : BitVec 6) (m : BitVec 2) (s : State) : Out :=
  vecPermute (fun i _ y => y.getD ((i + k.toNat) % 64) 0) [] [] d a m s
/-- VREV (R147). -/
def execVrev (d a : BitVec 8) (m : BitVec 2) (s : State) : Out :=
  vecPermute (fun i _ y => y.getD (63 - i) 0) [] [] d a m s
/-- VZIP (R147). -/
def execVzip (d a : BitVec 8) (hi : Bool) (m : BitVec 2) (s : State) : Out :=
  let k := if hi then 32 else 0
  vecPermute (fun i x y => (if i % 2 = 0 then x else y).getD (k + i / 2) 0) [] [] d a m s
/-- VUZP (R147). -/
def execVuzp (d a : BitVec 8) (hi : Bool) (m : BitVec 2) (s : State) : Out :=
  let k := if hi then 1 else 0
  vecPermute (fun i x y => if i < 32 then x.getD (2 * i + k) 0 else y.getD (2 * (i - 32) + k) 0) [] [] d a m s

/-! ### Reductions and scans (R65, R66, R148) -/

/-- One level of the tree from the level below. -/
def pairUp {α : Type} (node : α → α → α × Flags) : List α → List α × Flags
  | a :: b :: r =>
    let (l, g) := pairUp node r
    let (x, fl) := node a b
    (x :: l, orFlags fl g)
  | l => (l, noFlags)

/-- The levels of the tree, the leaves first, and the flags of its nodes. -/
def treeLevels {α : Type} (node : α → α → α × Flags) : Nat → List α → List (List α) × Flags
  | 0, l => ([l], noFlags)
  | n + 1, l =>
    if l.length ≤ 1 then ([l], noFlags)
    else
      let (u, g) := pairUp node l
      let (r, h) := treeLevels node n u
      (l :: r, orFlags g h)

/-- The prefix over elements 0 to i: the blocks that the digits of i + 1 give, largest first (R66). The levels
come with the highest first; `pos` is the first element not yet taken. -/
def scanPrefix {α : Type} (node : α → α → α × Flags) (i : Nat) : List (List α × Nat) → Nat → Option α → Flags → Option α × Flags
  | [], _, acc, g => (acc, g)
  | (l, j) :: r, pos, acc, g =>
    if (i + 1) / 2 ^ j % 2 = 1 then
      match acc, l[pos / 2 ^ j]? with
      | none, x => scanPrefix node i r (pos + 2 ^ j) x g
      | some a, some b =>
        let (x, fl) := node a b
        scanPrefix node i r (pos + 2 ^ j) (some x) (orFlags g fl)
      | some a, none => scanPrefix node i r pos (some a) g
    else scanPrefix node i r pos acc g

/-- The root of the tree (`scan` false), or every prefix. -/
def treeResults {α : Type} (scan : Bool) (node : α → α → α × Flags) (leaves : List α) : List α × Flags :=
  let (ls, g) := treeLevels node 10 leaves
  if scan then
    let top := ls.zipIdx.reverse
    let rs := (upFrom 0 leaves.length).map (fun i => scanPrefix node i top 0 none noFlags)
    (rs.filterMap (·.1), rs.foldl (fun h r => orFlags h r.2) g)
  else ((ls.getLast?.getD []).take 1, g)

/-- The identity of `.MIN` (`big` false) and `.MAX` as an exact value of the format (R65). -/
def pickIdentity (big : Bool) (f : Fmt) : Exact :=
  match fmtClass f with
  | .int => numOf (if big then (intRange f).1 else (intRange f).2) 0
  | _ => decodeFloat f (roundTo f .rne false (.inf big)).1

/-- Results into the elements of Vd from the first on: all of a scan, one of a reduction (R148). -/
def reduceInto (scan : Bool) (s : State) (d a : BitVec 8) (m : BitVec 2) (res : List Nat × Flags) : Out :=
  let t := s.th
  let vd := vop t d
  let va := vop t a
  conclude .a (vecPlan s vd [d, a] [.v va.reg, .m (mreg m)] (fmtsOk .either [va.fmt, vd.fmt])
    (if scan then res.1 else res.1 ++ vd.els.drop 1, res.2)) s

/-- A reduction over exact values (R65): each node's result, then its place in Vd. -/
def reduceNum (scan : Bool) (node : Exact → Exact → Exact × Flags) (ident : Fmt → Exact) (d a : BitVec 8) (m : BitVec 2)
    (s : State) : Out :=
  let vd := vop s.th d
  let va := vop s.th a
  let gov := rdM s.th (mreg m)
  let leaves := va.els.zipIdx.map (fun e => if activeElem gov va.width e.2 then readElem va e.1 else ident va.fmt)
  let (l, g) := treeResults scan node leaves
  let out := l.map (fun x => intoFmt vd.fmt (x, false))
  reduceInto scan s d a m (out.map (·.1), out.foldl (fun h r => orFlags h r.2) g)

/-- A reduction over encodings (R65); an identity has the bits that an element of Va's format has. -/
def reduceCode (scan : Bool) (node : Nat → Nat → Nat) (ident : Nat → Nat) (d a : BitVec 8) (m : BitVec 2) (s : State) : Out :=
  let vd := vop s.th d
  let va := vop s.th a
  let gov := rdM s.th (mreg m)
  let leaves := va.els.zipIdx.map (fun e => if activeElem gov va.width e.2 then readCode va e.1 else ident (fmtUsed va.fmt))
  let (l, _) := treeResults scan (fun x y => (node x y, noFlags)) leaves
  reduceInto scan s d a m (l.map (writeCode vd.fmt), noFlags)

/-- A node of `.ADD`: rounded to the destination's format, or wrapped (R65). -/
def addNode (f : Fmt) (x y : Exact) : Exact × Flags :=
  let r := numAdd x y
  let (e, fl) := intoFmt f r
  (decodeElem f 0 e, fl)

/-- VRED and VSCAN (R148). -/
def vecReduce (scan : Bool) (d a : BitVec 8) (o : RedOp) (m : BitVec 2) (s : State) : Out :=
  let f := (vop s.th d).fmt
  match o with
  | .add => reduceNum scan (addNode f) (fun g => if fmtClass g = .int then .zero false else .zero true) d a m s
  | .min => reduceNum scan (fun x y => ((numPick false x y).1, invalidFlag (numPick false x y).2)) (pickIdentity false) d a m s
  | .max => reduceNum scan (fun x y => ((numPick true x y).1, invalidFlag (numPick true x y).2)) (pickIdentity true) d a m s
  | .and => reduceCode scan (· &&& ·) (fun w => 2 ^ w - 1) d a m s
  | .or => reduceCode scan (· ||| ·) (fun _ => 0) d a m s
  | .xor => reduceCode scan (· ^^^ ·) (fun _ => 0) d a m s

/-- VRED (R148). -/
def execVred (d a : BitVec 8) (o : RedOp) (m : BitVec 2) (s : State) : Out := vecReduce false d a o m s
/-- VSCAN (R148). -/
def execVscan (d a : BitVec 8) (o : RedOp) (m : BitVec 2) (s : State) : Out := vecReduce true d a o m s

/-! ### Conversion and repacking (R149 to R151) -/

/-- Is the part within its range (R149)? -/
def partOk (ws wd part : Nat) : Bool :=
  if ws = wd then part = 0 else if ws < wd then part < wd / ws else part < ws / wd

/-- The source element that pairs with each destination element, in order (R149). -/
def paired (ws wd part : Nat) (l : List Nat) : List (Option Nat) :=
  if ws = wd then l.map some
  else if ws < wd then ((l.drop (part * (2048 / wd))).take (2048 / wd)).map some
  else
    let ns := 2048 / ws
    let k := min (part * ns) (2048 / wd)
    List.replicate k none ++ l.map some ++ List.replicate (2048 / wd - k - ns) none

/-- The paired elements of Vd (R149). -/
def vecPair (f : VOp → VOp → Nat → Nat × Flags) (ok : Fmt → Bool) (d a : BitVec 8) (p : BitVec 3) (m : BitVec 2)
    (s : State) : Out :=
  let t := s.th
  let vd := vop t d
  let va := vop t a
  let res := elementwise (rdM t (mreg m)) vd.width (fun x (y : Option Nat) =>
    match y with
    | none => (x, noFlags)
    | some y => f vd va y) 0 vd.els (paired va.width vd.width p.toNat va.els)
  conclude .a (vecPlan s vd [d, a] [.v va.reg, .m (mreg m)] (ok vd.fmt && partOk va.width vd.width p.toNat) res) s

/-- VMOV (R150). -/
def execVmov (d a : BitVec 8) (p : BitVec 3) (r : Rnd) (sat : Bool) (m : BitVec 2) (s : State) : Out :=
  vecPair (fun vd va y =>
    let (x, fl) := convertNum va.fmt vd.fmt r sat (readElem va y)
    (writeCode vd.fmt x, fl)) (fun f => f ≠ .cb4 && (f ≠ .e8m0 || r = .rne)) d a p m s

/-- VPACK (R151). -/
def execVpack (d a : BitVec 8) (p : BitVec 3) (m : BitVec 2) (s : State) : Out :=
  vecPair (fun vd va y => (if va.width = vd.width then y else writeCode vd.fmt (readCode va y), noFlags)) (fun _ => true) d a p m s

/-- An encoding of u bits extended with copies of its top bit to w bits. -/
def extendCode (u w x : Nat) : Nat := if 2 ^ (u - 1) ≤ x then x + 2 ^ w * 2 ^ u - 2 ^ u else x

/-- VUNPK (R151). DEDUCED (log 46): in a narrowing pairing the low wd bits of the encoding are written. -/
def execVunpk (d a : BitVec 8) (p : BitVec 3) (sx : Bool) (m : BitVec 2) (s : State) : Out :=
  vecPair (fun vd va y =>
    let x := readCode va y
    (if va.width = vd.width then y
     else writeCode vd.fmt (if sx then extendCode (fmtUsed va.fmt) 32 x else x), noFlags)) (fun _ => true) d a p m s

/-! ### Bank tags and codebooks (R152, R153) -/

/-- Word 1 of an A-slot instruction, as `TVAL` of ILLEGAL holds it (R33). -/
def wordA (i : Instr) : BitVec 57 := ((encodeA i).getD 0).zeroExtend 57

/-- SETBF (R152). -/
def execSetbf (b : BitVec 4) (f : BitVec 8) (s : State) : Out :=
  if b.toNat < s.th.win.toNat then
    conclude .a
      { specs := [], needs := [], bad := formatBad (fmtOf f).isSome, hold := false
        next := setTh s (advance (wrBfmt s.th b f)) } s
  else illegalNow 2 (wordA (.setbf b f)) s

/-- LDCB (R153): entry c from bits [16c + 15 : 16c]. -/
def execLdcb (c : BitVec 4) (a : BitVec 8) (s : State) : Out :=
  let t := s.th
  if c.toNat < t.win.toNat then
    conclude .a
      { specs := [a], needs := [.v (spec t a)], bad := none, hold := false
        next := setTh s (advance (wrCbk t c (bits (rdV t (spec t a)) 0 256))) } s
  else illegalNow 2 (wordA (.ldcb c a)) s

end Sys2Proof.Machine
end

