-- ==== Sys2Proof/Machine/Runs.lean ====
section
/-! DEFINITION. The runs of engine commands: loop nests, the checks of a run's source and destination, range
locks, and the landing of a run (R200, R211 to R221, R241, R244). -/

namespace Sys2Proof.Machine

open Sys2Proof

/-! ### Loop nests (R212, R240) -/

/-- Levels of a nest. -/
def nestLevels (c : Command) : Nat := field (nthWord c.words 0) 10 3
/-- The words of the levels, from word `i0` on. -/
def levelWords (c : Command) (i0 : Nat) : List Word := (upFrom i0 (nestLevels c)).map (nthWord c.words)
/-- Iterations minus 1 of each level. -/
def nestCounts (c : Command) (i0 : Nat) : List Nat := (levelWords c i0).map (fun w => field w 0 12)
/-- The counters of a command. -/
def nestPoint (c : Command) : List Nat := (upFrom 0 (nestLevels c)).map (counterOf c.vec)
/-- Σ cᵢ · strideᵢ. -/
def nestSum (point : List Nat) (strides : List Int) : Int := ((point.zip strides).map (fun e => (e.1 : Int) * e.2)).sum
/-- The vector after the point, none at the end. -/
def nextVec (c : Command) (i0 : Nat) : Option (BitVec 64) :=
  (nextPoint (nestPoint c) (nestCounts c i0)).map (fun p => BitVec.ofNat 64 (vecOf p))

/-! ### Faults of a command (R197) -/

/-- A late fault: cause, subcode, value. -/
structure RunFault where
  cause : Cause
  sub : BitVec 8
  val : Word
deriving DecidableEq, Repr, Inhabited

/-- `ENGINE_FAULT` (R197). -/
def engineFault (sub : BitVec 8) (val : Word) : RunFault := { cause := .engineFault, sub := sub, val := val }
/-- `SLOT_FAULT` (R244). -/
def slotFault (sub : BitVec 8) (val : Word) : RunFault := { cause := .slotFault, sub := sub, val := val }
/-- The first fault of a list of tests. -/
def firstFault (l : List (Bool × RunFault)) : Option RunFault := (l.find? (·.1)).map (·.2)
/-- A command is parked with a fault. A translation that fails is a miss: the walk that it asks for records a malformed entry (R340,
R341). -/
def parkWith (s : State) (c : Command) (f : RunFault) : State :=
  let s := if f.cause = .engineFault && (f.sub = 1 || f.sub = 2) then askWalk s (clusterOf c.core) c.asid f.val.toNat else s
  parkCmd s c.handle c.seq f.cause f.sub f.val

/-- Does an access of a command wait for a miss to end, one that it opens being the 33rd in its cluster (R341)? -/
def engineWaits (s : State) (c : Command) (cs : List Chunk) : Bool :=
  missWaits s (tlbsOfCore s c.core) (clusterOf c.core) c.asid (cs.map (·.va))

/-- Another device, then translation, presence and permission of the parts of an engine's access (R197, R213). -/
def engineBad (s : State) (c : Command) (cs : List Chunk) : Option RunFault :=
  let look (k : Chunk) := seek s (tlbsOfCore s c.core) c.asid k.va k.acc
  match cs.find? (fun k => look k = .device) with
  | some k => some (engineFault 3 (word k.va))
  | none =>
    cs.findSome? (fun k =>
      match look k with
      | .ok _ _ => none
      | .device => none
      | .denied => some (engineFault 3 (word k.va))
      | _ => some (engineFault (if k.acc = .w then 2 else 1) (word k.va)))

/-- The places of an engine's access. -/
def enginePieces (s : State) (c : Command) (cs : List Chunk) : List Piece :=
  cs.filterMap (pieceOf s (tlbsOfCore s c.core) c.asid)

/-- The pages of an engine's access use the cluster's TLB (R341). -/
def engineTlbs (s : State) (c : Command) (cs : List Chunk) : State :=
  (cs.map (·.va / 65536)).eraseDups.foldl (fun s p => useTlb s c.core true c.asid (p * 65536)) s

/-! ### Destinations (R212, R213, R241) -/

/-- Container bytes, a 4-bit container counting as 1 byte (R213). -/
def containerBytes (f : Fmt) : Nat := max 1 (fmtWidth f / 8)
/-- Bytes of n elements. -/
def runBytes (f : Fmt) (n : Nat) : Nat := n * fmtWidth f / 8

/-- Virtual address of a memory run. -/
def runVa (la : Word) (adv : Int) : Int := laVa la + adv

/-- Landing address of a run at an advance (R212). -/
def runLa (la : Word) (adv : Int) : Word :=
  if laSpace la = 0 then BitVec.ofInt 64 (runVa la adv)
  else if laSpace la = 2 then BitVec.ofInt 64 (la.toNat + adv * 2 ^ 20)
  else BitVec.ofInt 64 (la.toNat + adv / 4 * 2 ^ 9)

/-- A memory run's start that is not aligned (R213). -/
def dstMisaligned (la : Word) (adv : Int) (al : Nat) : Bool := laSpace la = 0 && runVa la adv % al ≠ 0

/-- A slot or register run beyond its end (R213). -/
def dstBeyond (la : Word) (adv : Int) (n : Nat) : Bool :=
  if laSpace la = 2 then laOff la + adv < 0 || 16384 < laOff la + adv + n
  else if laSpace la = 1 then
    adv % 4 ≠ 0 || laLane la + adv / 4 < 0 || 64 < laLane la + adv / 4 + ((n + 3) / 4 : Nat)
  else false

/-- An address whose bits [63:56] are not all 0 (R213). -/
def outOfSpace (va : Int) : Bool := va < 0 || 2 ^ 56 ≤ va

/-- The parts of a memory run. -/
def dstChunks (la : Word) (adv : Int) (n : Nat) : List Chunk :=
  if laSpace la = 0 then chunks .w (runVa la adv).toNat n 0 else []

/-- Alignment and end of a run's destination (R213). -/
def dstShape (la : Word) (adv : Int) (n al : Nat) : List (Bool × RunFault) :=
  [(dstMisaligned la adv al, engineFault 6 (runLa la adv)), (dstBeyond la adv n, engineFault 6 (runLa la adv))]

/-- A memory destination outside the space. -/
def dstSpace (la : Word) (adv : Int) : Bool × RunFault := (laSpace la = 0 && outOfSpace (runVa la adv), engineFault 3 (runLa la adv))

/-- The destination checks of a run, in the order of R213. -/
def dstBad (s : State) (c : Command) (la : Word) (adv : Int) (n al : Nat) : Option RunFault :=
  match firstFault (dstShape la adv n al ++ [dstSpace la adv]) with
  | some f => some f
  | none => engineBad s c (dstChunks la adv n)

/-- One run travels as one landing of its command; a memory run's places are those of the translation (R82, R212). -/
def sendRun (s : State) (c : Command) (la : Word) (adv : Int) (b : List Byte) : State :=
  let cs := dstChunks la adv b.length
  let l := enginePieces s c cs
  let s := engineTlbs s c cs
  let (s, o) := cmdOrigin s c.handle c.world c.core c.seq (cmdAgent c)
  let s := modCmd s c.handle c.seq (fun c => { c with acks := c.acks + 1, count := c.count + b.length })
  sendLanding s { packet o (runLa la adv) b with pieces := l }

/-! ### Elements -/

/-- The elements of a byte string (R46). -/
def elemsOfBytes (f : Fmt) (n : Nat) (b : List Byte) : List Nat := elemsFrom (fmtWidth f) n (ofLe b)
/-- The byte string of elements, as a format is written (R46). -/
def bytesOfElems (f : Fmt) (l : List Nat) : List Byte :=
  leBytes (runBytes f l.length) (joinElems (fmtWidth f) (l.map (writeCode f)))
/-- Rounding field of a command (R54). -/
def rndOf (x : Nat) : Option Rnd :=
  match x with
  | 0 => some .rne
  | 1 => some .rtz
  | 2 => some .rup
  | 3 => some .rdn
  | 4 => some .rto
  | _ => none

/-! ### Range locks (R217 to R221) -/

/-- The bounding interval of a nest, outward to 64-byte granules (R217). -/
def boundsOf (base : Int) (strides : List Int) (counts : List Nat) (n : Nat) : Nat × Nat :=
  let ends := (strides.zip counts).map (fun e => e.1 * (e.2 : Int))
  let lo := base + (ends.map (fun x => min 0 x)).sum
  let hi := base + (ends.map (fun x => max 0 x)).sum + n
  (lo.toNat / 64 * 64, (hi.toNat + 63) / 64 * 64)

/-- Do two intervals overlap? -/
def lockMeets (a b : Lock) : Bool := a.world = b.world && a.lo < b.hi && b.lo < a.hi

/-- May the entries be taken now: no live destination of the world meets them, no live source meets a destination,
and the die's table has room (R218, R282)? -/
def locksFree (s : State) (die : BitVec 2) (mine : List Lock) : Bool :=
  mine.all (fun a => !s.locks.any (fun b => lockMeets a b && (a.dst || b.dst))) &&
    (s.locks.filter (fun l => l.die = die)).length + mine.length ≤ 1024

/-- Is one of some pieces inside a lock's interval? -/
def piecesInside (l : Lock) (ps : List Piece) : Bool := ps.any (fun p => p.va < l.hi && l.lo < p.va + p.len)

/-- Accesses of the world that have passed their check and are not yet performed, inside an interval: loads, stores and atomics, the
memory landings that are on their way, those that an `LDL` will form, the placements of packets, and the local reads of network commands
(R219, R220). -/
def accessesInside (s : State) (l : Lock) : Bool :=
  s.pending.any (fun e =>
    match e, evOrigin e with
    | .netPlace p ps _, _ => (sget none s.windows p.win.toNat).any (fun x => x.world = l.world) && piecesInside l ps
    | _, none => false
    | e, some o => o.world = l.world && piecesInside l (evPieces e)) ||
  s.cmds.any (fun c => c.world = l.world && c.net.isSome && c.reads.any (fun r => piecesInside l r.1)) ||
  (s.copies ++ s.heldBack).any (fun p => p.o.world = l.world && laSpace p.la = 0 && piecesInside l p.pieces)

/-- Is a byte of an engine's write under another's lock (R219)? -/
def lockedForEngine (s : State) (w : World) (own : LockOwner) (cs : List Chunk) : Bool :=
  cs.any (fun k => s.locks.any (fun l => l.owner ≠ own && lockCovers l w k.va k.len))

/-- A command's entries record the frames that it has translated (R221). -/
def recordFrames (s : State) (own : LockOwner) (dst : Bool) (l : List Piece) : State :=
  let fs := (l.map (·.addr / 65536)).eraseDups
  { s with locks := s.locks.map (fun e =>
      if e.owner = own && e.dst = dst then { e with frames := (e.frames ++ fs).eraseDups } else e) }

/-! ### Restart and cancel (R215, R243) -/

/-- The action by which a command goes on. -/
def cmdAction (c : Command) : Event :=
  match c.port with
  | .e0 => headAction c.core c
  | .e1 => if c.kind = 1 then .copy c.handle c.seq else if c.kind = 2 then .copyf c.handle c.seq else .mcrun c.handle c.seq
  | .e2 => .grun c.handle c.seq

/-- The parked command of the thread and port that a restart or cancel names (R215, R243). -/
def namedParked (s : State) (c : Command) : Option Command :=
  (parkedCmd s c.handle (bits (nthWord c.words 1) 0 16)).bind (fun d =>
    if d.port = c.port && d.net.isNone then some d else none)

/-- The action of a restart or cancel command itself. -/
def recoverAction (c : Command) : Event :=
  match c.port with
  | .e0 => if c.kind = 4 then .mresume c.handle c.seq else .mcancel c.handle c.seq
  | _ => if c.kind = 3 then .copyr c.handle c.seq else .copyc c.handle c.seq

/-- A restart or cancel command, if it is still to be acted on: accepted on arrival, it acts once the earlier events of its thread are
performed, since its ISSUE is a release (R82, R210, R215, R243). -/
def recoverBy (s : State) (h : Handle) (q : BitVec 16) (go : State → Command → State) : State :=
  match findCmd s h q with
  | none => s
  | some c =>
    if c.fin.isSome then s
    else if !cmdFree s c then pend (modCmd s h q (fun c => { c with state := .running })) (recoverAction c)
    else
      match namedParked s c with
      | none => endCmd s h q 2 0
      | some d => endCmd (go s d) h q 0 0

/-- A restart command (R215, R243). -/
def restartBy (s : State) (h : Handle) (q : BitVec 16) : State := recoverBy s h q (fun s d => pend (restartCmd s d) (cmdAction d))

/-- A cancel command (R216, R243). -/
def cancelBy (s : State) (h : Handle) (q : BitVec 16) : State := recoverBy s h q cancelCmd

end Sys2Proof.Machine
end

