-- ==== Sys2Proof/Machine/Matrix.lean ====
section
/-! DEFINITION. The matrix unit: claims, accumulator tiles, K-steps and its commands (R60 to R64, R230 to R248). -/

namespace Sys2Proof.Machine

open Sys2Proof

/-! ### Claims (R230 to R232) -/

/-- A slot of a unit. -/
def slotAt (s : State) (u : BitVec 8) (i : Nat) : OpSlot := sget OpSlot.init (unitAt s u).slots i
/-- Write of a slot. -/
def setSlot (s : State) (u : BitVec 8) (i : Nat) (x : OpSlot) : State :=
  setUnit s u { unitAt s u with slots := sset OpSlot.init (unitAt s u).slots i x }
/-- A tile of a unit. -/
def tileAt (s : State) (u : BitVec 8) (j : Nat) : Tile := sget Tile.init (unitAt s u).tiles j
/-- Write of a tile. -/
def setTile (s : State) (u : BitVec 8) (j : Nat) (x : Tile) : State :=
  setUnit s u { unitAt s u with tiles := sset Tile.init (unitAt s u).tiles j x }
/-- The tile of a core (R233). -/
def tileNum (core : BitVec 11) : Nat := core.toNat % 8
/-- The core of a tile of a unit. -/
def tileCore (u : BitVec 8) (j : Nat) : BitVec 11 := BitVec.ofNat 11 (8 * u.toNat + j)

/-- The formats that a slot may be claimed with, and its MX bit (R231). -/
def claimFmtOk (f : Option Fmt) (mx : Bool) : Bool :=
  match f with
  | some .bf16 | some .fp16 | some .int8 | some .cb4 => !mx
  | some .e3m2 | some .e2m3 | some .e2m1 => mx
  | some .e4m3 | some .e5m2 => true
  | _ => false

/-- The traps of CLAIM (R231); reduced service takes two formats only (R370). -/
def claimBad (reduced : Bool) (v : Word) (detail : BitVec 57) : Option Bad :=
  let f := fmtOf (bits v 8 8)
  if field v 6 2 ≠ 0 || field v 18 46 ≠ 0 then some (.trap .illegal (illegalVal 1 detail))
  else formatBad (claimFmtOk f (bit v 16) && (!reduced || f = some .bf16 || (f = some .e4m3 && !bit v 16)))

/-- CLAIM (R231). -/
def execClaim (d a : BitVec 6) (s : State) : Out :=
  let v := rdS s.th a
  let u := unitOf s.th.core
  conclude .c (requestPlan s d [.s a] (claimBad (s.phase = 2) v (wordC (.claim d a))) (fun o s => pend s (.claimAtUnit o d u v))) s

/-- Does a loop nest reach a sum? Levels with their iterations minus 1 and strides; a level whose rest cannot
reach is passed over. -/
def nestReaches : List (Nat × Int) → Int → Bool
  | [], x => x = 0
  | (n, st) :: r, x =>
    let lo := (r.map (fun e => min 0 ((e.1 : Int) * e.2))).sum
    let hi := (r.map (fun e => max 0 ((e.1 : Int) * e.2))).sum
    (upFrom 0 (if st = 0 then 1 else n + 1)).any (fun c =>
      let y := x - c * st
      lo ≤ y && y ≤ hi && nestReaches r y)

/-- A strides and B strides of an `MMA`'s levels (R240). -/
def mmaStrides (c : Command) : List Int × List Int :=
  let ws := levelWords c 2
  (ws.map (fun w => sfield w 12 8), ws.map (fun w => sfield w 20 8))

/-- Does the nest of a command read a slot (R231)? -/
def readsSlot (c : Command) (i : Nat) : Bool :=
  let w0 := nthWord c.words 0
  let (sa, sb) := mmaStrides c
  let n := nestCounts c 2
  c.accz.isNone && c.kind = 1 &&
    (nestReaches (n.zip sa) ((i : Int) - field w0 14 6) || nestReaches (n.zip sb) ((i : Int) - field w0 20 6))

/-- The accepted matrix commands of a unit that have not ended. -/
def unitCmds (s : State) (u : BitVec 8) : List Command :=
  (upFrom 0 8).flatMap (fun j => matrixQueue s (tileCore u j))

/-- CLAIM at the unit (R231): between two landings, not inside one (log 5). -/
def execClaimAtUnit (o : Origin) (d : BitVec 6) (u : BitVec 8) (v : Word) (s : State) : Out :=
  let i := field v 0 6
  if (unitCmds s u).any (fun c => c.n < o.n && readsSlot c i) || slotBusy s u i then .next (pend s (.claimAtUnit o d u v))
  else
    let x := slotAt s u i
    if x.owner.isSome && x.owner ≠ some o.by' then .next (answerTo s o (.unit u) (.s d) 1 true)
    else
      let y := if x.owner.isNone && x.lastWorld ≠ some o.world then { x with data := [], scale := [], book := [] } else x
      let z := { y with owner := some o.by', world := o.world, lastWorld := some o.world, fmt := bits v 8 8, mx := bit v 16
                        sh := bit v 17 }
      .next (answerTo (setSlot s u i z) o (.unit u) (.s d) 0 true)

/-- RELEASE (R232). -/
def execRelease (d a : BitVec 6) (s : State) : Out :=
  let v := rdS s.th a
  let bad := field v 16 48 ≠ 0 || (bit v 6 && !bit v 7 && 8 ≤ field v 0 6)
  conclude .c (requestPlan s d [.s a] (if bad then some (.trap .illegal (illegalVal 1 (wordC (.release d a)))) else none)
    (fun o s => pend s (.releaseAtUnit o d v))) s

/-- The owner of a tile changes at the unit, and then the core's copy (R233). -/
def giveTile (s : State) (u : BitVec 8) (j : Nat) (x : Tile) : State :=
  let s := setTile s u j x
  let k := coreOf s (tileCore u j)
  setCore s (tileCore u j) { k with tileOwner := x.owner }

/-- The slots of a unit that a thread holds. -/
def slotsHeld (s : State) (u : BitVec 8) (h : Handle) : List Nat :=
  (upFrom 0 64).filter (fun i => (slotAt s u i).owner = some h)
/-- The tiles of a unit that a thread holds. -/
def tilesHeld (s : State) (u : BitVec 8) (h : Handle) : List Nat :=
  (upFrom 0 8).filter (fun j => (tileAt s u j).owner = some h)

/-- RELEASE at the unit (R232): between two landings, not inside one (R230, log 5). -/
def execReleaseAtUnit (o : Origin) (d : BitVec 6) (v : Word) (s : State) : Out :=
  let u : BitVec 8 := bits v 8 8
  let i := field v 0 6
  if !unitPresent s u then .next (answerTo s o (.unit u) (.s d) 1 true)
  else
    let slots := (slotsHeld s u o.by').filter (fun k => bit v 7 || (!bit v 6 && k = i))
    let tiles := (tilesHeld s u o.by').filter (fun k => bit v 7 || (bit v 6 && k = i))
    let busy := (unitCmds s u).any (fun c =>
      (if bit v 7 then slots.any (readsSlot c) else !bit v 6 && readsSlot c i) ||
        (if bit v 7 then tiles.contains (tileNum c.core) else bit v 6 && tileNum c.core = i))
    if busy || slots.any (slotBusy s u) then .next (pend s (.releaseAtUnit o d v))
    else
      let s1 := slots.foldl (fun s k => setSlot s u k { slotAt s u k with owner := none }) s
      let s2 := tiles.foldl (fun s k => giveTile s u k { tileAt s u k with owner := none }) s1
      .next (answerTo s2 o (.unit u) (.s d) (boolWord (slots = [] && tiles = [])) true)

/-! ### Tiles (R233, R234, R242) -/

/-- A table as the list of its first n values. -/
def denseFrom {α : Type} (d : α) : Nat → Nat → Sparse α → List α
  | 0, _, _ => []
  | n + 1, i, [] => d :: denseFrom d n (i + 1) []
  | n + 1, i, (k, v) :: r =>
    if k = i then v :: denseFrom d n (i + 1) r else d :: denseFrom d n (i + 1) ((k, v) :: r)
/-- The table of a list of values. -/
def sparseOf {α : Type} [DecidableEq α] (d : α) (l : List α) : Sparse α :=
  l.zipIdx.filterMap (fun e => if e.1 = d then none else some (e.2, e.1))

/-- A tile of zeros, its class unset, its count 0; the owner stays. -/
def zeroTile (x : Tile) : Tile := { Tile.init with owner := x.owner }

/-- ACCZ (R234): an entry of the core's queue. Its `vec` holds the number of its request. -/
def execAccz (d : BitVec 6) (s : State) : Out :=
  let p := requestPlan s d [] none (fun o s =>
    let c : Command :=
      { handle := o.by', seq := 0, port := .e0, kind := 0, words := [], core := o.core, world := o.world, asid := s.th.asid
        weight := 1, n := o.n, waits := [], state := .waiting, vec := o.seq.zeroExtend 64, count := 0, acks := 0, refused := false
        fault := none, fin := none, accz := some d, net := none }
    enqueueCmd s c)
  conclude .c { p with hold := p.hold || 16 ≤ queueUsed s s.th.core .e0 } s

/-- ACCZ at the head of its queue (R234). -/
def execAcczAtHead (core : BitVec 11) (s : State) : Out :=
  match matrixQueue s core with
  | [] => .next s
  | c :: _ =>
    match c.accz with
    | none => .next s
    | some d =>
      let u := unitOf core
      let x := tileAt s u (tileNum core)
      let o : Origin :=
        { by' := c.handle, dev := s.dev, core := core, seq := bits c.vec 0 32, world := c.world, agent := .unit u, n := c.n }
      let s1 := { s with cmds := s.cmds.filter (fun e => e ≠ c) }
      let s2 := if x.owner.isSome && x.owner ≠ some c.handle then answerTo s1 o (.unit u) (.s d) 1 true
        else answerTo (giveTile s1 u (tileNum core) { zeroTile x with owner := some c.handle }) o (.unit u) (.s d) 0 true
      .next (nextHead s2 core)

/-- Is the tile not the command's thread's (R244, SUB 16)? -/
def notOwned (s : State) (c : Command) : Bool × RunFault :=
  let x := tileAt s (unitOf c.core) (tileNum c.core)
  (x.owner ≠ some c.handle, engineFault 16 (word (tileNum c.core)))

/-- The first level word with a reserved bit, as a fault (R244, SUB 5). -/
def levelsBad (c : Command) (i0 lo : Nat) : List (Bool × RunFault) :=
  (levelWords c i0).zipIdx.map (fun e => (field e.1 lo (64 - lo) ≠ 0, engineFault 5 (word (i0 + e.2))))

/-- The command at the head of a core's queue, if it is not parked and the earlier events of its thread are
performed (R82, R236): none with nothing to do; `false` when it is to be looked at again. -/
def headCmd (s : State) (core : BitVec 11) : Option (Command × Bool) :=
  match matrixQueue s core with
  | [] => none
  | c :: _ => if c.state = .parked then none else some (c, cmdFree s c)

/-- MZERO (R242). -/
def execMzero (core : BitVec 11) (s : State) : Out :=
  match headCmd s core with
  | none => .next s
  | some (_, false) => .next (pend s (.mzero core))
  | some (c, true) =>
    if c.kind ≠ 3 then .next s
    else
      let w1 := nthWord c.words 1
      match firstFault
        [(field (nthWord c.words 0) 10 54 ≠ 0, engineFault 5 0), (field w1 33 31 ≠ 0, engineFault 5 1), notOwned s c] with
      | some f => .next (parkWith s c f)
      | none =>
        let u := unitOf core
        let x := tileAt s u (tileNum core)
        let y := { zeroTile x with elems := sparseOf 0 (List.replicate 16384 (bits w1 0 32)), cls := if bit w1 32 then 2 else 1 }
        .next (endCmd (setTile s u (tileNum core) y) c.handle c.seq 0 0)

/-! ### MMA and K-steps (R60 to R64, R237, R240) -/

/-- The head checks of MMA (R244). -/
def mmaHeadBad (s : State) (c : Command) : Option RunFault :=
  firstFault ((decide (field (nthWord c.words 0) 26 38 ≠ 0), engineFault 5 0) :: (levelsBad c 2 28 ++ [notOwned s c]))

/-- MMA at the head of its queue: its checks, `Z`, and then its K-steps (R240). -/
def execMma (core : BitVec 11) (s : State) : Out :=
  match headCmd s core with
  | none => .next s
  | some (_, false) => .next (pend s (.mma core))
  | some (c, true) =>
    if c.kind ≠ 1 then .next s
    else
      match mmaHeadBad s c with
      | some f => .next (parkWith s c f)
      | none =>
        let u := unitOf core
        let j := tileNum core
        let s := if c.count = 0 && bit (nthWord c.words 0) 13 then setTile s u j (zeroTile (tileAt s u j)) else s
        let s := modCmd s c.handle c.seq (fun c => { c with state := .running })
        .next (if s.pending.contains (.kStep u) then s else pend s (.kStep u))

/-- Kst, G and Gs of an operand format (R61). -/
def operandShape : Fmt → Nat × Nat × Nat
  | .bf16 => (64, 16, 16)
  | .fp16 => (64, 16, 16)
  | .e2m1 => (256, 32, 64)
  | .cb4 => (256, 32, 32)
  | _ => (128, 32, 32)

/-- Format of a claimed slot. -/
def slotFmt (x : OpSlot) : Fmt := (fmtOf x.fmt).getD .bf16

/-- A pair that R60 accepts. -/
def pairOk (a b : OpSlot) : Bool :=
  let f := slotFmt a
  let g := slotFmt b
  (operandShape f).1 = (operandShape g).1 && (decide (f = .int8) == decide (g = .int8)) && (decide (f = .cb4) == decide (g = .cb4)) &&
    a.mx == b.mx

/-- May a command read the slot (R230)? -/
def slotReadable (x : OpSlot) (c : Command) : Bool := x.owner = some c.handle || (x.sh && x.world = c.world)

/-- The faults of a K-step, in their order (R244). -/
def kStepBad (s : State) (c : Command) (a b : Int) : Option RunFault :=
  let u := unitOf c.core
  let x := slotAt s u a.toNat
  let y := slotAt s u b.toNat
  let t := tileAt s u (tileNum c.core)
  let out (i : Int) : Bool := i < 0 || 63 < i
  match firstFault [(out a, slotFault 17 (BitVec.ofInt 64 a)), (out b, slotFault 17 (BitVec.ofInt 64 b))] with
  | some f => some f
  | none =>
    firstFault
      [(x.owner.isNone, slotFault 18 (word a.toNat)), (y.owner.isNone, slotFault 18 (word b.toNat)),
       (!slotReadable x c, slotFault 19 (word a.toNat)), (!slotReadable y c, slotFault 19 (word b.toNat)),
       (!pairOk x y, engineFault 4 0), (t.cls ≠ 0 && (decide (t.cls = 2) != decide (slotFmt x = .int8)), engineFault 20 0)]

/-- The rows of an operand: 128 lists of Kst encodings (R61). -/
def slotRows (x : OpSlot) : List (List Nat) :=
  let f := slotFmt x
  let bytes := denseFrom (0 : Byte) 16384 0 x.data
  (upFrom 0 128).map (fun r => elemsFrom (fmtWidth f) (operandShape f).1 (ofLe ((bytes.drop (128 * r)).take 128)))
/-- The codebook of a slot (R52). -/
def slotBook (x : OpSlot) : BitVec 256 := BitVec.ofNat 256 (ofLe (denseFrom (0 : Byte) 32 0 x.book))
/-- The scales of the rows of a slot (R62). -/
def slotScales (x : OpSlot) : List (List Nat) :=
  let bytes := denseFrom (0 : Byte) 512 0 x.scale
  (upFrom 0 128).map (fun r => ((bytes.drop (4 * r)).take 4).map (·.toNat))

/-- Consecutive pieces of n elements. -/
def piecesBy {α : Type} (n : Nat) : Nat → List α → List (List α)
  | 0, _ => []
  | k + 1, l => l.take n :: piecesBy n k (l.drop n)

/-- Scaled sum of one block (R63): exact until its one rounding. -/
def blockSum (a b : List Exact) (scale : Option (Nat × Nat)) : Exact :=
  let s := (exactSum ((a.zip b).map (fun e => (numMul e.1 e.2).1))).1
  match scale with
  | none => round32 s
  | some (x, y) =>
    if x = 255 || y = 255 then .nan false
    else
      match s with
      | .fin m e => round32 (.fin m (e + x + y - 254))
      | s => round32 s

/-- One element of a float K-step (R63): the blocks in ascending K. -/
def kStepFloat (acc : BitVec 32) (blocks : List Exact) : BitVec 32 :=
  BitVec.ofNat 32 (blocks.foldl (fun x b => (roundTo .fp32 .rne false (numAdd (decodeFloat .fp32 x) b).1).1) acc.toNat)

/-- One element of an `INT8` K-step (R63). -/
def kStepInt (acc : BitVec 32) (a b : List Int) : BitVec 32 :=
  acc + BitVec.ofInt 32 (((a.zip b).map (fun e => e.1 * e.2)).sum)

/-- Every element of the tile after one K-step (R63). -/
def kStepTile (t : Tile) (a b : OpSlot) : Sparse (BitVec 32) :=
  let f := slotFmt a
  let g := slotFmt b
  let old := denseFrom (0 : BitVec 32) 16384 0 t.elems
  let ra := slotRows a
  let rb := slotRows b
  let new : List (BitVec 32) :=
    if f = .int8 then
      let ia := ra.map (fun r => r.map (intElem .int8))
      let ib := rb.map (fun r => r.map (intElem .int8))
      (ia.zip (piecesBy 128 128 old)).flatMap (fun e => (ib.zip e.2).map (fun c => kStepInt c.2 e.1 c.1))
    else
      let (k, blk, gran) := operandShape f
      let n := k / blk
      let da := ra.map (fun r => piecesBy blk n (r.map (decodeElem f (slotBook a))))
      let db := rb.map (fun r => piecesBy blk n (r.map (decodeElem g (slotBook b))))
      let sa := slotScales a
      let sb := slotScales b
      let scales (p q : List Nat) : List (Option (Nat × Nat)) :=
        (upFrom 0 n).map (fun i => if a.mx then some (p.getD (i * blk / gran) 0, q.getD (i * blk / gran) 0) else none)
      ((da.zip sa).zip (piecesBy 128 128 old)).flatMap (fun e =>
        ((db.zip sb).zip e.2).map (fun c =>
          kStepFloat c.2 (((e.1.1.zip c.1.1).zip (scales e.1.2 c.1.2)).map (fun z => blockSum z.1.1 z.1.2 z.2))))
  sparseOf 0 new

/-- The next K-step of a command, or its fault (R240, R244). -/
def runKStep (s : State) (c : Command) : State :=
  let w0 := nthWord c.words 0
  let (sa, sb) := mmaStrides c
  let p := nestPoint c
  let a : Int := field w0 14 6 + nestSum p sa
  let b : Int := field w0 20 6 + nestSum p sb
  match kStepBad s c a b with
  | some f => parkWith s c f
  | none =>
    let u := unitOf c.core
    let j := tileNum c.core
    let x := slotAt s u a.toNat
    let t := tileAt s u j
    let t1 := { t with elems := kStepTile t x (slotAt s u b.toNat), cls := if slotFmt x = .int8 then 2 else 1
                       count := t.count + 1, lseq := c.seq }
    let s := modCmd (setTile s u j t1) c.handle c.seq (fun c => { c with count := c.count + 1 })
    match nextVec c 2 with
    | some v => modCmd s c.handle c.seq (fun c => { c with vec := v })
    | none => endCmd s c.handle c.seq 0 (BitVec.ofNat 32 (c.count + 1))

/-- The command of a core that is ready for a K-step (R237). -/
def readyCmd (s : State) (core : BitVec 11) : Option Command :=
  match matrixQueue s core with
  | [] => none
  | c :: _ => if c.accz.isNone && c.kind = 1 && c.state = .running then some c else none

/-- The core whose turn is next, with the arbiter after it: the current core while it is ready and has turns left, else the first one
after it, itself last; after idling there is no current core (R237). -/
def nextTurn (s : State) (u : BitVec 8) : Option (Command × UnitState) :=
  let k := unitAt s u
  let cand (j : Nat) := readyCmd s (tileCore u (j % 8))
  match if !k.idle && k.turns < k.weight then cand k.cur.toNat else none with
  | some c => some (c, { k with turns := k.turns + 1 })
  | none =>
    match (upFrom 1 8).findSome? (fun i => (cand (k.cur.toNat + i)).map (fun c => (c, i))) with
    | some (c, i) => some (c, { k with cur := BitVec.ofNat 3 (k.cur.toNat + i), turns := 1, weight := c.weight.toNat, idle := false })
    | none => none

/-- The unit at a boundary: it goes on, or idles until a core is ready (R237). -/
def nextBoundary (s : State) (u : BitVec 8) : State :=
  if (nextTurn s u).isSome then pendOnce s (.kStep u) else setUnit s u { unitAt s u with idle := true }

/-- K_STEP (R237): one K-step of the unit, for the core whose turn it is. -/
def execKStep (u : BitVec 8) (s : State) : Out :=
  match nextTurn s u with
  | none => .next (nextBoundary s u)
  | some (c, k) => .next (nextBoundary (runKStep (setUnit s u k) c) u)

/-! ### DRAIN (R241) -/

/-- The head checks of DRAIN (R244). -/
def drainHeadBad (s : State) (c : Command) : Option RunFault :=
  let w := nthWord c.words 0
  let df := fmtOf (bits w 17 8)
  let n := field w 25 7 + 1
  firstFault
    ([(decide (field w 51 13 ≠ 0) || (rndOf (field w 13 3)).isNone || 12 < field w 32 4 || 127 < field w 43 7 + field w 25 7,
        engineFault 5 0),
      (decide ((df.map fmtWidth).getD 8 = 4) && n % 2 ≠ 0, engineFault 5 0)] ++ levelsBad c 3 46 ++
     [(df.isNone || df = some .cb4 || (df = some .e8m0 && field w 13 3 ≠ 0), engineFault 4 0), notOwned s c])

/-- Bytes of one run of DRAIN, from a tile row (R241). -/
def drainBytes (t : Tile) (w : Word) (row : Nat) : List Byte :=
  let df := (fmtOf (bits w 17 8)).getD .fp32
  let src : Fmt := if t.cls = 2 then .int32 else .fp32
  let conv (e : Nat) :=
    let x := (sget (0 : BitVec 32) t.elems (128 * row + field w 43 7 + e)).toNat
    (convertNum src df ((rndOf (field w 13 3)).getD .rne) (bit w 16) (decodeElem src 0 x)).1
  bytesOfElems df ((upFrom 0 (field w 25 7 + 1)).map conv)

/-- DRAIN: one run, once the one before it has been written (R200, R241, R244). -/
def execDrain (core : BitVec 11) (s : State) : Out :=
  match headCmd s core with
  | none => .next s
  | some (_, false) => .next (pend s (.drain core))
  | some (c, true) =>
    if c.kind ≠ 2 then .next s
    else
      match if c.acks = 0 then some (drainHeadBad s c) else none with
      | none => .next (pend s (.drain core))
      | some (some f) => .next (parkWith s c f)
      | some none =>
        let u := unitOf core
        let j := tileNum core
        let w := nthWord c.words 0
        let la := nthWord c.words 1
        let p := nestPoint c
        let ws := levelWords c 3
        let row : Int := field w 36 7 + nestSum p (ws.map (fun x => sfield x 12 8))
        let adv : Int := nestSum p (ws.map (fun x => sfield x 20 26)) * 2 ^ field w 32 4
        let df := (fmtOf (bits w 17 8)).getD .fp32
        let n := runBytes df (field w 25 7 + 1)
        if row < 0 || 127 < row then .next (parkWith s c (engineFault 21 (BitVec.ofInt 64 row)))
        else
          match dstBad s c la adv n (containerBytes df) with
          | some f => .next (parkWith s c f)
          | none =>
            if lockedForEngine s c.world (.cmd c.handle c.seq) (dstChunks la adv n) || engineWaits s c (dstChunks la adv n) then .next (pend s (.drain core))
            else
              let s := modCmd s c.handle c.seq (fun c => { c with state := .running })
              let s := sendRun s c la adv (drainBytes (tileAt s u j) w row.toNat)
              match nextVec c 3 with
              | some v => .next (pend (modCmd s c.handle c.seq (fun c => { c with vec := v })) (.drain core))
              | none =>
                let s := if bit w 50 then setTile s u j (zeroTile (tileAt s u j)) else s
                .next (endCmd s c.handle c.seq 0 (BitVec.ofNat 32 (c.count + n)))

/-- MRESUME (R243). -/
def execMresume (h : Handle) (q : BitVec 16) (s : State) : Out := .next (restartBy s h q)
/-- MCANCEL (R243). -/
def execMcancel (h : Handle) (q : BitVec 16) (s : State) : Out := .next (cancelBy s h q)

/-! ### ACCRD (R247, R248) -/

/-- ACCRD (R247): without the tile it traps, whether or not its destinations are present. It takes two places in the issue order, one for
each of its landings, so that their agents tell them apart (R177). -/
def execAccrd (v : BitVec 8) (c a : BitVec 6) (s : State) : Out :=
  let t := s.th
  let r := spec t v
  let x := rdS t a
  let k := coreOf s t.core
  let s1 := setTh (countRequest s t) (advance (setCount (setCount t (.v r) 1) (.s c) 1))
  let (s2, o) := newOrigin s1 t
  conclude .l
    { specs := [v], needs := if k.tileOwner = some t.handle then [.v r, .s c, .s a] else [.s a], hold := requestsFull s t
      bad := if k.tileOwner = some t.handle then none else some (.trap .protect (word (tileNum t.core)))
      next := pend { s2 with stamp := s2.stamp + 1 } (.accrdSnapshot o r c t.core (bits x 0 7) (bit x 7)) } s

/-- The step word (R247). -/
def stepWord (s : State) (core : BitVec 11) : Word :=
  let t := tileAt s (unitOf core) (tileNum core)
  let busy := (matrixQueue s core).any (fun c => c.accz.isNone && c.kind = 1)
  (0#13 ++ t.cls ++ (if busy then 1#1 else 0#1) ++ (if t.count = 0 then 0#16 else t.lseq) ++ BitVec.ofNat 32 t.count).cast (by decide)

/-- Has an earlier command of the thread an entry before it in its queue that has not reached the head, so two at least stand
before it; or does an earlier snapshot stand before this one (R248)? -/
def snapshotWaits (s : State) (o : Origin) (core : BitVec 11) : Bool :=
  ((matrixQueue s core).drop 2).any (fun c => c.accz.isNone && c.handle = o.by' && c.n < o.n) ||
    s.pending.any (fun e => match e with
      | .accrdSnapshot p _ _ _ _ _ => sameSender p o && p.n < o.n
      | _ => false)

/-- ACCRD_SNAPSHOT (R248): the lanes and the step word land. -/
def execAccrdSnapshot (o : Origin) (v : BitVec 9) (c : BitVec 6) (core : BitVec 11) (row : BitVec 7) (half : Bool) (s : State) : Out :=
  if snapshotWaits s o core then .next (pend s (.accrdSnapshot o v c core row half))
  else
    let u := unitOf core
    let t := tileAt s u (tileNum core)
    let first := 128 * row.toNat + (if half then 64 else 0)
    let b := (upFrom first 64).flatMap (fun i => leBytes 4 (sget (0 : BitVec 32) t.elems i).toNat)
    let w := stepWord s core
    let p := packet { o with agent := .unit u } (regLa o.dev o.by' (.v v)) b
    .next (answerTo (sendLanding s { p with counted := true, reply := true }) { o with n := o.n + 1 } (.unit u) (.s c) w false)

end Sys2Proof.Machine
end

