-- ==== Sys2Proof/Machine/Copy.lean ====
section
/-! DEFINITION. Copy engines, memory-core programs and stream instructions (R210 to R229). -/

namespace Sys2Proof.Machine

open Sys2Proof

/-! ### Acceptance (R210, R218) -/

/-- Does an earlier E1 command of the core still wait in the queue (R210)? -/
def queuedBefore (s : State) (c : Command) : Bool :=
  s.cmds.any (fun d => d.core = c.core && d.port = .e1 && d.net.isNone && d.n < c.n && decide (d.state = .queued) &&
    (d.kind = 1 || d.kind = 2 || d.kind = 5))

/-- A COPY or COPYF as its words say (R211). -/
structure CopySpec where
  fill : Bool
  sf : Option Fmt
  df : Option Fmt
  rnd : Rnd
  sat : Bool
  n : Nat
  src : Word
  dst : Word
  ss : List Int
  ds : List Int
  unit : Int

/-- The fields of R211. -/
def copySpec (c : Command) : CopySpec :=
  let w := nthWord c.words 0
  let ws := levelWords c 4
  { fill := c.kind = 2, sf := fmtOf (bits w 17 8), df := fmtOf (bits w 25 8), rnd := (rndOf (field w 13 3)).getD .rne
    sat := bit w 16, n := field w 33 12 + 1, src := nthWord c.words 1, dst := nthWord c.words 2
    ss := ws.map (fun x => sfield x 12 26), ds := ws.map (fun x => sfield x 38 26), unit := 2 ^ field w 45 4 }

/-- The fields that acceptance checks (R211, R213 SUB 5). -/
def copyFieldsBad (c : Command) : Option RunFault :=
  let w := nthWord c.words 0
  let p := copySpec c
  let const := match p.sf with
    | some f => p.fill && 2 ^ fmtWidth f ≤ p.src.toNat
    | none => false
  firstFault
    ([((rndOf (field w 13 3)).isNone || 12 < field w 45 4 || field w 49 15 ≠ 0, engineFault 5 0), (const, engineFault 5 1)] ++
     p.ss.zipIdx.map (fun e => (p.fill && e.1 ≠ 0, engineFault 5 (word (4 + e.2)))))

/-- Formats and element count (R213 SUB 4, 5); the constant of a COPYF is no run. -/
def copyFmtBad (p : CopySpec) : List (Bool × RunFault) :=
  let four (f : Option Fmt) : Bool := (f.map fmtWidth) = some 4
  [(p.sf.isNone || p.df.isNone || p.df = some .cb4 || p.sf = some .cb4 || (p.df = some .e8m0 && p.rnd ≠ .rne), engineFault 4 0),
   (((!p.fill && four p.sf) || four p.df) && p.n % 2 ≠ 0, engineFault 5 0)]

/-- Source start of the run at a point (R212). -/
def copySrc (p : CopySpec) (pt : List Nat) : Int := p.src.toNat + nestSum pt p.ss * p.unit
/-- Destination advance of the run at a point (R212). -/
def copyAdv (p : CopySpec) (pt : List Nat) : Int := nestSum pt p.ds * p.unit

/-- The entries that a command takes (R217): none where a reserved format leaves it without bytes. -/
def copyLocks (c : Command) : List Lock :=
  let p := copySpec c
  match p.sf, p.df with
  | some f, some g =>
    let counts := nestCounts c 4
    let make (dst : Bool) (e : Nat × Nat) : Lock :=
      { die := dieOf c.core, world := c.world, lo := e.1, hi := e.2, dst := dst, by' := c.handle, owner := .cmd c.handle c.seq, frames := [] }
    let scale (l : List Int) := l.map (· * p.unit)
    (if p.fill then [] else [make false (boundsOf p.src.toNat (scale p.ss) counts (runBytes f p.n))]) ++
      (if laSpace p.dst = 0 then [make true (boundsOf (laVa p.dst) (scale p.ds) counts (runBytes g p.n))] else [])
  | _, _ => []

/-- The source parts of a run. -/
def srcChunks (p : CopySpec) (so : Int) (f : Fmt) : List Chunk := if p.fill then [] else chunks .r so.toNat (runBytes f p.n) 0

/-- The checks of a run, in the order of R213. -/
def copyRunBad (s : State) (c : Command) (p : CopySpec) (so adv : Int) (f g : Fmt) : Option RunFault :=
  match firstFault
    ((!p.fill && decide (so % containerBytes f ≠ 0), engineFault 6 (BitVec.ofInt 64 so)) ::
      (dstShape p.dst adv (runBytes g p.n) (containerBytes g) ++
        [(!p.fill && outOfSpace so, engineFault 3 (BitVec.ofInt 64 so)), dstSpace p.dst adv])) with
  | some e => some e
  | none => engineBad s c (srcChunks p so f ++ dstChunks p.dst adv (runBytes g p.n))

/-- The destination bytes of a run from its source bytes (R212). -/
def copyBytes (p : CopySpec) (f g : Fmt) (src : List Byte) : List Byte :=
  let xs := if p.fill then List.replicate p.n (p.src.toNat % 2 ^ fmtWidth f) else elemsOfBytes f p.n src
  bytesOfElems g (xs.map (fun x => if f = g then x else (convertNum f g p.rnd p.sat (decodeElem f 0 x)).1))

/-- The source of a run has been read: its destination landing is sent, or its destination has become bad meanwhile (R212, R213). -/
def copySend (s : State) (c : Command) (p : CopySpec) (so adv : Int) (f g : Fmt) (src : List Byte) : State :=
  let s := modCmd s c.handle c.seq (fun c => { c with reads := none })
  match copyRunBad s c p so adv f g with
  | some e => parkWith s c e
  | none =>
    let s := recordFrames s (.cmd c.handle c.seq) true (enginePieces s c (dstChunks p.dst adv (runBytes g p.n)))
    let out := copyBytes p f g src
    let s := sendRun s c p.dst adv out
    match nextVec c 4 with
    | some v => pend (modCmd s c.handle c.seq (fun c => { c with vec := v })) (cmdAction c)
    | none => endCmd s c.handle c.seq 0 (BitVec.ofNat 32 (c.count + out.length))

/-- One piece of a run's source is read, in any order (R69). -/
def copyRead (s : State) (c : Command) (l : List Piece) (got : List Byte) : State :=
  match takeAt (choose s l.length) l with
  | none => s
  | some (x, rest) =>
    let (s, b) := rdPiece s x
    pendFirst (modCmd s c.handle c.seq (fun c => { c with reads := some (rest, patch got x.off b) })) (cmdAction c)

/-- A run begins once the one before it has been written: its checks, and the places of its source (R200, R212, R213). -/
def copyBegin (s : State) (c : Command) (p : CopySpec) (so adv : Int) (f g : Fmt) : State :=
  let cs := srcChunks p so f
  if c.acks ≠ 0 || engineWaits s c (cs ++ dstChunks p.dst adv (runBytes g p.n)) then pend s (cmdAction c)
  else
    match copyRunBad s c p so adv f g with
    | some e => parkWith s c e
    | none =>
      let src := enginePieces s c cs
      let s := recordFrames (engineTlbs s c cs) (.cmd c.handle c.seq) false src
      pendFirst (modCmd s c.handle c.seq (fun c => { c with reads := some (src, List.replicate (runBytes f p.n) 0) })) (cmdAction c)

/-- A run of a command goes on (R212): begun, a piece of its source read, or its destination landing sent. -/
def copyRun (s : State) (c : Command) : State :=
  let p := copySpec c
  match firstFault (((copyFieldsBad c).map (fun e => (true, e))).toList ++ copyFmtBad p) with
  | some e => parkWith s c e
  | none =>
    let f := p.sf.getD .fp32
    let g := p.df.getD .fp32
    let pt := nestPoint c
    let so := copySrc p pt
    let adv := copyAdv p pt
    match c.reads with
    | none => copyBegin s c p so adv f g
    | some ([], got) => copySend s c p so adv f g got
    | some (l, got) => copyRead s c l got

/-- The acceptance of a command, by any of its die's eight engines, or one run of it (R210, R212, R218, R220). -/
def copyStep (h : Handle) (q : BitVec 16) (s : State) : State :=
  match findCmd s h q with
  | none => s
  | some c =>
    if c.fin.isSome then s
    else if c.state = .queued then
      let mine := copyLocks c
      if queuedBefore s c || !cmdFree s c then pend s (cmdAction c)
      else if (copyFieldsBad c).isSome then copyRun (modCmd s h q (fun c => { c with state := .running })) c
      else if !locksFree s (dieOf c.core) mine || mine.any (accessesInside s) then pend s (cmdAction c)
      else
        let e := BitVec.ofNat 5 (8 * (dieOf c.core).toNat + choose s 8)
        pend { modCmd s h q (fun c => { c with state := .running, engine := e }) with locks := s.locks ++ mine } (cmdAction c)
    else if c.state = .running then copyRun s c
    else s

/-- COPY (R212). -/
def execCopy (h : Handle) (q : BitVec 16) (s : State) : Out := .next (copyStep h q s)
/-- COPYF (R212). -/
def execCopyf (h : Handle) (q : BitVec 16) (s : State) : Out := .next (copyStep h q s)
/-- COPYR (R215). -/
def execCopyr (h : Handle) (q : BitVec 16) (s : State) : Out := .next (restartBy s h q)
/-- COPYC (R216). -/
def execCopyc (h : Handle) (q : BitVec 16) (s : State) : Out := .next (cancelBy s h q)

/-! ### Memory-core programs (R225 to R227) -/

/-- The fields of MCRUN (R225). -/
def mcrunBad (s : State) (c : Command) : Option RunFault :=
  let m := field (nthWord c.words 1) 0 8
  firstFault
    [(field (nthWord c.words 0) 10 54 ≠ 0, engineFault 5 0),
     (field (nthWord c.words 1) 8 56 ≠ 0 || 191 < m || !bit s.capst ((dieOf c.core).toNat * 6 + m / 32), engineFault 5 1),
     (field (nthWord c.words 2) 0 3 ≠ 0, engineFault 5 2)]

/-- Programs that run on a memory core. -/
def progsOn (s : State) (m : Nat) : Nat :=
  ((allThreads s).filter (fun t => match t.prog with
    | some p => p.mc = m && t.status ≠ .ended && t.status ≠ .idle
    | none => false)).length

/-- A program as it starts (R225). -/
def newProg (c : Command) (m : Nat) : Thread :=
  let pc := nthWord c.words 2
  let t := { Thread.none with
    handle := c.handle, world := c.world, asid := c.asid, core := c.core, status := .ready, pc := pc
    prog := some { seq := c.seq, mc := m, pc0 := pc, streams := [], ended := none } }
  wrS (wrS t 1 (nthWord c.words 4)) 2 (zext64 (bits (nthWord c.words 1) 0 8))

/-- MCRUN (R225): accepted when its memory core has a free program slot. -/
def execMcrun (h : Handle) (q : BitVec 16) (s : State) : Out :=
  match findCmd s h q with
  | none => .next s
  | some c =>
    if c.fin.isSome || c.state = .parked then .next s
    else if c.state = .queued && (queuedBefore s c || !cmdFree s c) then .next (pend s (.mcrun h q))
    else
      match mcrunBad s c with
      | some f => .next (parkWith (modCmd s h q (fun c => { c with state := .running })) c f)
      | none =>
        let m := mcrunCore c
        if 4 ≤ progsOn s m then .next (pend s (.mcrun h q))
        else .next (addThread (modCmd s h q (fun c => { c with state := .running })) (newProg c m))

/-- Completion of an MCRUN: its status and result (R227). -/
def mcrunResult (t : Thread) (p : McProgram) : BitVec 8 × BitVec 32 :=
  match p.ended with
  | none => (0, bits (rdS t 3) 0 32)
  | some (cause, pc) => (3, (bits (pc - p.pc0) 3 24 ++ cause).cast (by decide))

/-- MCRUN_END (R227): once everything that the program has sent is answered. -/
def execMcrunEnd (h : Handle) (q : BitVec 16) (s : State) : Out :=
  match (allThreads s).find? (isProg h q) with
  | none => .next s
  | some t =>
    match t.prog, t.status with
    | some p, .exiting _ =>
      if unanswered s (senderOf s t) then .next (pend s (.mcrunEnd h q))
      else
        let (st, res) := mcrunResult t p
        .next (endCmd (modProg s h q (fun t => { t with status := .ended })) h q st res)
    | _, _ => .next s

/-! ### Stream instructions (R228, R229) -/

/-- Base of row i. -/
def rowAt (x stride : Word) (i : Nat) : Nat := (x + word i * stride).toNat

/-- The rows of a stream instruction that are not yet performed. -/
def rowsOpen (s : State) (t : Thread) (l : List Nat) : Bool :=
  let now := outstanding s (senderOf s t) 0xF
  l.any (fun n => now.contains n)

/-- The stream instructions of a program still in flight. -/
def streamsOpen (s : State) (t : Thread) : List (BitVec 4 × List Nat) :=
  match t.prog with
  | none => []
  | some p => p.streams.filter (fun e => rowsOpen s t e.2)

/-- Rows sent one after another: each a read and a landing, at the places that its check has found in `s0`; their numbers. -/
def sendRows (s0 : State) (t : Thread) (src : Nat → List Chunk) (la : Nat → Word) (dst : Nat → List Chunk) (n : Nat) :
    List Nat → State → State × List Nat
  | [], s => (s, [])
  | i :: r, s =>
    let (s1, o) := newOrigin (useTlbs s t (src i ++ dst i)) t
    let q : ReadReq :=
      { o := o, pieces := piecesOf s0 t (src i), got := List.replicate n 0, reply := .row (la i) (piecesOf s0 t (dst i)), acq := false }
    let (s2, l) := sendRows s0 t src la dst n r (pend s1 (.readRequest q))
    (s2, o.n :: l)

/-- A stream instruction of a program sends its rows; on a compute core it is ILLEGAL (R34). -/
def streamRows (i : Instr) (needs : List Reg) (bad : Option Bad) (tag : BitVec 4) (src : Nat → List Chunk) (la : Nat → Word)
    (dst : Nat → List Chunk) (rows n : Nat) (s : State) : Out :=
  match s.th.prog with
  | none => illegalNow 3 (fieldL i) s
  | some p =>
    let (s1, l) := sendRows s s.th src la dst n (upFrom 0 rows) s
    conclude .l
      { specs := [], needs := needs, bad := bad, hold := 16 ≤ (streamsOpen s s.th).length || fenced s s.th 7
        next := setTh s1 (advance { s1.th with prog := some { p with streams := streamsOpen s s.th ++ [(tag, l)] } }) } s

/-- What is wrong with the landing addresses of SLOAD's rows (R10, R157, R228, R294). -/
def rowsLaBad (s : State) (la adv : Word) (rows n : Nat) : Option Bad :=
  let place := laSpace la = 0 || laSpace la = 2 || (laSpace la = 1 && laClass la = 1)
  let bad (i : Nat) : Bool :=
    let a := (i : Int) * adv.toInt
    dstBeyond la a n || (laSpace la = 0 && outOfSpace (runVa la a)) || laCrosses (runLa la a) n false
  if laMalformed la || laUnreachable s la || (!place && adv ≠ 0) || (laSpace la = 1 && adv.toInt % 4 ≠ 0) then some (.trap .badLa la)
  else ((upFrom 0 rows).find? bad).map (fun i => .trap .badLa (runLa la (i * adv.toInt)))

/-- SLOAD (R228). -/
def execSload (d a b c : BitVec 6) (rows len : BitVec 8) (tag : BitVec 4) (s : State) : Out :=
  let t := s.th
  let k := rows.toNat + 1
  let n := len.toNat + 1
  let la := rdS t d
  let adv := rdS t c
  let rowLa (i : Nat) := runLa la (i * adv.toInt)
  let src (i : Nat) := chunks .r (rowAt (rdS t a) (rdS t b) i) n 0
  let dst (i : Nat) := laChunks (rowLa i) n
  let bad := match accessBad s t ((upFrom 0 k).flatMap (fun i => laAlign (rowLa i) n)) ((upFrom 0 k).flatMap (fun i => src i ++ dst i)) with
    | some e => some e
    | none => rowsLaBad s la adv k n
  streamRows (.sload d a b c rows len tag) [.s d, .s a, .s b, .s c] bad tag src rowLa dst k n s

/-- SSTORE (R228). -/
def execSstore (d a b c : BitVec 6) (rows len : BitVec 8) (tag : BitVec 4) (s : State) : Out :=
  let t := s.th
  let k := rows.toNat + 1
  let n := len.toNat + 1
  let at' (i : Nat) := rowAt (rdS t d) (rdS t c) i
  let src (i : Nat) := chunks .r (rowAt (rdS t a) (rdS t b) i) n 0
  let dst (i : Nat) := chunks .w (at' i) n 0
  streamRows (.sstore d a b c rows len tag) [.s d, .s a, .s b, .s c]
    (accessBad s t [] ((upFrom 0 k).flatMap (fun i => src i ++ dst i))) tag src (fun i => word (at' i)) dst k n s

/-- SPREF (R228): the lines are filled into their channels' buffers, under the access's key (R224). -/
def execSpref (a b : BitVec 6) (rows len : BitVec 8) (s : State) : Out :=
  let t := s.th
  let cs := (upFrom 0 (rows.toNat + 1)).flatMap (fun i => chunks .r (rowAt (rdS t a) (rdS t b) i) (len.toNat + 1) 0)
  match t.prog with
  | none => illegalNow 3 (fieldL (.spref a b rows len)) s
  | some _ =>
    conclude .l
      { specs := [], needs := [.s a, .s b], bad := accessBad s t [] cs, hold := fenced s t 1
        next := setTh ((piecesOf s t cs).foldl (fun s p => touchLine s p.addr p.key false) (useTlbs s t cs)) (advance t) } s

/-- SWAIT (R229). -/
def execSwait (m : BitVec 16) (s : State) : Out :=
  match s.th.prog with
  | none => illegalNow 3 (fieldL (.swait m)) s
  | some p =>
    if m = 0 then illegalNow 3 (fieldL (.swait m)) s
    else
      let now := streamsOpen s s.th
      conclude .l
        { specs := [], needs := [], bad := none, hold := now.any (fun e => bit m e.1.toNat)
          next := setTh s (advance { s.th with prog := some { p with streams := now } }) } s

end Sys2Proof.Machine
end

