-- ==== Sys2Proof/Machine/System.lean ====
section
/-! DEFINITION. Special registers, traps by instruction, the return from a trap, pool markers
(R43, R95 to R100, R129 to R132, R194, R198). -/

namespace Sys2Proof.Machine

open Sys2Proof

/-! ### Special registers (R95) -/

/-- Is a bank's format or codebook register there: b below w/32? -/
def bankThere (t : Thread) (b : Nat) : Bool := b < t.win.toNat

/-- Part q of a codebook. -/
def cbkPart (x : BitVec 256) (q : Nat) : Word := word (x.toNat / 2 ^ (64 * q))
/-- A codebook with part q replaced. -/
def setCbkPart (x : BitVec 256) (q : Nat) (v : Word) : BitVec 256 :=
  BitVec.ofNat 256 (ofLe (patch (leBytes 32 x.toNat) (8 * q) (leBytes 8 v.toNat)))

/-- The value of a special register; none where the number names none (R95). -/
def readSpecial (s : State) (n : Nat) : Option Word :=
  let t := s.th
  if n = 0 then some (zext64 (s.dev ++ t.handle))
  else if n = 1 then some (zext64 (t.slot ++ t.core))
  else if n = 2 then some (zext64 t.win)
  else if n = 3 then some t.tstat
  else if n = 4 then some t.actl
  else if 0x10 ≤ n && n < 0x20 then
    if bankThere t (n - 0x10) then some (zext64 (rdBfmt t (BitVec.ofNat 4 (n - 0x10)))) else none
  else if 0x20 ≤ n && n < 0x60 then
    if bankThere t ((n - 0x20) / 4) then some (cbkPart (rdCbk t (BitVec.ofNat 4 ((n - 0x20) / 4))) ((n - 0x20) % 4)) else none
  else if n = 0x60 then some t.tcause
  else if n = 0x61 then some t.tval
  else if n = 0x62 then some t.tepc
  else if n = 0x63 then some t.tvec
  else if n = 0x64 then some t.lfaultLo
  else if n = 0x65 then some t.lfaultHi
  else if n = 0x66 then some (dseqWord t)
  else if n = 0x67 then some t.muw
  else none

/-- May WRSR name the register: it is there and RW (R95)? -/
def writable (t : Thread) (n : Nat) : Bool :=
  n = 3 || n = 4 || (0x10 ≤ n && n < 0x20 && bankThere t (n - 0x10)) ||
    (0x20 ≤ n && n < 0x60 && bankThere t ((n - 0x20) / 4)) || n = 0x62 || n = 0x63 || n = 0x67

/-- The trap of a value that a special register does not take (R95). Of a `BFMT` value with a reserved bit set and a reserved format code
ILLEGAL comes first: the spec orders the two nowhere, and this is the model's choice (log 45). -/
def writeBad (n : Nat) (v : Word) (word0 : BitVec 57) : Option Bad :=
  let ill := some (Bad.trap .illegal (illegalVal 1 word0))
  if n = 3 then (if field v 7 57 ≠ 0 then ill else none)
  else if n = 4 then (if field v 1 63 ≠ 0 then ill else none)
  else if 0x10 ≤ n && n < 0x20 then
    if field v 8 56 ≠ 0 then ill
    else if (fmtOf (bits v 0 8)).isNone then some (.trap .format 0)
    else none
  else if n = 0x63 then (if field v 0 3 ≠ 0 || field v 56 8 ≠ 0 then ill else none)
  else if n = 0x67 then (if field v 4 60 ≠ 0 || field v 0 4 = 0 || 8 < field v 0 4 then ill else none)
  else none

/-- The wait that a trap interrupted is abandoned (R198). -/
def abandonWait (s : State) : State :=
  let s1 := match s.th.waited with
    | some (.evw _) => leaveLine s s.th.handle
    | _ => s
  setTh s1 { s1.th with waited := none, woken := false, tcause := s1.th.tcause &&& ~~~0xE00 }

/-- Write of a special register. A value for `INTRAP` is ignored (R96); a write of `TEPC` clears `WAIT` (R194). -/
def writeSpecial (s : State) (n : Nat) (v : Word) : State :=
  let t := s.th
  if n = 3 then setTh s { t with tstat := (v &&& 0x3F) ||| (t.tstat &&& 0x40) }
  else if n = 4 then setTh s { t with actl := v }
  else if 0x10 ≤ n && n < 0x20 then setTh s (wrBfmt t (BitVec.ofNat 4 (n - 0x10)) (bits v 0 8))
  else if 0x20 ≤ n && n < 0x60 then
    let b := BitVec.ofNat 4 ((n - 0x20) / 4)
    setTh s (wrCbk t b (setCbkPart (rdCbk t b) ((n - 0x20) % 4) v))
  else if n = 0x62 then abandonWait (setTh s { t with tepc := v })
  else if n = 0x63 then setTh s { t with tvec := v }
  else if n = 0x67 then setTh s { t with muw := v }
  else s

/-- RDSR (R129). -/
def execRdsr (d : BitVec 6) (n : BitVec 12) (s : State) : Out :=
  match readSpecial s n.toNat with
  | none => illegalNow 1 (wordC (.rdsr d n)) s
  | some v => conclude .c (plainPlan [.s d] (setTh s (advance (wrS s.th d v)))) s

/-- WRSR (R129). -/
def execWrsr (a : BitVec 6) (n : BitVec 12) (s : State) : Out :=
  if writable s.th n.toNat then
    let v := rdS s.th a
    conclude .c
      { specs := [], needs := [.s a], hold := false, bad := writeBad n.toNat v (wordC (.wrsr a n))
        next := writeSpecial (setTh s (advance s.th)) n.toNat v } s
  else illegalNow 1 (wordC (.wrsr a n)) s

/-! ### Traps -/

/-- TRAP (R131): after the A-slot; `TEPC` is the next bundle. -/
def execTrap (c : BitVec 13) (s : State) : Out :=
  conclude .c (plainPlan [] (setTh s (trapEntry s.th (preciseInfo .trap (zext64 c) (s.th.pc + 8))))) s

/-- BKPT (R131): `TEPC` is its own bundle. -/
def execBkpt (s : State) : Out :=
  conclude .c (plainPlan [] (setTh s (trapEntry s.th (preciseInfo .break' 0 s.th.pc)))) s

/-- The fetch of a bundle: the same checks for every fetch (R156, R343), which waits for a miss to end where 32 are outstanding (R341). -/
def fetchBad (s : State) (t : Thread) (pc : Word) : Option Bad :=
  if pc.toNat < 2 ^ 56 && missWaits s (tlbsOf s t) (clusterOf t.core) t.asid [pc.toNat] then some (.wait [])
  else match seek s (tlbsOf s t) t.asid pc.toNat .x with
  | .device | .denied => some (.trap .fetchFault pc)
  | .absent | .unmapped => if t.prog.isSome then some (.trap .fetchFault pc) else some (.suspend pc.toNat .fetchFault)
  | .ok _ _ => none

/-- The bundle at an address, read at its home in one action (R87). -/
def fetchBundle (s : State) (t : Thread) (pc : Word) : State × BitVec 64 :=
  match pieceOf s (tlbsOf s t) t.asid { va := pc.toNat, len := 8, off := 0, acc := .x } with
  | none => (s, 0)
  | some p =>
    let (s, b) := rdPiece (useTlb s t.core t.prog.isSome t.asid pc.toNat) p
    (s, BitVec.ofNat 64 (ofLe b))

/-- The C-slot instruction of a bundle, if it has one. -/
def slotC (b : BitVec 64) : Option Instr :=
  if bit b 31 then (decodeC (word0 b)).toOption else none

/-- The wait is entered again, with the operands as they stand (R198). Three points that the rule leaves open are the model's choice (log
45): EVW keeps the line and the place that it has, whatever its operand now holds; WAITP whose specifier now reads an index outside the
window waits on the register of the index's low 9 bits; POP takes a word although its destination is empty. -/
def reenter (s : State) (i : Option Instr) : State :=
  let t := trapReturn s.th
  let done := setTh s { t with waited := none, woken := false }
  let sleep (w : Wait) := setTh s { t with status := .sleeping w, waited := none, woken := false }
  match s.th.waited, i with
  | some (.waitp _ _), some (.waitp r q) =>
    let g := match r with
      | .s n => Reg.s n
      | .m n => .m n
      | .v n => .v (spec t n)
    if present t g then done else sleep (.waitp g q)
  | some .sleep, some (.sleep _) => done
  | some (.evw line), some (.evw _) => if s.th.woken then done else sleep (.evw line)
  | some .teambar, some .teambar => if s.th.woken then done else sleep .teambar
  | some (.pop _ _), some (.pop d p) =>
    match firstWord t p with
    | some e => setTh s { takeWord t d e with waited := none, woken := false }
    | none => sleep (.pop p d)
  | _, _ => let s1 := abandonWait s; setTh s1 (trapReturn s1.th)

/-- TRET (R132, R198): with `WAIT` not 0, the bundle at `TEPC` − 8 is fetched afresh. -/
def execTret (s : State) : Out :=
  let t := s.th
  let back := t.tepc - 8
  let waits := field t.tcause 9 3 ≠ 0
  conclude .c
    { specs := [], needs := [], hold := false
      bad :=
        if !inTrap t then some (.trap .protect 0)
        else if field t.tepc 0 3 ≠ 0 then some (.trap .misalign t.tepc)
        else if waits then fetchBad s t back
        else none
      next :=
        if waits then
          let (s1, b) := fetchBundle s t back
          reenter s1 (slotC b)
        else setTh s (trapReturn t) } s

/-- POOL (R43): traps EXEC_POOL precisely. -/
def execPool (n : BitVec 16) (s : State) : Out :=
  conclude .l { specs := [], needs := [], hold := false, bad := some (.trap .execPool (zext64 n)), next := s } s

end Sys2Proof.Machine
end

