-- ==== Sys2Proof/Machine/Preempt.lean ====
section
/-! DEFINITION. Traps taken at a bundle boundary, the progress watchdog, saving and resuming
(R186, R187, R196 to R204). -/

namespace Sys2Proof.Machine

open Sys2Proof

/-! ### Traps at a boundary (R186, R196, R204) -/

/-- The oldest late fault not yet delivered (R196). -/
def lateFault (t : Thread) : Option RingEntry := oldest t (fun e => e.state = 2)

/-- May the thread take a late fault now? -/
def lateDue (t : Thread) : Bool := !inTrap t && (lateFault t).isSome
/-- May it take a landing failure now (R186)? -/
def landingDue (t : Thread) : Bool := !inTrap t && field t.lfaultHi 8 8 ≠ 0
/-- May it take PROGRESS now (R204)? -/
def progressDue (t : Thread) : Bool := !inTrap t && t.progress

/-- The trap of the oldest late fault (R197): its ring entry says delivered. -/
def takeLate (s : State) (t : Thread) : Thread :=
  match lateFault t with
  | none => t
  | some e =>
    let (cause, sub, val) := ((findCmd s t.handle e.seq).bind (·.fault)).getD (causeCode .engineFault, e.status, 0)
    trapAtBoundary (ringSet t e.seq { e with state := 3 }) cause val e.port e.seq sub

/-- The trap of a landing failure (R186): `TVAL` is `PEND`, which becomes 0. -/
def takeLanding (t : Thread) : Thread :=
  let pend := field t.lfaultHi 8 8
  let cause := if 2 ≤ pend || bit t.lfaultHi 16 then Cause.landingOverrun
    else if field t.lfaultHi 0 8 = 0 then .landingCheck else .landingRefused
  trapAtBoundary { t with lfaultHi := t.lfaultHi &&& ~~~0xFF00 } (causeCode cause) (word pend) 0 0 0

/-- The watchdog exponent of a thread's launch; the reset value outside channels (R204, R335). -/
def watchdog (s : State) (t : Thread) : Word :=
  match launchOf s t.graph with
  | some l => zext64 l.wdk
  | none => 30

/-- The trap PROGRESS (R204). -/
def takeProgress (s : State) (t : Thread) : Thread :=
  trapAtBoundary { t with progress := false } (causeCode .progress) (watchdog s t) 0 0 0

/-- Is the thread at a boundary: in a slot, and neither saved, restored nor exiting? -/
def atBoundary (t : Thread) : Bool :=
  match t.status with
  | .ready | .stalled | .sleeping _ => true
  | _ => false

/-- ENGINE_FAULT_TRAP (R196, R197). -/
def execEngineFaultTrap (h : Handle) (s : State) : Out :=
  .next (modThread s h (fun t => if atBoundary t && lateDue t then takeLate s t else t))
/-- LANDING_FAILURE_TRAP (R186, R196): after a late fault. -/
def execLandingFailureTrap (h : Handle) (s : State) : Out :=
  .next (modThread s h (fun t => if atBoundary t && !lateDue t && landingDue t then takeLanding t else t))
/-- PROGRESS_TRAP (R196, R204): after the others. -/
def execProgressTrap (h : Handle) (s : State) : Out :=
  .next (modThread s h (fun t => if atBoundary t && !lateDue t && !landingDue t && progressDue t then takeProgress s t else t))

/-- The precise trap of a fetch, or of a page that the MMP cannot resolve (R343, R344). -/
def pageTrap (t : Thread) (cause : BitVec 8) (val : Word) : Thread :=
  trapEntry { t with failed := none, status := .ready }
    { cause := cause, val := val, epc := t.pc, async := false, wait := 0, port := 0, seq := 0, sub := 0 }

/-- FETCH_FAULT (R343). -/
def execFetchFault (h : Handle) (pc : Word) (s : State) : Out :=
  .next (modThread s h (fun t => if atBoundary t then pageTrap t (causeCode .fetchFault) pc else t))

/-- PROGRESS (R204): every thread of the context that holds none has one pending, which the record of a saved one says; the graph status
records it.
The watchdog pauses while no thread of the context is resident. -/
def execProgress (g : BitVec 8) (s : State) : Out :=
  if (allThreads s).any (fun t => inSlot t && t.graph = g) then
    let mark (t : Thread) : Thread := if isLive t && t.graph = g then { t with progress := true } else t
    let s1 := { s with th := mark s.th, rest := s.rest.map mark }
    let s2 := ((launchThreads s1 g).map (·.handle)).foldl writeImage s1
    .next (setStatus s2 g (graphStatus s2 g ||| 0x10000000))
  else .next s

/-! ### Saving (R201) -/

/-- The wait of a sleeping thread. -/
def waitOf (t : Thread) : Option Wait :=
  match t.status with
  | .sleeping w => some w
  | _ => none

/-- The first step of a save: issue stops at the boundary and the slot is Saving; a stalled thread's record will name the operand that
it awaits (R102). -/
def startSave (t : Thread) : Thread :=
  { t with status := .saving (waitOf t), fetched := [], awaited := if t.status = .stalled then t.awaited else [] }

/-- A save begins: its image has a place in the die's reserve (R370). -/
def beginSave (s : State) (t : Thread) (a : Nat) : State :=
  let i := hIndex t.handle
  let s := setDir s i { dirOf s i with image := word (fabric s a) }
  leaveAgreements (pend (modThread s t.handle startSave) (.saveReport t.handle)) t.handle

/-- SAVE_START (R201): of a thread that is ordered saved and stands at a boundary; one that is being restored is not there yet. Where the
reserve has no room the thread waits at its boundary (R370, log 11). -/
def execSaveStart (h : Handle) (s : State) : Out :=
  match findThread s h with
  | none => .next s
  | some t =>
    if atBoundary t && t.save.isSome then
      match imagePlace s t with
      | some a => .next (beginSave s t a)
      | none => .next s
    else
      match t.status with
      | .restoring _ => .next (if t.save.isSome then pend s (.saveStart h) else s)
      | _ => .next s

/-- Landings for a thread that stand in its core's mortar buffer. -/
def mortarOf (s : State) (t : Thread) : List Packet := (coreOf s t.core).mortar.filter (fun p => laHandle p.la = t.handle)

/-- The thread's buffered landings leave the buffer. -/
def emptyMortar (s : State) (t : Thread) : State :=
  setCore s t.core { coreOf s t.core with mortar := (coreOf s t.core).mortar.filter (fun p => laHandle p.la ≠ t.handle) }

/-- Buffered landings applied in arrival order, each performed or refused (R187). -/
def applyMortar (s : State) (h : Handle) (place : BitVec 12) : List Packet → State
  | [] => s
  | p :: r =>
    match findThread s h with
    | none => s
    | some t => applyMortar (deliver s t p place) h place r

/-- Does the drain of a save still wait for something that stands neither in the mortar buffer nor behind it (R201 step 2)? The result of a
bond instruction that took effect before the save is awaited; of one that took effect within the drain it is not (R282). -/
def draining (s : State) (t : Thread) : Bool :=
  let me := senderOf s t
  s.pending.any (fun e =>
    match evOrigin e with
    | some o => sameSender o me
    | none => false) || answerOpen s me ||
  s.copies.any (fun p => sameSender p.o me && !(coreOf s t.core).mortar.any (samePacket p)) ||
  s.bondWaits.any (fun w => (w.decision.isNone && w.waiters.any (fun e => e.1 = t.handle)) ||
    w.dests.any (fun e => sameSender e.1 me && !w.drained.contains e.1))

/-- Runnable at the end of a save: not if fatal, nor where what it waits for has not come (R201 step 5, R344). -/
def savedRunnable (t : Thread) (why : SaveWhy) (w : Option Wait) : Bool :=
  why ≠ .fatal && (why ≠ .fault || t.served) &&
    (match w with
     | some (.waitp r _) => present t r
     | some (.evw _) => false
     | some .teambar => false
     | _ => true)

/-- What a saved thread still waits for: a sleep has ended, and a register that is present is no wait. -/
def savedWait (t : Thread) (w : Option Wait) : Option Wait :=
  match w with
  | some .sleep => none
  | some (.waitp r q) => if present t r then none else some (.waitp r q)
  | w => w

/-- Resume causes (R102). The table names none for a record that a fatal save writes, which is never resumed, nor for that of a thread saved
for a page that is not yet served, which R344 gives cause 5 when it is: the model writes 1 in both, its choice (log 22). -/
def saveCause (t : Thread) : SaveWhy → BitVec 3
  | .preempt => 1
  | .yield => 3
  | .migrate _ => 4
  | .fault => if t.served then 5 else 1
  | .fatal => 1

/-- The fatal record of a graph (R317), and the abort (R199, R328). -/
def recordFatal (s : State) (t : Thread) : State :=
  let a := graphAt t.graph
  let s := gWr (gWr (gWr (gWr s (a + 32) 4 t.handle.toNat) (a + 36) 1 (field t.tcause 0 8)) (a + 40) 8 t.tepc.toNat)
    (a + 48) 8 t.tval.toNat
  abortLaunch s t.graph 3 t.node

/-- The end of a save (R201 steps 5 and 6): record, directory entry, forwarding entry, the slot free. -/
def reportSave (s : State) (t : Thread) (why : SaveWhy) (w : Option Wait) : State :=
  let h := t.handle
  let i := hIndex h
  let run := savedRunnable t why w
  let target : Option (BitVec 11) := match why with
    | .migrate c => some c
    | _ => none
  let k := coreOf s t.core
  let s := setCore s t.core { k with fwd := ((h, target) :: k.fwd.filter (fun e => e.1 ≠ h)).take 16 }
  let e := dirOf s i
  let s := setDir s i { e with state := if target.isSome then 3 else 2, core := target.getD e.core }
  let s := modThread s h (fun t => { t with
    awaited := (t.awaited.find? (fun r => !present t r)).toList
    status := .away (savedWait t w), save := none, served := false, runnable := run, cause := saveCause t why
    core := target.getD t.core })
  let s := writeImage s h
  let s := if run then enqueueResume s h else s
  let s := if why = .fatal then recordFatal s t else s
  let s := match launchOf s t.graph with
    | some l => if l.aborting.isSome && (findThread s h).any isAway then beginExit s h else s
    | none => s
  pendOnce s .teamPlacement

/-- SAVE_REPORT (R187, R201): drain, then the buffered landings, then the report. -/
def execSaveReport (h : Handle) (s : State) : Out :=
  match findThread s h with
  | none => .next s
  | some t =>
    match t.status with
    | .saving w =>
      let l := mortarOf s t
      if draining s t then .next (pend s (.saveReport h))
      else if l ≠ [] then .next (pend (applyMortar (emptyMortar s t) h 0xFFF l) (.saveReport h))
      else if unanswered s (senderOf s t) then .next (pend s (.saveReport h))
      else .next (reportSave s t (t.save.getD .preempt) w)
    | _ => .next s

/-! ### Resuming (R203) -/

/-- A restore begins: the entry is Resident, the thread has a slot (R189); the forwarding entry goes (R190). -/
def beginRestore (s : State) (h : Handle) (core : BitVec 11) (slot : BitVec 3) : State :=
  match findThread s h with
  | none => s
  | some t =>
    match t.status with
    | .away w =>
      let k := coreOf s core
      let s := setCore s core { k with fwd := k.fwd.filter (fun e => e.1 ≠ h) }
      let s := setDir s (hIndex h) { dirOf s (hIndex h) with state := 1, core := core, slot := slot }
      let c := clusterOf t.core
      let q := clusterAt s c
      let s := setCluster s c { q with queue := q.queue.filter (fun g => g ≠ h) }
      modThread s h (fun t => { t with status := .restoring w, core := core, slot := slot })
    | _ => s

/-- The restored thread's state: Ready, or asleep again in a wait that has not ended (R203). -/
def restored (t : Thread) (w : Option Wait) : Thread :=
  match w with
  | some (.waitp r q) => if present t r then { t with status := .ready } else { t with status := .sleeping (.waitp r q) }
  | some (.pop p d) => wakePop { t with status := .sleeping (.pop p d) }
  | some .sleep => { t with status := .ready }
  | some w => { t with status := .sleeping w }
  | none => { t with status := .ready }

/-- RESUME (R203): begins a restore of a saved thread; of one that is being restored, applies the landings
buffered meanwhile and makes it Ready. -/
def execResume (h : Handle) (core : BitVec 11) (slot : BitVec 3) (s : State) : Out :=
  match findThread s h with
  | none => .next s
  | some t =>
    match t.status with
    | .away _ =>
      if t.runnable && (idleSlots s core).contains slot && t.win.toNat ≤ freeBanks s core then
        .next (pend (beginRestore s h core slot) (.resume h core slot))
      else .next s
    | .restoring w =>
      let s := applyMortar (emptyMortar s t) h (core.zeroExtend 12) (mortarOf s t)
      let s := setDir (modThread s h (fun t => restored t w)) (hIndex h) { dirOf s (hIndex h) with image := 0 }
      .next (if aborting s t.graph && (launchOf s t.graph).isSome then beginExit s h else s)
    | _ => .next s

end Sys2Proof.Machine
end

