-- ==== Sys2Proof/Machine/Scheduler.lean ====
section
/-! DEFINITION. Launches and their triggers, patch lists, placement, pre-emption, and the commands of port E2
(R316 to R335, R370, R371). -/

namespace Sys2Proof.Machine

open Sys2Proof

/-! ### Reading under a graph's address space (R322) -/

/-- What the dispatcher finds where it reads. -/
inductive ListRead | bytes (l : List Byte) | page (va : Nat) | locked | bad
deriving DecidableEq, Repr, Inhabited

/-- A read by the dispatcher, at the homes of the bytes, under the address space that a graph entry names: a page that the MMP may
serve, or one that it may not; one of the 4,096 address spaces or none; bytes of a locked range, which every engine waits for (R83, R322,
R338). -/
def readList (s : State) (a : Nat) (va n : Nat) : State × ListRead :=
  let asid := BitVec.ofNat 12 a
  let cs := chunks .r va n 0
  let bad (c : Chunk) : Option ListRead :=
    match seek s [] asid c.va .r with
    | .ok _ _ => none
    | .absent => some (.page c.va)
    | _ => some .bad
  match if 4096 ≤ a then some .bad else cs.findSome? bad with
  | some e => (s, e)
  | none =>
    if s.locks.any (fun l => (asidWorld s asid).any (fun w => lockCovers l w va n)) then (s, .locked)
    else
      let (s, b) := rdPieces s (cs.filterMap (pieceOf s [] asid))
      (s, .bytes b)

/-- One entry of a patch list (R322). -/
structure PatchEntry where
  node : Nat
  what : Nat
  zero : Nat
  value : Nat

/-- The entry in 16 bytes. -/
def patchEntry (b : List Byte) : PatchEntry :=
  { node := ofLe (b.take 4), what := ofLe (slice b 4 1), zero := ofLe (slice b 5 3), value := ofLe (slice b 8 8) }

/-- Is an entry valid for a graph of so many nodes (R319, R322)? -/
def patchOk (nodes : Nat) (e : PatchEntry) : Bool :=
  e.node < nodes && e.zero = 0 &&
    (e.what = 0 || (e.what = 1 && e.value < 65536) || (e.what = 2 && e.value < 8) || (e.what = 3 && e.value < 65536))

/-- Write of an entry's value into its node. -/
def patchNode (s : State) (g : BitVec 8) (e : PatchEntry) : State :=
  let a := nodeAt s g e.node
  if e.what = 0 then gWr s a 8 e.value
  else if e.what = 1 then gWr s (a + 16) 2 e.value
  else if e.what = 2 then gWr s (a + 20) 1 e.value
  else gWr s (a + 24) 2 e.value

/-- A patch list as it is found: entries, a page or a lock to wait for, or what is wrong with it and the node to name. -/
inductive PatchList | entries (l : List PatchEntry) | page (va : Nat) | locked | bad (node : Nat)

/-- The patch list of a graph (R322). -/
def patchList (s : State) (g : BitVec 8) (asid : Nat) (va : Nat) : State × PatchList :=
  match readList s asid va 8 with
  | (s, .page a) => (s, .page a)
  | (s, .locked) => (s, .locked)
  | (s, .bad) => (s, .bad 0)
  | (s, .bytes h) =>
    let n := ofLe h
    if 4096 < n then (s, .bad 0)
    else
      match readList s asid (va + 8) (16 * n) with
      | (s, .page a) => (s, .page a)
      | (s, .locked) => (s, .locked)
      | (s, .bad) => (s, .bad 0)
      | (s, .bytes b) =>
        let l := (upFrom 0 n).map (fun k => patchEntry (slice b (16 * k) 16))
        match l.find? (fun e => !patchOk (nodeCount s g) e) with
        | none => (s, .entries l)
        | some e => (s, .bad (if e.node < nodeCount s g then e.node else 0))

/-- The MMP is asked for a page once, by whoever needs it (R344). -/
def askMmp (s : State) (asid : BitVec 12) (va : Nat) (add : PageFault → PageFault) : State :=
  let page := faultPage s asid va
  let mine (f : PageFault) : Bool := f.asid = asid && f.page = page
  if s.pageFaults.any mine then { s with pageFaults := s.pageFaults.map (fun f => if mine f then add f else f) }
  else
    pend { s with pageFaults := s.pageFaults ++
        [add { asid := asid, page := page, threads := [], tag := none, launches := [], gruns := [] }] }
      (.pageFaultService asid (word (page * 65536)))

/-! ### A launch (R319, R323, R338) -/

/-- Address space that a graph entry names. -/
def graphAsid (s : State) (g : BitVec 8) : Nat := gRd s (graphAt g + 12) 4

/-- Is a node valid (R319)? -/
def nodeOk (s : State) (g : BitVec 8) (i : Nat) : Bool :=
  let a := nodeAt s g i
  let n := gRd s (a + 18) 1
  let w := gRd s (a + 19) 1
  let k := gRd s (a + 26) 2
  let off := gRd s (a + 28) 4
  1 ≤ n && n ≤ 16 && 1 ≤ w && w ≤ 16 && gRd s (a + 20) 1 < 8 && gRd s (a + 21) 1 < 3 && gRd s (a + 22) 2 = 0 &&
    gRd s (a + 32) 1 < 16 && gRd s (a + 33) 15 = 0 && gRd s (a + 55) 41 = 0 && (k = 0 || off + k ≤ 1040384) &&
    (successors s g i).all (fun j => j < nodeCount s g)

/-- Is a graph entry valid (R317, R321)? -/
def graphOk (s : State) (g : BitVec 8) : Bool :=
  gRd s (graphAt g) 1 = 1 && 1 ≤ nodeCount s g && firstNode s g + nodeCount s g ≤ 65536

/-- The node that the check of step 3 names, if one fails: an address space that does not fit names node 0 (R338). -/
def nodeBad (s : State) (g : BitVec 8) : Option Nat :=
  let a := graphAsid s g
  if 4096 ≤ a || asidWorld s (BitVec.ofNat 12 a) ≠ some (graphWorld s g) then some 0
  else (upFrom 0 (nodeCount s g)).find? (fun i => !nodeOk s g i)

/-- Steps 3 to 5 of a launch (R323). -/
def launchNodes (s : State) (g : BitVec 8) : State :=
  match nodeBad s g with
  | some i => abortLaunch s g 5 (BitVec.ofNat 16 i)
  | none =>
    let n := nodeCount s g
    let s := (upFrom 0 n).foldl (fun s i =>
      let a := nodeAt s g i
      gWr (gWr (gWr (gWr s (a + 48) 2 (gRd s (a + 24) 2)) (a + 50) 2 0) (a + 52) 2 0) (a + 54) 1 0) s
    let s := gWr s (graphAt g + 16) 4 n
    workAnd s g (((upFrom 0 n).filter (fun i => nodeCounter s g i = 0)).map .rel)

/-- Steps 2 to 5 of a launch (R322, R323): it waits in step 2 for pages of its patch list, and for range locks on it (R83). -/
def launchOn (s : State) (g : BitVec 8) (list : Word) : State :=
  let wait (w : Option Word) (s : State) : State :=
    { s with launches := s.launches.map (fun l => if l.graph = g then { l with patch := w } else l) }
  if list = 0 then launchNodes s g
  else
    match patchList s g (graphAsid s g) list.toNat with
    | (s, .page va) => askMmp (wait (some list) s) (BitVec.ofNat 12 (graphAsid s g)) va (fun f => { f with launches := f.launches ++ [g] })
    | (s, .locked) =>
      match (launchOf s g).bind (·.chan) with
      | some c => pendOnce (wait (some list) s) (.launchStart c)
      | none => wait (some list) s
    | (s, .bad n) => abortLaunch (wait none s) g 5 (BitVec.ofNat 16 n)
    | (s, .entries l) => launchNodes (l.foldl (fun s e => patchNode s g e) (wait none s)) g

/-- A launch starts (R323 step 1). -/
def launch (s : State) (g : BitVec 8) (chan : Option (BitVec 4)) (grun : Option (Handle × BitVec 16)) (list : Word) : State :=
  let k := (chan.map (chanAt s)).getD Channel.init
  let l : Launch :=
    { graph := g, chan := chan, grun := grun, asid := BitVec.ofNat 12 (graphAsid s g), world := graphWorld s g, pmax := k.pmax
      wdk := k.wdk, progthr := k.progthr, patch := none, aborting := none }
  let s := setStatus s g ((bits (graphStatus s g) 32 32 ++ 1#32).cast (by decide))
  launchOn { s with launches := s.launches ++ [l] } g list

/-- A trigger is refused: `ERR`, `END` and the vector, and the channel goes on (R321). -/
def refuseTrigger (s : State) (c : BitVec 4) (rest : List Word) (err : BitVec 2) : State :=
  let s := msix (setChan s c { chanAt s c with fifo := rest, ended := true, err := err }) (chanAt s c).vec
  if rest = [] then s else pendOnce s (.launchStart c)

/-- May a launch start: none does once training has ended and phase 3 is still to come (R369, R371). -/
def launchesStart (s : State) : Bool := s.phase = 3 || (s.phase = 2 && !s.trained)

/-- Is the destruction of a world under way (R363)? -/
def worldLeaving (s : State) (w : World) : Bool := s.funcs.any (fun e => e.2.leaving.isSome && e.2.world = w)

/-- LAUNCH_START (R321, R323): the head trigger of a channel is taken, or a launch that waits for its patch list
goes on. None starts in a world that is being destroyed (R363). -/
def execLaunchStart (c : BitVec 4) (s : State) : Out :=
  let k := chanAt s c
  match k.running with
  | some g =>
    match (launchOf s g).bind (fun l => if l.aborting.isNone then l.patch else none) with
    | some list => .next (launchOn s g list)
    | none => .next s
  | none =>
    match k.fifo with
    | [] => .next s
    | v :: rest =>
      let g : BitVec 8 := bits v 0 8
      if !launchesStart s || (launchOf s g).isSome then .next s
      else if !graphOk s g then .next (refuseTrigger s c rest 1)
      else if graphWorld s g ≠ k.world then .next (refuseTrigger s c rest 2)
      else if worldLeaving s k.world then .next (pend s (.launchStart c))
      else .next (launch (setChan s c { k with fifo := rest, running := some g }) g (some c) none (v &&& ~~~0xFF))

/-! ### Triggers (R320, R321, R334) -/

/-- A function (R361). -/
def funcAt (s : State) (f : BitVec 6) : Func := sget Func.init s.funcs f.toNat
/-- Write of a function. -/
def setFunc (s : State) (f : BitVec 6) (k : Func) : State := { s with funcs := sset Func.init s.funcs f.toNat k }

/-- A trigger reaches its channel: queued, or dropped (R321, R353, R361). -/
def trigger (s : State) (c : BitVec 4) (v : Word) : State × Bool :=
  let k := chanAt s c
  if k.en && k.fifo.length < 16 && (funcAt s k.func).tdisp ≠ .locked && (s.phase = 2 || s.phase = 3) then
    (pendOnce (setChan s c { k with fifo := k.fifo ++ [v] }) (.launchStart c), true)
  else (setChan s c { k with drop := true }, false)

/-- CHTRIG (R320); a write to a channel of a function in ERROR is discarded (R361). -/
def execChtrig (c : BitVec 4) (v : Word) (s : State) : Out :=
  if (funcAt s (chanAt s c).func).tdisp = .error then .next s else .next (trigger s c v).1

/-- LAUNCH (R334): its check comes before it waits for its destination; a release; its answer comes from the dispatcher. -/
def execLaunch (d a b : BitVec 6) (s : State) : Out :=
  let t := s.th
  let c : BitVec 4 := bits (rdS t a) 0 4
  let k := chanAt s c
  let bad := if !k.devl || k.world ≠ t.world then some (Bad.trap .protect (zext64 c)) else none
  let p := requestPlan s d [] bad (fun o s =>
    let (s, ok) := trigger s c (rdS t b)
    answerTo s o .dispatcher (.s d) (boolWord (!ok)) true)
  conclude .l { p with needs := [.s a, .s b], late := [.s d], hold := p.hold || !allAccepted s t } s

/-! ### Port E2 (R335) -/

/-- GRUN (R335). A command that waits for its patch list stays queued; one of a world that is being destroyed runs nothing (R363, log 34). -/
def execGrun (h : Handle) (q : BitVec 16) (s : State) : Out :=
  match findCmd s h q with
  | none => .next s
  | some c =>
    if c.fin.isSome || c.state ≠ .queued then .next s
    else if !cmdFree s c then .next (pend s (.grun h q))
    else
      let g : BitVec 8 := bits (nthWord c.words 0) 10 8
      let list := nthWord c.words 1
      if !graphOk s g || graphWorld s g ≠ c.world || (launchOf s g).isSome || worldLeaving s c.world then .next (endCmd s h q 2 0)
      else if !launchesStart s then .next (pend s (.grun h q))
      else
        let go (s : State) := launch (modCmd s h q (fun c => { c with state := .running })) g none (some (h, q)) list
        if list = 0 then .next (go s)
        else
          match patchList s g (graphAsid s g) list.toNat with
          | (s, .page va) => .next (askMmp s (BitVec.ofNat 12 (graphAsid s g)) va (fun f => { f with gruns := f.gruns ++ [(h, q)] }))
          | (s, .locked) => .next (pend s (.grun h q))
          | (s, .bad _) => .next (endCmd s h q 4 0)
          | (s, .entries _) => .next (go s)

/-- DEPDEC (R325, R335): of a running graph of the thread's world. -/
def execDepdec (h : Handle) (q : BitVec 16) (s : State) : Out :=
  match findCmd s h q with
  | none => .next s
  | some c =>
    if c.fin.isSome then .next s
    else if !cmdFree s c then .next (pend s (.depdec h q))
    else
      let w := nthWord c.words 1
      let g : BitVec 8 := bits w 16 8
      let i := field w 0 16
      match launchOf s g with
      | none => .next (endCmd s h q 2 0)
      | some l =>
        if graphWorld s g ≠ c.world || nodeCount s g ≤ i then .next (endCmd s h q 2 0)
        else if l.patch.isSome then .next (pend s (.depdec h q))
        else if nodeCounter s g i = 0 then .next (endCmd (abortLaunch s g 1 (BitVec.ofNat 16 i)) h q 3 0)
        else if l.aborting.isSome then .next (endCmd (gWr s (nodeAt s g i + 48) 2 (nodeCounter s g i - 1)) h q 0 0)
        else .next (endCmd (workAnd s g [.dec i]) h q 0 0)

/-! ### Placement (R329 to R333) -/

/-- The state without the threads that a pre-emption in favour of priority `q` could save, in a cluster (R333). -/
def withoutLower (s : State) (q : BitVec 3) (k : BitVec 7) : State :=
  let gone (t : Thread) : Bool :=
    inSlot t && clusterOf t.core = k && t.prio < q && nodeMode s t.graph t.node.toNat ≠ 2
  let f (t : Thread) : Thread := if gone t then { t with status := .ended } else t
  { s with th := f s.th, rest := s.rest.map f }

/-- Priority of a waiting team. -/
def waitPrio (s : State) (w : TeamWait) : BitVec 3 := taskPriority s w.graph w.node.toNat

/-- Can a waiting team stand in a cluster, now or after saves in its favour? -/
def waitHelps (s : State) (w : TeamWait) (k : BitVec 7) : Bool :=
  let i := w.node.toNat
  clusterPresent s k && nodeDie s w.graph i (dieOfCluster k) &&
    clusterHolds (withoutLower s (waitPrio s w) k) k (nodeThreads s w.graph i) (nodeWindow s w.graph i)

/-- Does a thread hold a tile or a slot claim (R235)? -/
def holdsClaim (s : State) (h : Handle) : Bool :=
  s.units.any (fun e => e.2.slots.any (fun x => x.2.owner = some h) || e.2.tiles.any (fun x => x.2.owner = some h))

/-- An idle slot of one core with room for a window. -/
def slotOn (s : State) (c : BitVec 11) (wb : Nat) : Option (BitVec 11 × BitVec 3) :=
  if 0 < roomOn s c wb then (idleSlots s c).head?.map (fun i => (c, i)) else none

/-- Must a continuation resume on the core that its record names (R120, R235, R331)? -/
def boundToCore (s : State) (t : Thread) : Bool := t.cause = 4 || holdsClaim s t.handle

/-- The other clusters of a cluster's die (R331). -/
def siblingClusters (s : State) (k : BitVec 7) : List (BitVec 7) :=
  ((upFrom 0 32).map (fun i => BitVec.ofNat 7 (32 * (dieOfCluster k).toNat + i))).filter (fun j => j ≠ k && clusterPresent s j)

/-- Clusters in which a continuation may resume, its own first (R331). -/
def resumeClusters (s : State) (t : Thread) : List (BitVec 7) :=
  clusterOf t.core :: (if t.member.isNone && !boundToCore s t then siblingClusters s (clusterOf t.core) else [])

/-- The slot of a cluster for a continuation (R120, R235, R331). -/
def resumeSlot (s : State) (t : Thread) (k : BitVec 7) : Option (BitVec 11 × BitVec 3) :=
  if boundToCore s t then (if clusterOf t.core = k then slotOn s t.core t.win.toNat else none) else slotIn s k t.win.toNat

/-- The participant of the round robin to which a waiting team belongs (R333). -/
def participantOf (s : State) (w : TeamWait) : Nat :=
  match (launchOf s w.graph).bind (·.chan) with
  | some c => c.toNat
  | none => 16

/-- Weight of a participant (R320, R335). -/
def participantWeight (s : State) (p : Nat) : Nat := if p < 16 then (chanAt s (BitVec.ofNat 4 p)).wt.toNat else 1

/-- The highest priority among waiting teams. -/
def topPrio (s : State) : BitVec 3 := BitVec.ofNat 3 ((s.queue.map (fun w => (waitPrio s w).toNat)).foldl max 0)

/-- The waiting team whose turn is next, with the round robin after it (R237, R333). -/
def nextTeam (s : State) : Option (TeamWait × State) :=
  let top := topPrio s
  let cand (p : Nat) : Option TeamWait := s.queue.find? (fun w => waitPrio s w = top && participantOf s w = p % 17)
  let take (i : Nat) : Option (TeamWait × State) :=
    let p := (s.rrCur + i) % 17
    (cand p).map (fun w => (w, { s with rrCur := p, rrTurns := 1, rrWeight := participantWeight s p }))
  match cand s.rrCur with
  | some w =>
    if s.rrTurns < s.rrWeight then some (w, { s with rrTurns := s.rrTurns + 1 }) else (upFrom 1 17).findSome? take
  | none => (upFrom 1 16).findSome? take

/-- A continuation stands back where the team whose turn is next is of higher priority and can have the room, now or by pre-emption
(R331, R333). -/
def yieldsTo (s : State) (t : Thread) (k : BitVec 7) : Bool :=
  s.phase = 3 && (nextTeam s).any (fun e => t.prio < waitPrio s e.1 && waitHelps s e.1 k)

/-- The continuations that may take a slot of a cluster: those of its queue, then the recruits that wait in the other queues of its die
(R331). -/
def resumable (s : State) (k : BitVec 7) : List Thread :=
  ((clusterAt s k).queue.filterMap (findThread s) ++
    (siblingClusters s k).flatMap (fun j =>
      ((clusterAt s j).queue.filterMap (findThread s)).filter (fun t => t.member.isNone && !boundToCore s t))).filter isAway

/-- The next continuation that is served, and its slot (R331). -/
def nextResume (s : State) : Option (Handle × BitVec 11 × BitVec 3) :=
  ((upFrom 0 128).map (BitVec.ofNat 7)).findSome? (fun k =>
    (resumable s k).findSome? (fun t =>
      (resumeSlot s t k).bind (fun p => if yieldsTo s t k then none else some (t.handle, p.1, p.2))))

/-- Resident threads of a team, recruits included. -/
def teamThreads (s : State) (n : Nat) : List Thread := (allThreads s).filter (fun t => inSlot t && t.team = n)

/-- Is a save of a resident thread ordered or under way? -/
def leaving (t : Thread) : Bool :=
  t.save.isSome ||
    (match t.status with
     | .saving _ => true
     | .exiting _ => true
     | _ => false)

/-- The teams that may be saved in favour of priority `q` in one of these clusters: lowest priority first, then the most
recently placed (R333). -/
def victim (s : State) (q : BitVec 3) (ks : List (BitVec 7)) : Option Nat :=
  let ok (n : Nat) (m : Team) : Bool :=
    nodeMode s m.graph m.node.toNat ≠ 2 && taskPriority s m.graph m.node.toNat < q &&
      (teamThreads s n).any (fun t => ks.contains (clusterOf t.core))
  let l := s.teams.filterMap (fun e => e.2.bind (fun m => if ok e.1 m then some (e.1, m) else none))
  (greatest (fun e => (7 - (taskPriority s e.2.graph e.2.node.toNat).toNat) * (s.placedNext + 1) + e.2.placed) l).map (·.1)

/-- A team is saved whole, with resume cause 1 (R333). -/
def saveTeam (s : State) (n : Nat) : State := (teamThreads s n).foldl (fun s t => orderSave s t.handle) s

/-- Room is made for priority `q` in clusters where that can help: one team at a time, until what has been ordered is done
(R333). Not in reduced service (R370). -/
def makeRoom (s : State) (q : BitVec 3) (ks : List (BitVec 7)) : State :=
  if s.phase ≠ 3 || (allThreads s).any (fun t => inSlot t && leaving t && t.prio < q && ks.contains (clusterOf t.core)) then s
  else
    match victim s q ks with
    | some n => saveTeam s n
    | none => s

/-- Clusters in which saves can make room for a waiting team. -/
def helpedClusters (s : State) (w : TeamWait) : List (BitVec 7) :=
  ((upFrom 0 128).map (BitVec.ofNat 7)).filter (waitHelps s w)

/-- Does a waiting team find no room (R333)? -/
def teamStuck (s : State) (w : TeamWait) : Bool :=
  let i := w.node.toNat
  (clusterFor s (nodeDie s w.graph i) (nodeThreads s w.graph i) (nodeWindow s w.graph i)).isNone

/-- The heads of the resume queues that find no room, each with its priority and the clusters in which saves can help it (R333). -/
def stuckResumes (s : State) : List (BitVec 3 × List (BitVec 7)) :=
  ((upFrom 0 128).map (BitVec.ofNat 7)).filterMap (fun k =>
    ((clusterAt s k).queue.head?.bind (findThread s)).bind (fun t =>
      let ks := resumeClusters s t
      if isAway t && ks.all (fun k => (resumeSlot s t k).isNone) then
        some (t.prio, ks.filter (fun k => (resumeSlot (withoutLower s t.prio k) t k).isSome))
      else none))

/-- Room is made for waiting continuations, one after another (R333). -/
def makeRooms (s : State) (l : List (BitVec 3 × List (BitVec 7))) : State := l.foldl (fun s e => makeRoom s e.1 e.2) s

/-- The pre-emption that the waiting teams and continuations call for (R333). -/
def preemption (s : State) : State :=
  makeRooms (match nextTeam s with
    | some (w, _) => if teamStuck s w then makeRoom s (waitPrio s w) (helpedClusters s w) else s
    | none => s) (stuckResumes s)

/-- TEAM_PLACEMENT (R329 to R331): one continuation is served, else one team placed; where neither finds room,
pre-emption (R333). -/
def execTeamPlacement (s : State) : Out :=
  match nextResume s with
  | some (h, c, k) => .next (pendOnce (pend (beginRestore s h c k) (.resume h c k)) .teamPlacement)
  | none =>
    match nextTeam s with
    | none => .next (preemption s)
    | some (w, s1) =>
      match placeTeam { s1 with queue := s1.queue.erase w } w.graph w.node.toNat with
      | some s2 => .next (pendOnce s2 .teamPlacement)
      | none => .next (preemption s)

/-- PRIORITY_PREEMPTION (R333): a waiting team or continuation of this priority has found no room. -/
def execPriorityPreemption (q : BitVec 3) (s : State) : Out :=
  .next (makeRooms (match s.queue.find? (fun w => waitPrio s w = q && teamStuck s w) with
    | some w => makeRoom s q (helpedClusters s w)
    | none => s) ((stuckResumes s).filter (fun e => e.1 = q)))

/-- Would a team's save let a waiting team stand in a cluster? -/
def roomWithout (s : State) (n : Nat) (w : TeamWait) : Bool :=
  let f (t : Thread) : Thread := if inSlot t && t.team = n then { t with status := .ended } else t
  let s1 := { s with th := f s.th, rest := s.rest.map f }
  (clusterFor s1 (nodeDie s w.graph w.node.toNat) (nodeThreads s w.graph w.node.toNat) (nodeWindow s w.graph w.node.toNat)).isSome

/-- The blocked team that gives way to a waiting one of its graph: the longest without a bundle, then that of the lowest
cluster (R332). -/
def blockedFor (s : State) (w : TeamWait) : Option Nat :=
  let ok (n : Nat) (m : Team) : Bool :=
    m.graph = w.graph && nodeMode s m.graph m.node.toNat ≠ 2 && (teamThreads s n).any (fun t => !leaving t) && roomWithout s n w
  let l := s.teams.filterMap (fun e => e.2.bind (fun m => if ok e.1 m then some (e.1, m) else none))
  (greatest (fun e => (s.clock - e.2.acted) * 128 + (127 - e.2.home.toNat)) l).map (·.1)

/-- BLOCKED_TEAM_EVICTION (R332): a team of a parallel node waits and every cluster of its die mask is full; a team of the
same context is blocked. When a team counts as blocked is a matter of time (log 9). -/
def execBlockedTeamEviction (s : State) : Out :=
  match s.queue.findSome? (fun w =>
      if s.phase = 3 && nodeMode s w.graph w.node.toNat = 1 && teamStuck s w then blockedFor s w else none) with
  | some n => .next (saveTeam s n)
  | none => .next s

end Sys2Proof.Machine
end

