-- ==== Sys2Proof/Machine/Mmp.lean ====
section
/-! DEFINITION. TLB instructions and walks, shootdowns, page tables and frames, page faults, and pages that move
(R337 to R350, R358, R359, R368 0x01 to 0x04). -/

namespace Sys2Proof.Machine

open Sys2Proof

/-! ### Translation agents (R346, R347) -/

/-- Virtual address of a tag (R345). -/
def tagVa (tag : Word) : Nat := field tag 16 40 * 65536
/-- Address space of a tag. -/
def tagAsid (tag : Word) : BitVec 12 := bits tag 0 12
/-- The tag of a page. -/
def pageTagWord (asid : BitVec 12) (va : Nat) : Word := word (va / 65536 * 65536) ||| zext64 asid

/-- Does an invalidation select an entry (R346)? -/
def selects (tag : Word) (sel : BitVec 2) (e : TlbEntry) : Bool :=
  sel = 2 || (e.asid = tagAsid tag && (sel = 1 || tlbHits e.asid (tagVa tag) e))

/-- Entries of an agent's TLB. -/
def tlbOf (s : State) (g : Agent) : List TlbEntry :=
  match g with
  | .core c => (coreOf s c).tlb
  | .cluster k => (clusterAt s k).tlb
  | _ => []

/-- An agent's TLB without the entries that an invalidation selects. -/
def tlbDrop (s : State) (g : Agent) (tag : Word) (sel : BitVec 2) : State :=
  let keep (l : List TlbEntry) := l.filter (fun e => !selects tag sel e)
  match g with
  | .core c => setCore s c { coreOf s c with tlb := keep (coreOf s c).tlb }
  | .cluster k => setCluster s k { clusterAt s k with tlb := keep (clusterAt s k).tlb }
  | _ => s

/-- Is a pending access one that an agent may have translated under a selected entry? Those to the 32 MiB around the
tag's address count, whatever their address space. -/
def translatedUnder (g : Agent) (tag : Word) (sel : BitVec 2) (e : Event) : Bool :=
  let near (p : Piece) : Bool := sel ≠ 0 || p.va / 2 ^ 25 = tagVa tag / 2 ^ 25
  match evOrigin e with
  | none => false
  | some o =>
    (match g with
     | .core c => o.core = c && !bit o.seq 31
     | .cluster k => clusterOf o.core = k
     | _ => false) &&
      (evPieces e).any near

/-- Is a copy command of a cluster reading its source under a selected entry? -/
def engineReads (s : State) (k : BitVec 7) (tag : Word) (sel : BitVec 2) : Bool :=
  s.cmds.any (fun c => clusterOf c.core = k &&
    (match c.reads with
     | some (l, _) => l.any (fun p => sel ≠ 0 || p.va / 2 ^ 25 = tagVa tag / 2 ^ 25)
     | none => false))

/-- Must an agent wait before it acknowledges: accesses not yet performed, walks not yet ended, of a page of any size that contains the
tag's address (R346, R347)? -/
def agentBusy (s : State) (g : Agent) (tag : Word) (sel : BitVec 2) : Bool :=
  s.pending.any (fun e =>
    translatedUnder g tag sel e ||
      (match e, g with
       | .tlbMissWalk k asid va, .cluster j =>
         k = j && (sel = 2 || (asid = tagAsid tag && (sel = 1 || va.toNat / 2 ^ 25 = tagVa tag / 2 ^ 25)))
       | _, _ => false)) ||
  (match g with
   | .cluster k => engineReads s k tag sel
   | _ => false)

/-- Does a cluster hold a selected entry, in its own TLB or in a core's, or must one of its agents wait? -/
def clusterConcerned (s : State) (tag : Word) (sel : BitVec 2) (k : BitVec 7) : Bool :=
  (Agent.cluster k :: (coresOf k).map Agent.core).any (fun g => (tlbOf s g).any (selects tag sel) || agentBusy s g tag sel)

/-- The agents that an invalidation asks: of every cluster concerned its own and those of all its cores, since a core's TLB is filled
from its cluster's (R341, R347). In a cluster that is not concerned no agent holds or comes to hold what is removed. -/
def holders (s : State) (tag : Word) (sel : BitVec 2) : List Agent :=
  let cores := s.cores.map (fun e => BitVec.ofNat 11 e.1) ++ s.pending.filterMap (fun e => (evOrigin e).map (·.core)) ++ s.cmds.map (·.core)
  let clusters := (s.clusters.map (fun e => BitVec.ofNat 7 e.1) ++ cores.map clusterOf ++
    s.pending.filterMap (fun e => match e with
      | .tlbMissWalk k _ _ => some k
      | _ => none)).eraseDups
  (clusters.filter (clusterConcerned s tag sel)).flatMap (fun k => Agent.cluster k :: (coresOf k).map Agent.core)

/-! ### Frames (R337, R358, R359, R370) -/

/-- Ownership of a frame. -/
def ownerOf (s : State) (f : Nat) : Owner := sget Owner.init s.owners f
/-- Write of it. -/
def setOwner (s : State) (f : Nat) (o : Owner) : State := { s with owners := sset Owner.init s.owners f o }
/-- `n` frames from `f` on become a world's; of 512 the first begins a 32 MiB run (R358). -/
def own (s : State) (f n : Nat) (w : World) : State :=
  (upFrom f n).foldl (fun s i => setOwner s i { world := w, st := 1, lg := decide (n = 512 ∧ i = f) }) s
/-- Zeros over a frame; no buffer holds a line of it any more (R223, R344, R359). -/
def zeroFrame (s : State) (f : Nat) : State :=
  let keep (l : List BufLine) : List BufLine := l.filter (fun x => x.line / 1024 ≠ f)
  { s with mem := s.mem.filter (fun c => c.1 / 65536 ≠ f)
           buffers := (s.buffers.map (fun e => (e.1, keep e.2))).filter (fun e => e.2 ≠ []) }
/-- Zeros over `n` frames. -/
def zeroFrames (s : State) (f n : Nat) : State := (upFrom f n).foldl zeroFrame s

/-- Zeros over `n` frames as an encrypted leaf will read them (R224, R344). -/
def zeroUnder (s : State) (f n : Nat) (key : Option (BitVec 13)) : State :=
  if key.isNone then s
  else (upFrom (1024 * f) (1024 * n)).foldl (fun s l => wrPiece s { addr := 64 * l, va := 0, len := 64, off := 0, key := key } []) s

/-- The frames outside device-reserved memory: first frame and number of each region (R337, R370). -/
def frameRegions (s : State) : List (Nat × Nat) :=
  (if s.phase = 2 then [] else (upFrom 0 4).map (fun d => (d * 2 ^ 24, (stacksOf s d * (96 * 10 ^ 9) - 2 ^ 34) / 65536))) ++
    (upFrom 0 4).map (fun d =>
      (sramBase / 65536 + d * 1024, (clustersOf s d * 2 ^ 21 - (if s.phase = 3 then 0 else 2 ^ 23)) / 65536))

/-- The k-th run of `n` frames, aligned to its size, of the regions. -/
def nthRun (n : Nat) : List (Nat × Nat) → Nat → Option Nat
  | [], _ => none
  | (f, c) :: r, k => if k < c / n then some (f + n * k) else nthRun n r (k - c / n)

/-- A free run of frames: a free choice among them (log 8). -/
def freeRun (s : State) (n : Nat) : Option Nat :=
  let rs := frameRegions s
  let total := (rs.map (fun r => r.2 / n)).sum
  let start := choose s total
  (upFrom start (min total (s.owners.length + 1))).findSome? (fun k =>
    (nthRun n rs (k % total)).bind (fun f => if (upFrom f n).all (fun i => (ownerOf s i).st = 0) then some f else none))

/-! ### Shootdowns (R346 to R348, R359) -/

/-- First local frame of a valid leaf. -/
def leafFrame (l : Word) : Nat := field l 22 41 % 2 ^ 29
/-- Frames of a leaf. -/
def leafFrames (big : Bool) : Nat := if big then 512 else 1

/-- Line i of a frame, under a key. -/
def framePiece (f i : Nat) (key : Option (BitVec 13)) : Piece := { addr := 65536 * f + 64 * i, va := 0, len := 64, off := 0, key := key }

/-- The page's bytes are copied, under the key of its leaf (R224, R348). -/
def copyFrame (s : State) (src dst : Nat) (key : Option (BitVec 13)) : State :=
  (upFrom 0 1024).foldl (fun s i =>
    let (s, b) := rdPiece s (framePiece src i key)
    wrPiece s (framePiece dst i key) b) s

/-- The page's bytes go to the host, read at their homes under the key of its leaf (R224, R348). -/
def evictFrame (s : State) (f : Nat) (key : Option (BitVec 13)) : State :=
  let (s, b) := rdPieces s ((upFrom 0 1024).map (fun i => framePiece f i key))
  send s (.pageOut f b)

/-- The leaf with another frame (R340). -/
def withFrame (l : Word) (fa : Nat) : Word := (l &&& 0x3FFFFF) ||| word (fa * 2 ^ 22)
/-- The absent entry of a kind, at a level that holds leaves (R340). -/
def absentWord (kind : Nat) : Word := word (2 + 4 * kind)
/-- Write of a table entry at a local address. -/
def wrEntry (s : State) (a : Nat) (w : Word) : State := wrBytes s a (leBytes 8 w.toNat)

/-- Threads and others that wait for a page are served again (R344, R348). -/
def serveAgain (s : State) : State :=
  s.pageFaults.foldl (fun s f => pendOnce s (.pageFaultService f.asid (word (f.page * 65536)))) s

/-- A device-wide invalidation begins; with nobody to wait for it has ended, and `done` follows at once (R347). -/
def beginShoot (s : State) (l : List (Word × BitVec 2)) (j : ShootJob) (done : State → State) : State :=
  let left := (l.flatMap (fun e => (holders s e.1 e.2).map (fun g => (g, e.1, e.2)))).eraseDups
  if left = [] then done s
  else
    left.foldl (fun s e => pendOnce s (.invalidationAtAgent e.1 e.2.1 e.2.2)) { s with shootdowns := s.shootdowns ++ [{ left := left, job := j }] }

/-- Every TLB entry for these frames, and every access to them on its way, as tags (R359). -/
def frameTags (s : State) (fs : List Nat) : List (Word × BitVec 2) :=
  let hit (e : TlbEntry) : Bool := fs.any (fun f => leafFrame e.leaf ≤ f && f < leafFrame e.leaf + leafFrames e.big)
  let tlbs := s.cores.flatMap (fun c => c.2.tlb) ++ s.clusters.flatMap (fun c => c.2.tlb)
  ((tlbs.filter hit).map (fun e => (pageTagWord e.asid (e.page * 65536), (0 : BitVec 2))) ++
    s.pending.flatMap (fun e => (evPieces e).filterMap (fun p =>
      if fs.contains (p.addr / 65536) then some (pageTagWord 0 p.va, (0 : BitVec 2)) else none))).eraseDups

/-- Frames are zeroed and have their new owner: the last steps of a scrubbing (R359). -/
def scrubDone (s : State) (fs : List Nat) (to' : Owner) : State := fs.foldl (fun s f => setOwner (zeroFrame s f) f to') s

/-- Frames pass through scrubbing to an owner, or to none (R359). -/
def scrub (s : State) (fs : List Nat) (to' : Owner) : State :=
  if fs = [] then s
  else
    let s1 := fs.foldl (fun s f => setOwner s f { ownerOf s f with st := 2, lg := false }) s
    beginShoot s1 (frameTags s1 fs) (.scrub fs to') (fun s => scrubDone s fs to')

/-- What follows the last acknowledgement: TLBI is answered, a page is copied and those of its leaves written that are still in transit, its
old frames passing through scrubbing; frames are zeroed and change owner (R346, R348, R359). -/
def shootDone (s : State) (j : ShootJob) : State :=
  match j with
  | .tlbi o d => answerTo s o (.cluster (clusterOf o.core)) (.s d) 0 true
  | .scrub fs to' => scrubDone s fs to'
  | .move f n dest leaves =>
    let key := (leaves.head?.map (fun e => leafKey e.2)).getD none
    let live := leaves.filter (fun e => word (ofLe (rdBytes s e.1 8)) = absentWord 3)
    let s := match dest with
      | .frame g =>
        let to' := g.toNat % 2 ^ 29
        if live = [] then scrub s (upFrom to' n) Owner.init
        else live.foldl (fun s e => wrEntry s e.1 (withFrame e.2 g.toNat)) ((upFrom 0 n).foldl (fun s i => copyFrame s (f + i) (to' + i) key) s)
      | .host =>
        let s := (upFrom f n).foldl (fun s i => evictFrame s i key) s
        live.foldl (fun s e => wrEntry s e.1 (absentWord 2)) s
    serveAgain (scrub s (upFrom f n) Owner.init)

/-- A device-wide invalidation, and what follows it (R347). -/
def shoot (s : State) (l : List (Word × BitVec 2)) (j : ShootJob) : State := beginShoot s l j (fun s => shootDone s j)

/-- An agent's acknowledgement counts for every shootdown that waits for it. -/
def acknowledge (s : State) (g : Agent) (tag : Word) (sel : BitVec 2) : State :=
  let l := s.shootdowns.map (fun d => { d with left := d.left.filter (fun e => e ≠ (g, tag, sel)) })
  (l.filter (fun d => d.left = [])).foldl (fun s d => shootDone s d.job) { s with shootdowns := l.filter (fun d => d.left ≠ []) }

/-- Has the cluster of a core still to acknowledge an invalidation? Until then the core could be filled again from its TLB (R341). -/
def clusterFirst (s : State) (g : Agent) (tag : Word) (sel : BitVec 2) : Bool :=
  match g with
  | .core c => s.shootdowns.any (fun d => d.left.contains (.cluster (clusterOf c), tag, sel))
  | _ => false

/-- INVALIDATION_AT_AGENT (R347): the entries go at once; the acknowledgement follows the accesses and walks that used
them. A core's agent acts after its cluster's, so that no entry which is removed comes back to it (R348, R350). -/
def execInvalidationAtAgent (g : Agent) (tag : Word) (sel : BitVec 2) (s : State) : Out :=
  if clusterFirst s g tag sel then .next (pend s (.invalidationAtAgent g tag sel)) else
  let s := tlbDrop s g tag sel
  if agentBusy s g tag sel then .next (pend s (.invalidationAtAgent g tag sel)) else .next (acknowledge s g tag sel)

/-! ### TLBW, TLBI and walks (R341, R342, R345, R346) -/

/-- A tag with a reserved bit (R345). -/
def tagBad (tag : Word) : Bool := field tag 12 4 ≠ 0 || field tag 56 8 ≠ 0

/-- The trap of the TLB instructions outside the system world (R345). -/
def systemOnly (t : Thread) : Option Bad := if t.world = 0 then none else some (.trap .protect 0)

/-- A leaf enters a cluster's TLB in place of what held its page (R341, R345). -/
def fillTlb (s : State) (k : BitVec 7) (asid : BitVec 12) (va : Nat) (big : Bool) (l : Word) : State :=
  let c := clusterAt s k
  let e : TlbEntry := { asid := asid, page := va / 65536, big := big, leaf := l }
  setCluster s k { c with tlb := tlbWays e (c.tlb.filter (fun f => !tlbHits asid va f)) }

/-- The size of the page that contains an address: that of the page table's leaf, 64 KiB where it has none. -/
def pageBig (s : State) (asid : BitVec 12) (va : Nat) : Bool :=
  match walk s asid va with
  | .leaf b _ => b
  | _ => false

/-- TLBW at the fill port: the answer, and the state after it (R342, R345). -/
def tlbWrite (s : State) (k : BitVec 7) (tag l : Word) : State × Nat :=
  let va := tagVa tag
  let big := pageBig s (tagAsid tag) va
  if tagBad tag || !leafOk big l then (s, 2)
  else if !fillPort s (tagAsid tag) big l then (s, 1)
  else (fillTlb s k (tagAsid tag) va big l, 0)

/-- TLBW (R345). -/
def execTlbw (d a b : BitVec 6) (s : State) : Out :=
  let t := s.th
  let k := clusterOf t.core
  conclude .c (requestPlan s d [.s a, .s b] (systemOnly t) (fun o s =>
    let (s, n) := tlbWrite s k (rdS t a) (rdS t b)
    answerTo s o (.cluster k) (.s d) (word n) true)) s

/-- TLBI (R346): a release, engine commands included (R74); 0 lands when every holder has acknowledged. -/
def execTlbi (d a b : BitVec 6) (s : State) : Out :=
  let t := s.th
  let v := rdS t b
  let p := requestPlan s d [.s a, .s b] (systemOnly t) (fun o s =>
    if tagBad (rdS t a) || field v 0 2 = 3 || field v 2 62 ≠ 0 then answerTo s o (.cluster (clusterOf t.core)) (.s d) 2 true
    else shoot s [(rdS t a, bits v 0 2)] (.tlbi o d))
  conclude .c { p with hold := p.hold || !allAccepted s t } s

/-- A malformed entry stands in the error log (R340). -/
def logMalformed (s : State) (asid : BitVec 12) (va : Word) : State := logError s 5 ((asidWorld s asid).getD 0) 0 va 0

/-- TLB_MISS_WALK (R341, R342): the translation core's walk, and the fill of the cluster's TLB. -/
def execTlbMissWalk (k : BitVec 7) (asid : BitVec 12) (va : Word) (s : State) : Out :=
  let s1 := touchWalk s asid va.toNat
  match walk s asid va.toNat with
  | .leaf big l =>
    if leafAddr big l 0 / 2 ^ 45 = s.dev.toNat && fillPort s asid big l then .next (fillTlb s1 k asid va.toNat big l) else .next s1
  | .unmapped true => .next (logMalformed s1 asid va)
  | _ => .next s1

/-! ### Page tables (R339, R340) -/

/-- The staging region of firmware: 256 MiB of device-reserved HBM on die 0, here its lowest (R351, log 8). -/
def stagingBase (s : State) : Nat := stacksOf s 0 * (96 * 10 ^ 9) - 2 ^ 34

/-- Where the MMP's tables of 4 KiB may lie: base and number, in die 0's reserve above its share of directory and continuation table
(R337, R370). -/
def tableRegion (s : State) : Nat × Nat :=
  let low := shareBase s 0 + tableShare
  (low, ((reserveOf s 0).1 + (reserveOf s 0).2 - low) / 4096)

/-- Is a 4 KiB page a table already, or part of a root table or of an image? -/
def tableUsed (s : State) (a : Nat) : Bool := (reserveTaken s).any (fun t => t.1 < a + 4096 && a < t.1 + t.2)

/-- A table of zeros is taken: a free choice among the free places (log 8). -/
def takeTable (s : State) : Option (State × Nat) :=
  let (base, n) := tableRegion s
  let start := choose s n
  ((upFrom start (min n (s.tables.length + 17 * s.asids.length + 34 * s.dir.length + 1))).map (fun k => base + 4096 * (k % n))).findSome? (fun a =>
    if tableUsed s a then none
    else some ({ s with tables := a :: s.tables, mem := s.mem.filter (fun c => c.1 / 4096 ≠ a / 4096) }, a))

/-- A table of level 3 in which no page is mapped: each entry has `L` 1 (R339, R340). -/
def takeLeafTable (s : State) : Option (State × Nat) :=
  (takeTable s).map (fun p => ((upFrom 0 512).foldl (fun s i => wrEntry s (p.2 + 8 * i) (absentWord 0)) p.1, p.2))

/-- The table that an entry names, taken if there is none. -/
def subTable (s : State) (a : Nat) (take : State → Option (State × Nat)) : Option (State × Nat) :=
  let e := word (ofLe (rdBytes s a 8))
  if bit e 0 && !bit e 1 then some (s, nextTable e % 2 ^ 45)
  else (take s).map (fun p => (wrEntry p.1 a (word (1 + fabric p.1 p.2 / 4096 * 2 ^ 18)), p.2))

/-- The place of the entry of a page, its tables taken where they are missing. -/
def pageEntry (s : State) (asid : BitVec 12) (va : Nat) (big : Bool) : Option (State × Nat) :=
  match sget none s.asids asid.toNat with
  | none => none
  | some x =>
    (subTable s (x.root.toNat % 2 ^ 45 + 8 * (va / 2 ^ 43)) takeTable).bind (fun p1 =>
      (subTable p1.1 (p1.2 + 8 * (va / 2 ^ 34 % 512)) takeTable).bind (fun p2 =>
        let a2 := p2.2 + 8 * (va / 2 ^ 25 % 512)
        if big then some (p2.1, a2)
        else (subTable p2.1 a2 takeLeafTable).map (fun p3 => (p3.1, p3.2 + 8 * (va / 2 ^ 16 % 512)))))

/-- A page-table entry of a level that holds leaves: address space, virtual address, size, place, contents. -/
structure PageEntry where
  asid : BitVec 12
  va : Nat
  big : Bool
  addr : Nat
  entry : Word
deriving DecidableEq, Repr, Inhabited

/-- The entries of a table, by index. -/
def tableEntries (s : State) (a n : Nat) : List (Nat × Nat × Word) :=
  (upFrom 0 n).map (fun i => (i, a + 8 * i, word (ofLe (rdBytes s (a + 8 * i) 8))))

/-- The tables that the entries of a table name, with the virtual address of each. -/
def tablesBelow (s : State) (va a n span : Nat) : List (Nat × Nat) :=
  (tableEntries s a n).filterMap (fun e => if tableOk e.2.2 then some (va + e.1 * span, nextTable e.2.2 % 2 ^ 45) else none)

/-- Every valid leaf of an address space, and every absent one of a kind other than unmapped. -/
def asidEntries (s : State) (asid : BitVec 12) (root : Nat) : List PageEntry :=
  let l2 := (tablesBelow s 0 root 8192 (2 ^ 43)).flatMap (fun t => tablesBelow s t.1 t.2 512 (2 ^ 34))
  let leaves (big : Bool) (span : Nat) (t : Nat × Nat) : List PageEntry :=
    (tableEntries s t.2 512).filterMap (fun e =>
      if bit e.2.2 1 && (bit e.2.2 0 || field e.2.2 2 3 ≠ 0) then some { asid := asid, va := t.1 + e.1 * span, big := big, addr := e.2.1, entry := e.2.2 } else none)
  l2.flatMap (fun t => leaves true (2 ^ 25) t ++
    (tablesBelow s t.1 t.2 512 (2 ^ 25)).flatMap (leaves false (2 ^ 16)))

/-- Those of every address space. -/
def allEntries (s : State) : List PageEntry :=
  s.asids.flatMap (fun e => match e.2 with
    | some x => asidEntries s (BitVec.ofNat 12 e.1) (x.root.toNat % 2 ^ 45)
    | none => [])

/-- Does a leaf map a frame of this device? -/
def mapsFrame (s : State) (e : PageEntry) (f : Nat) : Bool :=
  bit e.entry 0 && leafAddr e.big e.entry 0 / 2 ^ 45 = s.dev.toNat && leafFrame e.entry ≤ f && f < leafFrame e.entry + leafFrames e.big

/-! ### Pinned pages (R349) -/

/-- Bytes of a tensor, C of R277. -/
def bondBytes (b : BondEntry) : Nat :=
  match fmtOf b.fmt with
  | some f => (b.dims.map (·.toNat)).foldl (· * ·) 1 * fmtWidth f / 8
  | none => 0

/-- The virtual intervals that the MMP never makes absent (R256, R285, R308, R349). -/
def pinned (s : State) : List (BitVec 12 × Nat × Nat) :=
  s.clusters.flatMap (fun c => c.2.trees.filterMap (fun e => e.2.map (fun t => (t.asid, t.base.toNat, 32 * t.cap * t.bs)))) ++
    s.bonds.flatMap (fun e => match e.2 with
      | some b => [(b.asid, b.base.toNat, bondBytes b), (b.asid, b.scr.toNat, bondBytes b)]
      | none => []) ++
    s.windows.filterMap (fun e => e.2.map (fun w => (w.asid, w.base.toNat, w.len)))

/-- Does an interval meet a pinned page? -/
def isPinned (s : State) (asid : BitVec 12) (va n : Nat) : Bool :=
  (pinned s).any (fun p => p.1 = asid && p.2.1 / 65536 * 65536 < va + n && va < (p.2.1 + p.2.2 + 65535) / 65536 * 65536)

/-! ### Page faults (R344) -/

/-- The template of a page: that of the range that system software mapped last (R368 0x02). -/
def templateOf (s : State) (asid : BitVec 12) (va : Nat) : Word :=
  match s.ranges.find? (fun r => r.asid = asid && r.base ≤ va && va < r.base + r.len) with
  | some r => r.leaf
  | none => 0x1F

/-- The waiting threads, launches and commands of a page go on (R203, R344). -/
def resolveFault (s : State) (f : PageFault) : State :=
  let s := { s with pageFaults := s.pageFaults.filter (fun g => !(g.asid = f.asid && g.page = f.page)) }
  let s := f.threads.foldl (fun s w => makeRunnable (modThread s w.1 (fun t => { t with served := true })) w.1 5) s
  let s := f.launches.foldl (fun s g => match (launchOf s g).bind (·.chan) with
    | some c => pendOnce s (.launchStart c)
    | none => s) s
  f.gruns.foldl (fun s c => pendOnce s (.grun c.1 c.2)) s

/-- The MMP cannot resolve a page: each thread resumes with its trap, a patch list is unreadable (R322, R335, R344). -/
def failFault (s : State) (f : PageFault) : State :=
  let s := { s with pageFaults := s.pageFaults.filter (fun g => !(g.asid = f.asid && g.page = f.page)) }
  let s := f.threads.foldl (fun s w =>
    makeRunnable (modThread s w.1 (fun t => { t with served := true, failed := some (w.2.1, w.2.2) })) w.1 5) s
  let s := f.launches.foldl (fun s g => abortLaunch { s with launches := s.launches.map (fun l =>
    if l.graph = g then { l with patch := none } else l) } g 5 0) s
  f.gruns.foldl (fun s c => endCmd s c.1 c.2 4 0) s

/-- The entry of a page where it is present or absent: level of a 32 MiB page or not, and its place. -/
def entryOf (s : State) (asid : BitVec 12) (va : Nat) : Option (Bool × Nat) :=
  (sget none s.asids asid.toNat).bind (fun x =>
    let e0 := entryAt s x.root.toNat (va / 2 ^ 43)
    if !tableOk e0 then none
    else
      let e1 := entryAt s (nextTable e0) (va / 2 ^ 34 % 512)
      if !tableOk e1 then none
      else
        let a2 := nextTable e1 % 2 ^ 45 + 8 * (va / 2 ^ 25 % 512)
        let e2 := entryAt s (nextTable e1) (va / 2 ^ 25 % 512)
        if tableOk e2 then some (false, nextTable e2 % 2 ^ 45 + 8 * (va / 2 ^ 16 % 512)) else some (true, a2))

/-- A frame for a page, zeroed, under the key of its leaf, and its world's (R344, R359). -/
def takeFrame (s : State) (asid : BitVec 12) (big : Bool) (key : Option (BitVec 13)) : Option (State × Nat) :=
  (freeRun s (leafFrames big)).map (fun f =>
    (zeroUnder (own (zeroFrames s f (leafFrames big)) f (leafFrames big) ((asidWorld s asid).getD 0)) f (leafFrames big) key, f))

/-- The leaf of a page with its frame. -/
def newLeaf (s : State) (template : Word) (f : Nat) : Word := withFrame (template ||| 3) (fabric s (65536 * f) / 65536)

/-- PAGE_FAULT_SERVICE (R344). -/
def execPageFaultService (asid : BitVec 12) (va : Word) (s : State) : Out :=
  match s.pageFaults.find? (fun f => f.asid = asid && f.page = va.toNat / 65536) with
  | none => .next s
  | some f =>
    if f.tag.isSome then .next s
    else
      match walk s asid va.toNat with
      | .leaf _ _ => .next (resolveFault s f)
      | .unmapped m => .next (failFault (if m then logMalformed s asid va else s) f)
      | .absent =>
        match entryOf s asid va.toNat with
        | none => .next s
        | some (big, a) =>
          let kind := field (word (ofLe (rdBytes s a 8))) 2 3
          if kind = 3 then .next s
          else
            match takeFrame s asid big (if kind = 1 then leafKey (templateOf s asid va.toNat) else none) with
            | none => .next (failFault s f)
            | some (s1, fr) =>
              if kind = 1 then .next (resolveFault (wrEntry s1 a (newLeaf s1 (templateOf s asid va.toNat) fr)) f)
              else
                let ask (g : PageFault) : PageFault := if g.asid = f.asid && g.page = f.page then { g with tag := some (s.pageTag, fr) } else g
                .next (postEvent (send { s1 with pageFaults := s1.pageFaults.map ask, pageTag := s.pageTag + 1 }
                  (.pageRequest asid f.page s.pageTag fr)) 0 ((asidWorld s asid).getD 0) s.pageTag (word (f.page * 65536 + asid.toNat)) (word fr))

/-! ### Pages that move (R348) -/

/-- Does the page ownership table have an entry for a frame: every byte of it exists outside device-reserved memory (R358, R370)? -/
def frameListed (s : State) (f : Nat) : Bool :=
  [65536 * f, 65536 * f + 65535].all (fun a => assigned s a && !reserved s a)

/-- May a page move to a run of frames: free, and outside device-reserved memory; none of HBM in reduced service, whose leaves map die
SRAM alone (R348, R370)? -/
def destFree (s : State) (g n : Nat) : Bool :=
  (upFrom g n).all (fun i => (ownerOf s i).st = 0 && frameListed s i && !(s.phase = 2 && (hbmDie s (65536 * i)).isSome))

/-- Does firmware run, so that Lintel is asked for anything by it: in reduced and in full service (R353, R369)? -/
def firmwareRuns (s : State) : Bool := s.phase = 2 || s.phase = 3

/-- PAGE_MIGRATION (R348, R349), by firmware that runs: of a frame that some world owns and that leaves map, no pinned page among them, nor
device-reserved memory holds. The new frame is the world's from the first step on, so that nobody else is given it. -/
def execPageMigration (frame : BitVec 41) (dest : MoveTo) (s : State) : Out :=
  let f := frame.toNat % 2 ^ 29
  let es := (allEntries s).filter (fun e => mapsFrame s e f)
  let big := es.any (·.big)
  let n := leafFrames big
  let first := if big then (es.find? (·.big)).elim f (fun e => leafFrame e.entry) else f
  let all := (allEntries s).filter (fun e => (upFrom first n).any (mapsFrame s e))
  let destOk := match dest with
    | .host => true
    | .frame g => g.toNat / 2 ^ 29 = s.dev.toNat && g.toNat % n = 0 && destFree s (g.toNat % 2 ^ 29) n
  if !firmwareRuns s || frame.toNat / 2 ^ 29 ≠ s.dev.toNat || (ownerOf s f).st ≠ 1 || !frameListed s f || !destOk || all = [] || all.any (fun e => isPinned s e.asid e.va (65536 * leafFrames e.big))
  then .next s
  else
    let s0 := match dest with
      | .frame g => own s (g.toNat % 2 ^ 29) n (ownerOf s f).world
      | .host => s
    let s1 := all.foldl (fun s e => wrEntry s e.addr (absentWord 3)) s0
    .next (shoot s1 (all.map (fun e => (pageTagWord e.asid e.va, 0))) (.move first n dest (all.map (fun e => (e.addr, e.entry)))))

/-- Moves of a world's pages that are under way go no further: their pages are unmapped, and no frame is given (R359, R363). -/
def cancelMoves (s : State) (w : World) : State :=
  let mine (d : Shootdown) : Bool := match d.job with
    | .move f _ _ _ => (ownerOf s f).world = w
    | _ => false
  let leaves := (s.shootdowns.filter mine).flatMap (fun d => match d.job with
    | .move _ _ _ l => l
    | _ => [])
  let s := leaves.foldl (fun s e => wrEntry s e.1 (absentWord 0)) s
  { s with shootdowns := s.shootdowns.map (fun d => if mine d then { d with job := .scrub [] Owner.init } else d) }

/-- The shootdowns of moves that a test selects. -/
def movesThat (s : State) (p : Nat → Nat → MoveTo → List (Nat × Word) → Bool) : List Shootdown :=
  s.shootdowns.filter (fun d => match d.job with
    | .move f n dest leaves => p f n dest leaves
    | _ => false)

/-- The frames that a move goes to. -/
def destFrames (n : Nat) : MoveTo → List Nat
  | .frame g => upFrom (g.toNat % 2 ^ 29) n
  | .host => []

/-- A move under way goes no further: its pages are present again where they were, and the frames that it was to go to are free
(R348, R359, log 31). -/
def undoMove (s : State) (d : Shootdown) : State :=
  match d.job with
  | .move _ n dest leaves =>
    let s := leaves.foldl (fun s e => wrEntry s e.1 e.2)
      { s with shootdowns := s.shootdowns.map (fun x => if x = d then { d with job := .scrub [] Owner.init } else x) }
    serveAgain (scrub s (destFrames n dest) Owner.init)
  | _ => s

/-- FRAME_OWNER_CHANGE (R359), of a frame that the table lists, while firmware runs. A 32 MiB run that the frame belonged to is one no
more, and a move from or to it goes no further. -/
def execFrameOwnerChange (frame : BitVec 29) (w : World) (s : State) : Out :=
  let f := frame.toNat
  if !frameListed s f || !firmwareRuns s then .next s else
  let s := (movesThat s (fun first n dest _ => (upFrom first n).contains f || (destFrames n dest).contains f)).foldl undoMove s
  let s := setOwner s (f / 512 * 512) { ownerOf s (f / 512 * 512) with lg := false }
  .next (scrub s [f] { world := w, st := 1, lg := false })

/-! ### Requests of system software (R368) -/

/-- Bytes of a ring entry as a number. -/
def arg (e : BitVec 512) (at' n : Nat) : Nat := e.toNat / 2 ^ (8 * at') % 2 ^ (8 * n)

/-- Are all the bytes of an entry 0 but its operation, status, world and tag (R367) and those named by the list of
(first, number)? -/
def restZero (e : BitVec 512) (named : List (Nat × Nat)) : Bool :=
  (upFrom 0 64).all (fun i => i < 8 || named.any (fun r => r.1 ≤ i && i < r.1 + r.2) || arg e i 1 = 0)

/-- What a request comes to: its status and the state after it. -/
abbrev Ring := State × Nat

/-- Does a running graph name the address space (R368 0x01)? -/
def asidRuns (s : State) (asid : Nat) : Bool := s.launches.any (fun l => l.asid.toNat = asid)

/-- May a root table lie at a local address: in device-reserved HBM, in reduced service in die 0's SRAM reserve, above its share of directory
and continuation table, which moves to a place of its own (R338, R370, R371, log 11)? -/
def rootPlace (s : State) (a : Nat) : Bool :=
  if s.phase = 2 then shareBase s 0 + tableShare ≤ a && a + 65536 ≤ (reserveOf s 0).1 + (reserveOf s 0).2
  else (hbmDie s a).isSome && (hbmDie s (a + 65535)).isSome && reserved s a

/-- Request 0x01: set address-space entry (R338). -/
def ringAsid (e : BitVec 512) (s : State) : Ring :=
  let asid := arg e 8 2
  let root := arg e 16 8
  if !restZero e [(8, 5), (16, 8)] || 4096 ≤ asid || 1 < arg e 12 1 || 2 ^ 57 ≤ root || root % 65536 ≠ 0 ||
      root / 2 ^ 45 ≠ s.dev.toNat || !rootPlace s (root % 2 ^ 45) then (s, 1)
  else if asidRuns s asid then (s, 2)
  else
    ({ s with asids := sset none s.asids asid (if arg e 12 1 = 1 then some { world := BitVec.ofNat 16 (arg e 10 2), root := word root } else none) }, 0)

/-- The pages of a range: address and whether of 32 MiB. -/
def rangePages (big : Bool) : Nat → Nat → Nat → List (Nat × Bool)
  | 0, _, _ => []
  | k + 1, va, n =>
    if n = 0 then []
    else if big && va % 2 ^ 25 = 0 && 2 ^ 25 ≤ n then (va, true) :: rangePages big k (va + 2 ^ 25) (n - 2 ^ 25)
    else (va, false) :: rangePages big k (va + 65536) (n - 65536)

/-- A 32 MiB page, present or absent, is divided: a table with an entry for each of its 64 KiB takes its place (R339, R340). -/
def splitPage (s : State) (e : PageEntry) : Option State :=
  (takeTable s).map (fun p =>
    let part (i : Nat) : Word := if bit e.entry 0 then withFrame e.entry (field e.entry 22 41 + i) else e.entry
    let s := (upFrom 0 512).foldl (fun s i => wrEntry s (p.2 + 8 * i) (part i)) p.1
    wrEntry s e.addr (word (1 + fabric s p.2 / 4096 * 2 ^ 18)))

/-- The 32 MiB pages that an interval meets in part are divided, so that only what lies in it changes (log 31). -/
def splitAround (s : State) (asid : BitVec 12) (va n : Nat) : Option State :=
  ((allEntries s).filter (fun e => e.asid = asid && e.big && e.va < va + n && va < e.va + 2 ^ 25 && !(va ≤ e.va && e.va + 2 ^ 25 ≤ va + n))).foldl
    (fun s e => s.bind (fun s => splitPage s e)) (some s)

/-- The entries of an address space that lie in an interval. -/
def entriesIn (s : State) (asid : BitVec 12) (va n : Nat) : List PageEntry :=
  (allEntries s).filter (fun e => e.asid = asid && va ≤ e.va && e.va < va + n)

/-- The entries of an interval become unmapped: their frames go through scrubbing back to the allocator (R359, R368 0x03). -/
def unmapEntries (s : State) (es : List PageEntry) : State :=
  let fs := (es.filter (fun e => bit e.entry 0)).flatMap (fun e => upFrom (leafFrame e.entry) (leafFrames e.big))
  let s := fs.foldl (fun s f => setOwner s (f / 512 * 512) { ownerOf s (f / 512 * 512) with lg := false }) s
  scrub (es.foldl (fun s e => wrEntry s e.addr (absentWord 0)) s) fs.eraseDups Owner.init

/-- One page of a range is mapped: with a frame, or absent of a kind. -/
def mapPage (s : State) (asid : BitVec 12) (template : Word) (now : Bool) (kind : Nat) (p : Nat × Bool) : Option State :=
  (pageEntry s asid p.1 p.2).bind (fun q =>
    if now then (takeFrame q.1 asid p.2 (leafKey template)).map (fun r => wrEntry r.1 q.2 (newLeaf r.1 template r.2))
    else some (wrEntry q.1 q.2 (absentWord kind)))

/-- The pages of a range, one after another. -/
def mapPages (s : State) (asid : BitVec 12) (template : Word) (now : Bool) (kind : Nat) : List (Nat × Bool) → Option State
  | [] => some s
  | p :: r => (mapPage s asid template now kind p).bind (fun s => mapPages s asid template now kind r)

/-- Are address space, base and length of a range valid? -/
def rangeOk (s : State) (e : BitVec 512) : Bool :=
  arg e 8 2 < 4096 && (sget none s.asids (arg e 8 2)).isSome && arg e 16 8 % 65536 = 0 && arg e 24 8 % 65536 = 0 &&
    0 < arg e 24 8 && arg e 16 8 + arg e 24 8 ≤ 2 ^ 56

/-- What is under way for the pages of a range that system software maps or unmaps: a move goes no further, and a page that the host has been
asked for is served again as it then stands, the frame that it was to be written to passing through scrubbing (R344, R348, log 31). -/
def settleRange (s : State) (asid : BitVec 12) (va n : Nat) : State :=
  let places := ((allEntries s).filter (fun e => e.asid = asid && va < e.va + 65536 * leafFrames e.big && e.va < va + n)).map (·.addr)
  let s := (movesThat s (fun _ _ _ leaves => leaves.any (fun e => places.contains e.1))).foldl undoMove s
  let size (f : PageFault) : Nat := leafFrames (((entryOf s asid (f.page * 65536)).map (·.1)).getD false)
  let mine (f : PageFault) : Bool :=
    f.asid = asid && f.tag.isSome && va < (f.page + size f) * 65536 && f.page * 65536 < va + n
  let frames := (s.pageFaults.filter mine).flatMap (fun f => upFrom ((f.tag.map (·.2)).getD 0) (size f))
  serveAgain (scrub { s with pageFaults := s.pageFaults.map (fun f => if mine f then { f with tag := none } else f) } frames Owner.init)

/-- Request 0x02: map range. A page of the range that was mapped is unmapped first. -/
def ringMap (e : BitVec 512) (s : State) : Ring :=
  let asid : BitVec 12 := BitVec.ofNat 12 (arg e 8 2)
  let base := arg e 16 8
  let len := arg e 24 8
  let template := word (arg e 32 8)
  let now := arg e 40 1 % 2 = 1
  let kind := arg e 41 1
  if !restZero e [(8, 2), (16, 26)] || !rangeOk s e || template &&& ~~~0x1FFF3F ≠ 0 || 3 < arg e 40 1 ||
      !(kind = 1 || kind = 2 || (now && kind = 0)) then (s, 1)
  else if isPinned s asid base len then (s, 2)
  else
    match (splitAround (settleRange s asid base len) asid base len).bind (fun s => mapPages (unmapEntries s (entriesIn s asid base len)) asid template now kind
        (rangePages (arg e 40 1 / 2 = 1) (len / 65536) base len)) with
    | none => (s, 3)
    | some s1 => ({ s1 with ranges := { asid := asid, base := base, len := len, leaf := template } :: s1.ranges }, 0)

/-- Request 0x03: unmap range. -/
def ringUnmap (e : BitVec 512) (s : State) : Ring :=
  let asid : BitVec 12 := BitVec.ofNat 12 (arg e 8 2)
  if !restZero e [(8, 2), (16, 16)] || !rangeOk s e then (s, 1)
  else if isPinned s asid (arg e 16 8) (arg e 24 8) then (s, 2)
  else
    match splitAround (settleRange s asid (arg e 16 8) (arg e 24 8)) asid (arg e 16 8) (arg e 24 8) with
    | none => (s, 3)
    | some s => (unmapEntries s (entriesIn s asid (arg e 16 8) (arg e 24 8)), 0)

/-- Request 0x04: host page written (R344). -/
def ringWritten (e : BitVec 512) (s : State) : Ring :=
  let tag : BitVec 32 := BitVec.ofNat 32 (arg e 8 4)
  if !restZero e [(8, 5)] || 1 < arg e 12 1 then (s, 1)
  else
    match s.pageFaults.find? (fun f => (f.tag.map (·.1)) = some tag) with
    | none => (s, 2)
    | some f =>
      let va := f.page * 65536
      let fr := (f.tag.map (·.2)).getD 0
      match entryOf s f.asid va with
      | none => (failFault s f, 0)
      | some (big, a) =>
        if arg e 12 1 = 0 then (resolveFault (wrEntry s a (newLeaf s (templateOf s f.asid va) fr)) f, 0)
        else (failFault (scrub s (upFrom fr (leafFrames big)) Owner.init) f, 0)

end Sys2Proof.Machine
end

