-- ==== Sys2Proof/Machine/Tree.lean ====
section
/-! DEFINITION. The tree engine (R252 to R271). -/

namespace Sys2Proof.Machine

open Sys2Proof

/-! ### Accesses of an engine under an address space -/

/-- Bytes that an engine reads; one whose page has no translation is a free value (log 14). -/
def engRead (s : State) (asid : BitVec 12) (va n : Nat) : State × List Byte :=
  (chunks .r va n 0).foldl (fun (r : State × List Byte) c =>
    match pieceOf r.1 [] asid c with
    | some p => let (s, b) := rdPiece r.1 p; (s, r.2 ++ b)
    | none => (r.1, r.2 ++ leBytes c.len (Config.freeWord (r.1.clock + c.va)).toNat)) (s, [])

/-- Bytes that an engine writes; those of a page without a translation go nowhere (log 14). -/
def engWrite (s : State) (asid : BitVec 12) (va : Nat) (b : List Byte) : State :=
  (chunks .w va b.length 0).foldl (fun s c =>
    match pieceOf s [] asid c with
    | some p => wrPiece s p b
    | none => s) s

/-- Are all pages of an interval present, of this device, and open to these accesses? -/
def engOk (s : State) (asid : BitVec 12) (accs : List Acc) (va n : Nat) : Bool :=
  va + n ≤ 2 ^ 56 &&
    (upFrom (va / 65536) ((va + n + 65535) / 65536 - va / 65536)).all (fun p =>
      accs.all (fun a => match seek s [] asid (p * 65536) a with
        | .ok _ _ => true
        | _ => false))

/-- An engine's access to pages that have no translation: each is a miss, and a walk finds why (R340, R341). -/
def engAsk (s : State) (c : BitVec 7) (asid : BitVec 12) (va n : Nat) : State :=
  (upFrom (va / 65536) ((va + n + 65535) / 65536 - va / 65536)).foldl (fun s p =>
    match seek s [] asid (p * 65536) .r with
    | .absent | .unmapped => askWalk s c asid (p * 65536)
    | _ => s) s

/-- Does a live lock of a world meet one of these intervals (R219)? -/
def engLocked (s : State) (w : World) (l : List (Nat × Nat)) : Bool :=
  s.locks.any (fun k => l.any (fun e => lockCovers k w e.1 e.2))

/-! ### Records (R254) -/

/-- A node record. -/
structure Node where
  n : Nat
  w : Nat
  vl : Nat
  flags : Nat
  p : Nat
  count : Nat
  first : Nat
  parent : Nat
  action : Nat
  batch : Nat
deriving DecidableEq, Repr, Inhabited

/-- The index that means none. -/
def noIndex : Nat := 0xFFFFFFFF

/-- A record from its bytes. -/
def nodeOf (b : List Byte) : Node :=
  let f (off n : Nat) := ofLe (slice b off n)
  { n := f 0 4, w := f 4 4, vl := f 8 2, flags := f 10 2, p := f 12 2, count := f 14 2, first := f 16 4, parent := f 20 4
    action := f 24 4, batch := f 28 4 }

/-- The bytes of a record. -/
def nodeBytes (x : Node) : List Byte :=
  leBytes 4 x.n ++ leBytes 4 x.w ++ leBytes 2 x.vl ++ leBytes 2 x.flags ++ leBytes 2 x.p ++ leBytes 2 x.count ++ leBytes 4 x.first ++
    leBytes 4 x.parent ++ leBytes 4 x.action ++ leBytes 4 x.batch

/-- A record of zeros. -/
def nodeZero : Node := nodeOf []

/-- The flags. -/
def Node.expanded (x : Node) : Bool := x.flags % 2 = 1
/-- Terminal. -/
def Node.terminal (x : Node) : Bool := x.flags / 2 % 2 = 1
/-- Pending. -/
def Node.pending (x : Node) : Bool := x.flags / 4 % 2 = 1
/-- Root. -/
def Node.root (x : Node) : Bool := x.flags / 8 % 2 = 1

/-- Records of a pool (R252). -/
def poolSize (t : Tree) : Nat := t.cap * t.bs
/-- Address of a record. -/
def recAt (t : Tree) (i : Nat) : Nat := t.base.toNat + 32 * i
/-- Read of a record. -/
def rdNode (s : State) (t : Tree) (i : Nat) : Node := nodeOf (engRead s t.asid (recAt t i) 32).2
/-- Write of a record. -/
def wrNode (s : State) (t : Tree) (i : Nat) (x : Node) : State := engWrite s t.asid (recAt t i) (nodeBytes x)

/-- An entry of the tree table (R253). -/
def treeAt (s : State) (k : BitVec 7) (n : BitVec 4) : Option Tree := sget none (clusterAt s k).trees n.toNat
/-- Write of an entry. -/
def setTree (s : State) (k : BitVec 7) (n : BitVec 4) (t : Option Tree) : State :=
  setCluster s k { clusterAt s k with trees := sset none (clusterAt s k).trees n.toNat t }

/-! ### The score (R257) -/

/-- A quotient by a positive number, exact or with a sticky bit. -/
def divPos (a b : Exact) : Exact :=
  match a, b with
  | .fin m e, .fin m' e' =>
    let (q, x) := stickyDiv m.natAbs e m'.natAbs e'
    .fin (if m < 0 then -q else q) x
  | .fin _ _, _ => .nan false
  | a, _ => a

/-- A count, rounded. -/
def countNum (n : Nat) : Exact := round32 (numOf n 0)

/-- Score of child `c` of node `p` (R257). -/
def score (t : Tree) (c p : Node) : Exact :=
  let q := if c.n + c.vl = 0 then const32 t.fpv.toNat
    else
      let loss := round32 (numMul (numOf c.vl 0) (const32 t.lambda.toNat)).1
      round32 (divPos (round32 (numAdd (const32 c.w) (numNegate loss)).1) (countNum (c.n + c.vl)))
  let root := round32 (numSqrt (countNum (p.n + p.vl))).1
  let prior := round32 (numMul (const32 t.cpuct.toNat) (decodeFloat .bf16 c.p)).1
  let u := round32 (divPos (round32 (numMul prior root).1) (countNum (1 + c.n + c.vl)))
  round32 (numAdd q u).1

/-- Is the second score greater? A NaN is less than every number (R257). -/
def scoreLess (a b : Exact) : Bool := !numIsNan b && (numIsNan a || 0 < numCmp b a)

/-- The child selected: the greatest score, the lowest index among equals (R257). -/
def selectChild (s : State) (t : Tree) (p : Node) : Nat :=
  let l := (upFrom p.first p.count).map (fun i => (i, score t (rdNode s t i) p))
  match l with
  | [] => p.first
  | x :: r => (r.foldl (fun (b : Nat × Exact) y => if scoreLess b.2 y.2 then y else b) x).1

/-! ### What an action comes to -/

/-- A result, a record, or what is still to be done. -/
inductive TreeNext | word (v : Word) | record (b : List Byte) | more (op : TreeOp) | wait
deriving DecidableEq, Repr, Inhabited

/-- Saturation of VL (R254). -/
def satVl (n : Nat) : Nat := min n 65535

/-- The result word of a descent (R261). -/
def descWord (p slot depth kind : Nat) : Word :=
  word (p % 2 ^ 32 + slot % 2 ^ 16 * 2 ^ 32 + min depth 255 * 2 ^ 48 + kind * 2 ^ 56)

/-- One action of a descent (R258). -/
def descend (s : State) (r : TreeReq) (t : Tree) (p depth : Nat) : State × TreeNext :=
  if poolSize t ≤ p then (s, .word (status 5))
  else
    let x := rdNode s t p
    let x := if x.root then { x with vl := satVl (x.vl + 1) } else x
    let s1 := wrNode s t p x
    if x.terminal || (x.expanded && x.count = 0) then (s1, .word (descWord p 0xFFFF depth 2))
    else if !x.expanded then
      if x.pending then (s1, .word (descWord p 0xFFFF depth 1))
      else
        let slot := t.bnext.toNat
        (setTree (wrNode s t p { x with flags := x.flags + 4, batch := slot }) r.cluster r.t (some { t with bnext := t.bnext + 1 }),
          .word (descWord p slot depth 0))
    else if poolSize t < x.first + x.count then (s1, .word (status 5))
    else
      let i := selectChild s1 t x
      let c := rdNode s1 t i
      (wrNode s1 t i { c with vl := satVl (c.vl + 1) }, .more (.desc (some (i, depth + 1))))

/-- Blocks that an expansion without a reservation of its own may take (R255, R263). -/
def blocksLeft (t : Tree) : Nat := t.cap + t.nfree.toNat - t.bump.toNat - t.reserved

/-- Allocation of a block (R255): the head of the free list, else the block never used. -/
def allocBlock (s : State) (t : Tree) : Tree × Nat :=
  if t.nfree ≠ 0 then
    let b := t.free.toNat
    ({ t with free := BitVec.ofNat 32 (rdNode s t (b * t.bs)).parent, nfree := t.nfree - 1 }, b)
  else ({ t with bump := t.bump + 1 }, t.bump.toNat)

/-- A child from its entry of the child table (R262). -/
def childNode (leaf : Nat) (b : List Byte) : Node :=
  { nodeZero with flags := ofLe (slice b 6 1) % 2 * 2, p := ofLe (slice b 4 2), first := noIndex, parent := leaf
                  action := ofLe (slice b 0 4), batch := noIndex }

/-- The expansion of a leaf (R262). -/
def expand (s : State) (r : TreeReq) (t : Tree) (leaf : Nat) (table : Word) (k : Nat) (mine : Bool) : State × TreeNext :=
  let back := if mine then { t with reserved := t.reserved - 1 } else t
  let fail (n : Nat) : State × TreeNext := (setTree s r.cluster r.t (some back), .word (status n))
  if poolSize t ≤ leaf then fail 5
  else if t.bs < k then fail 10
  else
    let x := rdNode s t leaf
    if x.expanded || x.terminal then fail 6
    else if 0 < k && blocksLeft back = 0 then fail 1
    else if 0 < k && (table.toNat % 8 ≠ 0 || !engOk s r.asid [.r] table.toNat (8 * k)) then fail 12
    else if 0 < k && back.nfree ≠ 0 && t.cap ≤ back.free.toNat then fail 5
    else
      let y := { x with flags := x.flags / 8 * 8 + x.flags % 4 / 2 * 2 + 1, batch := noIndex }
      if k = 0 then
        (setTree (wrNode s t leaf { y with flags := y.flags + (if y.terminal then 0 else 2) }) r.cluster r.t (some back), .word (word leaf))
      else
        let (s1, b) := engRead s r.asid table.toNat (8 * k)
        let (t1, blk) := allocBlock s1 back
        let first := blk * t.bs
        let s2 := (upFrom 0 t.bs).foldl (fun s i =>
          wrNode s t (first + i) (if i < k then childNode leaf (slice b (8 * i) 8) else nodeZero)) s1
        (setTree (wrNode s2 t leaf { y with first := first, count := k }) r.cluster r.t (some t1), .word (word first))

/-- One action of a backup (R264); from the index that means none it reaches no node. -/
def backUp (s : State) (t : Tree) (x : Nat) (v : BitVec 32) (full : Bool) (n z : Nat) : State × TreeNext :=
  if x = noIndex then (s, .word (word (z % 65536 * 2 ^ 32 + n)))
  else if poolSize t ≤ x then (s, .word (status 5))
  else if n = 65536 then (s, .word (status 11))
  else
    let c := rdNode s t x
    let sum := (roundTo .fp32 .rne false (numAdd (const32 c.w) (const32 v.toNat)).1).1
    let c1 := if full then { c with n := min (c.n + 1) (2 ^ 32 - 1), w := sum } else c
    let s1 := wrNode s t x { c1 with vl := c.vl - 1 }
    let z1 := if c.vl = 0 then z + 1 else z
    if c.parent = noIndex then (s1, .word (word (z1 % 65536 * 2 ^ 32 + (n + 1))))
    else (s1, .more (.back c.parent (if t.two then v ^^^ 0x80000000 else v) full (n + 1) z1))

/-- A block goes onto the lazy list (R265). -/
def pushLazy (s : State) (t : Tree) (b : Nat) : State × Tree :=
  let x := rdNode s t (b * t.bs)
  (wrNode s t (b * t.bs) { x with parent := t.lazy.toNat }, { t with lazy := BitVec.ofNat 32 b, nlazy := t.nlazy + 1 })

/-- Has a record children to be given up? -/
def hasBlock (x : Node) : Bool := x.expanded && 0 < x.count

/-- Promotion of a child to root (R265); every index is looked at before anything changes. -/
def reroot (s : State) (r : TreeReq) (t : Tree) (c : Nat) : State × TreeNext :=
  let root := t.root.toNat
  let x := rdNode s t root
  let sibs := (upFrom x.first x.count).filter (fun i => i ≠ c)
  if poolSize t ≤ root then (s, .word (status 5))
  else if x.vl ≠ 0 then (s, .word (status 2))
  else if poolSize t ≤ c then (s, .word (status 5))
  else if (rdNode s t c).parent ≠ root then (s, .word (status 7))
  else if (0 < x.count && poolSize t < x.first + x.count) ||
      sibs.any (fun i => hasBlock (rdNode s t i) && poolSize t ≤ (rdNode s t i).first) then (s, .word (status 5))
  else
    let step (a : State × Tree × Nat) (i : Nat) : State × Tree × Nat :=
      let y := rdNode a.1 t i
      let (s1, t1, n) := if hasBlock y then (let (s1, t1) := pushLazy a.1 a.2.1 (y.first / t.bs); (s1, t1, a.2.2 + 1)) else a
      (wrNode s1 t i { rdNode s1 t i with flags := 0 }, t1, n)
    let (s1, t1, n) := sibs.foldl step (s, t, 0)
    let s2 := wrNode s1 t root { rdNode s1 t root with flags := 0 }
    let (s3, t2, n2) := if root / t.bs = c / t.bs then (s2, t1, n) else (let (s3, t2) := pushLazy s2 t1 (root / t.bs); (s3, t2, n + 1))
    let y := rdNode s3 t c
    let s4 := wrNode s3 t c { y with parent := noIndex, flags := y.flags / 16 * 16 + 8 + y.flags % 8 }
    (setTree s4 r.cluster r.t (some { t2 with root := BitVec.ofNat 32 c }), .word (word n2))

/-- One block of the lazy list is reclaimed (R266). -/
def freeBlock (s : State) (r : TreeReq) (t : Tree) (m n : Nat) : State × TreeNext :=
  let b := t.lazy.toNat
  if m ≤ n || b = noIndex then (s, .word (word n))
  else if t.cap ≤ b then (s, .word (status 5))
  else
    let recs := upFrom (b * t.bs) t.bs
    if recs.any (fun i => hasBlock (rdNode s t i) && poolSize t ≤ (rdNode s t i).first) then (s, .word (status 5))
    else
      let t0 := { t with lazy := BitVec.ofNat 32 (rdNode s t (b * t.bs)).parent, nlazy := t.nlazy - 1 }
      let step (a : State × Tree) (i : Nat) : State × Tree :=
        let y := rdNode a.1 t i
        let (s1, t1) := if hasBlock y then pushLazy a.1 a.2 (y.first / t.bs) else a
        (wrNode s1 t i nodeZero, t1)
      let (s1, t1) := recs.foldl step (s, t0)
      let s2 := wrNode s1 t (b * t.bs) { nodeZero with parent := t1.free.toNat }
      (setTree s2 r.cluster r.t (some { t1 with free := BitVec.ofNat 32 b, nfree := t1.nfree + 1 }), .more (.free m (n + 1)))

/-- The value of TSTAT, and the tree after it (R268). -/
def treeStat (t : Tree) (f : BitVec 3) : Tree × Word :=
  match f.toNat with
  | 0 => (t, zext64 t.root)
  | 1 => (t, zext64 t.bump - zext64 t.nfree)
  | 2 => (t, zext64 t.nfree)
  | 3 => (t, zext64 t.nlazy)
  | 4 => (t, zext64 t.bnext)
  | 5 => ({ t with bnext := 0 }, zext64 t.bnext)
  | _ => (t, word t.cap - zext64 t.bump + zext64 t.nfree)

/-! ### Binding (R252, R253, R260) -/

/-- The tree of a descriptor's bytes (R252). -/
def treeOf (b : List Byte) (desc : Word) (w : World) (asid : BitVec 12) : Tree :=
  let f (off n : Nat) := ofLe (slice b off n)
  let g (off : Nat) : BitVec 32 := BitVec.ofNat 32 (f off 4)
  { desc := desc, world := w, asid := asid, base := word (f 0 8), cap := f 8 4, bs := f 12 2, two := f 14 1 % 2 = 1, cpuct := g 16
    lambda := g 20, fpv := g 24, root := g 28, bump := g 32, free := g 36, lazy := g 40, nfree := g 44, nlazy := g 48
    bnext := BitVec.ofNat 16 (f 52 2), reserved := 0 }

/-- The bytes of a descriptor, not bound (R252). -/
def descBytes (t : Tree) : List Byte :=
  leBytes 8 t.base.toNat ++ leBytes 4 t.cap ++ leBytes 2 t.bs ++ leBytes 1 (if t.two then 1 else 0) ++ leBytes 1 0 ++
    leBytes 4 t.cpuct.toNat ++ leBytes 4 t.lambda.toNat ++ leBytes 4 t.fpv.toNat ++ leBytes 4 t.root.toNat ++ leBytes 4 t.bump.toNat ++
    leBytes 4 t.free.toNat ++ leBytes 4 t.lazy.toNat ++ leBytes 4 t.nfree.toNat ++ leBytes 4 t.nlazy.toNat ++ leBytes 2 t.bnext.toNat ++
    List.replicate 10 0

/-- Does a descriptor keep the ranges of R252, before `init` sets any of its fields (R260)? -/
def descOk (b : List Byte) (t : Tree) : Bool :=
  t.base.toNat % 32 = 0 && 1 ≤ t.cap && t.cap ≤ 2 ^ 24 && 1 ≤ t.bs && t.bs ≤ 256 && ofLe (slice b 14 1) < 2 && ofLe (slice b 15 1) = 0 &&
    poolSize t < 2 ^ 32 && t.bump.toNat ≤ t.cap && ofLe (slice b 55 9) = 0

/-- A tree as `init` leaves it (R260). -/
def initTree (t : Tree) : Tree :=
  { t with root := 0, bump := 1, free := BitVec.ofNat 32 noIndex, lazy := BitVec.ofNat 32 noIndex, nfree := 0, nlazy := 0, bnext := 0 }

/-- The bind of R260. -/
def bindTree (s : State) (r : TreeReq) (addr : Word) (init : Bool) : State × TreeNext :=
  let fail (n : Nat) : State × TreeNext := (s, .word (status n))
  if (treeAt s r.cluster r.t).isSome then fail 9
  else if addr.toNat % 64 ≠ 0 || !engOk s r.asid [.r, .w] addr.toNat 64 then fail 8
  else
    let (s1, b) := engRead s r.asid addr.toNat 64
    let t := treeOf b addr r.o.world r.asid
    if ofLe (slice b 54 1) % 2 = 1 then fail 9
    else if !descOk b t || !engOk s r.asid [.r, .w] t.base.toNat (32 * poolSize t) then fail 8
    else
      let s2 := engWrite s1 r.asid (addr.toNat + 54) (leBytes 1 (1 + 2 * r.cluster.toNat))
      if init then
        let t1 := initTree t
        let s3 := (upFrom 1 (t.bs - 1)).foldl (fun s i => wrNode s t i nodeZero)
          (wrNode s2 t 0 { nodeZero with flags := 8, first := noIndex, parent := noIndex, batch := noIndex })
        (setTree s3 r.cluster r.t (some t1), .word 0)
      else (setTree s2 r.cluster r.t (some t), .word 0)

/-! ### The engine (R219, R253, R259, R269) -/

/-- The intervals that an action reads or writes, for the test of range locks (R219). -/
def treeTouches (s : State) (t : Tree) (op : TreeOp) : List (Nat × Nat) :=
  let pool := [(t.base.toNat, 32 * poolSize t)]
  let one (i : Nat) := (recAt t i, 32)
  match op with
  | .bind _ _ => []
  | .unbind => [(t.desc.toNat, 64)]
  | .desc at' =>
    let p := (at'.map (·.1)).getD t.root.toNat
    let x := rdNode s t p
    [one p, (recAt t x.first, 32 * x.count)]
  | .expand leaf table k _ =>
    [one leaf] ++ (if k = 0 then [] else [(table.toNat, 8 * k), (recAt t ((allocBlock s t).2 * t.bs), 32 * t.bs)])
  | .back x _ _ _ _ => [one x]
  | .reroot _ => pool
  | .read x _ => [one x]
  | .stat _ => []
  | .free _ _ => pool
  | .told _ => []

/-- The intervals of a binding for that test: the descriptor, and with `init` the block of the pool that it writes (R260). -/
def bindTouches (s : State) (r : TreeReq) (a : Word) (init : Bool) : List (Nat × Nat) :=
  let b := (engRead s r.asid a.toNat 64).2
  let t := treeOf b a r.o.world r.asid
  (a.toNat, 64) ::
    (if init && engOk s r.asid [.r, .w] a.toNat 64 && descOk b t then [(t.base.toNat, 32 * t.bs)] else [])

/-- One action of an instruction on a bound tree. -/
def treeAct (s : State) (r : TreeReq) (t : Tree) : State × TreeNext :=
  match r.op with
  | .bind a i => bindTree s r a i
  | .unbind => (setTree (engWrite s t.asid t.desc.toNat (descBytes t)) r.cluster r.t none, .word 0)
  | .desc none => descend s r t t.root.toNat 0
  | .desc (some (p, d)) => descend s r t p d
  | .expand leaf table k mine => expand s r t leaf table k mine
  | .back x v full n z => backUp s t x v full n z
  | .reroot c => reroot s r t c
  | .read x _ => if poolSize t ≤ x then (s, .word (status 5)) else (let (s1, b) := engRead s t.asid (recAt t x) 32; (s1, .record b))
  | .stat f =>
    let (t1, v) := treeStat t f
    (setTree s r.cluster r.t (some t1), .word v)
  | .free m n => freeBlock s r t m n
  | .told v => (s, .word v)

/-- Is an instruction to end first: the thread's own earlier ones on the tree (R269), and for an unbinding each one that the engine has
accepted, whoever gave it (R260)? -/
def treeBehind (s : State) (r : TreeReq) : Bool :=
  let all := match r.op with
    | .unbind => true
    | _ => false
  s.pending.any (fun e => match e with
    | .treeAction q => q.cluster = r.cluster && q.t = r.t && ((all && q.begun && q.o ≠ r.o) || (q.o.by' = r.o.by' && q.o.n < r.o.n))
    | _ => false)

/-- What an action of an instruction comes to, statuses included (R253, R259). -/
def treeOutcome (s : State) (r : TreeReq) : State × TreeNext :=
  if treeBehind s r then (s, .wait)
  else
    match r.op, treeAt s r.cluster r.t with
    | .told v, _ => (s, .word v)
    | .bind a i, _ => if engLocked s r.o.world (bindTouches s r a i) then (s, .wait) else bindTree s r a i
    | _, none => (s, .word (status 3))
    | op, some t =>
      if t.world ≠ r.o.world then (s, .word (status 4))
      else if engLocked s t.world (treeTouches s t op) then (s, .wait)
      else treeAct s r t

/-- The result lands (R259, R267, R270). -/
def treeAnswer (s : State) (r : TreeReq) (v : TreeNext) : State :=
  match r.op, v with
  | .read _ vd, v =>
    let b := match v with
      | .record b => b
      | .word w => leBytes 8 w.toNat ++ List.replicate 24 0
      | _ => []
    sendLanding s { packet { r.o with agent := .tree r.cluster } (regLa r.o.dev r.o.by' (.v vd)) b with counted := true, reply := true }
  | _, .word w => answerTo s r.o (.tree r.cluster) (.s r.d) w true
  | _, _ => s

/-- An action of a tree engine; with the first one it has accepted the instruction, and until that has ended nothing unbinds the tree. -/
def treeStep (r : TreeReq) (s : State) : State :=
  match treeOutcome s r with
  | (s1, .wait) => pend s1 (.treeAction r)
  | (s1, .more op) => pend s1 (.treeAction { r with op := op, begun := true })
  | (s1, v) => treeAnswer s1 r v

/-- Records that an action reads and may not write (R223). -/
def treeReads (s : State) (t : Tree) (op : TreeOp) : List Nat :=
  let kids (x : Node) : List Nat := if poolSize t < x.first + x.count then [] else upFrom x.first x.count
  match op with
  | .desc at' =>
    let p := (at'.map (·.1)).getD t.root.toNat
    if poolSize t ≤ p then []
    else
      let x := rdNode s t p
      p :: (if x.expanded && !x.terminal then kids x else [])
  | .expand leaf _ k _ => if poolSize t ≤ leaf || t.bs < k then [] else [leaf]
  | .reroot c =>
    if poolSize t ≤ t.root.toNat then []
    else
      let x := rdNode s t t.root.toNat
      t.root.toNat :: (if x.vl ≠ 0 || poolSize t ≤ c then [] else c :: (if (rdNode s t c).parent ≠ t.root.toNat then [] else kids x))
  | .free m n => if m ≤ n || t.cap ≤ t.lazy.toNat then [] else upFrom (t.lazy.toNat * t.bs) t.bs
  | _ => []

/-- The lines that an action reads go through the memory cores' buffers, before what it writes does (R223). -/
def treeTouch (r : TreeReq) (s : State) : State :=
  match treeAt s r.cluster r.t with
  | none => s
  | some t =>
    if t.world ≠ r.o.world || (treeOutcome s r).2 = .wait then s
    else (treeReads s t r.op).foldl (fun s i => (engRead s t.asid (recAt t i) 32).1) s

/-- The walks that the statuses -8 and -12 ask for (R340, R341). -/
def treeAsk (r : TreeReq) (s : State) : State :=
  match r.op, (treeOutcome s r).2 with
  | .bind a _, .word v =>
    if v ≠ status 8 || a.toNat % 64 ≠ 0 then s
    else if engOk s r.asid [.r, .w] a.toNat 64 then
      let b := (engRead s r.asid a.toNat 64).2
      let t := treeOf b a r.o.world r.asid
      if descOk b t then engAsk s r.cluster r.asid t.base.toNat (32 * poolSize t) else s
    else engAsk s r.cluster r.asid a.toNat 64
  | .expand _ table k _, .word v =>
    if v ≠ status 12 || table.toNat % 8 ≠ 0 then s else engAsk s r.cluster r.asid table.toNat (8 * k)
  | _, _ => s

/-- A tree engine's turn: its translations, its reads, and the action. -/
def treeTurn (r : TreeReq) (s : State) : State := treeStep r (treeTouch r (treeAsk r s))

/-! ### The instructions (R260 to R268) -/

/-- The request of a tree instruction to the engine of its cluster (R259). -/
def treeReq (t : Thread) (o : Origin) (d : BitVec 6) (n : BitVec 4) (op : TreeOp) : TreeReq :=
  { o := o, d := d, cluster := clusterOf t.core, t := n, asid := t.asid, op := op, begun := false }

/-- A tree instruction sends one request to the engine of its cluster (R259). -/
def treePlan (s : State) (d : BitVec 6) (n : BitVec 4) (reads : List Reg) (op : TreeOp) : Plan :=
  commandPlan s d reads none (fun o s' => pend s' (.treeAction (treeReq s.th o d n op)))

/-- A tree instruction that its engine has accepted while its bundle waited (R263). -/
def treeTold (s : State) (d : BitVec 6) (n : BitVec 4) (reads : List Reg) (op : TreeOp) : Plan :=
  commandPlan s d reads none (fun o s' => pend s' (.treeAction { treeReq s.th o d n op with begun := true }))

/-- TBIND (R260). -/
def execTbind (d : BitVec 6) (n : BitVec 4) (a : BitVec 6) (init : Bool) (s : State) : Out :=
  conclude .l (treePlan s d n [.s a] (.bind (rdS s.th a) init)) s
/-- TBIND with mode [1] (R260): unbinds. -/
def execTbindUnbind (d : BitVec 6) (n : BitVec 4) (s : State) : Out := conclude .l (treePlan s d n [] .unbind) s
/-- TDESC (R261). -/
def execTdesc (d : BitVec 6) (n : BitVec 4) (s : State) : Out := conclude .l (treePlan s d n [] (.desc none)) s

/-- What an engine answers to an expansion under `TREETRAP` (R263). -/
inductive ExpandAnswer | status (v : Word) | free | room (t : Tree) | full
deriving DecidableEq, Repr, Inhabited

/-- The answer: a status other than -1 that the expansion would meet before it, an expansion that needs no block, a block that it may
have, or none left (R262, R263). -/
def expandAnswer (s : State) (k : BitVec 7) (n : BitVec 4) (leaf cnt : Nat) : ExpandAnswer :=
  match treeAt s k n with
  | none => .status (status 3)
  | some t =>
    if t.world ≠ s.th.world then .status (status 4)
    else if poolSize t ≤ leaf then .status (status 5)
    else if t.bs < cnt then .status (status 10)
    else
      let x := rdNode s t leaf
      if x.expanded || x.terminal then .status (status 6)
      else if cnt = 0 then .free
      else if blocksLeft t = 0 then .full
      else .room t

/-- Can the engine not yet answer: an earlier instruction of the thread on the tree has not ended, an event that the release orders
before this one is not yet performed, or a range lock covers the leaf (R219, R269, R270)? -/
def expandWaits (s : State) (k : BitVec 7) (n : BitVec 4) (leaf : Nat) : Bool :=
  s.pending.any (fun e => match e with
    | .treeAction q => q.cluster = k && q.t = n && q.o.by' = s.th.handle
    | _ => false) || !allPerformed s s.th ||
  (match treeAt s k n with
   | some t => engLocked s t.world [(recAt t leaf, 32)]
   | none => false)

/-- TEXPAND (R262, R263). With `TREETRAP` the thread stalls until the engine has answered; the answer stands: a status lands, a block is
reserved, and TREE_FAULT names the leaf and the tree. -/
def execTexpand (d : BitVec 6) (n : BitVec 4) (a b c : BitVec 6) (s : State) : Out :=
  let t := s.th
  let leaf := (rdS t a).toNat
  let k := field (rdS t c) 0 9
  let cl := clusterOf t.core
  let reads := [Reg.s a, .s b, .s c]
  let p := treePlan s d n reads (.expand leaf (rdS t b) k false)
  conclude .l
    (if bit t.actl 0 then
      if p.hold || expandWaits s cl n leaf then { p with hold := true }
      else match expandAnswer s cl n leaf k with
        | .status v => treeTold s d n reads (.told v)
        | .free => p
        | .full => { p with bad := some (.trap .treeFault (word (leaf % 2 ^ 32 + n.toNat * 2 ^ 32))) }
        | .room x =>
          treeTold (setTree s cl n (some { x with reserved := x.reserved + 1 })) d n reads (.expand leaf (rdS t b) k true)
     else p) s

/-- TBACK (R264). -/
def execTback (d : BitVec 6) (n : BitVec 4) (a b : BitVec 6) (vl : Bool) (s : State) : Out :=
  conclude .l (treePlan s d n [.s a, .s b] (.back (rdS s.th a).toNat (bits (rdS s.th b) 0 32) (!vl) 0 0)) s
/-- TREROOT (R265). -/
def execTreroot (d : BitVec 6) (n : BitVec 4) (a : BitVec 6) (s : State) : Out :=
  conclude .l (treePlan s d n [.s a] (.reroot (rdS s.th a).toNat)) s

/-- TRDN (R267): its destination is a vector register. -/
def execTrdn (v : BitVec 8) (n : BitVec 4) (a : BitVec 6) (s : State) : Out :=
  let t := s.th
  let g := spec t v
  let s1 := setTh (countRequest s t) (advance (setCount t (.v g) 1))
  let (s2, o) := newOrigin s1 t
  conclude .l
    { specs := [v], needs := [.v g, .s a], bad := none, hold := requestsFull s t || fenced s t 8
      next := pend s2 (.treeAction (treeReq t o 0 n (.read (rdS t a).toNat g))) } s

/-- TSTAT (R268). -/
def execTstat (d : BitVec 6) (n : BitVec 4) (f : BitVec 3) (s : State) : Out := conclude .l (treePlan s d n [] (.stat f)) s
/-- TFREE (R266). -/
def execTfree (d : BitVec 6) (n : BitVec 4) (a : BitVec 6) (s : State) : Out :=
  conclude .l (treePlan s d n [.s a] (.free (field (rdS s.th a) 0 32) 0)) s

end Sys2Proof.Machine
end

