-- ==== Sys2Proof/Machine/Bond.lean ====
section
/-! DEFINITION. The bond engine: entries, agreements, conversions and their instructions (R67, R274 to R293). -/

namespace Sys2Proof.Machine

open Sys2Proof

/-! ### Entries and state words (R275 to R277) -/

/-- Extent of a dimension. -/
def dimOf (b : BondEntry) (d : Nat) : Nat := (b.dims.getD d 1).toNat
/-- The axes sharded on a dimension, ascending. -/
def shardAxes (m : Mesh) (st : BitVec 32) (d : Nat) : List Nat :=
  (upFrom 0 m.sizes.length).filter (fun i => axisState st i = 1 && axisDim st i = d)
/-- Blocks of a dimension. -/
def blocksOf (m : Mesh) (st : BitVec 32) (d : Nat) : Nat := ((shardAxes m st d).map (fun i => m.sizes.getD i 1)).foldl (· * ·) 1
/-- Local extents (R277). -/
def localExtents (m : Mesh) (b : BondEntry) (st : BitVec 32) : List Nat := (upFrom 0 4).map (fun d => dimOf b d / blocksOf m st d)
/-- Local elements. -/
def localCount (m : Mesh) (b : BondEntry) (st : BitVec 32) : Nat := (localExtents m b st).foldl (· * ·) 1
/-- Element format of an entry. -/
def bondFmt (b : BondEntry) : Fmt := (fmtOf b.fmt).getD .fp32

/-- Is a state word valid for an entry (R276)? -/
def stateOk (m : Mesh) (b : BondEntry) (st : BitVec 32) : Bool :=
  let a := m.sizes.length
  let f := bondFmt b
  (upFrom 0 4).all (fun i =>
    if a ≤ i then axisByte st i = 0
    else
      axisState st i ≠ 3 && field (axisByte st i) 4 4 = 0 && (axisState st i = 1 || axisDim st i = 0) &&
        (axisState st i ≠ 1 || axisDim st i < b.ndim.toNat) && (axisState st i ≠ 2 || !(f = .cb4 || f = .e8m0))) &&
    (upFrom 0 4).all (fun d => dimOf b d % blocksOf m st d = 0) &&
    (fmtWidth f ≠ 4 || (dimOf b 0 / blocksOf m st 0) % 2 = 0)

/-! ### Conversions (R67, R278, R279) -/

/-- Results of a level of the tree from those below: pairs summed, an odd last one passed up (R67). -/
def pairSums {α : Type} (add : α → α → α) : List α → List α
  | a :: b :: r => add a b :: pairSums add r
  | l => l
/-- The root of the tree. -/
def treeSum {α : Type} (add : α → α → α) (zero : α) : Nat → List α → α
  | 0, l => l.headD zero
  | n + 1, l => treeSum add zero n (pairSums add l)

/-- The reduction of one element over an axis (R67). -/
def reduceElems (f : Fmt) (l : List Nat) : Nat :=
  if f = .int32 then treeSum (fun a b => (a + b) % 2 ^ 32) 0 l.length l
  else
    let x := treeSum (fun a b => round32 (numAdd a b).1) (.zero false) l.length (l.map (decodeElem f 0))
    (convertNum .fp32 f .rne false x).1

/-- One axis's step: old and new byte, extents before and after (R279). -/
structure AxisStep where
  axis : Nat
  old : BitVec 8
  new : BitVec 8
  before : List Nat
  after : List Nat

/-- The steps from one state word to another, the last first. -/
def axisSteps (m : Mesh) (b : BondEntry) (want : BitVec 32) : List Nat → BitVec 32 → List AxisStep → List AxisStep
  | [], _, acc => acc
  | i :: r, st, acc =>
    let mask : BitVec 32 := 0xFF#32 <<< (8 * i)
    let st1 := (st &&& ~~~mask) ||| (want &&& mask)
    axisSteps m b want r st1
      ({ axis := i, old := axisByte st i, new := axisByte st1 i, before := localExtents m b st, after := localExtents m b st1 } :: acc)

/-- Place of an element in a buffer (R277). -/
def flatIndex : List Nat → List Nat → Nat
  | e :: es, x :: xs => x + e * flatIndex es xs
  | _, _ => 0
/-- Index vector of a place. -/
def indexOf : List Nat → Nat → List Nat
  | [], _ => []
  | e :: es, n => n % e :: indexOf es (n / e)

/-- The block of a dimension that the device at some coordinates holds in a state: the coordinates of the axes sharded on it read as one
number, the lowest axis most significant (R277). -/
def blockAt (m : Mesh) (st : BitVec 32) (coords : List Nat) (d : Nat) : Nat :=
  let k := shardAxes m st d
  linearOf (k.map (fun i => m.sizes.getD i 1)) (k.map (fun i => coords.getD i 0))
/-- Global index vector of a local one (R277). -/
def globalOf (m : Mesh) (b : BondEntry) (st : BitVec 32) (coords x : List Nat) : List Nat :=
  (localExtents m b st).zipIdx.map (fun e => blockAt m st coords e.2 * e.1 + x.getD e.2 0)
/-- Local index vector of a global one, at a device that holds it (R277). -/
def localOf (m : Mesh) (b : BondEntry) (st : BitVec 32) (g : List Nat) : List Nat :=
  (localExtents m b st).zipIdx.map (fun e => g.getD e.2 0 % e.1)
/-- The coordinates whose device holds a global element in a state: those given, but for the axes sharded in it (R277). -/
def holderOf (m : Mesh) (b : BondEntry) (st : BitVec 32) (coords g : List Nat) : List Nat :=
  (upFrom 0 m.sizes.length).map (fun i =>
    if axisState st i = 1 then
      let d := axisDim st i
      let k := shardAxes m st d
      (coordsFrom (k.map (fun i => m.sizes.getD i 1)) (g.getD d 0 / (localExtents m b st).getD d 1)).getD (k.idxOf i) 0
    else coords.getD i 0)

/-- A global element after the steps, at the device of some coordinates: R278 read backward, from what `read` gives of the holders'
contributions. `holds` is an axis's coordinate of those that held the element in the state before the conversion. -/
def valueAfter (m : Mesh) (f : Fmt) (read : List Nat → Nat) (holds : Nat → Nat) : List AxisStep → List Nat → Nat
  | [], coords => read coords
  | s :: r, coords =>
    let c := coords.getD s.axis 0
    let old := field s.old 0 2
    let new := field s.new 0 2
    if old = 0 then (if new = 2 && c ≠ 0 then 0 else valueAfter m f read holds r coords)
    else if old = 1 then (if new = 2 && holds s.axis ≠ c then 0 else valueAfter m f read holds r coords)
    else reduceElems f ((upFrom 0 (m.sizes.getD s.axis 1)).map (fun j => valueAfter m f read holds r (coords.set s.axis j)))

/-- The element at a local index of the device at some coordinates after the steps: R278 read backward literally, blocks concatenated in
coordinate order one axis after another. -/
def elemAfter (m : Mesh) (f : Fmt) (first : List Nat) (data : Nat → List Nat) : List AxisStep → List Nat → List Nat → Nat
  | [], coords, x => (data (linearOf m.sizes coords)).getD (flatIndex first x) 0
  | s :: r, coords, x =>
    let c := coords.getD s.axis 0
    let old := field s.old 0 2
    let new := field s.new 0 2
    let nd := field s.new 2 2
    let od := field s.old 2 2
    -- a block kept of dimension nd
    let y := if new = 1 then x.set nd (c * s.after.getD nd 1 + x.getD nd 0) else x
    if old = 0 then (if new = 2 && c ≠ 0 then 0 else elemAfter m f first data r coords y)
    else if old = 1 then
      let e := s.before.getD od 1
      let j := y.getD od 0 / e
      let z := y.set od (y.getD od 0 % e)
      if new = 2 && j ≠ c then 0 else elemAfter m f first data r (coords.set s.axis j) z
    else
      reduceElems f ((upFrom 0 (m.sizes.getD s.axis 1)).map (fun j => elemAfter m f first data r (coords.set s.axis j) y))

/-- The local view that a conversion gives this device (R277 to R279): every local element is the global one that R277 names. Where an axis
that does not change is sharded on a dimension beside one that does, the group may not hold those elements; then the blocks are
concatenated as R278 says, literally (log 37). -/
def converted (m : Mesh) (b : BondEntry) (want : BitVec 32) (data : List (Nat × List Byte)) : List Byte :=
  let f := bondFmt b
  let first := localExtents m b b.state
  let n0 := first.foldl (· * ·) 1
  let at' (i : Nat) : List Nat := elemsOfBytes f n0 (((data.find? (fun e => e.1 = i)).map (·.2)).getD [])
  let axes := changedAxes m b.state want
  let steps := axisSteps m b want axes b.state []
  let last := localExtents m b want
  let globals := (upFrom 0 (last.foldl (· * ·) 1)).map (fun k => globalOf m b want m.coords (indexOf last k))
  let inGroup (g : List Nat) : Bool := ((holderOf m b b.state m.coords g).zip m.coords).zipIdx.all (fun e => axes.contains e.2 || e.1.1 = e.1.2)
  bytesOfElems f
    (if globals.all inGroup then
      globals.map (fun g =>
        valueAfter m f (fun c => (at' (linearOf m.sizes (holderOf m b b.state c g))).getD (flatIndex first (localOf m b b.state g)) 0)
          (fun i => (holderOf m b b.state m.coords g).getD i 0) steps m.coords)
     else (upFrom 0 (last.foldl (· * ·) 1)).map (fun k => elemAfter m f first at' steps m.coords (indexOf last k)))

/-! ### Deciding (R280, R281) -/

/-- What makes an announcement disagree with the coordinator's: the reason of R281. Where a status is announced, the `SEQ` of a
destination is none to compare: reason 2. -/
def disagreement (own a : Announcement) : Option (BitVec 4) :=
  if a.status = droppedStatus then some 3
  else
    match own.key, a.key with
    | .tensor _ _ q, .tensor _ _ r =>
      if r ≠ q || (own.status = 0 && a.status = 0 && bits a.extra 32 32 ≠ bits own.extra 32 32) then some 1
      else if a.fmt ≠ own.fmt || a.ndim ≠ own.ndim || a.dims ≠ own.dims || a.cur ≠ own.cur || a.want ≠ own.want || a.extra ≠ own.extra ||
        a.status ≠ 0 then some 2
      else none
    | _, _ => if a.status ≠ 0 then some 2 else if a.extra ≠ own.extra then some 5 else none

/-- A decision goes to members, each under the key that it announced, and their announcements are done with (R280). -/
def sendDecision (s : State) (m : Mesh) (own : Announcement) (g to' : List Nat) (bad : Option (BitVec 4 × BitVec 12)) : State :=
  let (r, c) := bad.getD (0, 0xFFF)
  let key (i : Nat) : BondKey := ((s.announced.find? (fun a => sameMatter a own && a.src = i)).map (·.key)).getD own.key
  let s1 := { s with announced := s.announced.filter (fun a => !(sameMatter a own && g.contains a.src)) }
  to'.foldl (fun s1 i =>
    if i = ownCoord m then pend s1 (.bondDecision (key i) bad.isNone r c)
    else pend s1 (.bondSend (deviceAt m i) (.decide (key i) bad.isNone r c))) s1

/-- The coordinator decides once it holds an announcement of every member (R280). -/
def tryDecide (s : State) (n : Announcement) : State :=
  match meshOf s n.world with
  | none => s
  | some m =>
    match s.announced.find? (fun a => sameMatter a n && a.src = ownCoord m) with
    | none => s
    | some own =>
      let g := groupOf m own
      let heard := g.filterMap (fun i => s.announced.find? (fun a => sameMatter a own && a.src = i))
      if coordinator g ≠ own.src || heard.length ≠ g.length then s
      else sendDecision s m own g g (heard.findSome? (fun a => (disagreement own a).map (fun r => (r, BitVec.ofNat 12 a.src))))

/-- A member cannot be reached: what this device coordinates and has not heard from it is decided to fault (R280, R281). -/
def faultUnreachable (s : State) (dst : BitVec 12) : State :=
  s.announced.foldl (fun s own =>
    match meshOf s own.world with
    | none => s
    | some m =>
      let g := groupOf m own
      match g.find? (fun i => deviceAt m i = dst && !s.announced.any (fun a => sameMatter a own && a.src = i)) with
      | none => s
      | some i =>
        if own.src = ownCoord m && coordinator g = own.src && s.announced.contains own
        then sendDecision s m own g (g.filter (fun j => j ≠ i)) (some (4, BitVec.ofNat 12 i)) else s) s

/-- A coordinator cannot be reached: what this device has announced to it, and knows no decision of, is decided to fault here, with the
coordinator's coordinate (R280, R281, R293). -/
def faultUnheard (s : State) (dst : BitVec 12) : State :=
  s.bondWaits.foldl (fun s w =>
    match meshOf s w.ann.world with
    | none => s
    | some m =>
      let c := coordinator w.group
      if w.decision.isNone && c ≠ w.ann.src && deviceAt m c = dst then pend s (.bondDecision w.ann.key false 4 (BitVec.ofNat 12 c)) else s) s

/-- The device announces: to every device of the group, itself the coordinator or not (R280). -/
def announceOwn (s : State) (m : Mesh) (n : Announcement) : State :=
  let g := groupOf m n
  let s := (g.filter (fun i => i ≠ n.src)).foldl (fun s i =>
    pendOnce (pend s (.bondSend (deviceAt m i) (.announce n))) (.bondTimeout (deviceAt m i))) s
  if coordinator g = n.src then tryDecide { s with announced := s.announced ++ [n] } n else s

/-- BOND_ANNOUNCEMENT (R280): of another member, at its coordinator, whose engine runs in full service alone (R353, R370). -/
def execBondAnnouncement (n : Announcement) (s : State) : Out :=
  match meshOf s n.world with
  | none => .next s
  | some m => .next (if s.phase = 3 && coordinator (groupOf m n) = ownCoord m then tryDecide { s with announced := s.announced ++ [n] } n else s)

/-- BOND_WITHDRAWAL (R280, R282): of another member, answered; or the coordinator's answer to this device's own. One that
comes after the decision has no effect. -/
def execBondWithdrawal (n : Announcement) (s : State) : Out :=
  match meshOf s n.world with
  | none => .next s
  | some m =>
    if n.src = ownCoord m then
      match s.bondWaits.find? (fun w => w.ann.key = n.key && w.ann.world = n.world && w.decision.isNone) with
      | some w => .next (dropWait s w)
      | none => .next s
    else if s.announced.any (fun a => a.key = n.key && a.src = n.src && a.world = n.world) then
      .next (tryDecide (pend (takeBack s n) (.bondSend (deviceAt m n.src) (.withdraw n))) n)
    else .next s

/-- An entry is marked failed (R281). -/
def markFailed (b : BondEntry) (r : BitVec 4) (c : BitVec 12) : BondEntry :=
  { b with failed := true, announced := false, reason := r, fco := c }

/-- The effect of a bundle whose agreement has been decided to go: its destination awaits the result (R282, R284). -/
def takeBond (s : State) (w : BondWait) (h : Handle) (d : BitVec 6) : State :=
  let rest := w.waiters.filter (fun e => e.1 ≠ h)
  match findThread s h with
  | none => s
  | some t =>
    let s := countRequest (modThread s h (fun t => advance (setCount t (.s d) 1))) t
    let (s, o) := newOrigin s t
    let put (x : BondWait) : State := { s with bondWaits := s.bondWaits.map (fun v => if v = w then x else v) }
    match w.result with
    | some v =>
      answerTo (if rest = [] then { s with bondWaits := s.bondWaits.erase w } else put { w with waiters := rest }) o (.bond w.die) (.s d) v true
    | none => put { w with waiters := rest, dests := w.dests ++ [(o, d)] }

/-- The results that a thread awaits of an agreement do not hold its save, which it joined within the drain (R282). -/
def markDrained (s : State) (n : Announcement) (h : Handle) : State :=
  { s with bondWaits := s.bondWaits.map (fun w =>
      if w.ann = n then { w with drained := w.drained ++ (w.dests.map (·.1)).filter (fun o => o.by' = h) } else w) }

/-- A thread that is being saved while stalled on the bundle: the bundle takes effect within the drain (R282). -/
def takeInDrain (s : State) (w : BondWait) : State :=
  w.waiters.foldl (fun s e =>
    match findThread s e.1, s.bondWaits.find? (fun v => v.ann = w.ann && v.decision = some none) with
    | some t, some v =>
      match t.status with
      | .saving _ => if t.pc = e.2.2 then markDrained (takeBond s v e.1 e.2.1) w.ann e.1 else s
      | _ => s
    | _, _ => s) s

/-- The waits that are over leave. -/
def pruneWaits (s : State) : State :=
  { s with bondWaits := s.bondWaits.filter (fun w => !(w.waiters = [] && (w.result.isSome ||
      (match w.decision with
       | some (some _) => true
       | _ => false)))) }

/-- The results of an agreement land, each a release (R292). -/
def landResults (s : State) (w : BondWait) (v : Word) : State :=
  let s := { s with bondWaits := s.bondWaits.map (fun x => if x = w then { w with result := some v, dests := [] } else x) }
  pruneWaits (w.dests.foldl (fun s e => answerTo s e.1 (.bond w.die) (.s e.2) v true) s)

/-- BOND_DECISION (R280 to R282). A fault is kept for the threads that are stalled on it, each of which takes the trap (R281). -/
def execBondDecision (k : BondKey) (go : Bool) (r : BitVec 4) (c : BitVec 12) (s : State) : Out :=
  match s.bondWaits.find? (fun w => w.ann.key = k && w.decision.isNone) with
  | none =>
    match k, go with
    | .tensor u t q, false =>
      .next { s with bonds := s.bonds.map (fun e => (e.1, e.2.map (fun b => if b.world = u && b.tag = t && b.seq = q && !b.busy then markFailed b r c else b))) }
    | _, _ => .next s
  | some w =>
    let w1 := { w with decision := some (if go then none else some (r, c)) }
    let s1 := { s with bondWaits := s.bondWaits.map (fun v => if v = w then w1 else v) }
    match k, go with
    | .tensor .., true =>
      let busy (b : BondEntry) : BondEntry := { b with busy := true, announced := false }
      let s2 := modBond s1 w.entry busy
      let s3 := match w.dstEntry with
        | some e => modBond s2 e busy
        | none => s2
      .next (takeInDrain (pend s3 (.bondLock k)) w1)
    | .tensor .., false => .next (modBond (pruneWaits s1) w.entry (fun b => markFailed b r c))
    | .sync .., true =>
      let s2 := takeInDrain s1 w1
      match s2.bondWaits.find? (fun v => v.ann = w.ann && v.decision = some none) with
      | some v => .next (landResults s2 v 0)
      | none => .next s2
    | .sync .., false => .next s1

/-! ### The conversion (R282, R283) -/

/-- The locks of a conversion: both buffers, or the source's and the destination's of a PCONV (R282, R288). -/
def bondLocks (w : BondWait) (b : BondEntry) (dst : Option BondEntry) : List Lock :=
  let make (isDst : Bool) (a : Word) (n : Nat) : Lock :=
    { die := w.die, world := b.world, lo := a.toNat / 64 * 64, hi := (a.toNat + n + 63) / 64 * 64, dst := isDst
      by' := (w.dests.head?.map (·.1.by')).getD ((w.waiters.head?.map (·.1)).getD 0), owner := .bond w.entry.toNat, frames := [] }
  match dst with
  | none => [make true b.base (bondBytes b), make true b.scr (bondBytes b)]
  | some d => [make false b.base (bondBytes b), make true d.base (bondBytes d)]

/-- The frames of an interval, for R221. -/
def framesOf (s : State) (asid : BitVec 12) (va n : Nat) : List Nat :=
  (upFrom (va / 65536) ((va + n + 65535) / 65536 - va / 65536)).filterMap (fun p =>
    match seek s [] asid (p * 65536) .r with
    | .ok a _ => some (a / 65536)
    | _ => none)

/-- The conversion takes its locks, which is when it reads its contribution, and sends it to its peers (R282). -/
def bondLockStep (k : BondKey) (s : State) : State :=
  match s.bondWaits.find? (fun w => w.ann.key = k && w.decision = some none && w.mine.isNone) with
  | none => s
  | some w =>
    match bondAt s w.entry with
    | none => s
    | some b =>
      let l := (bondLocks w b (w.dstEntry.bind (bondAt s))).map (fun x => { x with frames := framesOf s b.asid x.lo (x.hi - x.lo) })
      if !locksFree s w.die l || l.any (accessesInside s) then pend s (.bondLock k)
      else
        match meshOf s b.world with
        | none => s
        | some m =>
          let (s1, data) := engRead s b.asid b.base.toNat (localCount m b b.state * fmtWidth (bondFmt b) / 8)
          let w1 := { w with mine := some data }
          let s2 := { s1 with locks := s1.locks ++ l, bondWaits := s1.bondWaits.map (fun v => if v = w then w1 else v) }
          let others := w.group.filter (fun i => i ≠ w.ann.src)
          if others = [] then pend s2 (.bondConversion k [])
          else others.foldl (fun s i => pend s (.bondSend (deviceAt m i) (.data k w.ann.src data))) s2

/-- The locks of an entry's conversion are removed. -/
def bondUnlock (s : State) (e : BitVec 12) : State := { s with locks := s.locks.filter (fun l => l.owner ≠ .bond e.toNat) }

/-- BOND_CONVERSION (R278, R279, R282, R288): with the contributions of every member the result is written, the state and
sequence number change, the locks go and the result lands. -/
def execBondConversion (k : BondKey) (data : PeerData) (s : State) : Out :=
  match s.bondWaits.find? (fun w => w.ann.key = k && w.decision = some none && w.result.isNone) with
  | none => .next s
  | some w =>
    match w.mine, bondAt s w.entry, meshOf s w.ann.world with
    | some mine, some b, some m =>
      let all := (w.ann.src, mine) :: data.filter (fun e => e.1 ≠ w.ann.src)
      if w.group.any (fun i => !all.any (fun e => e.1 = i)) then .next s
      else
        let out := converted m b w.ann.want all
        match w.dstEntry with
        | none =>
          let s1 := engWrite s b.asid b.scr.toNat out
          let b1 := { b with base := b.scr, scr := b.base, state := w.ann.want, seq := b.seq + 1, busy := false }
          .next (landResults (bondUnlock (setBond s1 w.entry (some b1)) w.entry) w b1.base)
        | some e =>
          match bondAt s e with
          | none => .next s
          | some c =>
            let s1 := engWrite s c.asid c.base.toNat out
            let s2 := setBond s1 e (some { c with state := w.ann.want, seq := c.seq + 1, busy := false })
            .next (landResults (bondUnlock (modBond s2 w.entry (fun b => { b with busy := false })) w.entry) w c.base)
    | none, some _, some _ => .next (pend s (.bondConversion k data))
    | _, _, _ => .next s

/-! ### Instructions that agree (R280 to R282, R287, R288, R291) -/

/-- What PLOAD, PCONV or PSYNC comes to when it is tried: a result at once, a trap, a wait, or a state in which the
thread stalls. -/
inductive BondTry | land (v : Word) (after : State) | trap (v : Word) | hold | stall (after : State) | take (w : BondWait)

/-- `TVAL` of PLACEMENT_FAULT (R281). -/
def bondFault (e : BitVec 12) (r : BitVec 4) (c : BitVec 12) (q : BitVec 32) : Word := (q ++ 0#4 ++ c ++ r ++ e).cast (by decide)

/-- An instruction that agrees, tried. Nothing but what it announces happens until its bundle takes effect (R282). -/
def bondTried (s : State) (d : BitVec 6) (reads : List Reg) (x : BondTry) : Out :=
  let t := s.th
  let needs := Reg.s d :: reads
  let hold := requestsFull s t || fenced s t 8 || !allPerformed s t
  match x with
  | .land v after => let p := requestPlan after d reads none (fun o s => answerTo s o (.bond (dieOf t.core)) (.s d) v true)
                     conclude .l { p with hold := hold } s
  | .trap v => conclude .l { specs := [], needs := needs, bad := some (.trap .placementFault v), hold := false, next := s } s
  | .hold => conclude .l { specs := [], needs := needs, bad := none, hold := true, next := s } s
  | .stall after =>
    if needs.all (present t) && !hold then .next { after with last := .stalled }
    else conclude .l { specs := [], needs := needs, bad := none, hold := true, next := s } s
  | .take w => conclude .l { specs := [], needs := needs, bad := none, hold := hold, next := takeBond s w t.handle d } s

/-- The wait on which the thread itself stands with this bundle. -/
def ownWait (s : State) (p : BondWait → Bool) : Option BondWait :=
  s.bondWaits.find? (fun w => p w && w.waiters.any (fun e => e.1 = s.th.handle && e.2.2 = s.th.pc))

/-- The announcement for an entry (R280, R288). -/
def announcementOf (m : Mesh) (b : BondEntry) (want : BitVec 32) (dst : Option BondEntry) (st : Nat) : Announcement :=
  { key := .tensor b.world b.tag b.seq, src := ownCoord m, world := b.world, fmt := b.fmt, ndim := b.ndim, dims := b.dims, cur := b.state, want := want
    extra := match dst with
      | some c => c.seq ++ c.tag
      | none => 0
    status := BitVec.ofNat 8 st }

/-- A status lands; it is announced where the entry is valid, under the entry's world (R284, R287). -/
def landStatus (s : State) (m : Option Mesh) (b : BondEntry) (want : BitVec 32) (dst : Option BondEntry) (st : Nat) : BondTry :=
  match m with
  | some m =>
    let n := announcementOf m b want dst st
    .land (status st) (if (groupOf m n).length ≤ 1 then s else announceOwn s m n)
  | none => .land (status st) s

/-- A wait begins (R280, R282). -/
def newWait (s : State) (n : Announcement) (g : List Nat) (asid : BitVec 12) (e : BitVec 12) (dst : Option (BitVec 12)) (d : BitVec 6) : BondWait :=
  { ann := n, group := g, asid := asid, die := dieOf s.th.core, entry := e, dstEntry := dst, waiters := [(s.th.handle, d, s.th.pc)]
    dests := [], drained := [], decision := none, mine := none, result := none, leaving := false }

/-- The sequence number that an announcement names. -/
def keySeq : BondKey → BitVec 32
  | .tensor _ _ q => q
  | .sync .. => 0

/-- The demand of a state for an entry, that of PLOAD and PCONV (R287, R288). -/
def demand (s : State) (d : BitVec 6) (e : BitVec 12) (want : BitVec 32) (dst : Option (BitVec 12)) : BondTry :=
  let t := s.th
  match ownWait s (fun w => w.entry = e && w.dstEntry = dst && w.ann.want = want) with
  | some w =>
    match w.decision with
    | none => .stall s
    | some none => .take w
    | some (some (r, c)) => .trap (bondFault e r c (keySeq w.ann.key))
  | none =>
    if s.phase = 2 then .land (status 4) s
    else
      match bondAt s e with
      | none => .land (status 1) s
      | some b =>
        let c := dst.bind (bondAt s)
        let busy := b.busy || (c.map (·.busy)).getD false
        let m := meshOf s t.world
        if busy then .hold
        else if dst.isSome && c.isNone then landStatus s (meshOf s b.world) b want none 1
        else if b.world ≠ t.world || (c.map (·.world)).getD t.world ≠ t.world then landStatus s (meshOf s b.world) b want c 3
        else
          match m with
          | none => .land (status 4) s
          | some m =>
            let meets (x y : Word) (n k : Nat) : Bool := x.toNat < y.toNat + k && y.toNat < x.toNat + n
            let unlike : Bool := match c with
              | none => false
              | some c =>
                dst = some e || c.fmt ≠ b.fmt || c.ndim ≠ b.ndim || c.dims ≠ b.dims ||
                  [b.base, b.scr].any (fun x => [c.base, c.scr].any (fun y => meets x y (bondBytes b) (bondBytes c)))
            if !stateOk m b want then landStatus s m b want c 5
            else if unlike then landStatus s m b want c 8
            else if b.failed then .trap (bondFault e b.reason b.fco b.seq)
            else if dst.isNone && b.state = want then .land b.base s
            else
              let n := announcementOf m b want c 0
              let w := newWait s n (groupOf m n) b.asid e dst d
              match s.bondWaits.find? (fun v => v.entry = e && v.decision.isNone) with
              | some v =>
                if v.dstEntry = dst && v.ann.want = want && v.ann.key = n.key && !v.leaving then
                  .stall { s with bondWaits := s.bondWaits.map (fun x => if x = v then { v with waiters := v.waiters ++ w.waiters } else x) }
                else .hold
              | none =>
                if b.state = want then .stall (pend { s with bondWaits := s.bondWaits ++ [w] } (.bondDecision n.key true 0 0xFFF))
                else .stall (announceOwn (modBond { s with bondWaits := s.bondWaits ++ [w] } e (fun b => { b with announced := true })) m n)

/-- Has the agreement been decided to fault? -/
def faulted (w : BondWait) : Bool :=
  match w.decision with
  | some (some _) => true
  | _ => false

/-- The fault that the engine keeps for a thread is given up with the trap (R281, R282). -/
def giveUpFault (h : Handle) (p : BondWait → Bool) (r : Out) : Out :=
  match r with
  | .next s =>
    let mine (w : BondWait) : Bool := p w && faulted w && w.waiters.any (fun e => e.1 = h)
    if s.last = .trapped && s.bondWaits.any mine then
      .next (pruneWaits { s with bondWaits := s.bondWaits.map (fun w =>
        if mine w then { w with waiters := w.waiters.filter (fun e => e.1 ≠ h) } else w) })
    else .next s
  | r => r

/-- PLOAD (R287). -/
def execPload (d a b : BitVec 6) (s : State) : Out :=
  let e : BitVec 12 := bits (rdS s.th a) 0 12
  giveUpFault s.th.handle (fun w => w.entry = e && w.dstEntry = none)
    (bondTried s d [.s a, .s b] (demand s d e (bits (rdS s.th b) 0 32) none))

/-- PCONV (R288). -/
def execPconv (d a b c : BitVec 6) (s : State) : Out :=
  let e : BitVec 12 := bits (rdS s.th a) 0 12
  let dst : BitVec 12 := bits (rdS s.th c) 0 12
  giveUpFault s.th.handle (fun w => w.entry = e && w.dstEntry = some dst)
    (bondTried s d [.s a, .s b, .s c] (demand s d e (bits (rdS s.th b) 0 32) (some dst)))

/-- The value that PSYNC announces under its number (R291). -/
def syncAnnouncement (m : Mesh) (w : World) (mask : BitVec 4) (k : Nat) (v : Word) : Announcement :=
  { key := .sync w mask k, src := ownCoord m, world := w, fmt := 0, ndim := 0, dims := [], cur := 0, want := 0
    extra := zext64 (bits v 0 32), status := 0 }

/-- Is this wait for a PSYNC of the mask? -/
def waitsSync (w : World) (mask : BitVec 4) (x : BondWait) : Bool :=
  match x.ann.key with
  | .sync v q _ => v = w && q = mask
  | _ => false

/-- The number of the next PSYNC of a mask that the device accepts, and the count after it: the lowest one that a withdrawn PSYNC has given
back, else the next (R291, log 37). -/
def takeSync (s : State) (mask : BitVec 4) : State × Nat :=
  match (s.psyncBack.filter (fun e => e.1 = mask)).map (·.2) with
  | [] =>
    let k := sget 0 s.psyncs mask.toNat
    ({ s with psyncs := sset 0 s.psyncs mask.toNat (k + 1) }, k)
  | x :: r =>
    let k := r.foldl min x
    ({ s with psyncBack := s.psyncBack.erase (mask, k) }, k)

/-- PSYNC, tried (R291). -/
def syncTry (s : State) (d : BitVec 6) (mask : BitVec 4) (v : Word) : BondTry :=
  let t := s.th
  match ownWait s (waitsSync t.world mask) with
  | some w =>
    match w.decision with
    | none => .stall s
    | some none => .take w
    | some (some (r, c)) => .trap (bondFault 0xFFF r c 0)
  | none =>
    match (if s.phase = 2 then none else meshOf s t.world) with
    | none => .land (status 4) s
    | some m =>
      if (upFrom m.sizes.length (4 - m.sizes.length)).any (fun i => bit mask i) then .land (status 5) s
      else
        let (s1, k) := takeSync s mask
        let n := syncAnnouncement m t.world mask k v
        let w := newWait s n (groupOf m n) t.asid 0xFFF none d
        .stall (announceOwn { s1 with bondWaits := s1.bondWaits ++ [w] } m n)

/-- PSYNC (R291). -/
def execPsync (d a : BitVec 6) (mask : BitVec 4) (s : State) : Out :=
  giveUpFault s.th.handle (waitsSync s.th.world mask) (bondTried s d [.s a] (syncTry s d mask (rdS s.th a)))

/-! ### Instructions of this device alone (R285, R286, R289, R290) -/

/-- An entry from a descriptor's bytes (R285). -/
def bondOf (b : List Byte) (w : World) (asid : BitVec 12) : BondEntry :=
  let f (off n : Nat) := ofLe (slice b off n)
  { base := word (f 0 8), scr := word (f 8 8), tag := BitVec.ofNat 32 (f 16 4), seq := 0
    dims := (upFrom 0 4).map (fun i => BitVec.ofNat 32 (f (20 + 4 * i) 4)), ndim := BitVec.ofNat 8 (f 36 1), fmt := BitVec.ofNat 8 (f 37 1)
    busy := false, failed := false, announced := false, reason := 0, world := w, asid := asid, fco := 0, state := BitVec.ofNat 32 (f 40 4) }

/-- Is a descriptor valid but for the pages of its buffers (R275, R276, R284 −7, R285)? -/
def bondShapeOk (m : Mesh) (bytes : List Byte) (b : BondEntry) : Bool :=
  let c := bondBytes b
  ofLe (slice bytes 38 2) = 0 && ofLe (slice bytes 44 20) = 0 && 1 ≤ b.ndim.toNat && b.ndim.toNat ≤ 4 && (fmtOf b.fmt).isSome &&
    (upFrom 0 4).all (fun d => if d < b.ndim.toNat then 1 ≤ dimOf b d else dimOf b d = 1) && b.base.toNat % 256 = 0 && b.scr.toNat % 256 = 0 &&
    stateOk m b b.state && !(b.base.toNat < b.scr.toNat + c && b.scr.toNat < b.base.toNat + c)

/-- Is a descriptor valid, and are both buffers there and writable (R284 −7, R285)? -/
def bondDescOk (s : State) (m : Mesh) (bytes : List Byte) (b : BondEntry) : Bool :=
  bondShapeOk m bytes b && engOk s b.asid [.r, .w] b.base.toNat (bondBytes b) && engOk s b.asid [.r, .w] b.scr.toNat (bondBytes b)

/-- PDECL at the engine (R285): no answer while a range lock covers the descriptor (R83, R219). -/
def declare (s : State) (o : Origin) (asid : BitVec 12) (e : BitVec 12) (desc : Word) : State × Option Word :=
  if (bondAt s e).isSome then (s, some (status 2))
  else
    match meshOf s o.world with
    | none => (s, some (status 4))
    | some m =>
      if desc.toNat % 64 ≠ 0 || !engOk s asid [.r] desc.toNat 64 then (s, some (status 7))
      else if engLocked s o.world [(desc.toNat, 64)] then (s, none)
      else
        let (s1, bytes) := engRead s asid desc.toNat 64
        let b := bondOf bytes o.world asid
        if bondDescOk s m bytes b then (setBond s1 e (some b), some 0) else (s1, some (status 7))

/-- `FLG` of an entry (R275). -/
def bondFlags (b : BondEntry) : BitVec 8 :=
  (if b.failed then b.reason else 0#4) ++ (if b.announced then 1#1 else 0#1) ++ (if b.failed then 1#1 else 0#1) ++
    (if b.busy then 1#1 else 0#1) ++ 1#1

/-- PQRY of the mesh (R289). -/
def meshWord (m : Mesh) (f : BitVec 4) : Word :=
  if f = 5 then word (m.sizes.length + (m.sizes.zipIdx.map (fun e => (e.1 - 1) * 2 ^ (8 * (e.2 + 1)))).sum)
  else word ((m.coords.zipIdx.map (fun e => e.1 * 2 ^ (8 * e.2))).sum + ownCoord m * 2 ^ 32)

/-- A field of an entry (R289). -/
def bondField (s : State) (b : BondEntry) (f : BitVec 4) : Word :=
  match f.toNat with
  | 0 => zext64 (bondFlags b ++ b.state)
  | 1 => zext64 b.seq
  | 2 => b.base
  | 3 => zext64 b.tag
  | _ => match meshOf s b.world with
    | some m => word (localCount m b b.state)
    | none => 0

/-- Is an entry part of an announcement that is not decided: as the one demanded, or as the destination of a PCONV? That PDROP of a
destination withdraws the announcement too, R288 and R290 do not say: DEDUCED, since a go could else never end (log 36). -/
def announces (e : BitVec 12) (w : BondWait) : Bool := (w.entry = e || w.dstEntry = some e) && w.decision.isNone

/-- PDROP of an entry that is not busy: an undecided announcement is withdrawn first, and the other members then fault with reason 3; with
another device as coordinator the entry stands until that has answered, and until a conversion that it has decided has ended (R290). -/
def dropEntry (s : State) (e : BitVec 12) : State × Option Word :=
  let s1 := (s.bondWaits.filter (announces e)).foldl (fun s w =>
    let s1 := withdraw s w droppedStatus
    if s1.bondWaits.any (fun v => v.ann = w.ann && v.decision.isNone) then s1 else tryDecide s1 w.ann) s
  if s1.bondWaits.any (announces e) then (s1, none) else (setBond s1 e none, some 0)

/-- What a bond instruction that acts alone answers; none while its entry is busy (R283 to R290). What PSET does to an entry whose
announcement is not decided, R286 does not say: DESIGN CHOICE, it acts at once, and the announcement stands as it was made (log 36). -/
def bondAct (s : State) (o : Origin) (asid : BitVec 12) (op : BondOp) : State × Option Word :=
  if s.phase = 2 then (s, some (status 4))
  else
    let with' (e : BitVec 12) (f : BondEntry → State × Option Word) : State × Option Word :=
      match bondAt s e with
      | none => (s, some (status 1))
      | some b => if b.world ≠ o.world then (s, some (status 3)) else if b.busy then (s, none) else f b
    match op with
    | .decl e desc => declare s o asid e desc
    | .set e st => with' e (fun b =>
        match meshOf s o.world with
        | none => (s, some (status 4))
        | some m =>
          if !stateOk m b st then (s, some (status 5))
          else
            let b1 := { b with state := st, seq := b.seq + 1, failed := false, reason := 0, fco := 0 }
            (setBond s e (some b1), some (zext64 b1.seq)))
    | .qry e f =>
      if 5 ≤ f.toNat then
        match meshOf s o.world with
        | none => (s, some (status 4))
        | some m => (s, some (meshWord m f))
      else with' e (fun b => (s, some (bondField s b f)))
    | .drop e => with' e (fun _ => dropEntry s e)

/-- A request to the bond engine that concerns this device alone: answered, or accepted and waiting (R283). -/
def bondRequestStep (o : Origin) (d : BitVec 6) (asid : BitVec 12) (op : BondOp) (s : State) : State :=
  match bondAct s o asid op with
  | (s1, none) => pend s1 (.bondWaiting o d asid op)
  | (s1, some v) => answerTo s1 o (.bond (dieOf o.core)) (.s d) v true

/-- The walks that status -7 of PDECL asks for (R340, R341). -/
def bondAsk (o : Origin) (asid : BitVec 12) (op : BondOp) (s : State) : State :=
  match op, (bondAct s o asid op).2, meshOf s o.world with
  | .decl _ desc, some v, some m =>
    let c := clusterOf o.core
    if v ≠ status 7 || desc.toNat % 64 ≠ 0 then s
    else if engOk s asid [.r] desc.toNat 64 then
      let bytes := (engRead s asid desc.toNat 64).2
      let b := bondOf bytes o.world asid
      if bondShapeOk m bytes b then engAsk (engAsk s c asid b.base.toNat (bondBytes b)) c asid b.scr.toNat (bondBytes b) else s
    else engAsk s c asid desc.toNat 64
  | _, _, _ => s

/-- A request's turn at the bond engine: its translations, and the action. -/
def bondTurn (o : Origin) (d : BitVec 6) (asid : BitVec 12) (op : BondOp) (s : State) : State :=
  bondRequestStep o d asid op (bondAsk o asid op s)

/-- A bond instruction sends one request (R284). -/
def bondPlan (s : State) (d : BitVec 6) (reads : List Reg) (op : BondOp) : Out :=
  conclude .l (commandPlan s d reads none (fun o s' => pend s' (.bondRequest o d s.th.asid op))) s

/-- PDECL (R285). -/
def execPdecl (d a b : BitVec 6) (s : State) : Out := bondPlan s d [.s a, .s b] (.decl (bits (rdS s.th a) 0 12) (rdS s.th b))
/-- PSET (R286). -/
def execPset (d a b : BitVec 6) (s : State) : Out :=
  bondPlan s d [.s a, .s b] (.set (bits (rdS s.th a) 0 12) (bits (rdS s.th b) 0 32))
/-- PQRY (R289). -/
def execPqry (d a : BitVec 6) (f : BitVec 4) (s : State) : Out := bondPlan s d [.s a] (.qry (bits (rdS s.th a) 0 12) f)
/-- PDROP (R290). -/
def execPdrop (d a : BitVec 6) (s : State) : Out := bondPlan s d [.s a] (.drop (bits (rdS s.th a) 0 12))

end Sys2Proof.Machine
end

