-- ==== Sys2Proof/Machine/Control.lean ====
section
/-! DEFINITION. Control flow and presence (R111 to R116). -/

namespace Sys2Proof.Machine

open Sys2Proof

/-- Does a branch condition hold (R36, R111)? -/
def condHolds (c : Cond) (a b : Word) : Bool :=
  match c with
  | .eq => a == b
  | .ne => a != b
  | .lt => a.slt b
  | .ge => !a.slt b
  | .ltu => a.ult b
  | .geu => !a.ult b

/-- The thread goes on at an address. -/
def goTo (t : Thread) (pc : Word) : Thread := { t with pc := pc }

/-- B.cond (R111). -/
def execBcond (c : Cond) (a b : BitVec 6) (o : BitVec 10) (s : State) : Out :=
  let target := if condHolds c (rdS s.th a) (rdS s.th b) then bundlesOn s.th o else s.th.pc + 8
  conclude .c (plainPlan [.s a, .s b] (setTh s (goTo s.th target))) s

/-- A jump that links in `d`; `S0` links nowhere (R112). -/
def jumpLink (slot : Slot) (d : BitVec 6) (target : Word) (s : State) : Out :=
  conclude slot (plainPlan [.s d] (setTh s (goTo (wrS s.th d (s.th.pc + 8)) target))) s

/-- J (R112). -/
def execJ (o : BitVec 25) (s : State) : Out := jumpLink .c 0 (bundlesOn s.th o) s
/-- JAL (R112): links in `LK`, which is `S63`. -/
def execJal (o : BitVec 25) (s : State) : Out := jumpLink .c 63 (bundlesOn s.th o) s
/-- JL (R112). -/
def execJl (d : BitVec 6) (o : BitVec 51) (s : State) : Out := jumpLink .l d (bundlesOn s.th o) s
/-- JALR (R113): a target that is no multiple of 8 traps MISALIGN. -/
def execJalr (d a : BitVec 6) (i : BitVec 13) (s : State) : Out :=
  let target := rdS s.th a + sext64 i
  conclude .c
    { specs := [], needs := [.s d, .s a], hold := false
      bad := if field target 0 3 ≠ 0 then some (.trap .misalign target) else none
      next := setTh s (goTo (wrS s.th d (s.th.pc + 8)) target) } s

/-! ### Presence -/

/-- The register of a presence instruction; a vector specifier is resolved (R114). -/
def pregReg (t : Thread) : PReg → Reg
  | .s n => .s n
  | .m n => .m n
  | .v n => .v (spec t n)

/-- The vector specifiers of a presence instruction. -/
def pregSpecs : PReg → List (BitVec 8)
  | .v n => [n]
  | _ => []

/-- A presence instruction that sets a count: ILLEGAL on `S0` and `M0` (R92, R115). -/
def setPresence (r : PReg) (c : BitVec 7) (detail : BitVec 57) (s : State) : Out :=
  let q := pregReg s.th r
  if fixedReg q then illegalNow 1 detail s
  else
    conclude .c
      { specs := pregSpecs r, needs := [], hold := false, bad := none
        next := setTh s (advance (setCount s.th q c)) } s

/-- EMPTY of a scalar register (R115); `n` is the count minus 1. -/
def execEmpty (r n : BitVec 6) (s : State) : Out :=
  setPresence (.s r) (n.zeroExtend 7 + 1) (wordC (.empty r n)) s
/-- EMPTY of a mask register (R115). -/
def execEmptyMask (r : BitVec 4) (n : BitVec 6) (s : State) : Out :=
  setPresence (.m r) (n.zeroExtend 7 + 1) (wordC (.emptyMask r n)) s
/-- VEMPTY (R115). -/
def execVempty (r : BitVec 8) (n : BitVec 6) (s : State) : Out :=
  setPresence (.v r) (n.zeroExtend 7 + 1) (wordC (.vempty r n)) s
/-- FILL (R115). -/
def execFill (r : PReg) (s : State) : Out := setPresence r 0 (wordC (.fill r)) s

/-- WAITP (R116): the thread sleeps after its bundle if the register is empty. Arrivals are performed before the
thread goes on, so the acquire of WAITP.AQ asks nothing more (log 7). -/
def execWaitp (r : PReg) (q : Bool) (s : State) : Out :=
  let g := pregReg s.th r
  let t := advance s.th
  conclude .c
    { specs := pregSpecs r, needs := [], bad := none, hold := false
      next := setTh s (if present s.th g then t else { t with status := .sleeping (.waitp g q) }) } s

end Sys2Proof.Machine
end

