-- ==== Sys2Proof/Machine/Network.lean ====
section
/-! DEFINITION. The network engine as sender: its commands, their packets, fence, windows and buffers
(R191, R294 to R309). -/

namespace Sys2Proof.Machine

open Sys2Proof

/-! ### Targets (R294, R298, R304) -/

/-- Device of a network target. -/
def tgtDev (t : Word) : BitVec 12 := bits t 52 12
/-- Window of a network target. -/
def tgtWin (t : Word) : BitVec 16 := bits t 36 16
/-- Offset of a network target. -/
def tgtOff (t : Word) : Nat := field t 0 36
/-- Payload bytes of a packet (R304). -/
def segBytes (x : BitVec 2) : Nat := 1024 * 2 ^ x.toNat

/-- Does a device understand more than the standard semantics: itself, or a 9624 in the peer map (R294)? -/
def lomkin (s : State) (d : BitVec 12) : Bool :=
  d = s.dev || (match sget none s.peers d.toNat with
    | some p => p.lomkin
    | none => false)

/-! ### Ports (R296, R305, R372) -/

/-- Is a port of an I/O die present and up (R372)? -/
def portUp (s : State) (die i : Nat) : Bool := bit s.capport (8 * die + i) && !bit s.portsDown (8 * die + i)
/-- Is some present port of the I/O die up? -/
def linkUp (s : State) (die : Nat) : Bool := (upFrom 0 8).any (portUp s die)
/-- The port of a packet: its entropy value mod 8 within the die, skipping ports that are absent or down, onward (R296, R372). -/
def portFor (s : State) (die : Nat) (e : BitVec 8) : BitVec 4 :=
  BitVec.ofNat 4 (8 * die + (((upFrom 0 8).map (fun i => (e.toNat + i) % 8)).find? (portUp s die)).getD (e.toNat % 8))

/-- Would packets of 8,192 bytes go to a port that is limited to smaller frames: the port of one of the command's entropy values (R296,
R305)? The own device needs no port. -/
def frameBad (s : State) (t : Word) (x : NetMod) : Bool :=
  x.seg = 3 && tgtDev t ≠ s.dev &&
    (upFrom 0 (2 ^ x.e.toNat)).any (fun k => Config.smallFrames (portFor s (netDie (tgtDev t) x.cc) (BitVec.ofNat 8 k)))

/-- A target that traps BAD_LA for a length (R294, R305). -/
def targetBad (s : State) (t : Word) (n : Nat) (x : NetMod) : Bool :=
  tgtWin t = 0 || 2 ^ 36 < tgtOff t + n || (x.ob && !lomkin s (tgtDev t)) || frameBad s t x

/-! ### Acceptance (R297, R304, R305) -/

/-- Request tags in use on the engine of a connection. -/
def tagsUsed (s : State) (dst : BitVec 12) (cls : BitVec 4) : List (BitVec 12) :=
  s.cmds.filterMap (fun c => match c.net with
    | some n => if c.fin.isNone && netDie n.dst n.cls = netDie dst cls then some n.tag else none
    | none => none)

/-- A free tag: a free choice (log 8). -/
def tagFor (s : State) (dst : BitVec 12) (cls : BitVec 4) : BitVec 12 :=
  let used := tagsUsed s dst cls
  let start := choose s 4096
  (((upFrom start (used.length + 1)).map (BitVec.ofNat 12)).find? (fun k => !used.contains k)).getD 0

/-- What a network command asks for, before its connection has numbered it. -/
def netAsk (dst : BitVec 12) (x : NetMod) (d : BitVec 6) (target place : Word) (len packets : Nat) : NetCmd :=
  { dst := dst, cls := x.cc, mode := x.dm, tag := 0, gen := 0, msg := 0, csn := 0, ob := x.ob, e := x.e.toNat, seg := segBytes x.seg
    land := false, target := target, place := place, len := len, op := .swap, dbl := false, b := 0, c := 0, reply := none
    packets := packets, sent := 0, got := [], heard := [], status := 0, d := d }

/-- The connection accepts a command: CSNs, message number and tag are given (R85, R296, R297); in reduced service it
completes with `ST` 8 (R370). -/
def acceptNet (s : State) (t : Thread) (kind : BitVec 8) (n : NetCmd) : State :=
  let k := connOf s n.dst n.cls n.mode
  let tag := tagFor s n.dst n.cls
  let n := { n with csn := k.csn, msg := k.msg, tag := tag, gen := sget 0 s.tagGens (tagKey n.dst n.cls tag) }
  let c : Command :=
    { handle := t.handle, seq := t.dseqNext, port := .e0, kind := kind, words := [], core := t.core, world := t.world, asid := t.asid
      weight := 0, n := s.stamp, waits := outstanding s (senderOf s t) 0xF, state := .running, vec := 0, count := 0, acks := 0
      refused := false, fault := none, fin := none, accz := none, net := some n }
  let s := { s with stamp := s.stamp + 1, cmds := s.cmds ++ [c] }
  if s.phase = 2 then endOne s t.handle t.dseqNext 8 0
  else pend (setConn s { k with csn := k.csn + BitVec.ofNat 32 n.packets, msg := k.msg + 1 }) (.netSend t.handle t.dseqNext)

/-- A network command (R305): its checks, then its wait for `Sd` and room, its ring entry, its destination, and its acceptance. -/
def netCommand (kind : BitVec 8) (d : BitVec 6) (reads : List Reg) (bad : Option Bad) (n : NetCmd) (s : State) : Out :=
  let t := s.th
  let e : RingEntry :=
    { seq := t.dseqNext, port := 0, q := false, lc := d ≠ 0, state := 1, kind := kind, status := 0, cord := 0, vec := 0 }
  let t1 := { ringSet (advance t) t.dseqNext e with dseqNext := t.dseqNext + 1 }
  let t2 := if d = 0 then t1 else setCount t1 (.s d) 1
  conclude .l
    { specs := [], needs := reads, late := [.s d], bad := bad, next := acceptNet (setTh s t2) t kind n
      hold := 64 ≤ outstanding64 t || (ringAt t t.dseqNext).state ≠ 0 || 4096 ≤ (tagsUsed s n.dst n.cls).length || fenced s t 8 } s

/-- BAD_LA that names the network target (R305). -/
def badTarget (b : Bool) (t : Word) : Option Bad := if b then some (.trap .badLa t) else none
/-- Packets of a length (R304). -/
def packetsOf (n seg : Nat) : Nat := (n + seg - 1) / seg

/-- NPUT (R305). -/
def execNput (d t a n : BitVec 6) (x : NetMod) (s : State) : Out :=
  let tgt := rdS s.th t
  let len := field (rdS s.th n) 0 32
  netCommand 0x20 d [.s t, .s a, .s n] (badTarget (targetBad s tgt len x || len = 0 || 2 ^ 30 < len) tgt)
    (netAsk (tgtDev tgt) x d tgt (rdS s.th a) len (packetsOf len (segBytes x.seg))) s

/-- The landing address of NGET: memory, a slot or a vector register of the own device (R10, R305). -/
def ngetLaBad (s : State) (la : Word) (n : Nat) : Bool :=
  laMalformed la || laSpace la = 3 || (laSpace la ≠ 0 && laDev la ≠ s.dev) || (laSpace la = 1 && laClass la ≠ 1) || laCrosses la n false

/-- NGET (R305). -/
def execNget (d t l n : BitVec 6) (x : NetMod) (s : State) : Out :=
  let tgt := rdS s.th t
  let la := rdS s.th l
  let len := field (rdS s.th n) 0 32
  let tooLong := len = 0 || 2 ^ 30 < len || (laSpace la = 2 && 16384 < len) || (laSpace la = 1 && (256 < len || segBytes x.seg < len))
  let bad := if targetBad s tgt len x || tooLong then badTarget true tgt else badTarget (ngetLaBad s la len) la
  netCommand 0x21 d [.s t, .s l, .s n] bad (netAsk (tgtDev tgt) x d tgt la len (packetsOf len (segBytes x.seg))) s

/-- Payload of NATOM's reply: the old value, shaped by its target as LDL shapes what it reads (R161, R165). -/
def atomPayload (la : Word) (b : List Byte) : List Byte :=
  if laSpace la = 1 && laClass la ≠ 1 then leBytes 8 (BitVec.ofInt 64 (BitVec.ofNat (8 * b.length) (ofLe b)).toInt).toNat else b

/-- NATOM (R305). -/
def execNatom (d t b c r : BitVec 6) (op : AmoOp) (dbl : Bool) (x : NetMod) (s : State) : Out :=
  let th := s.th
  let tgt := rdS th t
  let n := if dbl then 8 else 4
  let la := rdS th r
  let laBad := r ≠ 0 && (laMalformed la || laCrosses la (atomPayload la (List.replicate n 0)).length false || laUnreachable s la)
  let bad :=
    if tgtOff tgt % n ≠ 0 then some (Bad.trap .misalign tgt)
    else if targetBad s tgt n x then badTarget true tgt
    else badTarget laBad la
  netCommand 0x22 d [.s t, .s b, .s c, .s r] bad
    { netAsk (tgtDev tgt) x d tgt 0 n 1 with
      op := op, dbl := dbl, b := rdS th b, c := rdS th c, reply := if r = 0 then none else some la } s

/-- NSEND of a message (R305). -/
def execNsend (d t a n : BitVec 6) (x : NetMod) (s : State) : Out :=
  let tgt := rdS s.th t
  let len := field (rdS s.th n) 0 32
  let bad := targetBad s tgt len x || tgtOff tgt ≠ 0 || len = 0 || 2 ^ 20 < len || (x.dm = .uud && segBytes x.seg < len)
  netCommand 0x23 d [.s t, .s a, .s n] (badTarget bad tgt)
    (netAsk (tgtDev tgt) x d tgt (rdS s.th a) len (packetsOf len (segBytes x.seg))) s

/-- NSEND.L (R305). -/
def execNsendL (d l b : BitVec 6) (cc : BitVec 4) (ob : Bool) (s : State) : Out :=
  let la := rdS s.th l
  let v := rdS s.th b
  let n := (putPayload la v).length
  let bad := laMalformed la || laSpace la = 0 || laDev la = s.dev || laCrosses la n false || laUnreachable s la
  netCommand 0x23 d [.s l, .s b] (badTarget bad la)
    { netAsk (laDev la) { cc := cc, ob := ob, e := 0, seg := 0, dm := .rud } d la v n 1 with land := true } s

/-! ### The link (R296, R299, R310) -/

/-- Code of a packet's kind (R299). -/
def kindCode : NetKind → Nat
  | .write => 1
  | .readRequest => 2
  | .readReply => 3
  | .atomic => 4
  | .atomicReply => 5
  | .message => 6
  | .landing => 7

/-- The fields of an extension header in their order (R299). -/
def extensionBytes (flags cls kind csn msg len off tag : Nat) : List Byte :=
  leBytes 1 1 ++ leBytes 1 flags ++ leBytes 1 cls ++ leBytes 1 kind ++ leBytes 4 csn ++ leBytes 4 msg ++ leBytes 4 len ++ leBytes 4 off ++
    leBytes 3 tag ++ leBytes 1 0

/-- The extension header of a packet (R299). DEDUCED: a reply is expected to a read request and to an atomic (log 38). -/
def netHeader (p : NetPacket) : List Byte :=
  let flag (b : Bool) (i : Nat) : Nat := if b then 2 ^ i else 0
  extensionBytes (flag p.ob 0 + flag (p.kind = .landing) 1 + flag (p.kind = .readRequest || p.kind = .atomic) 2) p.cls.toNat (kindCode p.kind)
    p.csn.toNat p.msg.toNat p.msgLen p.off (p.tag.toNat + 4096 * p.gen.toNat)

/-- The extension header of a bond engine's packet, of class 14 (R296, R299). DESIGN CHOICE: the table of kinds has none for it, and the model
names it a message, kind 6, of a length that the spec leaves open, with no request tag, since it is no command's (log 38). -/
def bondHeader (csn msg : BitVec 32) (m : BondMsg) : List Byte :=
  let len := match m with
    | .announce _ => Config.bondLength 0 0
    | .withdraw _ => Config.bondLength 1 0
    | .decide .. => Config.bondLength 2 0
    | .data _ _ b => Config.bondLength 3 b.length
  extensionBytes 0 14 6 csn.toNat msg.toNat len 0 0

/-- The bytes of a packet after the Ultra Ethernet headers: the extension header between two 9624s, and the payload, which is for kind 7
the landing packet of R176 (R294, R299). -/
def netBytes (s : State) (p : NetPacket) : List Byte :=
  (if lomkin s p.dst then netHeader p else []) ++ (match p.landing with
    | some l => packetBytes l .landing
    | none => p.payload)

/-- One more initialisation vector is used: none where the stream is stopped for want of a key (R310). -/
def useKey (s : State) (dst : BitVec 12) (cls : BitVec 4) : Option State :=
  let a := Config.secAssoc dst cls
  let put (x : SecAssoc) (s : State) : State := { s with secAssocs := sset none s.secAssocs a.toNat (some x) }
  match sget none s.secAssocs a.toNat with
  | none => some s
  | some x =>
    if x.next.isSome && (x.cur.isNone || 2 ^ 31 ≤ x.used) then some (put { x with cur := x.next, next := none, used := 1 } s)
    else if x.cur.isNone || 2 ^ 32 ≤ x.used then none
    else
      let n := x.used + 1
      let s := put { x with used := n } s
      some (if n = 2 ^ 31 then postEvent (send s (.warn a false)) 1 0 0 (zext64 a) 0
        else if n = 2 ^ 32 then postEvent (send s (.warn a true)) 2 0 0 (zext64 a) 0 else s)

/-- Is the stream stopped for key exhaustion (R297, R310)? -/
def streamStopped (s : State) (dst : BitVec 12) (cls : BitVec 4) : Bool := dst ≠ s.dev && (useKey s dst cls).isNone

/-- A packet may leave; one to the own device needs no port (R305). -/
def linkStep (s : State) (dst : BitVec 12) (cls : BitVec 4) : Option State :=
  if dst = s.dev then some s else if linkUp s (netDie dst cls) then useKey s dst cls else none

/-- What a packet does where it arrives. -/
def arrival (p : NetPacket) : Event :=
  match p.kind with
  | .write => .netWrite p
  | .readRequest => .netReadRequest p
  | .readReply => .netReadReply p
  | .atomic => .netAtomic p
  | .atomicReply => .netAtomicReply p
  | .message => .netMessage p
  | .landing => .netLanding p

/-- The key under which the device seals what it sends on a stream (R310). -/
def sealKey (s : State) (dst : BitVec 12) (cls : BitVec 4) : Option (BitVec 256) :=
  (sget none s.secAssocs (Config.secAssoc dst cls).toNat).bind (·.cur)

/-- A packet leaves for its target, once `linkStep` has let it: on its port, sealed under the stream's key. -/
def emit (s : State) (p : NetPacket) : State :=
  if p.dst = s.dev then pend s (arrival p)
  else
    let p := { p with key := sealKey s p.dst p.cls }
    send s (.packet (portFor s (netDie p.dst p.cls) p.entropy) (netBytes s p) p)

/-- A packet of a connection of this device leaves, which has then carried its Job ID. -/
def emitNew (s : State) (p : NetPacket) : State :=
  let k := connOf s p.dst p.cls p.mode
  emit (if k.jobs.contains p.job then s else setConn s { k with jobs := p.job :: k.jobs }) p

/-! ### Paths (R308 mode 3, R313) -/

/-- A packet of a reliable-unordered path is counted, sent or acknowledged. -/
def countPath (s : State) (dst : BitVec 12) (cls : BitVec 4) (m : NetMode) (e : BitVec 8) (acked : Bool) : State :=
  if m ≠ .rud then s
  else
    let mine (x : Path) : Bool := x.dst = dst && x.cls = cls && x.entropy = e
    let x := (s.paths.find? mine).getD { dst := dst, cls := cls, entropy := e, sent := 0, acked := 0 }
    let x := if acked then { x with acked := x.acked + 1 } else { x with sent := x.sent + 1 }
    { s with paths := x :: s.paths.filter (fun y => !mine y) }

/-! ### Packets of a command (R299, R302, R306) -/

/-- Job ID of a world in the device's job table. -/
def jobOf (s : State) (w : World) : Option (BitVec 24) := (s.jobs.find? (fun e => e.2 = some w)).map (fun e => BitVec.ofNat 24 e.1)

/-- Bytes of packet i. -/
def packetLen (n : NetCmd) (i : Nat) : Nat := min n.seg (n.len - i * n.seg)

/-- Kind of a command's packets. -/
def packetKind (c : Command) : NetKind :=
  if c.kind = 0x20 then .write else if c.kind = 0x21 then .readRequest else if c.kind = 0x22 then .atomic else .message

/-- Packet i of a command; a read request carries the bytes that it asks for in `b`. -/
def packetOf (s : State) (c : Command) (n : NetCmd) (i : Nat) (data : List Byte) : NetPacket :=
  { src := s.dev, dst := n.dst, cls := n.cls, mode := n.mode, kind := if n.land then .landing else packetKind c, ob := n.ob
    csn := n.csn + BitVec.ofNat 32 i, msg := n.msg, msgLen := n.len, off := i * n.seg, tag := n.tag, gen := n.gen
    entropy := BitVec.ofNat 8 (i % 2 ^ n.e), win := if n.land then 0 else tgtWin n.target
    winOff := if n.land then 0 else BitVec.ofNat 36 (tgtOff n.target), job := (jobOf s c.world).getD 0
    secure := (jobOf s c.world).isSome, key := none, by' := c.handle, seq := c.seq, op := n.op, dbl := n.dbl
    b := if c.kind = 0x21 then word (packetLen n i) else n.b, c := n.c, payload := data, landing := none }

/-- Change of a command's network part. -/
def modNet (s : State) (c : Command) (f : NetCmd → NetCmd) : State := modCmd s c.handle c.seq (fun c => { c with net := c.net.map f })

/-- Does a packet wait for a parked command before it on its connection (R306)? -/
def behindParked (s : State) (c : Command) (n : NetCmd) : Bool :=
  (n.ob || n.mode = .rod) &&
    s.cmds.any (fun d => d.n < c.n && decide (d.state = .parked) &&
      (match d.net with
       | some m => m.dst = n.dst && m.cls = n.cls && m.mode = n.mode
       | none => false))

/-- The local accesses of packet i: its source, or the memory destination of NGET. -/
def localChunks (c : Command) (n : NetCmd) (i : Nat) : List Chunk :=
  if c.kind = 0x20 || c.kind = 0x23 then chunks .r (n.place.toNat + i * n.seg) (packetLen n i) 0
  else if c.kind = 0x21 then dstChunks n.place (i * n.seg : Nat) (packetLen n i)
  else []

/-- A command is parked at a packet (R200, R306); a page that is not there is a miss, and asks for a walk (R340, R341). -/
def parkNet (s : State) (c : Command) (i : Nat) (f : RunFault) : State :=
  let s := if f.sub = 1 || f.sub = 2 then askWalk s (clusterOf c.core) c.asid f.val.toNat else s
  parkCmd (modCmd s c.handle c.seq (fun c => { c with vec := BitVec.ofNat 64 i })) c.handle c.seq .netFault f.sub f.val

/-- A command whose packets are all answered, or that has been refused and awaits no more, completes (R300). -/
def settleNet (s : State) (h : Handle) (q : BitVec 16) : State :=
  match findCmd s h q with
  | none => s
  | some c =>
    match c.net with
    | none => s
    | some n =>
      if c.fin.isSome || c.state = .parked then s
      else if n.status ≠ 0 then (if n.sent ≤ n.got.length then endCmd s h q n.status (countOf c) else s)
      else if n.packets ≤ n.got.length then endCmd s h q 0 (if c.kind = 0x22 then 0 else countOf c)
      else s

/-- The packets of a command before packet i have all been answered: the command has come to that packet (R200, R306). -/
def answeredTo (n : NetCmd) (i : Nat) : Bool := (upFrom 0 i).all (fun j => n.got.contains (j * n.seg))

/-- Packet i of a command, whose source has been read, leaves (R296, R305). -/
def netPacketSend (s : State) (c : Command) (n : NetCmd) (data : List Byte) : State :=
  match linkStep s n.dst n.cls with
  | none => pend s (.netSend c.handle c.seq)
  | some s1 =>
    let i := n.sent
    let p := packetOf s1 c n i data
    let s2 := modCmd (modNet s1 c (fun n => { n with sent := i + 1 })) c.handle c.seq (fun c => { c with reads := none })
    let s3 := emitNew (countPath s2 n.dst n.cls n.mode p.entropy false) p
    if n.mode = .uud then endCmd s3 c.handle c.seq 0 (BitVec.ofNat 32 n.len)
    else if i + 1 < n.packets then pend s3 (.netSend c.handle c.seq) else s3

/-- One packet of a command goes on: its checks, its source piece by piece (R69, R302, R306), and its leaving. -/
def netPacketStep (s : State) (c : Command) (n : NetCmd) : State :=
  let i := n.sent
  let cs := localChunks c n i
  let again := pend s (.netSend c.handle c.seq)
  let put (s : State) (r : List Piece × List Byte) : State :=
    pendFirst (modCmd s c.handle c.seq (fun c => { c with reads := some r })) (.netSend c.handle c.seq)
  match c.reads with
  | some (l, got) =>
    match takeAt (choose s l.length) l with
    | none => netPacketSend s c n got
    | some (x, rest) =>
      let (s, b) := rdPiece s x
      put s (rest, patch got x.off b)
  | none =>
    if engineWaits s c cs then again
    else
      match engineBad s c cs with
      | some f => if answeredTo n i then parkNet s c i f else again
      | none =>
        if c.kind = 0x21 || c.kind = 0x22 then netPacketSend s c n []
        else if lockedForEngine s c.world (.cmd c.handle c.seq) cs then again
        else put (engineTlbs s c cs) (enginePieces s c cs, List.replicate (packetLen n i) 0)

/-- A network command goes on (R85, R301, R305, R306). -/
def netSendStep (h : Handle) (q : BitVec 16) (s : State) : State :=
  match findCmd s h q with
  | none => s
  | some c =>
    match c.net with
    | none => s
    | some n =>
      if c.fin.isSome || c.state ≠ .running then s
      else if n.status ≠ 0 then settleNet s h q
      else if n.packets ≤ n.sent then s
      else if !cmdFree s c || behindParked s c n then pend s (.netSend h q)
      else if (n.ob || n.mode = .rod) && (match (connOf s n.dst n.cls n.mode).broken with
          | some b => csnBefore b n.csn
          | none => false) then endCmd s h q 9 0
      else if n.land then
        let (s1, o) := cmdOrigin s h c.world c.core q (cmdAgent c)
        sendLanding (modCmd s1 h q (fun c => { c with acks := c.acks + 1 })) { packet o n.target (putPayload n.target n.place) with rel := true }
      else netPacketStep s c n

/-- The command of an NSEND.L whose landing this is. -/
def landCommand (s : State) (p : Packet) : Option (Command × NetCmd) :=
  if bit p.o.seq 31 then
    (findCmd s p.o.by' (bits p.o.seq 0 16)).bind (fun c => c.net.bind (fun n => if n.land && c.fin.isNone && n.target = p.la then some (c, n) else none))
  else none

/-- A packet of class 15, for a landing of R191. -/
def landingPacket (s : State) (p : Packet) (csn : BitVec 32) (msg : BitVec 32) : NetPacket :=
  { src := s.dev, dst := laDev p.la, cls := 15, mode := .rud, kind := .landing, ob := false, csn := csn, msg := msg
    msgLen := p.payload.length, off := 0, tag := 0, gen := 0, entropy := 0, win := 0, winOff := 0, job := (jobOf s p.o.world).getD 0
    secure := (jobOf s p.o.world).isSome, key := none, by' := p.o.by', seq := 0, op := .swap, dbl := false, b := 0, c := 0, payload := []
    landing := some p }

/-- A landing for another device leaves (R191, R305): that of an NSEND.L on its own connection, any other on class 15. One
that leaves again keeps its CSN and message number (R299, R313). -/
def netLandStep (p : Packet) (s : State) : State :=
  let dst := laDev p.la
  if !s.copies.any (samePacket p) then s
  else if s.phase ≠ 3 then pend s (.landingRefusal p 5)
  else
    match landCommand s p with
    | some (c, n) =>
      match linkStep s n.dst n.cls with
      | none => pend s (.netLand p)
      | some s1 =>
        let s2 := if n.sent = 0 then countPath (modNet s1 c (fun n => { n with sent := 1 })) n.dst n.cls n.mode 0 false else s1
        emitNew s2 { packetOf s2 c n 0 [] with landing := some p }
    | none =>
      match linkStep s dst 15 with
      | none => pend s (.netLand p)
      | some s1 =>
        let k := connOf s1 dst 15 .rud
        match k.open'.find? (fun e => e.2.2 = .landing p.o) with
        | some (csn, msg, _) => emitNew s1 (landingPacket s1 p csn msg)
        | none =>
          let s2 := setConn s1 { k with csn := k.csn + 1, msg := k.msg + 1, open' := k.open' ++ [(k.csn, k.msg, .landing p.o)] }
          emitNew (countPath s2 dst 15 .rud 0 false) (landingPacket s2 p k.csn k.msg)

/-! ### The exchanges of the bond engines (R280, R282, R296) -/

/-- The bytes of its extension header, which stands between two 9624s (R294, R299). -/
def bondBytesOut (s : State) (dst : BitVec 12) (csn msg : BitVec 32) (m : BondMsg) : List Byte := if lomkin s dst then bondHeader csn msg m else []

/-- A bond engine's message leaves as a packet of class 14 (R296). -/
def bondSendStep (dst : BitVec 12) (m : BondMsg) (s : State) : State :=
  match linkStep s dst 14 with
  | none => pend s (.bondSend dst m)
  | some s1 =>
    let k := connOf s1 dst 14 .rud
    let s2 := setConn s1 { k with csn := k.csn + 1, msg := k.msg + 1, open' := k.open' ++ [(k.csn, k.msg, .bond m)] }
    send (countPath s2 dst 14 .rud 0 false) (.bond (portFor s2 (netDie dst 14) 0) (bondBytesOut s dst k.csn k.msg m) k.csn dst m)

/-- The time within which a device must have answered the announcements sent to it is over; not while its stream is stopped for key
exhaustion (R280, R297). Nothing of the device is awaited any more: agreements that this device coordinates are decided to fault, and
those that the other one coordinates fault here; an acknowledgement that comes later still counts (R313). -/
def bondTimeoutStep (dst : BitVec 12) (s : State) : State :=
  let k := connOf s dst 14 .rud
  let waits : Bool := s.pending.any (fun e => match e with
    | .bondSend d _ => d = dst
    | _ => false)
  if streamStopped s dst 14 then pend s (.bondTimeout dst)
  else if k.open' = [] && !waits then s
  else
    let s1 := setConn s { k with open' := [], late := k.late ++ k.open'.map (·.1) }
    let toIt (e : Event) : Bool := match e with
      | .bondSend d (.announce _) => d = dst
      | _ => false
    faultUnheard (faultUnreachable { s1 with pending := s1.pending.filter (fun e => !toIt e) } dst) dst

/-- The answer to a packet that has arrived leaves, with a vector of its own (R300, R310). -/
def answerOutStep (p : NetPacket) (why : Option NetRefuse) (s : State) : State :=
  match linkStep s p.src p.cls with
  | none => pend s (.answerOut p why)
  | some s1 => send s1 (.netAnswer (portFor s1 (netDie p.src p.cls) p.entropy) p why)

/-! ### Fence, restart, cancel (R307) -/

/-- Network commands and landings of R191 of a thread that have not completed. -/
def netOpen (s : State) (t : Thread) : Bool :=
  s.cmds.any (fun c => c.handle = t.handle && c.net.isSome) ||
    (s.copies ++ s.heldBack).any (fun p => sameSender p.o (senderOf s t) && laSpace p.la ≠ 0 && laDev p.la ≠ s.dev)

/-- NFENCE (R307). -/
def execNfence (s : State) : Out :=
  conclude .l { specs := [], needs := [], bad := none, hold := netOpen s s.th || !allAccepted s s.th, next := setTh s (advance s.th) } s

/-- An instruction that asks the network engine for something. -/
def netPlan (s : State) (d : BitVec 6) (reads : List Reg) (op : NetOp) : Out :=
  conclude .l (commandPlan s d reads none (fun o s' => pend s' (.netRequest o d s.th.asid op))) s

/-- NFENCE.RS (R307). -/
def execNfenceRs (d a : BitVec 6) (s : State) : Out := netPlan s d [.s a] (.restart (bits (rdS s.th a) 0 16))
/-- NFENCE.CN (R307). -/
def execNfenceCn (d a : BitVec 6) (s : State) : Out := netPlan s d [.s a] (.cancel (bits (rdS s.th a) 0 16))
/-- WOPEN (R308). -/
def execWopen (d a b : BitVec 6) (perm : BitVec 3) (s : State) : Out := netPlan s d [.s a, .s b] (.wopen (rdS s.th a) (rdS s.th b) perm)
/-- WREVOKE (R309). -/
def execWrevoke (d a : BitVec 6) (s : State) : Out := netPlan s d [.s a] (.wrevoke (bits (rdS s.th a) 0 16))
/-- WQRY (R308). -/
def execWqry (d a : BitVec 6) (f : BitVec 3) (s : State) : Out := netPlan s d [.s a] (.wqry f (rdS s.th a))
/-- CBOPEN (R308). -/
def execCbopen (d a b : BitVec 6) (s : State) : Out := netPlan s d [.s a, .s b] (.cbopen (rdS s.th a) (rdS s.th b))
/-- CBPOP take (R308). -/
def execCbpopTake (d a : BitVec 6) (s : State) : Out := netPlan s d [.s a] (.take (bits (rdS s.th a) 0 16))
/-- CBPOP free (R308). -/
def execCbpopFree (d a : BitVec 6) (s : State) : Out := netPlan s d [.s a] (.free (bits (rdS s.th a) 0 16))

/-! ### Windows (R298, R308, R309) -/

/-- A window that is not free. -/
def windowAt (s : State) (w : BitVec 16) : Option Window := sget none s.windows w.toNat
/-- Write of a window. -/
def setWindow (s : State) (w : BitVec 16) (x : Option Window) : State := { s with windows := sset none s.windows w.toNat x }

/-- The lowest free window (R308). -/
def freeWindow (s : State) : Option (BitVec 16) :=
  ((upFrom 1 (min 65535 (s.windows.length + 1))).map (BitVec.ofNat 16)).find? (fun w => (windowAt s w).isNone)

/-- A window opens (R308). In reduced service, where the window table is not used (R370), no rule names the answer: DESIGN CHOICE, as where no
window is free (log 48). -/
def openWindow (s : State) (w : World) (asid : BitVec 12) (kind : WinKind) (perm : BitVec 3) (base : Word) (len : Nat) : State × Word :=
  match (if s.phase = 2 then none else freeWindow s) with
  | none => (s, status 4)
  | some i =>
    (setWindow s i (some { kind := kind, world := w, asid := asid, perm := perm, base := base, len := len, prod := 0, cons := 0
                           inflight := 0, recs := [], takers := [], revoker := none }), zext64 i)

/-- Accesses that a window's permissions stand for. -/
def permAccs (perm : BitVec 3) : List Acc :=
  (if bit perm 0 || bit perm 2 || perm = 0 then [.r] else []) ++ (if bit perm 1 || bit perm 2 then [.w] else [])

/-- State of a window as WQRY says it (R308). -/
def winCode : WinKind → Nat
  | .memory => 1
  | .buffer => 2
  | .revoking => 3

/-- What a window instruction finds wrong with the window that it names, if anything: window 0, a free one, one of another
world (R308). -/
def windowStatus (s : State) (o : Origin) (w : BitVec 16) : Option Word :=
  if w = 0 then some (status 3)
  else
    match windowAt s w with
    | none => some (status 1)
    | some x => if x.world ≠ o.world then some (status 2) else none

/-- WQRY (R308). -/
def windowQuery (s : State) (o : Origin) (f : BitVec 3) (a : Word) : Word :=
  let w : BitVec 16 := bits a 0 16
  if f = 4 then s.nstale
  else if f = 3 then
    match s.paths.find? (fun x => x.dst = bits a 0 12 && x.cls = bits a 12 4 && x.entropy = bits a 16 8) with
    | some x => (x.sent ++ x.acked).cast (by decide)
    | none => 0
  else
    match windowStatus s o w, windowAt s w with
    | some v, none => if f = 0 && w ≠ 0 then 0 else v
    | some v, _ => v
    | none, none => 0
    | none, some x =>
      if f = 0 then word (min 65535 x.inflight + 2 ^ 16 * winCode x.kind + 2 ^ 18 * x.perm.toNat)
      else if f = 1 then x.base
      else word x.len

/-- The oldest untaken message record, if it is complete (R308). -/
def takeReady (l : List BufRec) : Option BufRec :=
  (l.find? (fun r => !r.pad && !r.taken)).bind (fun r => if r.placed = r.len then some r else none)

/-- Waiting takes are served in order (R308). -/
def serveTakers (w : BitVec 16) : List (Origin × BitVec 6) → State → State
  | [], s => s
  | (o, d) :: rest, s =>
    match windowAt s w with
    | none => s
    | some x =>
      match takeReady x.recs with
      | none => s
      | some r =>
        let mark (y : BufRec) : BufRec := if y = r then { y with taken := true } else y
        let s1 := setWindow s w (some { x with takers := rest, recs := x.recs.map mark })
        serveTakers w rest (answerTo s1 o (.net 0) (.s d) (word (r.start + 16 + 2 ^ 32 * r.len)) true)

/-- CBPOP free: the oldest taken record goes, and pads before it (R308). -/
def freeRecord : List BufRec → Nat → Option (BufRec × List BufRec × Nat)
  | [], _ => none
  | r :: l, n => if r.pad then freeRecord l (n + r.size) else if r.taken then some (r, l, n + r.size) else none

/-- The takes that a revoked window leaves are answered −1 (R308). -/
def dropTakers (s : State) (l : List (Origin × BitVec 6)) : State := l.foldl (fun s t => answerTo s t.1 (.net 0) (.s t.2) (status 1) true) s

/-- A restart or cancel of a parked network command: 0, or 2 where it is not parked (R307). -/
def netRecover (s : State) (o : Origin) (q : BitVec 16) (cancel : Bool) : State × Word :=
  match (parkedCmd s o.by' q).bind (fun c => if c.net.isSome then some c else none) with
  | none => (s, 2)
  | some c => if cancel then (cancelCmd s c, 0) else (pend (restartCmd s c) (.netSend o.by' q), 0)

/-- A request to the network engine is acted on (R307 to R309): its answer, or none where the answer comes later. -/
def netAct (s : State) (o : Origin) (d : BitVec 6) (asid : BitVec 12) (op : NetOp) : State × Option Word :=
  let now (r : State × Word) : State × Option Word := (r.1, some r.2)
  let isBuffer (w : BitVec 16) : Bool := (windowAt s w).any (fun x => x.kind = .buffer)
  match op with
  | .wopen base len perm =>
    if base.toNat % 256 ≠ 0 || len.toNat < 256 || 2 ^ 36 < len.toNat || len.toNat % 256 ≠ 0 || !engOk s asid (permAccs perm) base.toNat len.toNat
    then (s, some (status 5))
    else now (openWindow s o.world asid .memory perm base len.toNat)
  | .cbopen base size =>
    if base.toNat % 4096 ≠ 0 || !((upFrom 12 19).any (fun i => size.toNat = 2 ^ i)) || !engOk s asid [.r, .w] base.toNat size.toNat
    then (s, some (status 5))
    else now (openWindow s o.world asid .buffer 0 base size.toNat)
  | .wrevoke w =>
    match windowStatus s o w, windowAt s w with
    | none, some x =>
      if x.kind = .revoking then (s, some (status 1))
      else
        let s1 := setWindow (dropTakers s x.takers) w (some { x with kind := .revoking, takers := [], revoker := some (o, d) })
        (pend s1 (.windowRevokeComplete o d w), none)
    | v, _ => (s, v)
  | .wqry f a => (s, some (windowQuery s o f a))
  | .take w =>
    match windowStatus s o w, windowAt s w with
    | none, some x =>
      if isBuffer w then
        let l := x.takers ++ [(o, d)]
        (serveTakers w l (setWindow s w (some { x with takers := l })), none)
      else (s, some (status 1))
    | v, _ => (s, v)
  | .free w =>
    match windowStatus s o w, windowAt s w with
    | none, some x =>
      if isBuffer w then
        match freeRecord x.recs 0 with
        | none => (s, some (status 6))
        | some (r, l, n) => (setWindow s w (some { x with recs := l, cons := x.cons + n }), some (word (r.start + 16)))
      else (s, some (status 1))
    | v, _ => (s, v)
  | .restart q => now (netRecover s o q false)
  | .cancel q => now (netRecover s o q true)

/-- The walks that status -5 of WOPEN and CBOPEN asks for (R340, R341). -/
def netMisses (o : Origin) (asid : BitVec 12) (op : NetOp) (s : State) : State :=
  match op, (netAct s o 0 asid op).2 with
  | .wopen base len _, some v =>
    if v ≠ status 5 || base.toNat % 256 ≠ 0 || len.toNat < 256 || 2 ^ 36 < len.toNat || len.toNat % 256 ≠ 0 then s
    else engAsk s (clusterOf o.core) asid base.toNat len.toNat
  | .cbopen base size, some v =>
    if v ≠ status 5 || base.toNat % 4096 ≠ 0 || !((upFrom 12 19).any (fun i => size.toNat = 2 ^ i)) then s
    else engAsk s (clusterOf o.core) asid base.toNat size.toNat
  | _, _ => s

/-- A request at the network engine. -/
def netRequestStep (o : Origin) (d : BitVec 6) (asid : BitVec 12) (op : NetOp) (s : State) : State :=
  match netAct s o d asid op with
  | (s1, some v) => answerTo s1 o (.net 0) (.s d) v true
  | (s1, none) => s1

/-- A request's turn there: its translations, and the action. -/
def netTurn (o : Origin) (d : BitVec 6) (asid : BitVec 12) (op : NetOp) (s : State) : State :=
  netRequestStep o d asid op (netMisses o asid op s)

/-- WINDOW_REVOKE_COMPLETE (R309): once nothing is in flight, the entry is free and 0 lands. -/
def execWindowRevokeComplete (o : Origin) (d : BitVec 6) (w : BitVec 16) (s : State) : Out :=
  match windowAt s w with
  | none => .next s
  | some x =>
    if x.kind ≠ .revoking || x.revoker ≠ some (o, d) then .next s
    else if x.inflight ≠ 0 then .next (pend s (.windowRevokeComplete o d w))
    else .next (answerTo (setWindow s w none) o (.net 0) (.s d) 0 true)

end Sys2Proof.Machine
end

