-- ==== Sys2Proof/Machine/Packets.lean ====
section
/-! DEFINITION. Packets as they arrive: window checks, placement, receive buffers, replies, answers, keys and ports
(R191, R294 to R303, R309, R310). -/

namespace Sys2Proof.Machine

open Sys2Proof

/-! ### Checks (R298) -/

/-- Is a packet sealed under a key that the device accepts: the current one, or the next until it has been used (R310)? -/
def keyOk (s : State) (p : NetPacket) : Bool :=
  p.src = s.dev ||
    (match sget none s.secAssocs (Config.secAssoc p.src p.cls).toNat with
     | none => true
     | some x => p.key.isSome && (p.key = x.rxCur || p.key = x.rxNext))

/-- The first packet under the next key makes it the only one that is accepted (R310). -/
def noteKey (s : State) (p : NetPacket) : State :=
  let a := Config.secAssoc p.src p.cls
  match sget none s.secAssocs a.toNat with
  | none => s
  | some x =>
    if p.src ≠ s.dev && p.secure && p.key.isSome && p.key = x.rxNext
    then { s with secAssocs := sset none s.secAssocs a.toNat (some { x with rxCur := x.rxNext, rxNext := none }) } else s

/-- The world that the job table gives a packet whose transport security holds (R298). -/
def netWorld (s : State) (p : NetPacket) : Option World := if p.secure && keyOk s p then sget none s.jobs p.job.toNat else none

/-- Bytes that a packet reads or places. -/
def placedBytes (p : NetPacket) : Nat :=
  match p.kind with
  | .readRequest => p.b.toNat
  | .atomic => if p.dbl then 8 else 4
  | _ => p.payload.length

/-- Does a window serve a kind of packet? -/
def windowServes (x : Window) (k : NetKind) : Bool :=
  match k with
  | .write | .readRequest | .atomic => x.kind = .memory
  | .message => x.kind = .buffer
  | _ => false

/-- Does it permit the operation? -/
def windowPermits (x : Window) (k : NetKind) : Bool :=
  match k with
  | .readRequest => bit x.perm 0
  | .write => bit x.perm 1
  | .atomic => bit x.perm 2
  | _ => true

/-- Virtual address that a packet names in its window. -/
def placeVa (x : Window) (p : NetPacket) : Nat := x.base.toNat + p.winOff.toNat + p.off

/-- The checks of an arriving packet, in their order (R298). -/
def arrivalBad (s : State) (p : NetPacket) : Option NetRefuse :=
  match netWorld s p with
  | none => some (.status 6)
  | some w =>
    if p.win = 0 then (if p.kind = .landing then none else some (.status 5))
    else
      match windowAt s p.win with
      | none => some (.status 5)
      | some x =>
        if !windowServes x p.kind then some (.status 5)
        else if x.world ≠ w then some (.status 6)
        else if !windowPermits x p.kind then some (.status 6)
        else if p.kind = .message then none
        else if x.len < p.winOff.toNat + p.off + placedBytes p then some (.status 7)
        else if engLocked s x.world [(placeVa x p, placedBytes p)] then some .retry
        else none

/-! ### Receive buffers (R303) -/

/-- Next multiple of 16. -/
def roundUp16 (n : Nat) : Nat := (n + 15) / 16 * 16
/-- Header of a record. -/
def recordHeader (len : Nat) (src : BitVec 12) (kind : Nat) (cls : BitVec 4) (h : Handle) : List Byte :=
  leBytes 4 len ++ leBytes 2 src.toNat ++ leBytes 1 kind ++ leBytes 1 cls.toNat ++ leBytes 4 h.toNat ++ leBytes 4 0

/-- Is it the record of a packet's message? -/
def isRecord (p : NetPacket) (r : BufRec) : Bool := !r.pad && r.src = p.src && r.cls = p.cls && r.mode = p.mode && r.msg = p.msg

/-- Records that a message of a packet needs: those before it, itself, and the producer count after it; none without room. -/
def reserve (x : Window) (p : NetPacket) : Option (List BufRec × BufRec × Nat) :=
  let r := 16 + roundUp16 p.msgLen
  let free := x.len - (x.prod - x.cons)
  let tail := x.len - x.prod % x.len
  let rec' (start size : Nat) (pad : Bool) (len : Nat) : BufRec :=
    { start := start, size := size, len := len, pad := pad, src := p.src, cls := p.cls, mode := p.mode, msg := p.msg, placed := 0, taken := false }
  if r ≤ tail && r ≤ free then some ([], rec' (x.prod % x.len) r false p.msgLen, x.prod + r)
  else if tail + r ≤ free then some ([rec' (x.prod % x.len) tail true (tail - 16)], rec' 0 r false p.msgLen, x.prod + tail + r)
  else none

/-- The record of a packet's message, reserved if the packet is its first; how it is refused otherwise. -/
def recordFor (s : State) (x : Window) (p : NetPacket) : Except NetRefuse (State × Window × BufRec) :=
  match x.recs.find? (isRecord p) with
  | some r => .ok (s, x, r)
  | none =>
    if x.len < 16 + roundUp16 p.msgLen then .error (.status 7)
    else
      match reserve x p with
      | none => .error .notReady
      | some (pads, r, prod) =>
        if engLocked s x.world ((pads ++ [r]).map (fun y => (x.base.toNat + y.start, y.size))) then .error .retry
        else
          let put (s : State) (y : BufRec) (b : List Byte) : State := engWrite s x.asid (x.base.toNat + y.start) b
          let s := pads.foldl (fun s y => put s y (recordHeader y.len 0 2 0 0)) s
          let s := put s r (recordHeader r.len p.src 1 p.cls p.by')
          let s := engWrite s x.asid (x.base.toNat + r.start + 16 + r.len) (List.replicate (r.size - 16 - r.len) 0)
          .ok (s, { x with prod := prod, recs := x.recs ++ pads ++ [r] }, r)

/-! ### Placement (R300, R305) -/

/-- A reply to a packet. -/
def replyTo (s : State) (p : NetPacket) (k : NetKind) (data : List Byte) : NetPacket :=
  { p with src := s.dev, dst := p.src, kind := k, ob := false, payload := data, landing := none }

/-- A landing is handed to the package fabric, its check code tested first (R178); one that names another world than its Job ID's is
refused with subcode 3 (R191, R298). Whether the engine asks a location cache, R191 does not say: DESIGN CHOICE, a landing in register space
goes to the directory agent, with hop count 0 (log 12). A landing in memory space, which no device sends to the register window, the spec gives no outcome:
it is refused with subcode 5, and this is the model's choice (log 12). -/
def handOver (s : State) (p : NetPacket) (w : World) : State :=
  match p.landing with
  | none => netRefuse s p (.status 5)
  | some l =>
    let s := { s with rxLandings := s.rxLandings ++ [p] }
    if !crcOk l then pend s (.checkFailure l)
    else if l.o.world ≠ w then pend s (.landingRefusal l 3)
    else if laSpace l.la = 1 then pend s (.directoryResolve { l with hops := 0 })
    else if laSpace l.la = 2 then pend s (.slotLanding l)
    else if laSpace l.la = 3 then pend s (.eventLanding l)
    else pend s (.landingRefusal l 5)

/-- Change of a window's in-flight count. -/
def flight (s : State) (w : BitVec 16) (f : Nat → Nat) : State :=
  match windowAt s w with
  | some x => setWindow s w (some { x with inflight := f x.inflight })
  | none => s

/-- A packet that has passed its checks counts as in flight, and its bytes are placed or read piece by piece (R69, R298, R300). -/
def beginPlace (s : State) (p : NetPacket) (asid : BitVec 12) (a : Acc) (va n : Nat) : State :=
  let l := (chunks a va n 0).filterMap (pieceOf s [] asid)
  pend (flight s p.win (· + 1)) (.netPlace p l (List.replicate n 0))

/-- A packet that has passed its checks: its placement or its read begins, an atomic is performed, a landing is handed over. -/
def placePacket (s : State) (p : NetPacket) : State :=
  match windowAt s p.win with
  | none => if p.win = 0 then handOver s p ((netWorld s p).getD 0) else netRefuse s p (.status 5)
  | some x =>
    let va := placeVa x p
    match p.kind with
    | .write => beginPlace s p x.asid .w va p.payload.length
    | .message =>
      match recordFor s x p with
      | .error e => netRefuse s p e
      | .ok (s1, x1, r) =>
        let va := x1.base.toNat + r.start + 16 + p.off
        if engLocked s1 x1.world [(va, p.payload.length)] then netRefuse s p .retry
        else beginPlace (setWindow s1 p.win (some x1)) p x1.asid .w va p.payload.length
    | .readRequest => beginPlace s p x.asid .r va p.b.toNat
    | .atomic =>
      match linkStep s p.src p.cls with
      | none => pend s (.netAtomic p)
      | some s1 =>
        let n := if p.dbl then 8 else 4
        let (s2, b) := engRead s1 x.asid va n
        let s3 := engWrite s2 x.asid va (leBytes n (amoNew p.op (8 * n) (ofLe b) p.b.toNat p.c.toNat))
        emit (netMark s3 p) (replyTo s p .atomicReply b)
    | _ => netRefuse s p (.status 5)

/-- The bytes of a message's packet count in its record; a complete one serves the takes that wait (R303, R308). -/
def countMessage (s : State) (p : NetPacket) : State :=
  match windowAt s p.win with
  | none => s
  | some x =>
    let count (y : BufRec) : BufRec := if isRecord p y then { y with placed := y.placed + p.payload.length } else y
    serveTakers p.win x.takers (setWindow s p.win (some { x with recs := x.recs.map count }))

/-- All bytes of a packet have been placed or read: it is in flight no more, and is acknowledged, or answered with what was read (R298,
R300, R305). -/
def placeDone (s : State) (p : NetPacket) (got : List Byte) : State :=
  if p.kind = .readRequest then
    match linkStep s p.src p.cls with
    | none => pend s (.netPlace p [] got)
    | some s1 => emit (netMark (flight s1 p.win (· - 1)) p) (replyTo s p .readReply got)
  else
    let s1 := flight s p.win (· - 1)
    netPlaced (if p.kind = .message then countMessage s1 p else s1) p

/-- One piece of a packet's placement or read, in any order (R69). -/
def netPlaceStep (p : NetPacket) (left : List Piece) (got : List Byte) (s : State) : State :=
  match takeAt (choose s left.length) left with
  | none => placeDone s p got
  | some (x, rest) =>
    if p.kind = .readRequest then
      let (s1, b) := rdPiece s x
      pendFirst s1 (.netPlace p rest (patch got x.off b))
    else pendFirst (wrPiece s x p.payload) (.netPlace p rest got)

/-- Is a packet being placed or read? -/
def placing (s : State) (same : NetPacket → Bool) : Bool :=
  s.pending.any (fun e => match e with
    | .netPlace q _ _ => same q
    | _ => false)

/-- A packet of the sender's connection arrives: one placed already is acknowledged again, one that stands behind an abandoned
packet is refused, one out of its order is held (R298, R300, R301). In reduced service the engines give none (R370). From a device that is
no 9624 nothing beyond the standard semantics is accepted (R294): DESIGN CHOICE, its landings and flagged packets are refused with 5
(log 38). -/
def arrivePacketNet (s : State) (p : NetPacket) : State :=
  let s := noteKey s p
  let k := rxOf s p
  let same (q : NetPacket) : Bool := sameConn p q && q.csn = p.csn
  if s.phase ≠ 3 then s
  else if placedAlready k p.csn then netAck s p
  else if s.rxHeld.any same || s.rxLandings.any same || placing s same then s
  else if !lomkin s p.src && (p.ob || p.kind = .landing) then netRefuse s p (.status 5)
  else if ordered p && behindBroken k p.csn then netRefuse s p (.status 9)
  else
    match arrivalBad s p with
    | some e => netRefuse s p e
    | none =>
      if !ordered p || k.low = p.csn then placePacket s p
      else if 256 ≤ s.rxHeld.length then netRefuse s p .notReady
      else flight { s with rxHeld := s.rxHeld ++ [p] } p.win (· + 1)

/-- NET_WRITE (R300). -/
def execNetWrite (p : NetPacket) (s : State) : Out := .next (arrivePacketNet s { p with kind := .write })
/-- NET_READ_REQUEST (R298). -/
def execNetReadRequest (p : NetPacket) (s : State) : Out := .next (arrivePacketNet s { p with kind := .readRequest })
/-- NET_ATOMIC (R305). -/
def execNetAtomic (p : NetPacket) (s : State) : Out := .next (arrivePacketNet s { p with kind := .atomic })
/-- NET_MESSAGE (R303). -/
def execNetMessage (p : NetPacket) (s : State) : Out := .next (arrivePacketNet s { p with kind := .message })
/-- NET_LANDING (R191). -/
def execNetLanding (p : NetPacket) (s : State) : Out := .next (arrivePacketNet s { p with kind := .landing })

/-- ORDERED_PACKET_RELEASE (R301): a held packet is placed in its turn, or refused behind an abandoned one; for retry where a range lock
covers its bytes (R219). -/
def execOrderedPacketRelease (p : NetPacket) (s : State) : Out :=
  match pickOut (fun q => decide (q = p)) s.rxHeld with
  | none => .next s
  | some (_, r) =>
    let k := rxOf s p
    let s1 := flight { s with rxHeld := r } p.win (· - 1)
    let locked := (windowAt s p.win).any (fun x => p.kind ≠ .message && engLocked s x.world [(placeVa x p, placedBytes p)])
    if behindBroken k p.csn then .next (netRefuse s1 p (.status 9))
    else if k.low ≠ p.csn then .next s
    else if locked then .next (netRefuse s1 p .retry)
    else .next (placePacket s1 p)

/-- RUDI_PACKET (R294): dropped and logged. -/
def execRudiPacket (p : NetPacket) (s : State) : Out := .next (logError s 7 ((netWorld s p).getD 0) 0 0 0)

/-! ### Answers at the sender (R297, R300, R305) -/

/-- The open command that an answer names; its generation must be the tag's (R297). -/
def answeredCmd (s : State) (p : NetPacket) (dst : BitVec 12) : Option (Command × NetCmd) :=
  (findCmd s p.by' p.seq).bind (fun c => c.net.bind (fun n =>
    if c.fin.isNone && n.tag = p.tag && n.gen = p.gen && n.dst = dst && sget 0 s.tagGens (tagKey n.dst n.cls n.tag) = p.gen then some (c, n) else none))

/-- An answer of a stale generation is discarded and counted (R297). -/
def stale (s : State) : State := { s with nstale := s.nstale + 1 }

/-- A packet of a command is answered. -/
def markAnswered (s : State) (c : Command) (off : Nat) : State :=
  modNet s c (fun n => { n with got := if n.got.contains off then n.got else n.got ++ [off] })

/-- The first acknowledgement of a packet, or the reply that stands for it, counts on its path (R313). -/
def hear (s : State) (c : Command) (n : NetCmd) (p : NetPacket) : State :=
  if n.heard.contains p.off then s
  else countPath (modNet s c (fun n => { n with heard := n.heard ++ [p.off] })) n.dst n.cls n.mode p.entropy true

/-- NET_ACKNOWLEDGEMENT (R300, R313). -/
def execNetAcknowledgement (p : NetPacket) (s : State) : Out :=
  if p.cls = 14 || p.cls = 15 then
    let k := connOf s p.dst p.cls .rud
    if k.open'.any (fun e => e.1 = p.csn) then
      .next (countPath (setConn s { k with open' := k.open'.filter (fun e => e.1 ≠ p.csn) }) p.dst p.cls .rud 0 true)
    else if k.late.contains p.csn then
      .next (countPath (setConn s { k with late := k.late.filter (fun c => c ≠ p.csn) }) p.dst p.cls .rud 0 true)
    else .next s
  else
    match answeredCmd s p p.dst with
    | none => .next (stale s)
    | some (c, n) =>
      let s0 := hear s c n p
      if n.got.contains p.off || c.kind = 0x21 || c.kind = 0x22 then .next s0
      else
        let s1 := markAnswered s0 c p.off
        if n.land then .next (endLanded s1 c.handle c.seq false)
        else .next (settleNet (modCmd s1 c.handle c.seq (fun c => { c with count := c.count + p.payload.length })) c.handle c.seq)

/-- A reply to an NGET: its bytes land at the destination, advanced by the packet's offset (R305, R306). The engine keeps a reply until it
can land, and lets none land before the packet's turn: DEDUCED, since a command that parks at a packet has begun none after it (R200,
log 39). A destination that is not present or denied parks the command at that packet. -/
def landReadReply (p : NetPacket) (s : State) : State :=
  match answeredCmd s p p.src with
  | none => stale s
  | some (c, n) =>
    let i := p.off / n.seg
    let cs := localChunks c n i
    let s0 := hear s c n p
    let later := pend s0 (.netReadReply p)
    if n.got.contains p.off then s0
    else if c.state = .parked || !answeredTo n i || engineWaits s c cs then later
    else
      match engineBad s c cs with
      | some f => pend (parkNet s0 c i f) (.netReadReply p)
      | none =>
        if lockedForEngine s c.world (.cmd c.handle c.seq) cs then later
        else settleNet (sendRun (markAnswered s0 c p.off) c n.place p.off p.payload) c.handle c.seq

/-- NET_READ_REPLY (R305): one under a key that the device does not accept is dropped (R310). -/
def execNetReadReply (p : NetPacket) (s : State) : Out := .next (if keyOk s p then landReadReply p (noteKey s p) else s)

/-- The old value of NATOM lands at its reply address (R305); a memory destination that fails is refused with subcode 7, as a
completion landing is (R82). -/
def landAtom (s : State) (c : Command) (la : Word) (b : List Byte) : State :=
  let data := atomPayload la b
  let cs := if laSpace la = 0 then chunks .w (laVa la) data.length 0 else []
  let s := engineTlbs s c cs
  let (s1, o) := cmdOrigin s c.handle c.world c.core c.seq (cmdAgent c)
  let l := enginePieces s1 c cs
  if laSpace la = 0 && (laVa la % data.length ≠ 0 || l.length ≠ cs.length) then failLanding s1 c.handle c.world la 7 o.seq
  else
    let s2 := modCmd s1 c.handle c.seq (fun c => { c with acks := c.acks + 1 })
    sendLanding s2 { packet o la data with pieces := l }

/-- A reply to a NATOM: the old value lands, and the command has ended (R305). The engine keeps it while a range lock covers its place or
no miss more can be. -/
def landAtomicReply (p : NetPacket) (s : State) : State :=
  match answeredCmd s p p.src with
  | none => stale s
  | some (c, n) =>
    let s0 := hear s c n p
    if n.got.contains p.off then s0
    else
      let cs := (n.reply.map (fun la => if laSpace la = 0 then chunks .w (laVa la) p.payload.length 0 else [])).getD []
      if lockedForEngine s c.world (.cmd c.handle c.seq) cs || engineWaits s c cs then pend s0 (.netAtomicReply p)
      else
        let s1 := markAnswered s0 c p.off
        let s2 := match n.reply with
          | some la => landAtom s1 c la p.payload
          | none => s1
        settleNet s2 c.handle c.seq

/-- NET_ATOMIC_REPLY (R305): one under a key that the device does not accept is dropped (R310). -/
def execNetAtomicReply (p : NetPacket) (s : State) : Out := .next (if keyOk s p then landAtomicReply p (noteKey s p) else s)

/-- NET_REFUSAL (R298, R300, R301): of a packet that this device has sent; of one that it has received, word that its sender
has abandoned it. -/
def execNetRefusal (p : NetPacket) (why : NetRefuse) (s : State) : Out :=
  if p.src ≠ s.dev then
    let k := rxOf s p
    let s1 := setRx s p { k with broken := lowest k.broken p.csn }
    .next ((s1.rxHeld.filter (sameConn p)).foldl (fun s q => pendOnce s (.orderedPacketRelease q)) s1)
  else
    match why with
    | .status st =>
      if p.cls = 14 then
        let k := connOf s p.dst 14 .rud
        .next (setConn s { k with open' := k.open'.filter (fun e => e.1 ≠ p.csn) })
      else if p.cls = 15 then
        match (p.landing.bind (fun l => s.copies.find? (samePacket l))) with
        | some l => .next (failed s l 5)
        | none => .next s
      else
        match answeredCmd s p p.dst with
        | none => .next (stale s)
        | some (c, n) =>
          if n.land then .next (endCmd (dropLanding s c.handle c.seq) c.handle c.seq st 0)
          else if n.got.contains p.off then .next s
          else
            let s1 := modNet (markAnswered s c p.off) c (fun n => { n with status := if n.status = 0 then st else n.status })
            .next (settleNet s1 c.handle c.seq)
    | _ =>
      if p.cls = 14 || p.cls = 15 || (answeredCmd s p p.dst).isSome then .next (pendOnce s (.transportResend p)) else .next (stale s)

/-- TRANSPORT_RESEND (R301): a packet that is not yet answered leaves again, as it was. -/
def execTransportResend (p : NetPacket) (s : State) : Out :=
  let kept := (connOf s p.dst p.cls .rud).open'.find? (fun e => e.1 = p.csn)
  let again : Bool :=
    match p.kind with
    | .readReply | .atomicReply => p.src = s.dev
    | _ =>
      p.src = s.dev &&
        (if p.cls = 14 || p.cls = 15 then kept.isSome
         else (answeredCmd s p p.dst).any (fun e => !e.2.got.contains p.off && p.mode ≠ .uud))
  if !again then .next s
  else
    match linkStep s p.dst p.cls with
    | none => .next (pend s (.transportResend p))
    | some s1 =>
      match kept with
      | some (csn, msg, .bond m) => .next (send s1 (.bond (portFor s1 (netDie p.dst 14) 0) (bondBytesOut s p.dst csn msg m) csn p.dst m))
      | _ => .next (emit s1 p)

/-- NETWORK_TIMEOUT (R297): a command that is answered nothing completes with `ST` 8, or with that of its first refusal (R300); not one that is parked, nor while its
stream is stopped for key exhaustion. -/
def execNetworkTimeout (h : Handle) (q : BitVec 16) (s : State) : Out :=
  match findCmd s h q with
  | none => .next s
  | some c =>
    match c.net with
    | none => .next s
    | some n =>
      if c.fin.isSome || c.state ≠ .running || streamStopped s n.dst n.cls then .next s
      else .next (endCmd (if n.land then dropLanding s h q else s) h q (if n.status = 0 then 8 else n.status) (countOf c))

/-! ### Keys and ports (R296, R310) -/

/-- SA_KEY_INSTALL (R310), by Lintel's runtime, so in the phases in which an image runs (R353, R369). -/
def execSaKeyInstall (sa : BitVec 10) (next : Bool) (key : BitVec 256) (s : State) : Out :=
  let x := (sget none s.secAssocs sa.toNat).getD { cur := none, next := none, used := 0, rxCur := none, rxNext := none }
  let y := if next then { x with next := some key, rxNext := some key } else { x with cur := some key, used := 0, rxCur := some key }
  .next (if firmwareRuns s then { s with secAssocs := sset none s.secAssocs sa.toNat (some y) } else s)

/-- PORT_DOWN (R296). -/
def execPortDown (n : BitVec 4) (s : State) : Out := .next { s with portsDown := s.portsDown ||| (1#16 <<< n.toNat) }
/-- PORT_UP (R296). -/
def execPortUp (n : BitVec 4) (s : State) : Out := .next { s with portsDown := s.portsDown &&& ~~~(1#16 <<< n.toNat) }

end Sys2Proof.Machine
end

