-- ==== Sys2Proof/Machine/Trust.lean ====
section
/-! DEFINITION. Lintel: worlds and their destruction, device interfaces, attestation, keys, the registers that an interface
freezes, launch channel control (R320, R353 to R363). -/

namespace Sys2Proof.Machine

open Sys2Proof

/-! ### Worlds (R356, R363) -/

/-- The functions, with their numbers. -/
def allFuncs (s : State) : List (BitVec 6 × Func) := (upFrom 0 64).map (fun i => (BitVec.ofNat 6 i, funcAt s (BitVec.ofNat 6 i)))

/-- Is a world protected (R356)? -/
def worldProtected (s : State) (w : World) : Bool := (allFuncs s).any (fun e => e.2.world = w && e.2.tdisp ≠ .unlocked)

/-- The launch channels, by number. -/
def allChannels (s : State) : List (BitVec 4 × Channel) := (upFrom 0 16).map (fun i => (BitVec.ofNat 4 i, chanAt s (BitVec.ofNat 4 i)))

/-- Channels of a function. -/
def channelsOf (s : State) (f : BitVec 6) : List (BitVec 4 × Channel) := (allChannels s).filter (fun e => e.2.func = f)

/-- `EN` written 0: the channel's running launch is aborted with reason 4 (R320, R328). -/
def clearEn (s : State) (c : BitVec 4) : State :=
  let s := setChan s c { chanAt s c with en := false }
  match (chanAt s c).running with
  | some g => abortLaunch s g 4 0
  | none => s

/-- Slot claims and tiles are given up, their bytes kept; which ones is given by the owner's world, or all (R232, R363, R364). -/
def releaseClaims (s : State) (mine : Handle → World → Bool) : State :=
  let drop (o : Option Handle) (w : World) : Option Handle := o.bind (fun h => if mine h w then none else some h)
  -- a tile outlives its thread's record where the thread has ended with matrix commands still queued
  let worldOf (h : Handle) : World :=
    (((findThread s h).map (·.world)).or ((s.cmds.find? (fun c => c.handle = h)).map (·.world))).getD 0
  let u := s.units.map (fun e =>
    let slots := e.2.slots.map (fun x => (x.1, { x.2 with owner := drop x.2.owner x.2.world }))
    let tiles := e.2.tiles.map (fun x => (x.1, { x.2 with owner := x.2.owner.bind (fun h => drop (some h) (worldOf h)) }))
    (e.1, { e.2 with slots := slots.filter (fun x => x.2 ≠ OpSlot.init), tiles := tiles.filter (fun x => x.2 ≠ Tile.init) }))
  let c := s.cores.map (fun e => (e.1, { e.2 with tileOwner := e.2.tileOwner.bind (fun h => drop (some h) (worldOf h)) }))
  { s with units := u.filter (fun e => e.2 ≠ UnitState.init), cores := c.filter (fun e => e.2 ≠ CoreState.init) }

/-- What this device holds as coordinator of announcements of some worlds goes, and each other device that has announced faults with
reason 3 (R293). -/
def dropAnnounced (s : State) (mine : World → Bool) : State :=
  let l := s.announced.filter (fun a => mine a.world)
  l.foldl (fun s a => match meshOf s a.world with
    | none => s
    | some m =>
      if a.src = ownCoord m then s
      else pend s (.bondSend (deviceAt m a.src) (.decide a.key false 3 (BitVec.ofNat 12 (ownCoord m)))))
    { s with announced := s.announced.filter (fun a => !mine a.world) }

/-- Bond entries go: announcements not yet decided are withdrawn, and their members fault with reason 3 (R290, R293). -/
def dropBonds (s : State) (mine : World → Bool) : State :=
  let s := (s.bondWaits.filter (fun w => mine w.ann.world && w.decision.isNone)).foldl (fun s w =>
    let s1 := withdraw s w droppedStatus
    tryDecide { s1 with bondWaits := s1.bondWaits.filter (fun v => v.ann ≠ w.ann) } w.ann) s
  let s := dropAnnounced s mine
  let es := s.bonds.filterMap (fun e => e.2.bind (fun b => if mine b.world then some e.1 else none))
  { s with
    bondWaits := s.bondWaits.filter (fun w => !mine w.ann.world)
    bonds := s.bonds.filter (fun e => match e.2 with
      | some b => !mine b.world
      | none => true)
    locks := s.locks.filter (fun l => match l.owner with
      | .bond e => !es.contains e
      | .cmd _ _ => true) }

/-- Bound trees go without a write of their descriptors (R271, R363). -/
def dropTrees (s : State) (mine : World → Bool) : State :=
  let keep (e : Nat × Option Tree) : Bool := match e.2 with
    | some t => !mine t.world
    | none => true
  let c := s.clusters.map (fun k => (k.1, { k.2 with trees := k.2.trees.filter keep }))
  { s with clusters := c.filter (fun e => e.2 ≠ ClusterState.init) }

/-- Windows go, and with them the packets that were being placed or read through them (R311, R363). -/
def dropWindows (s : State) (mine : World → Bool) : State :=
  let gone (w : BitVec 16) : Bool := (windowAt s w).any (fun x => mine x.world)
  { s with
    windows := s.windows.filter (fun e => match e.2 with
      | some w => !mine w.world
      | none => true)
    rxHeld := s.rxHeld.filter (fun p => !gone p.win)
    pending := s.pending.filter (fun e => match e with
      | .netPlace p _ _ => !gone p.win
      | _ => true) }

/-- Frames of a world. -/
def framesOfWorld (s : State) (w : World) : List Nat :=
  s.owners.filterMap (fun e => if e.2.st = 1 && e.2.world = w then some e.1 else none)

/-- Destruction of a world begins: its channels are disabled, its launches aborted with reason 4, and its threads end as those of an aborted
launch (R363, steps 1 and 2). DEDUCED: triggers that stand in its channels' queues go too, as no launch may start in the world any more
(log 34). -/
def beginDestroy (s : State) (w : World) : State :=
  let mine (c : Channel) : Bool := (funcAt s c.func).world = w || c.world = w
  let s := (allChannels s).foldl (fun s c => if mine c.2 then clearEn (setChan s c.1 { chanAt s c.1 with fifo := [] }) c.1 else s) s
  (s.launches.filter (fun l => l.world = w)).foldl (fun s l => abortLaunch s l.graph 4 0) s

/-- Has a world still threads or launches? -/
def worldLives (s : State) (w : World) : Bool := s.launches.any (fun l => l.world = w) || (allThreads s).any (fun t => isLive t && t.world = w)

/-- The keys of a world are zeroed, and its frames pass through scrubbing; pages of it that are moving go no further (R359, R363). -/
def eraseWorld (s : State) (w : World) : State :=
  let s := cancelMoves { s with keySlots := s.keySlots.filter (fun e => match e.2 with
    | some (v, _) => v ≠ w
    | none => true) } w
  scrub s (framesOfWorld s w) Owner.init

/-- Destruction of a world whose threads have ended: claims, tiles, windows, bond entries and trees are released, keys zeroed, and the frames
pass through scrubbing (R363, steps 3 to 5). -/
def endDestroy (s : State) (w : World) : State :=
  let s := releaseClaims s (fun _ v => v = w)
  eraseWorld (dropTrees (dropBonds (dropWindows s (fun v => v = w)) (fun v => v = w)) (fun v => v = w)) w

/-- The sessions and keys bound to an interface end (R363). -/
def endSessions (s : State) (f : BitVec 6) : State :=
  { setFunc s f { funcAt s f with ide := false } with
    sessions := s.sessions.filter (fun e => e.1 ≠ f), handshakes := s.handshakes.filter (fun e => e.1 ≠ f)
    ideKeys := s.ideKeys.filter (fun e => e.1 ≠ f) }

/-! ### Device interfaces (R361, R362) -/

/-- Is an interface locked or running? -/
def frozen (k : Func) : Bool := k.tdisp = .locked || k.tdisp = .run

/-- An interface leaves CONFIG_LOCKED or RUN: the destruction of its world begins, and its sessions and keys end (R361, R363). One that is
leaving already goes on to the state that it is bound for. -/
def leaveLock (s : State) (f : BitVec 6) (st : Tdisp) : State :=
  let x := funcAt s f
  if x.leaving.isSome then s
  else
    let s := endSessions (beginDestroy s x.world) f
    pend (setFunc s f { funcAt s f with leaving := some st }) (.leaveLock f st)

/-- The destruction goes on once the threads of the world have ended, and only then is the new state set and reported (R363). -/
def leaveLockStep (f : BitVec 6) (st : Tdisp) (s : State) : State :=
  let x := funcAt s f
  if x.leaving.isNone then s
  else if worldLives s x.world then pend s (.leaveLock f st)
  else
    let s := endDestroy s x.world
    send (setFunc s f { funcAt s f with tdisp := st, leaving := none }) (.tdisp f st)

/-- A write to a frozen register is discarded and moves the interface to ERROR (R361, R362). -/
def toError (s : State) (f : BitVec 6) : State := leaveLock s f .error

/-- Does Lintel's runtime answer: in the phases in which an image runs (R351, R353, R369)? -/
def lintelRuns (s : State) : Bool := firmwareRuns s

/-- An answer of Lintel, if it runs. -/
def whenRuns (s : State) (next : State) : Out := .next (if lintelRuns s then next else s)

/-- LOCK_INTERFACE_REQUEST (R361). -/
def execLockInterfaceRequest (f k : BitVec 6) (s : State) : Out :=
  let x := funcAt s f
  let idle := (channelsOf s f).all (fun c => c.2.fifo = [] && c.2.running.isNone)
  whenRuns s (if x.tdisp = .unlocked && s.sessions.contains (f, k) && x.ide && idle then
      send (setFunc s f { x with tdisp := .locked }) (.tdisp f .locked)
    else send s (.spdmError f))

/-- START_INTERFACE_REQUEST (R361). -/
def execStartInterfaceRequest (f : BitVec 6) (s : State) : Out :=
  let x := funcAt s f
  whenRuns s (if x.tdisp = .locked && x.leaving.isNone then send (setFunc s f { x with tdisp := .run }) (.tdisp f .run) else send s (.spdmError f))

/-- STOP_INTERFACE_REQUEST (R361). -/
def execStopInterfaceRequest (f : BitVec 6) (s : State) : Out :=
  let x := funcAt s f
  whenRuns s (if frozen x && x.leaving.isNone then leaveLock s f .unlocked
    else if x.tdisp = .error then send (setFunc s f { x with tdisp := .unlocked }) (.tdisp f .unlocked)
    else send s (.spdmError f))

/-- GET_DEVICE_INTERFACE_STATE (R361). -/
def execGetDeviceInterfaceState (f : BitVec 6) (s : State) : Out := whenRuns s (send s (.tdisp f (funcAt s f).tdisp))

/-- The interface report (R362). How two bytes hold the first vector and the count, and how eight hold the range of the channel block, the
spec does not say: free functions of those values (log 10). -/
def reportBytes (s : State) (f : BitVec 6) : List Byte :=
  let x := funcAt s f
  let mask := BitVec.ofNat 16 ((channelsOf s f).map (fun c => 2 ^ c.1.toNat)).sum
  let keys := (s.keySlots.filter (fun e => match e.2 with
    | some (w, _) => w = x.world
    | none => false)).length
  leBytes 2 f.toNat ++ leBytes 2 x.world.toNat ++ leBytes 2 mask.toNat ++ leBytes 2 (Config.vectorField x.vecFirst x.vecCount).toNat ++
    leBytes 8 (Config.blockField mask).toNat ++ leBytes 8 (field x.apbase 36 9 * 2 ^ 36) ++ leBytes 8 (2 ^ 36) ++
    leBytes 48 (s.measurements[1]).toNat ++ leBytes 4 s.svn.toNat ++ leBytes 4 keys

/-- GET_DEVICE_INTERFACE_REPORT (R362). -/
def execGetDeviceInterfaceReport (f : BitVec 6) (s : State) : Out :=
  whenRuns s (send s (.report f (BitVec.ofNat 768 (ofLe (reportBytes s f)))))

/-- IDE_STREAM_FAILURE (R361). -/
def execIdeStreamFailure (f : BitVec 6) (s : State) : Out :=
  let x := funcAt s f
  whenRuns s (if frozen x then toError s f else setFunc s f { x with ide := false })

/-- BAR_ADDRESS_CHANGE (R361, R362). -/
def execBarAddressChange (f : BitVec 6) (s : State) : Out := whenRuns s (if frozen (funcAt s f) then toError s f else s)

/-! ### Attestation (R354, R355) -/

/-- An SPDM answer, whose bytes are free (log 6). -/
def spdmReply (s : State) (f : BitVec 6) (kind : Nat) : State := send s (.spdm f kind (Config.spdmAnswer s.clock))

/-- SPDM_VERSION (R355). -/
def execSpdmVersion (f : BitVec 6) (s : State) : Out := whenRuns s (spdmReply s f 0)
/-- SPDM_CAPABILITIES (R355). -/
def execSpdmCapabilities (f : BitVec 6) (s : State) : Out := whenRuns s (spdmReply s f 1)
/-- SPDM_ALGORITHMS (R355). -/
def execSpdmAlgorithms (f : BitVec 6) (s : State) : Out := whenRuns s (spdmReply s f 2)
/-- SPDM_DIGESTS (R355). -/
def execSpdmDigests (f : BitVec 6) (s : State) : Out := whenRuns s (spdmReply s f 3)
/-- SPDM_CERTIFICATE (R355): slot 0 only. -/
def execSpdmCertificate (f : BitVec 6) (slot : BitVec 3) (s : State) : Out :=
  whenRuns s (if slot = 0 then spdmReply s f 4 else send s (.spdmError f))
/-- SPDM_CHALLENGE (R355): slot 0 only. -/
def execSpdmChallenge (f : BitVec 6) (slot : BitVec 3) (s : State) : Out :=
  whenRuns s (if slot = 0 then spdmReply s f 5 else send s (.spdmError f))
/-- SPDM_MEASUREMENTS (R354): the four measurements. -/
def execSpdmMeasurements (f : BitVec 6) (s : State) : Out := whenRuns s (send s (.measure f s.measurements.toList))

/-- The lowest session number not in use. -/
def freeSession (s : State) : Option (BitVec 6) :=
  let used := (s.sessions ++ s.handshakes).map (·.2)
  ((upFrom 0 64).map (BitVec.ofNat 6)).find? (fun k => !used.contains k)

/-- SPDM_KEY_EXCHANGE (R355): 64 sessions at most. -/
def execSpdmKeyExchange (f : BitVec 6) (s : State) : Out :=
  whenRuns s (match freeSession s with
    | some k => spdmReply { s with handshakes := s.handshakes ++ [(f, k)] } f 6
    | none => send s (.spdmError f))
/-- SPDM_FINISH (R355). -/
def execSpdmFinish (f k : BitVec 6) (s : State) : Out :=
  whenRuns s (if s.handshakes.contains (f, k) then
      spdmReply { s with handshakes := s.handshakes.erase (f, k), sessions := s.sessions ++ [(f, k)] } f 7
    else send s (.spdmError f))

/-- A request within a session. -/
def inSession (s : State) (f k : BitVec 6) (next : State) : Out :=
  whenRuns s (if s.sessions.contains (f, k) then next else send s (.spdmError f))

/-- SPDM_HEARTBEAT (R355). -/
def execSpdmHeartbeat (f k : BitVec 6) (s : State) : Out := inSession s f k (spdmReply s f 8)
/-- SPDM_KEY_UPDATE (R355). -/
def execSpdmKeyUpdate (f k : BitVec 6) (s : State) : Out := inSession s f k (spdmReply s f 9)
/-- SPDM_END_SESSION (R355). -/
def execSpdmEndSession (f k : BitVec 6) (s : State) : Out := inSession s f k (spdmReply { s with sessions := s.sessions.erase (f, k) } f 10)

/-- IDE_KM (R355): the function's one stream has its key and is active. -/
def execIdeKm (f k : BitVec 6) (key : BitVec 256) (s : State) : Out :=
  inSession s f k (spdmReply { setFunc s f { funcAt s f with ide := true } with
    ideKeys := (f, key) :: s.ideKeys.filter (fun e => e.1 ≠ f) } f 11)

/-- PROTECTED_KEY_INSTALL (R357): into an empty slot, for the interface's protected world. -/
def execProtectedKeyInstall (f k : BitVec 6) (id : BitVec 13) (key : BitVec 512) (s : State) : Out :=
  let w := (funcAt s f).world
  inSession s f k (if worldProtected s w && (sget none s.keySlots id.toNat).isNone then
      spdmReply { s with keySlots := sset none s.keySlots id.toNat (some (w, key)) } f 12
    else send s (.spdmError f))

/-! ### Launch channel control (R320) -/

/-- A write that `CHCTL` ignores whole (R320). -/
def chctlBad (v : Word) : Bool :=
  field v 48 16 ≠ 0 || field v 5 4 = 0 || 8 < field v 5 4 || field v 9 6 < 20 || 40 < field v 9 6 || field v 15 6 < 16 || 36 < field v 15 6

/-- CHCTL (R320, R361, R362). While the interface leaves its locked states, a write is discarded, so that no launch begins in the world that
is being destroyed (R363, log 34). In the fatal phase nothing acts on it (R375). -/
def execChctl (c : BitVec 4) (v : Word) (s : State) : Out :=
  let k := chanAt s c
  let x := funcAt s k.func
  if s.phase = 4 || x.tdisp = .error || (frozen x && x.leaving.isSome) then .next s
  else if chctlBad v then .next (setChan s c { k with badw := true })
  else if frozen x && (bit v 1 ≠ k.devl || bits v 32 16 ≠ k.world) then .next (toError s k.func)
  else
    let s1 := setChan s c { k with en := bit v 0, devl := bit v 1, pmax := bits v 2 3, wt := bits v 5 4, wdk := bits v 9 6
                                   progthr := bits v 15 6, vec := bits v 21 11, world := bits v 32 16 }
    .next (if bit v 0 then s1 else clearEn s1 c)

end Sys2Proof.Machine
end

