-- ==== Sys2Proof/Machine/Rings.lean ====
section
/-! DEFINITION. The MMP's request ring and its operations (R365, R367, R368). -/

namespace Sys2Proof.Machine

open Sys2Proof

/-! ### Operations (R368) -/

/-- Request 0x05: install mesh (R274), with the map that DMA has read. -/
def ringMesh (e : BitVec 512) (map : MeshMap) (s : State) : Ring :=
  let w : World := BitVec.ofNat 16 (arg e 8 2)
  let a := arg e 10 1 + 1
  let sizes := (upFrom 0 a).map (fun i => arg e (11 + i) 1 + 1)
  let coords := (upFrom 0 a).map (fun i => arg e (15 + i) 1)
  let m : Mesh := { sizes := sizes, coords := coords, map := map.take (sizes.foldl (· * ·) 1) }
  let unused := (upFrom a (4 - a)).all (fun i => arg e (11 + i) 1 = 0 && arg e (15 + i) 1 = 0)
  if !restZero e [(8, 11), (24, 8)] || 4 < a || !unused || 4096 < meshSize m || (sizes.zip coords).any (fun x => x.1 ≤ x.2) ||
      map.length ≠ 4096 || deviceAt m (ownCoord m) ≠ s.dev then (s, 1)
  else if s.launches.any (fun l => l.world = w) || s.bonds.any (fun b => b.2.any (fun b => b.world = w)) then (s, 2)
  else ({ s with meshes := sset none s.meshes w.toNat (some m) }, 0)

/-- Has a connection carried packets of a Job ID (R368 0x06)? -/
def jobLive (s : State) (j : BitVec 24) : Bool := s.conns.any (fun k => k.jobs.contains j) || s.rxConns.any (fun k => k.jobs.contains j)

/-- Request 0x06: job table entry (R298). -/
def ringJob (e : BitVec 512) (s : State) : Ring :=
  let j := arg e 8 4
  if !restZero e [(8, 7)] || 2 ^ 24 ≤ j || 1 < arg e 14 1 then (s, 1)
  else if jobLive s (BitVec.ofNat 24 j) then (s, 2)
  else if arg e 14 1 = 0 then ({ s with jobs := sset none s.jobs j none }, 0)
  else if (sget none s.jobs j).isNone && 4096 ≤ s.jobs.length then (s, 3)
  else ({ s with jobs := sset none s.jobs j (some (BitVec.ofNat 16 (arg e 12 2))) }, 0)

/-- Request 0x07: peer map entry (R294). -/
def ringPeer (e : BitVec 512) (s : State) : Ring :=
  let d := arg e 8 2
  let x := BitVec.ofNat 8 (arg e 10 1)
  if !restZero e [(8, 3)] || 4096 ≤ d || 8 ≤ arg e 10 1 then (s, 1)
  else if s.conns.any (fun k => k.dst.toNat = d) || s.rxConns.any (fun k => k.src.toNat = d) then (s, 2)
  else ({ s with peers := sset none s.peers d (some { lomkin := bit x 0, netCc := bit x 1, rxCc := bit x 2 }) }, 0)

/-- Request 0x08: network parameters (R294, R297). -/
def ringNet (e : BitVec 512) (s : State) : Ring :=
  let t := arg e 8 1
  if !restZero e [(8, 1), (10, 2)] || t < 20 || 34 < t then (s, 1)
  else if s.cmds.any (fun c => c.net.isSome && c.fin.isNone) then (s, 2)
  else ({ s with netTimeout := BitVec.ofNat 8 t, pfc := BitVec.ofNat 16 (arg e 10 2) }, 0)

/-- Request 0x09: bind function to world (R356); that of a locked interface moves it to ERROR besides (R362). -/
def ringBind (e : BitVec 512) (s : State) : Ring :=
  let f : BitVec 6 := BitVec.ofNat 6 (arg e 8 1)
  if !restZero e [(8, 1), (10, 2)] || 64 ≤ arg e 8 1 || arg e 10 2 = 0 then (s, 1)
  else if frozen (funcAt s f) then (toError s f, 2)
  else if (funcAt s f).tdisp ≠ .unlocked then (s, 2)
  else (setFunc s f { funcAt s f with world := BitVec.ofNat 16 (arg e 10 2) }, 0)

/-- Request 0x0A: assign channel (R320, R361); that of a locked interface, or to one, moves it to ERROR besides (R362). -/
def ringChannel (e : BitVec 512) (s : State) : Ring :=
  let c : BitVec 4 := BitVec.ofNat 4 (arg e 8 1)
  let f : BitVec 6 := BitVec.ofNat 6 (arg e 9 1)
  let k := chanAt s c
  if !restZero e [(8, 2)] || 16 ≤ arg e 8 1 || 64 ≤ arg e 9 1 then (s, 1)
  else if frozen (funcAt s k.func) || frozen (funcAt s f) then
    (([k.func, f].eraseDups).foldl (fun s g => if frozen (funcAt s g) then toError s g else s) s, 2)
  else if k.running.isSome || k.fifo ≠ [] || (funcAt s k.func).tdisp ≠ .unlocked || (funcAt s f).tdisp ≠ .unlocked then (s, 2)
  else (setChan s c { k with func := f }, 0)

/-- Request 0x0B: assign MSI-X vectors (R365). -/
def ringVectors (e : BitVec 512) (s : State) : Ring :=
  let f : BitVec 6 := BitVec.ofNat 6 (arg e 8 1)
  let a := arg e 10 2
  let n := arg e 12 2
  let meets := (allFuncs s).any (fun x => x.1 ≠ f && 0 < n && 0 < x.2.vecCount && a < x.2.vecFirst + x.2.vecCount && x.2.vecFirst < a + n)
  if !restZero e [(8, 1), (10, 4)] || 64 ≤ arg e 8 1 || 2048 < a + n then (s, 1)
  else if (funcAt s f).tdisp ≠ .unlocked || meets then (s, 2)
  else (setFunc s f { funcAt s f with vecFirst := a, vecCount := n }, 0)

/-- Request 0x0C: install key (R357), with the keys that DMA has read. -/
def ringKey (e : BitVec 512) (keys : BitVec 512) (s : State) : Ring :=
  let k := arg e 8 2
  let w : World := BitVec.ofNat 16 (arg e 10 2)
  if !restZero e [(8, 4), (16, 8)] || 8192 ≤ k then (s, 1)
  else if worldProtected s w || (sget none s.keySlots k).isSome then (s, 2)
  else ({ s with keySlots := sset none s.keySlots k (some (w, keys)) }, 0)

/-- Does a page of a world name a key (R368 0x0D)? -/
def keyNamed (s : State) (w : World) (k : BitVec 13) : Bool :=
  (allEntries s).any (fun e => bit e.entry 0 && leafKey e.entry = some k && asidWorld s e.asid = some w)

/-- Request 0x0D: remove key (R357). -/
def ringUnkey (e : BitVec 512) (s : State) : Ring :=
  let k := arg e 8 2
  if !restZero e [(8, 2)] || 8192 ≤ k then (s, 1)
  else
    match sget none s.keySlots k with
    | none => (s, 0)
    | some (w, _) =>
      if worldProtected s w || keyNamed s w (BitVec.ofNat 13 k) then (s, 2) else ({ s with keySlots := sset none s.keySlots k none }, 0)

/-! ### The rings (R365, R367) -/

/-- Byte address in the request ring of the entry that is served next. -/
def nextEntry (s : State) : Nat := s.mrqTail.toNat % 256 * 64
/-- That entry. -/
def entryNow (s : State) : BitVec 512 := BitVec.ofNat 512 (ofLe (rdMem s.ringMem (nextEntry s) 64))
/-- Is some entry still to be served? -/
def ringWaits (s : State) : Bool := s.mrqHead ≠ s.mrqTail

/-- An entry without its status byte. -/
def noStatus (e : BitVec 512) : BitVec 512 := e &&& ~~~0xFF00

/-- A request has been served: its status stands in its entry, and the tail advances; one that the host's ring does not hold
is answered all the same. -/
def ringDone (e : BitVec 512) (r : Ring) : State :=
  let s := send r.1 (.ring (BitVec.ofNat 8 (arg e 0 1)) (BitVec.ofNat 8 r.2))
  if ringWaits s && noStatus (entryNow s) = noStatus e then
    let s1 := { s with ringMem := wrMem s.ringMem (nextEntry s + 1) (leBytes 1 r.2), mrqTail := s.mrqTail + 1 }
    if ringWaits s1 then pendOnce s1 .serveRing else s1
  else s

/-- A request at the MMP, where firmware runs (R369). -/
def ringRow (e : BitVec 512) (op : BitVec 512 → State → Ring) (s : State) : Out :=
  .next (if lintelRuns s then ringDone e (op e s) else s)

/-- SET_ADDRESS_SPACE_ENTRY. -/
def execSetAddressSpaceEntry (e : BitVec 512) (s : State) : Out := ringRow e ringAsid s
/-- MAP_RANGE. -/
def execMapRange (e : BitVec 512) (s : State) : Out := ringRow e ringMap s
/-- UNMAP_RANGE. -/
def execUnmapRange (e : BitVec 512) (s : State) : Out := ringRow e ringUnmap s
/-- HOST_PAGE_WRITTEN. -/
def execHostPageWritten (e : BitVec 512) (s : State) : Out := ringRow e ringWritten s
/-- INSTALL_MESH. -/
def execInstallMesh (e : BitVec 512) (map : MeshMap) (s : State) : Out := ringRow e (fun e => ringMesh e map) s
/-- JOB_TABLE_ENTRY. -/
def execJobTableEntry (e : BitVec 512) (s : State) : Out := ringRow e ringJob s
/-- PEER_MAP_ENTRY. -/
def execPeerMapEntry (e : BitVec 512) (s : State) : Out := ringRow e ringPeer s
/-- NETWORK_PARAMETERS. -/
def execNetworkParameters (e : BitVec 512) (s : State) : Out := ringRow e ringNet s
/-- BIND_FUNCTION_TO_WORLD. -/
def execBindFunctionToWorld (e : BitVec 512) (s : State) : Out := ringRow e ringBind s
/-- ASSIGN_CHANNEL. -/
def execAssignChannel (e : BitVec 512) (s : State) : Out := ringRow e ringChannel s
/-- ASSIGN_MSIX_VECTORS. -/
def execAssignMsixVectors (e : BitVec 512) (s : State) : Out := ringRow e ringVectors s
/-- INSTALL_KEY. -/
def execInstallKey (e keys : BitVec 512) (s : State) : Out := ringRow e (fun e => ringKey e keys) s
/-- REMOVE_KEY. -/
def execRemoveKey (e : BitVec 512) (s : State) : Out := ringRow e ringUnkey s
/-- UNKNOWN_OPERATION: status 4. -/
def execUnknownOperation (e : BitVec 512) (s : State) : Out := ringRow e (fun _ s => (s, 4)) s

/-- The operation of an entry, where the entry alone says it all; not of the two whose data come by DMA. -/
def ringOp (op : Nat) : Option (BitVec 512 → State → Ring) :=
  match op with
  | 0x01 => some ringAsid
  | 0x02 => some ringMap
  | 0x03 => some ringUnmap
  | 0x04 => some ringWritten
  | 0x05 => none
  | 0x06 => some ringJob
  | 0x07 => some ringPeer
  | 0x08 => some ringNet
  | 0x09 => some ringBind
  | 0x0A => some ringChannel
  | 0x0B => some ringVectors
  | 0x0C => none
  | 0x0D => some ringUnkey
  | _ => some (fun _ s => (s, 4))

/-- The MMP serves the entry at the tail of its ring. One whose data come by DMA waits for the row that carries them. -/
def serveRingStep (s : State) : State :=
  if lintelRuns s && ringWaits s then
    let e := entryNow s
    match ringOp (arg e 0 1) with
    | some op => ringDone e (op e s)
    | none => s
  else s

end Sys2Proof.Machine
end

