-- ==== Sys2Proof/Machine/Host.lean ====
section
/-! DEFINITION. The host: the BAR2 aperture onto memory and graph memory, and the registers of BAR0
(R221, R316, R320, R360, R362, R365 to R367). -/

namespace Sys2Proof.Machine

open Sys2Proof

/-! ### Graph memory (R316, R360) -/

/-- Is a graph entry valid, so that its node run and its successor entries are a graph's? -/
def graphsValid (s : State) : List (BitVec 8) := ((upFrom 0 256).map (BitVec.ofNat 8)).filter (graphValid s)

/-- Does an interval meet another; one without bytes meets none? -/
def meetsAt (a n lo len : Nat) : Bool := 0 < n && 0 < len && a < lo + len && lo < a + n

/-- Does an access meet the graph's entry, its nodes or its successor entries? -/
def touchesGraph (s : State) (g : BitVec 8) (a n : Nat) : Bool :=
  meetsAt a n (graphAt g) 64 ||
    (graphValid s g &&
      (meetsAt a n (nodeAt s g 0) (96 * nodeCount s g) ||
        (upFrom 0 (nodeCount s g)).any (fun i =>
          meetsAt a n (0x604000 + 2 * gRd s (nodeAt s g i + 28) 4) (2 * gRd s (nodeAt s g i + 26) 2))))

/-- The valid graphs that an access meets. -/
def graphsMet (s : State) (a n : Nat) : List (BitVec 8) := (graphsValid s).filter (fun g => touchesGraph s g a n)

/-- Bytes of the graph table that no host writes: status words and fatal records (R317, R318). -/
def graphReadOnly (a : Nat) : Bool :=
  let o := a % 64
  a < 0x4000 && ((24 ≤ o && o < 37) || (40 ≤ o && o < 56))

/-- A write of graph memory by the host: one that meets a running graph is discarded and sets its `WRUN` (R316); so is one that
would make a valid graph of a world other than the function's (R360). -/
def writeGraph (s : State) (w : World) (a : Nat) (b : List Byte) : State × Bool :=
  let met := graphsMet s a b.length
  let running := met.filter (fun g => (launchOf s g).isSome)
  let kept := b.zipIdx.map (fun e => if graphReadOnly (a + e.2) then sget 0 s.gmem (a + e.2) else e.1)
  let s1 := { s with gmem := wrMem s.gmem a kept }
  if met.any (fun g => graphWorld s g ≠ w) then (s, false)
  else if running ≠ [] then (running.foldl (fun s g => setStatus s g (graphStatus s g ||| 0x20000000)) s, true)
  else if (graphsMet s1 a b.length).any (fun g => meetsAt a b.length (graphAt g) 64 && graphWorld s1 g ≠ w) then (s, false)
  else (s1, true)

/-! ### The aperture (R221, R360, R367) -/

/-- A host access that is denied stands in the error log (R374). -/
def logDenied (s : State) (f : BitVec 6) (a : Nat) : State := logError s 6 (funcAt s f).world 0 (word a) 0

/-- Local physical address of an aperture offset. -/
def apertureAt (s : State) (f : BitVec 6) (off : Nat) : Nat := field (funcAt s f).apbase 36 9 * 2 ^ 36 + off
/-- Does the aperture show graph memory? -/
def showsGraphs (s : State) (f : BitVec 6) : Bool := bit (funcAt s f).apbase 0

/-- May a function reach a byte of memory: its frame is its world's, outside device-reserved memory, and in reduced service not
of HBM (R360, R370)? -/
def hostReaches (s : State) (f : BitVec 6) (a : Nat) : Bool :=
  assigned s a && !reserved s a && ownsFrame s (funcAt s f).world false (a / 65536) && !(s.phase = 2 && (hbmDie s a).isSome)

/-- Bytes as the host reads them, in aligned pieces, each through the buffers of the memory cores (R69, R223): ones where it may not reach. A
host access has no page entry that names a key: DESIGN CHOICE, it goes under none (log 47). -/
def hostRead (s : State) (f : BitVec 6) (a n : Nat) : State × List Byte :=
  (chunks .r a n 0).foldl (fun (r : State × List Byte) c =>
    if hostReaches r.1 f c.va then
      let (s, b) := rdPiece r.1 { addr := c.va, va := 0, len := c.len, off := 0, key := none }
      (s, r.2 ++ b)
    else (r.1, r.2 ++ List.replicate c.len 0xFF)) (s, [])

/-- In phases 0 and 1 the aperture shows the staging region (R351, R367). -/
def showsStaging (s : State) : Bool := s.phase = 0 || s.phase = 1

/-- HOST_BAR2_READ (R360): what it may not read, and what is not there, reads as ones. -/
def execHostBar2Read (f : BitVec 6) (off : BitVec 36) (n : Nat) (s : State) : Out :=
  let o := off.toNat
  if showsStaging s then
    .next (send s (.bar2 ((upFrom o n).map (fun i => if i < 2 ^ 28 then rdByte s (stagingBase s + i) else 0xFF))))
  else if s.phase = 4 then .next (send s (.bar2 (List.replicate n 0xFF)))
  else if showsGraphs s f then
    let ok (i : Nat) : Bool := i < 2 ^ 23 && (graphsMet s i 1).all (fun g => graphWorld s g = (funcAt s f).world)
    let s1 := if (upFrom o n).any (fun i => i < 2 ^ 23 && !ok i) then logDenied s f o else s
    .next (send s1 (.bar2 ((upFrom o n).map (fun i => if ok i then sget 0 s.gmem i else 0xFF))))
  else
    let a := apertureAt s f o
    let s1 := if (upFrom a n).any (fun a => !hostReaches s f a) then logDenied s f a else s
    let (s2, b) := hostRead s1 f a n
    .next (send s2 (.bar2 b))

/-- Is a frame that a live lock's command has translated among those written (R221)? -/
def hostWaits (s : State) (f : BitVec 6) (off n : Nat) : Bool :=
  s.locks.any (fun l => l.frames.any (fun fr => meetsAt (apertureAt s f off) n (65536 * fr) 65536))

/-- Bytes written by the host, each where it may reach, under no key (DESIGN CHOICE, log 47). -/
def hostWrite (s : State) (f : BitVec 6) : Nat → List Byte → State
  | _, [] => s
  | a, b :: r =>
    let s1 := if hostReaches s f a then wrPiece s { addr := a, va := 0, len := 1, off := 0, key := none } [b] else s
    hostWrite s1 f (a + 1) r

/-- HOST_BAR2_WRITE (R221, R360): a write to a frame that a live range lock records waits; what may not be written is
discarded. -/
def execHostBar2Write (f : BitVec 6) (off : BitVec 36) (data : Bytes) (s : State) : Out :=
  let o := off.toNat
  if showsStaging s then
    .next { s with mem := wrMem s.mem (stagingBase s + o) (data.take (2 ^ 28 - o)) }
  else if s.phase = 4 then .next s
  else if showsGraphs s f then
    if 2 ^ 23 < o + data.length then .next s
    else
      match writeGraph s (funcAt s f).world o data with
      | (s1, true) => .next s1
      | (s1, false) => .next (logDenied s1 f o)
  else if hostWaits s f o data.length then .next (pend s (.bar2Write f off data))
  else
    let a := apertureAt s f o
    let s1 := if (upFrom a data.length).any (fun x => !hostReaches s f x) then logDenied s f a else s
    .next (hostWrite s1 f a data)

/-! ### Registers (R320, R362, R365 to R367) -/

/-- APBASE (R367): frozen while the interface is locked; in the fatal phase nothing acts on it (R375). -/
def execApbase (f : BitVec 6) (v : Word) (s : State) : Out :=
  let x := funcAt s f
  if s.phase = 4 || x.tdisp = .error then .next s
  else if frozen x then .next (toError s f)
  else if field v 1 35 ≠ 0 || field v 45 19 ≠ 0 then .next s
  else .next (setFunc s f { x with apbase := v })

/-- Write of a device register (R366): those that are RO, and values with a reserved bit, are discarded. -/
def deviceWrite (s : State) (off : Nat) (v : Word) : State :=
  if off = 0x28 then (if field v 0 12 = 0 then { s with dumpBase := v } else s)
  else if off = 0x30 then (if field v 0 12 = 0 && field v 32 32 = 0 then { s with dumpLen := bits v 12 20 } else s)
  else if off = 0x40 then (if field v 32 32 = 0 then { s with elTail := bits v 0 32 } else s)
  else if off = 0x48 then
    (if field v 12 20 = 0 then { s with elVec := bits v 0 11, elEn := bit v 11, elLost := s.elLost &&& ~~~bits v 32 32 } else s)
  else s

/-- Write of a channel register (R320), by the function that the channel is assigned to. -/
def channelWrite (s : State) (f : BitVec 6) (off : Nat) (v : Word) : Out :=
  let c : BitVec 4 := BitVec.ofNat 4 (off / 64)
  let k := chanAt s c
  if k.func ≠ f then .next s
  else if off % 64 = 0 then execChtrig c v s
  else if off % 64 = 8 then execChctl c v s
  else if off % 64 = 16 then
    .next (setChan s c { k with drop := k.drop && !bit v 5, ended := k.ended && !bit v 6, badw := k.badw && !bit v 7 })
  else .next s

/-- Write of an MSI-X table entry (R362, R365). -/
def msixWrite (s : State) (f : BitVec 6) (off : Nat) (v : Word) : State :=
  let x := funcAt s f
  let i := off / 16
  if !(x.vecFirst ≤ i && i < x.vecFirst + x.vecCount) then s
  else if frozen x then toError s f
  else { s with msixMem := wrMem s.msixMem off (leBytes 8 v.toNat) }

/-- Write of a ring pointer: the host advances `MRQHEAD` and `MEVTAIL`, the MMP the others (R365, R367). -/
def pointerWrite (s : State) (off : Nat) (v : Word) : State :=
  if off = 0x38000 then pendOnce { s with mrqHead := v } .serveRing
  else if off = 0x38018 then { s with mevTail := v }
  else s

/-- REGISTER_WRITE (R365, R366): 8 bytes of BAR0. What is not listed, what is not the function's, the writes of a function in
ERROR, and those of the fatal phase, in which nothing runs that would act on them (R375), are discarded. -/
def execRegisterWrite (f : BitVec 6) (off : BitVec 26) (v : Word) (s : State) : Out :=
  let o := off.toNat
  if s.phase = 4 || (funcAt s f).tdisp = .error || o % 8 ≠ 0 then .next s
  else if 0x10000 ≤ o && o < 0x10400 then channelWrite s f (o - 0x10000) v
  else if o = 0x20000 then execApbase f v s
  else if 0x60000 ≤ o && o < 0x68000 then .next (msixWrite s f (o - 0x60000) v)
  else if f ≠ 0 then .next s
  else if o < 0x50 then .next (deviceWrite s o v)
  else if 0x30000 ≤ o && o < 0x38000 then .next { s with ringMem := wrMem s.ringMem (o - 0x30000) (leBytes 8 v.toNat) }
  else .next (pointerWrite s o v)

/-! ### What a read of BAR0 answers (R320, R361, R365 to R367, R374) -/

/-- A device register as it reads (R366). -/
def deviceRead (s : State) (off : Nat) : Word :=
  match off with
  | 0x00 => word (s.phase.toNat + 2 ^ 8 * s.rcause.toNat + 2 ^ 16 * s.dumpSt.toNat + 2 ^ 24 * s.fcause.toNat)
  | 0x08 => bits s.capcl 0 64
  | 0x10 => bits s.capcl 64 64
  | 0x18 => zext64 s.capst
  | 0x20 => zext64 s.capport
  | 0x28 => s.dumpBase
  | 0x30 => word (s.dumpLen.toNat * 4096)
  | 0x38 => zext64 s.elHead
  | 0x40 => zext64 s.elTail
  | 0x48 => word (s.elVec.toNat + (if s.elEn then 2 ^ 11 else 0) + 2 ^ 32 * s.elLost.toNat)
  | _ => 0

/-- `CHCTL` as it reads (R320). -/
def chctlWord (k : Channel) : Word :=
  word ((if k.en then 1 else 0) + (if k.devl then 2 else 0) + 2 ^ 2 * k.pmax.toNat + 2 ^ 5 * k.wt.toNat + 2 ^ 9 * k.wdk.toNat +
    2 ^ 15 * k.progthr.toNat + 2 ^ 21 * k.vec.toNat + 2 ^ 32 * k.world.toNat)
/-- `CHSTAT` as it reads (R320). -/
def chstatWord (k : Channel) : Word :=
  word (k.fifo.length + (if k.drop then 2 ^ 5 else 0) + (if k.ended then 2 ^ 6 else 0) + (if k.badw then 2 ^ 7 else 0) +
    2 ^ 8 * k.lgraph.toNat + 2 ^ 16 * k.err.toNat)

/-- A channel register as a function reads it: zero of a channel that is not its own; `CHTRIG` is written only (R320, R365). -/
def channelRead (s : State) (f : BitVec 6) (off : Nat) : Word :=
  let k := chanAt s (BitVec.ofNat 4 (off / 64))
  if k.func ≠ f then 0
  else if off % 64 = 8 then chctlWord k
  else if off % 64 = 16 then chstatWord k
  else 0

/-- The 32 bytes of an entry of the error log (R374). -/
def logBytes (e : Option LogEntry) : List Byte :=
  match e with
  | none => List.replicate 32 0
  | some e => leBytes 2 e.kind.toNat ++ leBytes 2 e.world.toNat ++ leBytes 4 e.detail.toNat ++ leBytes 8 e.addr.toNat ++
      leBytes 8 e.seq.toNat ++ leBytes 8 e.time

/-- Is a vector assigned to a function (R365)? -/
def ownVector (s : State) (f : BitVec 6) (i : Nat) : Bool := (funcAt s f).vecFirst ≤ i && i < (funcAt s f).vecFirst + (funcAt s f).vecCount

/-- The pending bits of 64 vectors, those of a function's own (R365). -/
def pendingBits (s : State) (f : BitVec 6) (i0 : Nat) : Word :=
  word (((upFrom 0 64).map (fun i =>
    if ownVector s f (i0 + i) && s.msixPending.contains (BitVec.ofNat 11 (i0 + i)) then 2 ^ i else 0)).sum)

/-- What a read of 8 bytes of BAR0 answers: all ones to a function in ERROR, zero for what is not listed or not the function's (R361, R365). The
table of operations has no row of a register read, which changes nothing; this is what one returns. -/
def registerRead (s : State) (f : BitVec 6) (off : BitVec 26) : Word :=
  let o := off.toNat
  if (funcAt s f).tdisp = .error then BitVec.allOnes 64
  else if o % 8 ≠ 0 then 0
  else if o < 0x50 then deviceRead s o
  else if 0x10000 ≤ o && o < 0x10400 then channelRead s f (o - 0x10000)
  else if o = 0x20000 then (funcAt s f).apbase
  else if 0x60000 ≤ o && o < 0x68000 then
    (if ownVector s f ((o - 0x60000) / 16) then word (ofLe (rdMem s.msixMem (o - 0x60000) 8)) else 0)
  else if 0x68000 ≤ o && o < 0x68100 then pendingBits s f (8 * (o - 0x68000))
  else if f ≠ 0 then 0
  else if 0x30000 ≤ o && o < 0x38000 then word (ofLe (rdMem s.ringMem (o - 0x30000) 8))
  else if o = 0x38000 then s.mrqHead
  else if o = 0x38008 then s.mrqTail
  else if o = 0x38010 then s.mevHead
  else if o = 0x38018 then s.mevTail
  else if 0x40000 ≤ o && o < 0x60000 then
    word (ofLe (slice (logBytes (sget none s.errLog ((o - 0x40000) / 32))) ((o - 0x40000) % 32) 8))
  else 0

end Sys2Proof.Machine
end

