-- ==== Sys2Proof/Machine/Reset.lean ====
section
/-! DEFINITION. Bring-up, firmware, resets, soft errors and fatal errors (R293, R311, R351 to R354, R364, R369 to R377). -/

namespace Sys2Proof.Machine

open Sys2Proof

/-! ### Resets (R271, R293, R311, R364) -/

/-- Events that a reset leaves: invalidations under way, writes and atomics that have left their sender (log 16), and what the bond engines
tell their peers of it (R293). -/
def survivesReset : Event → Bool
  | .invalidationAtAgent _ _ _ | .writeRequest _ | .amoAtHome _ | .memoryLanding _ | .tlbMissWalk _ _ _ | .serveRing
  | .phase3Entry | .bondSend _ (.withdraw _) | .bondSend _ (.decide ..) => true
  | _ => false

/-- Every launch ends aborted with reason 4: the status is written, nothing is signalled (R364). -/
def resetLaunches (s : State) : State :=
  let s := s.launches.foldl (fun s l =>
    let w := graphStatus s l.graph
    let s := setStatus s l.graph ((bits w 32 32 ++ bits w 28 4 ++ 0#16 ++ 4#8 ++ 3#4).cast (by decide))
    match l.chan with
    | some c => setChan s c { chanAt s c with ended := true, lgraph := l.graph }
    | none => s) s
  let s := (allChannels s).foldl (fun s c => setChan s c.1 { chanAt s c.1 with en := false, fifo := [], running := none }) s
  { s with launches := [], queue := [] }

/-- Every thread is ended: its record dropped, its directory entry Free; and what the cores and clusters hold for threads
goes (R364). -/
def resetThreads (s : State) : State :=
  let s := (allThreads s).foldl (fun s t => if isLive t then setDir s (hIndex t.handle) { dirOf s (hIndex t.handle) with state := 0 } else s) s
  let core (k : CoreState) : CoreState := { k with mortar := [], fwd := [], outst := 0, tileOwner := none }
  let cluster (k : ClusterState) : ClusterState := { k with waiters := [], queue := [] }
  { s with
    th := Thread.none, rest := [], teams := []
    cores := (s.cores.map (fun e => (e.1, core e.2))).filter (fun e => e.2 ≠ CoreState.init)
    clusters := (s.clusters.map (fun e => (e.1, cluster e.2))).filter (fun e => e.2 ≠ ClusterState.init)
    pageFaults := (s.pageFaults.map (fun f => { f with threads := [], launches := [], gruns := [] })).filter (fun f => f.tag.isSome) }

/-- A network command that is outstanding completes with `ST` 8: its tag is free again, unless its end was decided already, and its completion
landing, whose thread has gone, is refused with subcode 1 and stands in the error log (R119, R297, R311). -/
def lostCommand (s : State) (c : Command) : State :=
  match c.net with
  | none => s
  | some n =>
    let s := if c.fin.isNone then freeTag s n else s
    if n.d = 0 then s else logError s 1 c.world 1 (regLa s.dev c.handle (.s n.d)) (zext64 (cmdSeq c.seq))

/-- Engine commands are cancelled with no completion landing; locks, landings on their way and claims go (R364). -/
def resetEngines (s : State) : State :=
  let s := s.cmds.foldl lostCommand s
  releaseClaims { s with cmds := [], locks := [], copies := [], heldBack := [], pending := s.pending.filter survivesReset } (fun _ _ => true)

/-- The network engines lose connections, associations, the job table and every window (R311). -/
def resetNetwork (s : State) : State :=
  { s with windows := [], conns := [], rxConns := [], rxHeld := [], rxLandings := [], paths := [], secAssocs := [], jobs := [] }

/-- Every interface is unlocked, and its link sessions are gone (R364). -/
def resetInterfaces (s : State) : State :=
  { s with funcs := smap Func.init (fun f => { f with tdisp := .unlocked, ide := false, leaving := none }) s.funcs
           sessions := [], handshakes := [], ideKeys := [] }

/-- Keys of protected worlds are zeroed and their frames go through scrubbing (R363, R364). -/
def resetWorlds (s : State) (ws : List World) : State := ws.foldl eraseWorld s

/-- Invalidations go on for the frames and pages that they concern; nobody waits for the answer of a TLBI (R364). -/
def resetShootdowns (s : State) : State :=
  { s with shootdowns := s.shootdowns.map (fun d => match d.job with
      | .tlbi _ _ => { d with job := .scrub [] Owner.init }
      | _ => d) }

/-- A reset of R364, device-wide. -/
def resetAll (s : State) : State :=
  let ws := ((allFuncs s).filter (fun e => e.2.tdisp ≠ .unlocked)).map (·.2.world)
  let s := dropTrees (dropBonds s (fun _ => true)) (fun _ => true)
  let s := resetShootdowns (resetThreads (resetNetwork (resetEngines (resetLaunches s))))
  resetWorlds (resetInterfaces s) ws.eraseDups

/-- Firmware starts: the device enters reduced service, and requests that the host has put on the ring are served (R367, R369). -/
def startFirmware (s : State) : State :=
  let s := { s with phase := 2, trained := false }
  if ringWaits s then pendOnce s .serveRing else s

/-- HOT_RESET (R364); in the fatal phase it restarts the device at phase 2 with the kept image (R375). -/
def execHotReset (s : State) : Out := .next (if s.phase = 4 then startFirmware (resetAll s) else resetAll s)
/-- LINK_DOWN (R364). -/
def execLinkDown (s : State) : Out := .next (resetAll s)
/-- FUNCTION_LEVEL_RESET (R364): of any function, device-wide. -/
def execFunctionLevelReset (_f : BitVec 6) (s : State) : Out := .next (resetAll s)

/-! ### Firmware (R351 to R354, R369) -/

/-- Bytes of the staging region other than 0, by offset. -/
def stagedCells (s : State) : List (Nat × Byte) :=
  s.mem.filterMap (fun c => if stagingBase s ≤ c.1 && c.1 < stagingBase s + 2 ^ 28 then some (c.1 - stagingBase s, c.2) else none)

/-- Those of a part of it, by offset from its start. -/
def stagedPart (cells : List (Nat × Byte)) (off n : Nat) : List (Nat × Byte) :=
  cells.filterMap (fun c => if off ≤ c.1 && c.1 < off + n then some (c.1 - off, c.2) else none)

/-- A number of the image header. -/
def header (s : State) (off n : Nat) : Nat := ofLe (rdBytes s (stagingBase s + off) n)

/-- Recovery cause of the staged image, the lowest failing check; 0 where it is accepted (R351, R352, R366). Both signatures are over bytes 0
to 15 and the payload. A region in which nothing has been staged holds no image. -/
def imageCause (s : State) : BitVec 8 :=
  let cells := stagedCells s
  let len := header s 4 4
  let lms := header s 12 4
  let signed := cells.filter (fun c => c.1 < 16 || (4096 ≤ c.1 && c.1 < 4096 + len))
  if cells = [] then 5
  else if header s 0 4 ≠ 0x4C4D4B01 || len = 0 || 192 * 2 ^ 20 < len || 3984 < lms ||
      (rdBytes s (stagingBase s + 112 + lms) (3984 - lms)).any (· ≠ 0) then 1
  else if !Config.ecdsaVerifies signed (stagedPart cells 16 96) then 2
  else if !Config.lmsVerifies signed (stagedPart cells 112 lms) then 3
  else if BitVec.ofNat 32 (header s 8 4) < Config.fusedMinSvn then 4
  else 0

/-- The four measurements of an accepted image (R354). -/
def measure (s : State) : Vector (BitVec 384) 4 :=
  let len := 4096 + header s 4 4
  let svn := leBytes 4 (header s 8 4) ++ leBytes 4 Config.fusedMinSvn.toNat
  #v[Config.romDigest, Config.sha384 len ((stagedCells s).filter (fun c => c.1 < len)),
     Config.sha384 8 ((svn.zipIdx.map (fun e => (e.2, e.1))).filter (fun e => e.2 ≠ 0)), Config.fuseState s.capcl s.capst]

/-- The image is verified: accepted, the device enters reduced service and HBM training runs; rejected, recovery (R352, R353,
R369). -/
def verifyImage (s : State) : State :=
  let c := imageCause s
  if c = 0 then
    startFirmware { s with rcause := 0, svn := BitVec.ofNat 32 (header s 8 4), measurements := measure s }
  else { s with phase := 1, rcause := c }

/-- The presence fuses of clusters and stacks after those that have failed are fused out (R372, R373). -/
def fusedOut (s : State) : BitVec 128 × BitVec 24 :=
  s.broken.foldl (fun r u =>
    if u.1 then (r.1, r.2 &&& ~~~(1#24 <<< u.2.toNat)) else (r.1 &&& ~~~(1#128 <<< u.2.toNat), r.2)) (s.capcl, s.capst)

/-- POWER_ON (R369): what a fuse holds stays, and what has failed is fused out (R373); the ROM verifies what is staged. -/
def execPowerOn (s : State) : Out :=
  let (cl, st) := fusedOut s
  let fresh := if s.phase = 0 then { s with capcl := cl, capst := st, broken := [] } else
    { State.reset with dev := s.dev, capcl := cl, capst := st, capport := s.capport, inputs := s.inputs, outbox := s.outbox
                       clock := s.clock, stamp := s.stamp }
  .next (verifyImage fresh)

/-- FIRMWARE_ACTIVATION (R353): while firmware runs, every launch and world stops as at a hot reset; then the image is verified. -/
def execFirmwareActivation (s : State) : Out :=
  .next (if s.phase = 4 then s else verifyImage (if lintelRuns s then resetAll s else s))

/-! ### Phases 2 and 3 (R370, R371) -/

/-- TRAINING_COMPLETE (R371). -/
def execTrainingComplete (s : State) : Out :=
  .next (if s.phase = 2 then pendOnce { s with trained := true } .phase3Entry else s)

/-- Where the images and tables of a die's SRAM reserve go in its HBM reserve: 8 MiB, aligned as root tables are, above the share of the
directory, where nothing stands (R338, R371, R375). -/
def moveTarget (s : State) (d : Nat) : Nat :=
  let s := { s with phase := 3 }
  let low := (shareBase s d + tableShare + 65535) / 65536 * 65536
  let taken := reserveTaken s
  (((upFrom 0 (2 * taken.length + 1)).map (fun k => low + k * 2 ^ 23)).find? (fun a =>
    taken.all (fun t => t.1 + t.2 ≤ a || a + 2 ^ 23 ≤ t.1))).getD low

/-- The structures of a die's SRAM reserve, by their place in HBM: old base, length, new base. The share of directory and continuation table
has a place of its own (R181, R370, R371). -/
def reserveMoves (s : State) : List (Nat × Nat × Nat) :=
  (upFrom 0 4).flatMap (fun d =>
    let old := (reserveOf s d).1
    if clustersOf s d < 4 then []
    else [(old, tableShare, shareBase { s with phase := 3 } d), (old + tableShare, 2 ^ 23 - tableShare, moveTarget s d + tableShare)])

/-- Where an address of a reserve has moved to. -/
def movedTo (l : List (Nat × Nat × Nat)) (a : Nat) : Nat :=
  match l.find? (fun m => m.1 ≤ a && a < m.1 + m.2.1) with
  | some m => m.2.2 + (a - m.1)
  | none => a

/-- A table's entries name the new places of the tables below it (R340). -/
def retarget (l : List (Nat × Nat × Nat)) (s : State) (a n : Nat) : State :=
  (tableEntries s a n).foldl (fun s e =>
    if tableOk e.2.2 then
      let old := nextTable e.2.2
      let new := fabric s (movedTo l (old % 2 ^ 45))
      if new = old then s else wrEntry s e.2.1 (word (1 + new / 4096 * 2 ^ 18))
    else s) s

/-- The reserved structures move to HBM (R371). -/
def moveReserves (s : State) : State :=
  let l := reserveMoves s
  let old := s.mem.filter (fun c => movedTo l c.1 ≠ c.1)
  let kept : Memory := s.mem.filter (fun c => movedTo l c.1 = c.1 && !l.any (fun m => m.2.2 ≤ c.1 && c.1 < m.2.2 + m.2.1))
  let mem : Memory := old.foldl (fun m c => wrByte m (movedTo l c.1) c.2) kept
  let move (x : AsidEntry) : AsidEntry := { x with root := word (fabric s (movedTo l (x.root.toNat % 2 ^ 45))) }
  let asids : Sparse (Option AsidEntry) := s.asids.map (fun e => (e.1, e.2.map move))
  let dir : Sparse DirEntry := s.dir.map (fun e => (e.1, { e.2 with
    image := if e.2.image = 0 then 0 else word (fabric s (movedTo l (e.2.image.toNat % 2 ^ 45))) }))
  let s : State := { s with mem := mem, tables := s.tables.map (movedTo l), asids := asids, dir := dir }
  let s := s.tables.foldl (fun s a => retarget l s a 512) s
  s.asids.foldl (fun s e => match e.2 with
    | some x => retarget l s (x.root.toNat % 2 ^ 45) 8192
    | none => s) s

/-- PHASE_3_ENTRY (R371): once training has ended and no launch runs; triggers that have queued start. -/
def execPhase3Entry (s : State) : Out :=
  if s.phase ≠ 2 || !s.trained then .next s
  else if s.launches ≠ [] then .next (pendOnce s .phase3Entry)
  else
    .next (((upFrom 0 16).map (BitVec.ofNat 4)).foldl (fun s c => if (chanAt s c).fifo = [] then s else pendOnce s (.launchStart c))
      { moveReserves s with phase := 3 })

/-! ### Soft errors, fatal errors (R373 to R377) -/

/-- A marked bank has passed a full pass clean, and is unmarked (R373, R374). -/
def unmarkBank (s : State) (b : Nat) : State := logError { s with marked := s.marked.erase b } 4 0 (BitVec.ofNat 32 b) 0 0

/-- SCRUB_PASS (R373, R374): the end of a pass. The scrubber's own corrections, each in its bank, count with those of the reads that fell within
the pass; marked banks without any are unmarked. The scrubber has rewritten every word, and the errors that stand in the arrays after it are
those that reads will meet; corrections in HBM are logged by address. -/
def execScrubPass (marks : ScrubMarks) (s : State) : Out :=
  if s.phase = 4 then .next s
  else
    let s := marks.hbm.foldl (fun s (m : Nat × Nat) => if m.2 = 0 then s else logError s 8 0 (BitVec.ofNat 32 m.2) (word m.1) 0) s
    let s := marks.banks.foldl (fun s (m : Nat × Nat) => correction s m.1 m.2) s
    let clean := s.marked.filter (fun b => sget 0 s.corrected b = 0)
    .next { clean.foldl unmarkBank s with corrected := [], upsets := marks.errors }

/-- Bytes of the dump that the spec sizes: header, error log, graph table and channel registers (R376). -/
def dumpKnown : Nat := 4096 + 131072 + 16384 + 384
/-- Bytes of the whole dump. -/
def dumpSize : Nat := dumpKnown + Config.dumpRest

/-- The dump's header: its fields in the order of R376, zeros after them. DESIGN CHOICE: how wide `FCAUSE` and the time are (log 33). -/
def dumpHeader (s : State) (cause : BitVec 8) : List Byte :=
  leBytes 4 0x4C4D4B44 ++ leBytes 4 cause.toNat ++ leBytes 8 (Config.freeWord s.clock).toNat ++ leBytes 48 (s.measurements[1]).toNat

/-- Byte i of the dump (R376): header, error log, graph table, the three registers of each channel, the state of dispatcher, MMP and
translation cores. None is of a frame, a register or a slot of a thread, nor of a key. -/
def dumpByte (s : State) (cause : BitVec 8) (i : Nat) : Byte :=
  if i < 4096 then (dumpHeader s cause).getD i 0
  else if i < 4096 + 131072 then (logBytes (sget none s.errLog ((i - 4096) / 32))).getD (i % 32) 0
  else if i < 4096 + 131072 + 16384 then sget 0 s.gmem (i - (4096 + 131072))
  else if i < dumpKnown then
    let j := i - (4096 + 131072 + 16384)
    let k := chanAt s (BitVec.ofNat 4 (j / 24))
    (leBytes 8 (if j % 24 < 8 then 0 else if j % 24 < 16 then (chctlWord k).toNat else (chstatWord k).toNat)).getD (j % 8) 0
  else Config.dumpState s.clock (i - dumpKnown)

/-- The result of the dump: none, failed in its DMA, which is a free choice (log 8), truncated, or written (R366, R376). -/
def dumpResult (s : State) : BitVec 2 :=
  if s.dumpLen = 0 then 0
  else if choose s 2 = 1 then 3
  else if s.dumpLen.toNat * 4096 < dumpSize then 2
  else 1

/-- A fatal device error (R375): nothing runs any more, the link sessions are dropped, the dump is written, vector 0 of the PF
is signalled. -/
def fatal (s : State) (cause : BitVec 8) : State :=
  if s.phase = 4 then s
  else
    let data := (upFrom 0 (min (s.dumpLen.toNat * 4096) dumpSize)).map (dumpByte s cause)
    let funcs := smap Func.init (fun f => { f with ide := false }) s.funcs
    let s := { s with sessions := [], handshakes := [], ideKeys := [], secAssocs := [], funcs := funcs, fcause := cause
                      dumpSt := dumpResult s, phase := 4 }
    msix (if s.dumpLen = 0 then s else send s (.dump s.dumpBase data)) (BitVec.ofNat 11 (funcAt s 0).vecFirst)

/-- UNCORRECTABLE_ERROR (R373, R375): the stack or cluster in which it lies, if one, has failed. -/
def execUncorrectableError (place : ErrorPlace) (s : State) : Out :=
  let s := match place.unit with
    | some u => { s with broken := (s.broken ++ [(place.hbm, u)]).eraseDups }
    | none => s
  .next (fatal s (if place.hbm then 2 else 1))
/-- THERMAL_TRIP (R377). -/
def execThermalTrip (s : State) : Out := .next (fatal s 3)
/-- SUPPLY_TRIP (R377). -/
def execSupplyTrip (s : State) : Out := .next (fatal s 4)

end Sys2Proof.Machine
end

