-- ==== Sys2Proof/Machine/Scalar.lean ====
section
/-! DEFINITION. Scalar arithmetic, immediates, bitfields and index registers (R30, R35, R104 to R110). -/

namespace Sys2Proof.Machine

open Sys2Proof

/-! ### Shared forms -/

/-- A scalar result from scalar operands: every operand and the destination present (R80, R94). -/
def scalarPlan (s : State) (d : BitVec 6) (reads : List Reg) (v : Word) : Plan :=
  plainPlan (.s d :: reads) (setTh s (advance (wrS s.th d v)))

/-- Register with register (R104). -/
def aluReg (d a b : BitVec 6) (f : Word → Word → Word) (s : State) : Out :=
  conclude .c (scalarPlan s d [.s a, .s b] (f (rdS s.th a) (rdS s.th b))) s

/-- One register (R104). -/
def aluOne (d a : BitVec 6) (f : Word → Word) (s : State) : Out :=
  conclude .c (scalarPlan s d [.s a] (f (rdS s.th a))) s

/-- Register with immediate, sign-extended from 13 bits (R106). -/
def aluImm (d a : BitVec 6) (i : BitVec 13) (f : Word → Word → Word) (s : State) : Out :=
  conclude .c (scalarPlan s d [.s a] (f (rdS s.th a) (sext64 i))) s

/-- Register shifted by an amount (R107). -/
def aluShift (d a n : BitVec 6) (f : Word → Nat → Word) (s : State) : Out :=
  conclude .c (scalarPlan s d [.s a] (f (rdS s.th a) n.toNat)) s

/-! ### Functions of R104 and R105 -/

/-- Shift amount of a register operand: bits [5:0]. -/
def shiftAmount (b : Word) : Nat := field b 0 6
/-- Rotation right. -/
def rotateRight (a : Word) (n : Nat) : Word := a >>> n ||| a <<< ((64 - n) % 64)
/-- High half of the signed product. -/
def mulHigh (a b : Word) : Word := BitVec.ofInt 64 (a.toInt * b.toInt / 2 ^ 64)
/-- High half of the unsigned product. -/
def mulHighUnsigned (a b : Word) : Word := word (a.toNat * b.toNat / 2 ^ 64)
/-- Signed quotient (R105). -/
def divSigned (a b : Word) : Word := if b = 0 then BitVec.allOnes 64 else BitVec.ofInt 64 (a.toInt.tdiv b.toInt)
/-- Unsigned quotient (R105). -/
def divUnsigned (a b : Word) : Word := if b = 0 then BitVec.allOnes 64 else word (a.toNat / b.toNat)
/-- Signed remainder, of the dividend's sign (R105). -/
def remSigned (a b : Word) : Word := if b = 0 then a else BitVec.ofInt 64 (a.toInt.tmod b.toInt)
/-- Unsigned remainder (R105). -/
def remUnsigned (a b : Word) : Word := if b = 0 then a else word (a.toNat % b.toNat)
/-- Bits of a word, the lowest first. -/
def bitsUp (a : Word) : List Bool := (upFrom 0 64).map (bit a)
/-- The word of its bits, the lowest first. -/
def ofBits : List Bool → Nat
  | [] => 0
  | b :: r => (if b then 1 else 0) + 2 * ofBits r
/-- Leading zeros. -/
def leadingZeros (a : Word) : Word := word ((bitsUp a).reverse.takeWhile (fun b => !b)).length
/-- Trailing zeros. -/
def trailingZeros (a : Word) : Word := word ((bitsUp a).takeWhile (fun b => !b)).length
/-- One bits. -/
def popCount (a : Word) : Word := word ((bitsUp a).filter (fun b => b)).length
/-- Bits reversed. -/
def bitReverse (a : Word) : Word := word (ofBits (bitsUp a).reverse)
/-- Bytes reversed. -/
def byteReverse (a : Word) : Word := word (ofLe (leBytes 8 a.toNat).reverse)
/-- The field of `len` bits from `pos` on, as a number (R108). -/
def bitField (a : Word) (pos len : Nat) : Nat := a.toNat / 2 ^ pos % 2 ^ len
/-- Its sign extension. -/
def bitFieldSigned (a : Word) (pos len : Nat) : Word :=
  let f := bitField a pos len
  if f < 2 ^ (len - 1) then word f else BitVec.ofInt 64 ((f : Int) - 2 ^ len)
/-- `old` with the low `len` bits of `a` in place of its bits from `pos` on (R108). -/
def bitFieldInsert (old a : Word) (pos len : Nat) : Word :=
  let mask : Word := word ((2 ^ len - 1) * 2 ^ pos)
  old &&& ~~~mask ||| (a <<< pos) &&& mask

/-! ### Meanings -/

/-- NOP (R35). -/
def execNop (s : State) : Out := conclude .c (plainPlan [] (setTh s (advance s.th))) s
/-- NOP of the A-slot (R35). -/
def execNopA (s : State) : Out := conclude .a (plainPlan [] (setTh s (advance s.th))) s
/-- An encoding that is no instruction, or a write conflict: traps ILLEGAL precisely (R32, R34). -/
def execUnassigned (slot : BitVec 2) (detail : BitVec 57) (s : State) : Out :=
  illegalNow slot detail s
/-- ADD (R104). -/
def execAdd (d a b : BitVec 6) (s : State) : Out := aluReg d a b (fun a b => a + b) s
/-- SUB (R104). -/
def execSub (d a b : BitVec 6) (s : State) : Out := aluReg d a b (fun a b => a - b) s
/-- AND (R104). -/
def execAnd (d a b : BitVec 6) (s : State) : Out := aluReg d a b (fun a b => a &&& b) s
/-- OR (R104). -/
def execOr (d a b : BitVec 6) (s : State) : Out := aluReg d a b (fun a b => a ||| b) s
/-- XOR (R104). -/
def execXor (d a b : BitVec 6) (s : State) : Out := aluReg d a b (fun a b => a ^^^ b) s
/-- ANDN (R104). -/
def execAndn (d a b : BitVec 6) (s : State) : Out := aluReg d a b (fun a b => a &&& ~~~b) s
/-- ORN (R104). -/
def execOrn (d a b : BitVec 6) (s : State) : Out := aluReg d a b (fun a b => a ||| ~~~b) s
/-- XNOR (R104). -/
def execXnor (d a b : BitVec 6) (s : State) : Out := aluReg d a b (fun a b => ~~~(a ^^^ b)) s
/-- SLL (R104). -/
def execSll (d a b : BitVec 6) (s : State) : Out := aluReg d a b (fun a b => a <<< shiftAmount b) s
/-- SRL (R104). -/
def execSrl (d a b : BitVec 6) (s : State) : Out := aluReg d a b (fun a b => a >>> shiftAmount b) s
/-- SRA (R104). -/
def execSra (d a b : BitVec 6) (s : State) : Out := aluReg d a b (fun a b => a.sshiftRight (shiftAmount b)) s
/-- ROR (R104). -/
def execRor (d a b : BitVec 6) (s : State) : Out := aluReg d a b (fun a b => rotateRight a (shiftAmount b)) s
/-- SLT (R104). -/
def execSlt (d a b : BitVec 6) (s : State) : Out := aluReg d a b (fun a b => boolWord (a.slt b)) s
/-- SLTU (R104). -/
def execSltu (d a b : BitVec 6) (s : State) : Out := aluReg d a b (fun a b => boolWord (a.ult b)) s
/-- SEQ (R104). -/
def execSeq (d a b : BitVec 6) (s : State) : Out := aluReg d a b (fun a b => boolWord (a == b)) s
/-- SNE (R104). -/
def execSne (d a b : BitVec 6) (s : State) : Out := aluReg d a b (fun a b => boolWord (a != b)) s
/-- MIN (R104). -/
def execMin (d a b : BitVec 6) (s : State) : Out := aluReg d a b (fun a b => if a.slt b then a else b) s
/-- MAX (R104). -/
def execMax (d a b : BitVec 6) (s : State) : Out := aluReg d a b (fun a b => if a.slt b then b else a) s
/-- MINU (R104). -/
def execMinu (d a b : BitVec 6) (s : State) : Out := aluReg d a b (fun a b => if a.ult b then a else b) s
/-- MAXU (R104). -/
def execMaxu (d a b : BitVec 6) (s : State) : Out := aluReg d a b (fun a b => if a.ult b then b else a) s
/-- MUL (R104). -/
def execMul (d a b : BitVec 6) (s : State) : Out := aluReg d a b (fun a b => a * b) s
/-- MULH (R104). -/
def execMulh (d a b : BitVec 6) (s : State) : Out := aluReg d a b (fun a b => mulHigh a b) s
/-- MULHU (R104). -/
def execMulhu (d a b : BitVec 6) (s : State) : Out := aluReg d a b (fun a b => mulHighUnsigned a b) s
/-- DIV (R105). -/
def execDiv (d a b : BitVec 6) (s : State) : Out := aluReg d a b (fun a b => divSigned a b) s
/-- DIVU (R105). -/
def execDivu (d a b : BitVec 6) (s : State) : Out := aluReg d a b (fun a b => divUnsigned a b) s
/-- REM (R105). -/
def execRem (d a b : BitVec 6) (s : State) : Out := aluReg d a b (fun a b => remSigned a b) s
/-- REMU (R105). -/
def execRemu (d a b : BitVec 6) (s : State) : Out := aluReg d a b (fun a b => remUnsigned a b) s
/-- CLZ (R104). -/
def execClz (d a : BitVec 6) (s : State) : Out := aluOne d a (fun a => leadingZeros a) s
/-- CTZ (R104). -/
def execCtz (d a : BitVec 6) (s : State) : Out := aluOne d a (fun a => trailingZeros a) s
/-- POPC (R104). -/
def execPopc (d a : BitVec 6) (s : State) : Out := aluOne d a (fun a => popCount a) s
/-- BREV (R104). -/
def execBrev (d a : BitVec 6) (s : State) : Out := aluOne d a (fun a => bitReverse a) s
/-- BSWAP (R104). -/
def execBswap (d a : BitVec 6) (s : State) : Out := aluOne d a (fun a => byteReverse a) s
/-- SEXT.B (R104). -/
def execSextB (d a : BitVec 6) (s : State) : Out := aluOne d a (fun a => sext64 (bits a 0 8)) s
/-- SEXT.H (R104). -/
def execSextH (d a : BitVec 6) (s : State) : Out := aluOne d a (fun a => sext64 (bits a 0 16)) s
/-- SEXT.W (R104). -/
def execSextW (d a : BitVec 6) (s : State) : Out := aluOne d a (fun a => sext64 (bits a 0 32)) s
/-- ZEXT.B (R104). -/
def execZextB (d a : BitVec 6) (s : State) : Out := aluOne d a (fun a => zext64 (bits a 0 8)) s
/-- ZEXT.H (R104). -/
def execZextH (d a : BitVec 6) (s : State) : Out := aluOne d a (fun a => zext64 (bits a 0 16)) s
/-- ZEXT.W (R104). -/
def execZextW (d a : BitVec 6) (s : State) : Out := aluOne d a (fun a => zext64 (bits a 0 32)) s
/-- ADDI (R106). -/
def execAddi (d a : BitVec 6) (i : BitVec 13) (s : State) : Out := aluImm d a i (fun a i => a + i) s
/-- ANDI (R106). -/
def execAndi (d a : BitVec 6) (i : BitVec 13) (s : State) : Out := aluImm d a i (fun a i => a &&& i) s
/-- ORI (R106). -/
def execOri (d a : BitVec 6) (i : BitVec 13) (s : State) : Out := aluImm d a i (fun a i => a ||| i) s
/-- XORI (R106). -/
def execXori (d a : BitVec 6) (i : BitVec 13) (s : State) : Out := aluImm d a i (fun a i => a ^^^ i) s
/-- SLTI (R106). -/
def execSlti (d a : BitVec 6) (i : BitVec 13) (s : State) : Out := aluImm d a i (fun a i => boolWord (a.slt i)) s
/-- SLTIU (R106). -/
def execSltiu (d a : BitVec 6) (i : BitVec 13) (s : State) : Out := aluImm d a i (fun a i => boolWord (a.ult i)) s
/-- MULI (R106). -/
def execMuli (d a : BitVec 6) (i : BitVec 13) (s : State) : Out := aluImm d a i (fun a i => a * i) s
/-- SLLI (R107). -/
def execSlli (d a n : BitVec 6) (s : State) : Out := aluShift d a n (fun a n => a <<< n) s
/-- SRLI (R107). -/
def execSrli (d a n : BitVec 6) (s : State) : Out := aluShift d a n (fun a n => a >>> n) s
/-- SRAI (R107). -/
def execSrai (d a n : BitVec 6) (s : State) : Out := aluShift d a n (fun a n => a.sshiftRight n) s
/-- RORI (R107). -/
def execRori (d a n : BitVec 6) (s : State) : Out := aluShift d a n (fun a n => rotateRight a n) s
/-- BFXU (R108); `l` is the length minus 1. -/
def execBfxu (d a l p : BitVec 6) (s : State) : Out :=
  aluOne d a (fun a => word (bitField a p.toNat (l.toNat + 1))) s
/-- BFX (R108). -/
def execBfx (d a l p : BitVec 6) (s : State) : Out :=
  aluOne d a (fun a => bitFieldSigned a p.toNat (l.toNat + 1)) s
/-- BFI (R108): reads its destination. -/
def execBfi (d a l p : BitVec 6) (s : State) : Out :=
  conclude .c (scalarPlan s d [.s a] (bitFieldInsert (rdS s.th d) (rdS s.th a) p.toNat (l.toNat + 1))) s
/-- ADDPC (R109). -/
def execAddpc (d : BitVec 6) (i : BitVec 13) (s : State) : Out :=
  conclude .c (scalarPlan s d [] (bundlesOn s.th i)) s
/-- XSET (R30). -/
def execXset (x : BitVec 3) (a : BitVec 6) (i : BitVec 13) (s : State) : Out :=
  conclude .c (plainPlan [.s a] (setTh s (advance (wrX s.th x (bits (rdS s.th a + sext64 i) 0 10))))) s
/-- XGET (R30). -/
def execXget (d : BitVec 6) (x : BitVec 3) (s : State) : Out :=
  conclude .c (scalarPlan s d [] (zext64 (rdX s.th x))) s
/-- MOVI (R110). -/
def execMovi (d : BitVec 6) (i : BitVec 51) (s : State) : Out :=
  conclude .l (scalarPlan s d [] (sext64 i)) s
/-- MOVIH (R110): keeps bits [47:0], so reads its destination. -/
def execMovih (d : BitVec 6) (i : BitVec 16) (s : State) : Out :=
  conclude .l (scalarPlan s d [] (i ++ bits (rdS s.th d) 0 48)) s

end Sys2Proof.Machine
end

