-- ==== Sys2Proof/Machine/Dispatch.lean ====
section
/-! DEFINITION. One arm for each row of spec/opcode_table.json: the direct call of its meaning. -/

namespace Sys2Proof.Machine

open Sys2Proof

/-- The effect of an instruction or of a step of the machine. -/
def exec (i : Instr) (s : State) : Host.Outcome State Fault Refusal :=
  match i with
  -- Scalar
  | .nop => Sys2Proof.Machine.execNop s
  | .nopA => Sys2Proof.Machine.execNopA s
  | .unassigned slot detail => Sys2Proof.Machine.execUnassigned slot detail s
  | .add d a b => Sys2Proof.Machine.execAdd d a b s
  | .sub d a b => Sys2Proof.Machine.execSub d a b s
  | .and d a b => Sys2Proof.Machine.execAnd d a b s
  | .or d a b => Sys2Proof.Machine.execOr d a b s
  | .xor d a b => Sys2Proof.Machine.execXor d a b s
  | .andn d a b => Sys2Proof.Machine.execAndn d a b s
  | .orn d a b => Sys2Proof.Machine.execOrn d a b s
  | .xnor d a b => Sys2Proof.Machine.execXnor d a b s
  | .sll d a b => Sys2Proof.Machine.execSll d a b s
  | .srl d a b => Sys2Proof.Machine.execSrl d a b s
  | .sra d a b => Sys2Proof.Machine.execSra d a b s
  | .ror d a b => Sys2Proof.Machine.execRor d a b s
  | .slt d a b => Sys2Proof.Machine.execSlt d a b s
  | .sltu d a b => Sys2Proof.Machine.execSltu d a b s
  | .seq d a b => Sys2Proof.Machine.execSeq d a b s
  | .sne d a b => Sys2Proof.Machine.execSne d a b s
  | .min d a b => Sys2Proof.Machine.execMin d a b s
  | .max d a b => Sys2Proof.Machine.execMax d a b s
  | .minu d a b => Sys2Proof.Machine.execMinu d a b s
  | .maxu d a b => Sys2Proof.Machine.execMaxu d a b s
  | .mul d a b => Sys2Proof.Machine.execMul d a b s
  | .mulh d a b => Sys2Proof.Machine.execMulh d a b s
  | .mulhu d a b => Sys2Proof.Machine.execMulhu d a b s
  | .div d a b => Sys2Proof.Machine.execDiv d a b s
  | .divu d a b => Sys2Proof.Machine.execDivu d a b s
  | .rem d a b => Sys2Proof.Machine.execRem d a b s
  | .remu d a b => Sys2Proof.Machine.execRemu d a b s
  | .clz d a => Sys2Proof.Machine.execClz d a s
  | .ctz d a => Sys2Proof.Machine.execCtz d a s
  | .popc d a => Sys2Proof.Machine.execPopc d a s
  | .brev d a => Sys2Proof.Machine.execBrev d a s
  | .bswap d a => Sys2Proof.Machine.execBswap d a s
  | .sextB d a => Sys2Proof.Machine.execSextB d a s
  | .sextH d a => Sys2Proof.Machine.execSextH d a s
  | .sextW d a => Sys2Proof.Machine.execSextW d a s
  | .zextB d a => Sys2Proof.Machine.execZextB d a s
  | .zextH d a => Sys2Proof.Machine.execZextH d a s
  | .zextW d a => Sys2Proof.Machine.execZextW d a s
  | .addi d a im => Sys2Proof.Machine.execAddi d a im s
  | .andi d a im => Sys2Proof.Machine.execAndi d a im s
  | .ori d a im => Sys2Proof.Machine.execOri d a im s
  | .xori d a im => Sys2Proof.Machine.execXori d a im s
  | .slti d a im => Sys2Proof.Machine.execSlti d a im s
  | .sltiu d a im => Sys2Proof.Machine.execSltiu d a im s
  | .muli d a im => Sys2Proof.Machine.execMuli d a im s
  | .slli d a n => Sys2Proof.Machine.execSlli d a n s
  | .srli d a n => Sys2Proof.Machine.execSrli d a n s
  | .srai d a n => Sys2Proof.Machine.execSrai d a n s
  | .rori d a n => Sys2Proof.Machine.execRori d a n s
  | .bfxu d a l p => Sys2Proof.Machine.execBfxu d a l p s
  | .bfx d a l p => Sys2Proof.Machine.execBfx d a l p s
  | .bfi d a l p => Sys2Proof.Machine.execBfi d a l p s
  | .addpc d im => Sys2Proof.Machine.execAddpc d im s
  | .xset x a im => Sys2Proof.Machine.execXset x a im s
  | .xget d x => Sys2Proof.Machine.execXget d x s
  | .movi d im => Sys2Proof.Machine.execMovi d im s
  | .movih d im => Sys2Proof.Machine.execMovih d im s
  -- Control
  | .bcond c a b o => Sys2Proof.Machine.execBcond c a b o s
  | .j o => Sys2Proof.Machine.execJ o s
  | .jal o => Sys2Proof.Machine.execJal o s
  | .jl d o => Sys2Proof.Machine.execJl d o s
  | .jalr d a im => Sys2Proof.Machine.execJalr d a im s
  -- Presence
  | .empty r n => Sys2Proof.Machine.execEmpty r n s
  | .emptyMask r n => Sys2Proof.Machine.execEmptyMask r n s
  | .vempty r n => Sys2Proof.Machine.execVempty r n s
  | .fill r => Sys2Proof.Machine.execFill r s
  | .waitp r q => Sys2Proof.Machine.execWaitp r q s
  -- ThreadLife
  | .sleep a => Sys2Proof.Machine.execSleep a s
  | .sleepTimeout h => Sys2Proof.Machine.execSleepTimeout h s
  | .yield => Sys2Proof.Machine.execYield s
  | .exit => Sys2Proof.Machine.execExit s
  | .threadExitComplete h => Sys2Proof.Machine.execThreadExitComplete h s
  | .migrate a => Sys2Proof.Machine.execMigrate a s
  | .preempt d a => Sys2Proof.Machine.execPreempt d a s
  | .preemptAtDispatcher o d t => Sys2Proof.Machine.execPreemptAtDispatcher o d t s
  | .teambar => Sys2Proof.Machine.execTeambar s
  | .evw a => Sys2Proof.Machine.execEvw a s
  | .evs a => Sys2Proof.Machine.execEvs a s
  | .eventLanding p => Sys2Proof.Machine.execEventLanding p s
  | .gettid d im => Sys2Proof.Machine.execGettid d im s
  | .gettidQ d a => Sys2Proof.Machine.execGettidQ d a s
  | .directoryLookup o d t => Sys2Proof.Machine.execDirectoryLookup o d t s
  | .fork sa sc maxr die body => Sys2Proof.Machine.execFork sa sc maxr die body s
  | .join a => Sys2Proof.Machine.execJoin a s
  -- System
  | .rdsr d n => Sys2Proof.Machine.execRdsr d n s
  | .wrsr a n => Sys2Proof.Machine.execWrsr a n s
  | .trap c => Sys2Proof.Machine.execTrap c s
  | .bkpt => Sys2Proof.Machine.execBkpt s
  | .tret => Sys2Proof.Machine.execTret s
  | .pool n => Sys2Proof.Machine.execPool n s
  -- Memory
  | .ld d a wd im => Sys2Proof.Machine.execLd d a wd im s
  | .ldu d a wd im => Sys2Proof.Machine.execLdu d a wd im s
  | .st d a wd im => Sys2Proof.Machine.execSt d a wd im s
  | .ldl l a wd im => Sys2Proof.Machine.execLdl l a wd im s
  | .ldAq d a wd => Sys2Proof.Machine.execLdAq d a wd s
  | .lduAq d a wd => Sys2Proof.Machine.execLduAq d a wd s
  | .stRl d a wd => Sys2Proof.Machine.execStRl d a wd s
  | .ldlRl l a wd => Sys2Proof.Machine.execLdlRl l a wd s
  | .vld v a q im => Sys2Proof.Machine.execVld v a q im s
  | .vst v a r im => Sys2Proof.Machine.execVst v a r im s
  | .vlds v a b m run q => Sys2Proof.Machine.execVlds v a b m run q s
  | .vsts v a b m run q => Sys2Proof.Machine.execVsts v a b m run q s
  | .vldg v a vb m run q => Sys2Proof.Machine.execVldg v a vb m run q s
  | .vstg v a vb m run q => Sys2Proof.Machine.execVstg v a vb m run q s
  | .put l a r => Sys2Proof.Machine.execPut l a r s
  | .pute l a r => Sys2Proof.Machine.execPute l a r s
  | .vput v l e r => Sys2Proof.Machine.execVput v l e r s
  | .vputl v l e r n f => Sys2Proof.Machine.execVputl v l e r n f s
  | .lamk v l r k => Sys2Proof.Machine.execLamk v l r k s
  | .amo d a b c op dbl ord => Sys2Proof.Machine.execAmo d a b c op dbl ord s
  | .fence im sc u p => Sys2Proof.Machine.execFence im sc u p s
  -- Ports
  | .issue n a p => Sys2Proof.Machine.execIssue n a p s
  | .pop d p => Sys2Proof.Machine.execPop d p s
  | .portst d p => Sys2Proof.Machine.execPortst d p s
  | .seqwait a => Sys2Proof.Machine.execSeqwait a s
  -- Vector
  | .vadd d a b m => Sys2Proof.Machine.execVadd d a b m s
  | .vsub d a b m => Sys2Proof.Machine.execVsub d a b m s
  | .vmul d a b m => Sys2Proof.Machine.execVmul d a b m s
  | .vfma d a b m => Sys2Proof.Machine.execVfma d a b m s
  | .vfms d a b m => Sys2Proof.Machine.execVfms d a b m s
  | .vmin d a b m => Sys2Proof.Machine.execVmin d a b m s
  | .vmax d a b m => Sys2Proof.Machine.execVmax d a b m s
  | .vand d a b m => Sys2Proof.Machine.execVand d a b m s
  | .vor d a b m => Sys2Proof.Machine.execVor d a b m s
  | .vxor d a b m => Sys2Proof.Machine.execVxor d a b m s
  | .vshl d a b m => Sys2Proof.Machine.execVshl d a b m s
  | .vshr d a b m => Sys2Proof.Machine.execVshr d a b m s
  | .vsra d a b m => Sys2Proof.Machine.execVsra d a b m s
  | .vaddi d a im m => Sys2Proof.Machine.execVaddi d a im m s
  | .vshli d a im m => Sys2Proof.Machine.execVshli d a im m s
  | .vshri d a im m => Sys2Proof.Machine.execVshri d a im m s
  | .vsrai d a im m => Sys2Proof.Machine.execVsrai d a im m s
  | .vadds d a b hi m => Sys2Proof.Machine.execVadds d a b hi m s
  | .vsubs d a b hi m => Sys2Proof.Machine.execVsubs d a b hi m s
  | .vmuls d a b hi m => Sys2Proof.Machine.execVmuls d a b hi m s
  | .vfmas d a b hi m => Sys2Proof.Machine.execVfmas d a b hi m s
  | .vbcast d b hi m => Sys2Proof.Machine.execVbcast d b hi m s
  | .vins d l b hi m => Sys2Proof.Machine.execVins d l b hi m s
  | .vcmp c k a b m => Sys2Proof.Machine.execVcmp c k a b m s
  | .vcmps c k a b hi m => Sys2Proof.Machine.execVcmps c k a b hi m s
  | .vsel d a b m => Sys2Proof.Machine.execVsel d a b m s
  | .vmov d a p r sat m => Sys2Proof.Machine.execVmov d a p r sat m s
  | .vpack d a p m => Sys2Proof.Machine.execVpack d a p m s
  | .vunpk d a p sat m => Sys2Proof.Machine.execVunpk d a p sat m s
  | .vperm d a b m => Sys2Proof.Machine.execVperm d a b m s
  | .vrot d a k m => Sys2Proof.Machine.execVrot d a k m s
  | .vrev d a m => Sys2Proof.Machine.execVrev d a m s
  | .vzip d a hi m => Sys2Proof.Machine.execVzip d a hi m s
  | .vuzp d a hi m => Sys2Proof.Machine.execVuzp d a hi m s
  | .vred d a o m => Sys2Proof.Machine.execVred d a o m s
  | .vscan d a o m => Sys2Proof.Machine.execVscan d a o m s
  | .vdot4 d a b m => Sys2Proof.Machine.execVdot4 d a b m s
  | .vabs d a m => Sys2Proof.Machine.execVabs d a m s
  | .vneg d a m => Sys2Proof.Machine.execVneg d a m s
  | .vnot d a m => Sys2Proof.Machine.execVnot d a m s
  | .vclz d a m => Sys2Proof.Machine.execVclz d a m s
  | .vpopc d a m => Sys2Proof.Machine.execVpopc d a m s
  | .vsqrt d a m => Sys2Proof.Machine.execVsqrt d a m s
  | .vrcp d a m => Sys2Proof.Machine.execVrcp d a m s
  | .vrsq d a m => Sys2Proof.Machine.execVrsq d a m s
  | .vexp2 d a m => Sys2Proof.Machine.execVexp2 d a m s
  | .vlog2 d a m => Sys2Proof.Machine.execVlog2 d a m s
  | .vflr d a m => Sys2Proof.Machine.execVflr d a m s
  | .vceil d a m => Sys2Proof.Machine.execVceil d a m s
  | .mand d a b => Sys2Proof.Machine.execMand d a b s
  | .mor d a b => Sys2Proof.Machine.execMor d a b s
  | .mxor d a b => Sys2Proof.Machine.execMxor d a b s
  | .mandn d a b => Sys2Proof.Machine.execMandn d a b s
  | .mnot d a => Sys2Proof.Machine.execMnot d a s
  | .vext d a l => Sys2Proof.Machine.execVext d a l s
  | .viota d im m => Sys2Proof.Machine.execViota d im m s
  | .setbf b f => Sys2Proof.Machine.execSetbf b f s
  | .ldcb c a => Sys2Proof.Machine.execLdcb c a s
  -- Matrix
  | .claim d a => Sys2Proof.Machine.execClaim d a s
  | .claimAtUnit o d unit spec => Sys2Proof.Machine.execClaimAtUnit o d unit spec s
  | .release d a => Sys2Proof.Machine.execRelease d a s
  | .releaseAtUnit o d spec => Sys2Proof.Machine.execReleaseAtUnit o d spec s
  | .accz d => Sys2Proof.Machine.execAccz d s
  | .acczAtHead core => Sys2Proof.Machine.execAcczAtHead core s
  | .mload v a n r => Sys2Proof.Machine.execMload v a n r s
  | .accrd v c a => Sys2Proof.Machine.execAccrd v c a s
  | .accrdSnapshot o v c core row half => Sys2Proof.Machine.execAccrdSnapshot o v c core row half s
  -- Scheduler
  | .launch d a b => Sys2Proof.Machine.execLaunch d a b s
  -- Translation
  | .tlbw d a b => Sys2Proof.Machine.execTlbw d a b s
  | .tlbi d a b => Sys2Proof.Machine.execTlbi d a b s
  -- Tree
  | .tbind d t a init => Sys2Proof.Machine.execTbind d t a init s
  | .tbindUnbind d t => Sys2Proof.Machine.execTbindUnbind d t s
  | .tdesc d t => Sys2Proof.Machine.execTdesc d t s
  | .texpand d t a b c => Sys2Proof.Machine.execTexpand d t a b c s
  | .tback d t a b vl => Sys2Proof.Machine.execTback d t a b vl s
  | .treroot d t a => Sys2Proof.Machine.execTreroot d t a s
  | .trdn v t a => Sys2Proof.Machine.execTrdn v t a s
  | .tstat d t f => Sys2Proof.Machine.execTstat d t f s
  | .tfree d t a => Sys2Proof.Machine.execTfree d t a s
  -- Bond
  | .pdecl d a b => Sys2Proof.Machine.execPdecl d a b s
  | .pset d a b => Sys2Proof.Machine.execPset d a b s
  | .pload d a b => Sys2Proof.Machine.execPload d a b s
  | .pconv d a b c => Sys2Proof.Machine.execPconv d a b c s
  | .pqry d a f => Sys2Proof.Machine.execPqry d a f s
  | .pdrop d a => Sys2Proof.Machine.execPdrop d a s
  | .psync d a m => Sys2Proof.Machine.execPsync d a m s
  | .bondAnnouncement n => Sys2Proof.Machine.execBondAnnouncement n s
  | .bondDecision k go reason coord => Sys2Proof.Machine.execBondDecision k go reason coord s
  | .bondWithdrawal n => Sys2Proof.Machine.execBondWithdrawal n s
  | .bondConversion k data => Sys2Proof.Machine.execBondConversion k data s
  -- Network
  | .nput d t a n x => Sys2Proof.Machine.execNput d t a n x s
  | .nget d t l n x => Sys2Proof.Machine.execNget d t l n x s
  | .natom d t b c r op dbl x => Sys2Proof.Machine.execNatom d t b c r op dbl x s
  | .nsend d t a n x => Sys2Proof.Machine.execNsend d t a n x s
  | .nsendL d l b cc ob => Sys2Proof.Machine.execNsendL d l b cc ob s
  | .nfence => Sys2Proof.Machine.execNfence s
  | .nfenceRs d a => Sys2Proof.Machine.execNfenceRs d a s
  | .nfenceCn d a => Sys2Proof.Machine.execNfenceCn d a s
  | .wopen d a b perm => Sys2Proof.Machine.execWopen d a b perm s
  | .wrevoke d a => Sys2Proof.Machine.execWrevoke d a s
  | .windowRevokeComplete o d w => Sys2Proof.Machine.execWindowRevokeComplete o d w s
  | .wqry d a f => Sys2Proof.Machine.execWqry d a f s
  | .cbopen d a b => Sys2Proof.Machine.execCbopen d a b s
  | .cbpopTake d a => Sys2Proof.Machine.execCbpopTake d a s
  | .cbpopFree d a => Sys2Proof.Machine.execCbpopFree d a s
  -- Copy
  | .sload d a b c rows len tag => Sys2Proof.Machine.execSload d a b c rows len tag s
  | .sstore d a b c rows len tag => Sys2Proof.Machine.execSstore d a b c rows len tag s
  | .spref a b rows len => Sys2Proof.Machine.execSpref a b rows len s
  | .swait m => Sys2Proof.Machine.execSwait m s
  -- Matrix
  | .mma core => Sys2Proof.Machine.execMma core s
  | .kStep unit => Sys2Proof.Machine.execKStep unit s
  | .drain core => Sys2Proof.Machine.execDrain core s
  | .mzero core => Sys2Proof.Machine.execMzero core s
  | .mresume h q => Sys2Proof.Machine.execMresume h q s
  | .mcancel h q => Sys2Proof.Machine.execMcancel h q s
  -- Copy
  | .copy h q => Sys2Proof.Machine.execCopy h q s
  | .copyf h q => Sys2Proof.Machine.execCopyf h q s
  | .copyr h q => Sys2Proof.Machine.execCopyr h q s
  | .copyc h q => Sys2Proof.Machine.execCopyc h q s
  | .mcrun h q => Sys2Proof.Machine.execMcrun h q s
  | .mcrunEnd h q => Sys2Proof.Machine.execMcrunEnd h q s
  -- Scheduler
  | .grun h q => Sys2Proof.Machine.execGrun h q s
  | .depdec h q => Sys2Proof.Machine.execDepdec h q s
  -- Copy
  | .completionLanding h q => Sys2Proof.Machine.execCompletionLanding h q s
  -- Boundary
  | .engineFaultTrap h => Sys2Proof.Machine.execEngineFaultTrap h s
  | .landingFailureTrap h => Sys2Proof.Machine.execLandingFailureTrap h s
  | .progress g => Sys2Proof.Machine.execProgress g s
  | .progressTrap h => Sys2Proof.Machine.execProgressTrap h s
  -- Fabric
  | .readRequest r => Sys2Proof.Machine.execReadRequest r s
  | .writeRequest r => Sys2Proof.Machine.execWriteRequest r s
  | .amoAtHome r => Sys2Proof.Machine.execAmoAtHome r s
  | .landingArrival core p => Sys2Proof.Machine.execLandingArrival core p s
  | .directoryResolve p => Sys2Proof.Machine.execDirectoryResolve p s
  | .slotLanding p => Sys2Proof.Machine.execSlotLanding p s
  | .memoryLanding p => Sys2Proof.Machine.execMemoryLanding p s
  | .landingAcknowledgement p place => Sys2Proof.Machine.execLandingAcknowledgement p place s
  | .landingRefusal p sub => Sys2Proof.Machine.execLandingRefusal p sub s
  | .checkFailure p => Sys2Proof.Machine.execCheckFailure p s
  | .busy p => Sys2Proof.Machine.execBusy p s
  | .busyResend p => Sys2Proof.Machine.execBusyResend p s
  -- Boundary
  | .saveStart h => Sys2Proof.Machine.execSaveStart h s
  | .saveReport h => Sys2Proof.Machine.execSaveReport h s
  | .resume h core slot => Sys2Proof.Machine.execResume h core slot s
  -- Scheduler
  | .teamPlacement => Sys2Proof.Machine.execTeamPlacement s
  | .blockedTeamEviction => Sys2Proof.Machine.execBlockedTeamEviction s
  | .priorityPreemption prio => Sys2Proof.Machine.execPriorityPreemption prio s
  | .chtrig c v => Sys2Proof.Machine.execChtrig c v s
  | .chctl c v => Sys2Proof.Machine.execChctl c v s
  | .launchStart c => Sys2Proof.Machine.execLaunchStart c s
  -- Translation
  | .tlbMissWalk cluster asid va => Sys2Proof.Machine.execTlbMissWalk cluster asid va s
  | .pageFaultService asid va => Sys2Proof.Machine.execPageFaultService asid va s
  | .pageMigration frame dest => Sys2Proof.Machine.execPageMigration frame dest s
  | .invalidationAtAgent g tag sel => Sys2Proof.Machine.execInvalidationAtAgent g tag sel s
  -- HostRing
  | .setAddressSpaceEntry e => Sys2Proof.Machine.execSetAddressSpaceEntry e s
  | .mapRange e => Sys2Proof.Machine.execMapRange e s
  | .unmapRange e => Sys2Proof.Machine.execUnmapRange e s
  | .hostPageWritten e => Sys2Proof.Machine.execHostPageWritten e s
  | .installMesh e map => Sys2Proof.Machine.execInstallMesh e map s
  | .jobTableEntry e => Sys2Proof.Machine.execJobTableEntry e s
  | .peerMapEntry e => Sys2Proof.Machine.execPeerMapEntry e s
  | .networkParameters e => Sys2Proof.Machine.execNetworkParameters e s
  | .bindFunctionToWorld e => Sys2Proof.Machine.execBindFunctionToWorld e s
  | .assignChannel e => Sys2Proof.Machine.execAssignChannel e s
  | .assignMsixVectors e => Sys2Proof.Machine.execAssignMsixVectors e s
  | .installKey e keys => Sys2Proof.Machine.execInstallKey e keys s
  | .removeKey e => Sys2Proof.Machine.execRemoveKey e s
  -- Trust
  | .frameOwnerChange frame w => Sys2Proof.Machine.execFrameOwnerChange frame w s
  -- Packets
  | .netWrite p => Sys2Proof.Machine.execNetWrite p s
  | .netReadRequest p => Sys2Proof.Machine.execNetReadRequest p s
  | .netReadReply p => Sys2Proof.Machine.execNetReadReply p s
  | .netAtomic p => Sys2Proof.Machine.execNetAtomic p s
  | .netAtomicReply p => Sys2Proof.Machine.execNetAtomicReply p s
  | .netMessage p => Sys2Proof.Machine.execNetMessage p s
  | .netLanding p => Sys2Proof.Machine.execNetLanding p s
  | .orderedPacketRelease p => Sys2Proof.Machine.execOrderedPacketRelease p s
  | .rudiPacket p => Sys2Proof.Machine.execRudiPacket p s
  | .netAcknowledgement p => Sys2Proof.Machine.execNetAcknowledgement p s
  | .netRefusal p why => Sys2Proof.Machine.execNetRefusal p why s
  | .networkTimeout h q => Sys2Proof.Machine.execNetworkTimeout h q s
  | .saKeyInstall sa next key => Sys2Proof.Machine.execSaKeyInstall sa next key s
  -- Trust
  | .spdmVersion f => Sys2Proof.Machine.execSpdmVersion f s
  | .spdmCapabilities f => Sys2Proof.Machine.execSpdmCapabilities f s
  | .spdmAlgorithms f => Sys2Proof.Machine.execSpdmAlgorithms f s
  | .spdmDigests f => Sys2Proof.Machine.execSpdmDigests f s
  | .spdmCertificate f slot => Sys2Proof.Machine.execSpdmCertificate f slot s
  | .spdmChallenge f slot => Sys2Proof.Machine.execSpdmChallenge f slot s
  | .spdmMeasurements f => Sys2Proof.Machine.execSpdmMeasurements f s
  | .spdmKeyExchange f => Sys2Proof.Machine.execSpdmKeyExchange f s
  | .spdmFinish f k => Sys2Proof.Machine.execSpdmFinish f k s
  | .spdmHeartbeat f k => Sys2Proof.Machine.execSpdmHeartbeat f k s
  | .spdmKeyUpdate f k => Sys2Proof.Machine.execSpdmKeyUpdate f k s
  | .spdmEndSession f k => Sys2Proof.Machine.execSpdmEndSession f k s
  | .ideKm f k key => Sys2Proof.Machine.execIdeKm f k key s
  | .protectedKeyInstall f k id key => Sys2Proof.Machine.execProtectedKeyInstall f k id key s
  | .lockInterfaceRequest f k => Sys2Proof.Machine.execLockInterfaceRequest f k s
  | .startInterfaceRequest f => Sys2Proof.Machine.execStartInterfaceRequest f s
  | .stopInterfaceRequest f => Sys2Proof.Machine.execStopInterfaceRequest f s
  | .getDeviceInterfaceState f => Sys2Proof.Machine.execGetDeviceInterfaceState f s
  | .getDeviceInterfaceReport f => Sys2Proof.Machine.execGetDeviceInterfaceReport f s
  | .ideStreamFailure f => Sys2Proof.Machine.execIdeStreamFailure f s
  | .barAddressChange f => Sys2Proof.Machine.execBarAddressChange f s
  -- HostAccess
  | .apbase f v => Sys2Proof.Machine.execApbase f v s
  | .hostBar2Write f off data => Sys2Proof.Machine.execHostBar2Write f off data s
  | .hostBar2Read f off n => Sys2Proof.Machine.execHostBar2Read f off n s
  | .registerWrite f off v => Sys2Proof.Machine.execRegisterWrite f off v s
  -- Bringup
  | .powerOn => Sys2Proof.Machine.execPowerOn s
  | .firmwareActivation => Sys2Proof.Machine.execFirmwareActivation s
  | .trainingComplete => Sys2Proof.Machine.execTrainingComplete s
  | .phase3Entry => Sys2Proof.Machine.execPhase3Entry s
  | .hotReset => Sys2Proof.Machine.execHotReset s
  | .linkDown => Sys2Proof.Machine.execLinkDown s
  | .functionLevelReset f => Sys2Proof.Machine.execFunctionLevelReset f s
  | .scrubPass marks => Sys2Proof.Machine.execScrubPass marks s
  | .uncorrectableError place => Sys2Proof.Machine.execUncorrectableError place s
  | .thermalTrip => Sys2Proof.Machine.execThermalTrip s
  | .supplyTrip => Sys2Proof.Machine.execSupplyTrip s
  -- HostRing
  | .unknownOperation e => Sys2Proof.Machine.execUnknownOperation e s
  -- Packets
  | .transportResend p => Sys2Proof.Machine.execTransportResend p s
  | .portDown n => Sys2Proof.Machine.execPortDown n s
  | .portUp n => Sys2Proof.Machine.execPortUp n s
  -- Boundary
  | .fetchFault h pc => Sys2Proof.Machine.execFetchFault h pc s

end Sys2Proof.Machine
end

