-- ==== Sys2Proof/Machine/Bundle.lean ====
section
/-! DEFINITION. Fetch, the two instructions of a bundle, the issue of a core, and the actions of the other agents
(R29 to R34, R87 to R90, R196, R226, R350). -/

namespace Sys2Proof.Machine

open Sys2Proof

/-! ### Fetch (R87, R350) -/

/-- Does the fetch buffer hold the bundle at the program counter? -/
def buffered (t : Thread) : Bool :=
  match t.fetched with
  | (a, _) :: _ => a = t.pc
  | [] => false

/-- The next bundle, out of the fetch buffer or read at its home; the buffer keeps what stands behind it. -/
def nextBundle (s : State) : State × BitVec 64 :=
  match s.th.fetched with
  | (a, b) :: r => if a = s.th.pc then (setTh s { s.th with fetched := r }, b) else fetchBundle (setTh s { s.th with fetched := [] }) s.th s.th.pc
  | [] => fetchBundle s s.th s.th.pc

/-- A bundle fetched ahead, where the page allows it (R350): the buffer holds at most two, in the order of their addresses
(log 17). -/
def prefetch (s : State) : State :=
  let t := s.th
  let l := if buffered t then t.fetched else []
  let pc := t.pc + 8 * word l.length
  if 2 ≤ l.length || (fetchBad s t pc).isSome then s
  else
    let (s1, b) := fetchBundle s t pc
    setTh s1 { s1.th with fetched := l ++ [(pc, b)] }

/-! ### The two instructions of a bundle (R31 to R33) -/

/-- A register, index register or special register that an instruction writes (R32). -/
inductive Written | reg (r : Reg) | index (x : BitVec 3) | special (n : Nat)
deriving DecidableEq, Repr, Inhabited

/-- A vector register that a specifier names, inside the window or not. -/
def writtenV (t : Thread) (v : BitVec 8) : Written :=
  let i := specIndex t v
  if i.toNat < 512 then .reg (.v (bits i 0 9)) else .special (0x1000 + i.toNat)

/-- The special register that a number names: the parts of one codebook are one register (R32, R95). -/
def writtenSpecial (n : Nat) : Written := if 0x20 ≤ n && n < 0x60 then .special (0x20 + (n - 0x20) / 4) else .special n

/-- The register of a presence instruction. -/
def writtenP (t : Thread) : PReg → Written
  | .s n => .reg (.s n)
  | .m n => .reg (.m n)
  | .v n => writtenV t n

/-- What a C-slot instruction writes, a change of presence included (R32). -/
def writesC (t : Thread) : Instr → Option Written
  | .add d .. | .sub d .. | .and d .. | .or d .. | .xor d .. | .andn d .. | .orn d .. | .xnor d .. | .sll d .. | .srl d ..
  | .sra d .. | .ror d .. | .slt d .. | .sltu d .. | .seq d .. | .sne d .. | .min d .. | .max d .. | .minu d .. | .maxu d ..
  | .mul d .. | .mulh d .. | .mulhu d .. | .div d .. | .divu d .. | .rem d .. | .remu d .. | .clz d .. | .ctz d .. | .popc d ..
  | .brev d .. | .bswap d .. | .sextB d .. | .sextH d .. | .sextW d .. | .zextB d .. | .zextH d .. | .zextW d .. | .addi d ..
  | .andi d .. | .ori d .. | .xori d .. | .slti d .. | .sltiu d .. | .muli d .. | .slli d .. | .srli d .. | .srai d ..
  | .rori d .. | .bfxu d .. | .bfx d .. | .bfi d .. | .addpc d .. | .xget d .. | .jalr d .. | .empty d .. | .preempt d ..
  | .gettid d .. | .gettidQ d .. | .rdsr d .. | .tlbw d .. | .tlbi d .. | .ld d .. | .ldu d .. | .ldAq d .. | .lduAq d ..
  | .claim d .. | .release d .. | .accz d | .pop d .. | .portst d .. => some (.reg (.s d))
  | .jal _ => some (.reg (.s 63))
  | .xset x .. => some (.index x)
  | .emptyMask r .. => some (.reg (.m r))
  | .vempty v .. | .vld v .. => some (writtenV t v)
  | .fill r => some (writtenP t r)
  | .wrsr _ n => some (writtenSpecial n.toNat)
  | _ => none

/-- What an A-slot instruction writes. -/
def writesA (t : Thread) : Instr → Option Written
  | .vadd d .. | .vsub d .. | .vmul d .. | .vfma d .. | .vfms d .. | .vmin d .. | .vmax d .. | .vand d .. | .vor d .. | .vxor d ..
  | .vshl d .. | .vshr d .. | .vsra d .. | .vaddi d .. | .vshli d .. | .vshri d .. | .vsrai d .. | .vadds d .. | .vsubs d ..
  | .vmuls d .. | .vfmas d .. | .vbcast d .. | .vins d .. | .vsel d .. | .vmov d .. | .vpack d .. | .vunpk d .. | .vperm d ..
  | .vrot d .. | .vrev d .. | .vzip d .. | .vuzp d .. | .vred d .. | .vscan d .. | .vdot4 d .. | .vabs d .. | .vneg d ..
  | .vnot d .. | .vclz d .. | .vpopc d .. | .vsqrt d .. | .vrcp d .. | .vrsq d .. | .vexp2 d .. | .vlog2 d .. | .vflr d ..
  | .vceil d .. | .viota d .. => some (writtenV t d)
  | .vcmp _ k .. | .vcmps _ k .. => some (.reg (.m k))
  | .mand d .. | .mor d .. | .mxor d .. | .mandn d .. | .mnot d .. => some (.reg (.m d))
  | .vext d .. => some (.reg (.s d))
  | .setbf b _ => some (writtenSpecial (0x10 + b.toNat))
  | .ldcb c _ => some (writtenSpecial (0x20 + 4 * c.toNat))
  | _ => none

/-- Do the two instructions write one register (R32)? -/
def conflict (t : Thread) (c a : Instr) : Bool := (writesC t c).isSome && decide (writesC t c = writesA t a)

/-- Is an instruction ILLEGAL by itself in a check of its slot's decode, which stands before the next slot's and before the write
conflict (R33): one that names `S0` or `M0` for its presence (R92), a special register that is not there or not to be written, or
a bank that the thread does not have (R95, R152, R153)? -/
def formBad (s : State) : Instr → Bool
  | .empty r _ => r = 0
  | .emptyMask r _ => r = 0
  | .fill r => fixedReg (pregReg s.th r)
  | .rdsr _ n => (readSpecial s n.toNat).isNone
  | .wrsr _ n => !writable s.th n.toNat
  | .setbf b _ => !bankThere s.th b.toNat
  | .ldcb c _ => !bankThere s.th c.toNat
  | _ => false

/-- The A-slot `NOP` (R35). -/
def isNopA : Instr → Bool
  | .nopA => true
  | _ => false
/-- The C-slot `NOP` (R35). -/
def isNopC : Instr → Bool
  | .nop => true
  | _ => false

/-- Elements of `y` that differ from the old ones, the others from `x`. -/
def joinVec {α : Type} [DecidableEq α] {n : Nat} (old y x : Vector α n) : Vector α n :=
  Vector.ofFn (fun i => if y[i] = old[i] then x[i] else y[i])

/-- The effects of both instructions together (R31): the C-slot's, and the registers, tags, codebooks and flags that the
A-slot's has written. -/
def joinThreads (old c a : Thread) : Thread :=
  { c with s := joinVec old.s a.s c.s, m := joinVec old.m a.m c.m, v := a.v, bfmt := joinVec old.bfmt a.bfmt c.bfmt
           cbk := joinVec old.cbk a.cbk c.cbk, tstat := c.tstat ||| (a.tstat &&& 0x1F) }

/-- The state with the floating-point flags of its thread cleared, so that those which are raised can be told. -/
def clearFlags (s : State) : State := setTh s { s.th with tstat := s.th.tstat &&& ~~~0x1F }
/-- The flags as they stood. -/
def putFlags (old : Thread) (s : State) : State := setTh s { s.th with tstat := s.th.tstat ||| (old.tstat &&& 0x1F) }

/-- How a bundle of two instructions ends, from how each would end alone (R31, R33). Of operands that are awaited the C-slot's come
first (R102); while the C-slot's checks are not made the A-slot's do not come before them. -/
def joinPair (s x y : State) : State :=
  if x.last = .window then x
  else if y.last = .window then putFlags s.th y
  else if x.last = .stalled then { s with th := { s.th with awaited := x.th.awaited }, last := .stalled }
  else if y.last = .stalled then { s with th := { s.th with awaited := y.th.awaited }, last := .stalled }
  else if x.last = .unchecked || x.last = .trapped then x
  else if y.last = .trapped then putFlags s.th y
  else if x.last = .held || y.last = .held then { s with last := .held }
  else setTh x (joinThreads s.th x.th y.th)

/-- A bundle of two instructions (R31 to R33). -/
def runPair (c a : Instr) (w0 : BitVec 32) (s : State) : Out :=
  if isNopA a then exec c s
  else if formBad s c then exec c s
  else if formBad s a then exec a s
  else if conflict s.th c a then exec (.unassigned 0 (w0.zeroExtend 57)) s
  else if isNopC c then exec a s
  else
    match exec c s, exec a (clearFlags s) with
    | .next x, .next y => .next (joinPair s x y)
    | .next _, y => y
    | x, _ => x

/-- A bundle with a slot that does not decode: a C-slot that does, and is ILLEGAL by itself, comes before its A-slot (R33). -/
def runIllegal (slot : BitVec 2) (detail : BitVec 57) (b : BitVec 64) (s : State) : Out :=
  match if slot = 2 then decodeC (word0 b) else .error .reserved with
  | .ok c => if formBad s c then exec c s else exec (.unassigned slot detail) s
  | .error _ => exec (.unassigned slot detail) s

/-- A bundle of a thread. -/
def runBundle (b : BitVec 64) (s : State) : Out :=
  match decodeBundle b with
  | .illegal slot detail _ => runIllegal slot detail b s
  | .long i => exec i s
  | .pair c a => runPair c a (word0 b) s

/-- May a memory-core program hold the C-slot word (R226)? -/
def progWord (w : BitVec 32) : Bool :=
  let op := field w 25 6
  op ≤ 0x0C || (0x10 ≤ op && op ≤ 0x13) || op = 0x1C || (0x20 ≤ op && op ≤ 0x23) || op = 0x27 || op = 0x2A ||
    (op = 0x14 && field w 0 7 = 0)

/-- May it hold the L-form major (R226)? -/
def progLong (op : Nat) : Bool := (1 ≤ op && op ≤ 3) || op = 5 || (0x30 ≤ op && op ≤ 0x33)

/-- A bundle of a memory-core program: every encoding outside its set is ILLEGAL, that of the C-slot first (R33, R34, R226). -/
def runProgBundle (b : BitVec 64) (s : State) : Out :=
  match decodeBundle b with
  | .illegal slot detail _ =>
    if slot = 2 && !progWord (word0 b) then exec (.unassigned 1 ((word0 b).zeroExtend 57)) s else exec (.unassigned slot detail) s
  | .long i => if progLong (field b 25 6) then exec i s else exec (.unassigned 3 (longField b)) s
  | .pair c a =>
    if !progWord (word0 b) then exec (.unassigned 1 ((word0 b).zeroExtend 57)) s
    else if isNopA a then exec c s
    else exec (.unassigned 2 ((word1 b).zeroExtend 57)) s

/-! ### Issue (R89, R90, R196) -/

/-- Has the bundle not taken effect, and not trapped either? -/
def waits (r : Report) : Bool := r = .stalled || r = .held || r = .unchecked

/-- A bundle that waits is kept, and the thread is Stalled (R90); it issues again. -/
def keepBundle (s : State) (pc : Word) (b : BitVec 64) : State :=
  let t := s.th
  setTh s { t with fetched := (pc, b) :: t.fetched, status := if t.status = .ready then .stalled else t.status }

/-- A bundle of thread `t` has issued: its slot issued last (R89), and its team has acted if the bundle took effect (R332). -/
def noteIssue (t : Thread) (s : State) : State :=
  if t.prog.isSome then s
  else
    let s1 := setCore s t.core { coreOf s t.core with last := t.slot }
    match s.last, teamAt s1 t.team with
    | .done, some m => setTeam s1 t.team (some { m with acted := s.clock })
    | _, _ => s1

/-- The walks of a bundle's pages are forgotten with it (R341). -/
def forgetWalks (s : State) : State := setTh s { s.th with walked := [] }

/-- What becomes of a bundle that was tried. -/
def settleBundle (t : Thread) (b : BitVec 64) (s : State) : State :=
  if waits s.last then keepBundle s t.pc b else noteIssue t (forgetWalks s)

/-- An outcome's state, changed. -/
def mapNext (o : Out) (f : State → State) : Out :=
  match o with
  | .next s => .next (f s)
  | .fault r => .fault r
  | .refused r => .refused r

/-- The thread in focus fetches its bundle and tries it; an acquire of its own that is not performed holds it (R74, log 7). -/
def issueBundle (s : State) : Out :=
  let t := s.th
  if acquiring s t then .next { s with last := .held }
  else match if buffered t then none else fetchBad s t t.pc with
  | some (.trap c v) => .next (noteIssue t { trapFocus (missOf s c v) c v t.pc with last := .trapped })
  | some (.suspend va c) => .next { suspendFor s va c with last := .trapped }
  | some (.wait _) => .next { s with last := .held }
  | none =>
    let (s1, b) := nextBundle s
    let s2 := setTh s1 { s1.th with status := .ready, awaited := [] }
    mapNext (if t.prog.isSome then runProgBundle b s2 else runBundle b s2) (settleBundle t b)

/-- Does anything but a bundle stand at the thread's boundary: a save, the end of a page fault, a trap (R196)? -/
def boundaryDue (t : Thread) : Bool :=
  t.save.isSome || t.failed.isSome || lateDue t || landingDue t || progressDue t

/-- What stands at the boundary, in its order: one thing at each. -/
def takeBoundary (s : State) : Out :=
  let t := s.th
  if t.save.isSome then execSaveStart t.handle s
  else
    match t.failed with
    | some (c, v) => .next (setTh s (pageTrap t c v))
    | none =>
      if lateDue t then execEngineFaultTrap t.handle s
      else if landingDue t then execLandingFailureTrap t.handle s
      else execProgressTrap t.handle s

/-- Is the thread ready to issue, or stalled on a bundle to be tried again? -/
def mayIssue (t : Thread) : Bool :=
  match t.status with
  | .ready | .stalled => true
  | _ => false

/-- The thread in focus at its boundary; one that is to be saved is passed over while its image has no place (R370). -/
def issueOne (s : State) : Out :=
  if s.th.save.isSome && (imagePlace s s.th).isNone then .next { s with last := .held }
  else if boundaryDue s.th then mapNext (takeBoundary s) (fun (x : State) => { x with last := .done }) else issueBundle s

/-- Threads of a core that may act, in ascending slot number after the slot that issued last (R89). -/
def issueOrder (s : State) (c : BitVec 11) : List Handle :=
  let l := (allThreads s).filter (fun t => inSlot t && t.core = c && atBoundary t && (mayIssue t || boundaryDue t))
  let last := (coreOf s c).last
  (upFrom 1 8).flatMap (fun i => (l.filter (fun t => t.slot = last + BitVec.ofNat 3 i)).map (·.handle))

/-- The first thread that can act does; one whose bundle waits is passed over (R89, R90). -/
def issueFrom : List Handle → State → Out
  | [], s => .next s
  | h :: r, s =>
    match issueOne (focusOn s (fun t => isLive t && t.handle = h)) with
    | .next x => if waits x.last then issueFrom r x else .next x
    | o => o

/-- One bundle of a core, at most (R89). -/
def issueCore (s : State) (c : BitVec 11) : Out := issueFrom (issueOrder s c) s

/-- One bundle of a memory-core program. -/
def issueProg (s : State) (h : Handle) (q : BitVec 16) : Out :=
  let s1 := focusOn s (isProg h q)
  if isProg h q s1.th && mayIssue s1.th then issueBundle s1 else .next s1

/-- Who issues bundles: a core, or a program of a memory core. -/
inductive Issuer | core (c : BitVec 11) | prog (h : Handle) (q : BitVec 16)
deriving DecidableEq, Repr, Inhabited

/-- The issuer of a thread record. -/
def issuerOf (t : Thread) : Option Issuer :=
  match t.prog with
  | some p => if mayIssue t then some (.prog t.handle p.seq) else none
  | none => if inSlot t then some (.core t.core) else none

/-- Everyone that may issue. -/
def issuers (s : State) : List Issuer := ((allThreads s).filterMap issuerOf).eraseDups

/-- An issuer issues. -/
def issueBy (s : State) : Issuer → Out
  | .core c => issueCore s c
  | .prog h q => issueProg s h q

/-- The issuer of the thread in focus issues. -/
def issueHere (s : State) : Out :=
  match issuerOf s.th with
  | some i => issueBy s i
  | none => .next s

/-- Threads whose slots may fetch ahead. -/
def prefetchers (s : State) : List Handle := ((allThreads s).filter (fun t => inSlot t && mayIssue t && !boundaryDue t)).map (·.handle)

/-! ### The other agents -/

/-- The action of an agent that the machine itself has caused: the meaning of its row. -/
def runEvent (e : Event) (s : State) : Out :=
  match e with
  | .treeAction r => .next (treeTurn r s)
  | .bondRequest o d asid op => .next (bondTurn o d asid op s)
  | .bondWaiting o d asid op => .next (bondTurn o d asid op s)
  | .bondLock k => .next (bondLockStep k s)
  | .bondSend dst m => .next (bondSendStep dst m s)
  | .bondTimeout dst => .next (bondTimeoutStep dst s)
  | .netRequest o d asid op => .next (netTurn o d asid op s)
  | .netSend h q => .next (netSendStep h q s)
  | .netLand p => .next (netLandStep p s)
  | .netPlace p left got => .next (netPlaceStep p left got s)
  | .answerOut p why => .next (answerOutStep p why s)
  | .leaveLock f st => .next (leaveLockStep f st s)
  | .serveRing => .next (serveRingStep s)
  | .phase3Entry => execPhase3Entry s
  | .bar2Write f off data => execHostBar2Write f off data s
  | .sleepTimeout h => execSleepTimeout h s
  | .threadExitComplete h => execThreadExitComplete h s
  | .preemptAtDispatcher o d t => execPreemptAtDispatcher o d t s
  | .eventLanding p => execEventLanding p s
  | .directoryLookup o d t => execDirectoryLookup o d t s
  | .claimAtUnit o d unit spec => execClaimAtUnit o d unit spec s
  | .releaseAtUnit o d spec => execReleaseAtUnit o d spec s
  | .acczAtHead core => execAcczAtHead core s
  | .accrdSnapshot o v c core row half => execAccrdSnapshot o v c core row half s
  | .bondAnnouncement n => execBondAnnouncement n s
  | .bondDecision k go reason coord => execBondDecision k go reason coord s
  | .bondWithdrawal n => execBondWithdrawal n s
  | .bondConversion k data => execBondConversion k data s
  | .windowRevokeComplete o d w => execWindowRevokeComplete o d w s
  | .mma core => execMma core s
  | .kStep unit => execKStep unit s
  | .drain core => execDrain core s
  | .mzero core => execMzero core s
  | .mresume h q => execMresume h q s
  | .mcancel h q => execMcancel h q s
  | .copy h q => execCopy h q s
  | .copyf h q => execCopyf h q s
  | .copyr h q => execCopyr h q s
  | .copyc h q => execCopyc h q s
  | .mcrun h q => execMcrun h q s
  | .mcrunEnd h q => execMcrunEnd h q s
  | .grun h q => execGrun h q s
  | .depdec h q => execDepdec h q s
  | .completionLanding h q => execCompletionLanding h q s
  | .readRequest r => execReadRequest r s
  | .writeRequest r => execWriteRequest r s
  | .amoAtHome r => execAmoAtHome r s
  | .landingArrival core p => execLandingArrival core p s
  | .directoryResolve p => execDirectoryResolve p s
  | .slotLanding p => execSlotLanding p s
  | .memoryLanding p => execMemoryLanding p s
  | .landingAcknowledgement p place => execLandingAcknowledgement p place s
  | .landingRefusal p sub => execLandingRefusal p sub s
  | .checkFailure p => execCheckFailure p s
  | .busy p => execBusy p s
  | .busyResend p => execBusyResend p s
  | .saveStart h => execSaveStart h s
  | .saveReport h => execSaveReport h s
  | .resume h core slot => execResume h core slot s
  | .teamPlacement => execTeamPlacement s
  | .launchStart c => execLaunchStart c s
  | .tlbMissWalk cluster asid va => execTlbMissWalk cluster asid va s
  | .pageFaultService asid va => execPageFaultService asid va s
  | .invalidationAtAgent g tag sel => execInvalidationAtAgent g tag sel s
  | .netWrite p => execNetWrite p s
  | .netReadRequest p => execNetReadRequest p s
  | .netReadReply p => .next (landReadReply p s)
  | .netAtomic p => execNetAtomic p s
  | .netAtomicReply p => .next (landAtomicReply p s)
  | .netMessage p => execNetMessage p s
  | .netLanding p => execNetLanding p s
  | .orderedPacketRelease p => execOrderedPacketRelease p s
  | .rudiPacket p => execRudiPacket p s
  | .netAcknowledgement p => execNetAcknowledgement p s
  | .netRefusal p why => execNetRefusal p why s
  | .transportResend p => execTransportResend p s

/-- The pending action at a place of the list acts, unless an earlier one of its sender holds it (R73 to R79). -/
def runPending (j : Nat) (s : State) : Out :=
  match s.pending[j]? with
  | none => .next s
  | some e => if blocked s e then .next s else runEvent e { s with pending := s.pending.eraseIdx j }

/-- What may come from outside: the host, firmware's own choices, peers, the physical surroundings, and the points in time
that the model does not measure (log 9). An answer to a landing comes from outside for one sent to another device (R191). -/
def fromOutside (s : State) : Instr → Bool
  | .landingAcknowledgement p _ | .landingRefusal p _ | .checkFailure p => p.o.dev = s.dev && laDev p.la ≠ s.dev
  | .progress .. | .blockedTeamEviction | .priorityPreemption .. | .pageMigration .. | .chtrig .. | .chctl ..
  | .setAddressSpaceEntry .. | .mapRange .. | .unmapRange .. | .hostPageWritten .. | .installMesh .. | .jobTableEntry ..
  | .peerMapEntry .. | .networkParameters .. | .bindFunctionToWorld .. | .assignChannel .. | .assignMsixVectors ..
  | .installKey .. | .removeKey .. | .unknownOperation .. | .frameOwnerChange .. | .netWrite .. | .netReadRequest ..
  | .netReadReply .. | .netAtomic .. | .netAtomicReply .. | .netMessage .. | .netLanding .. | .rudiPacket ..
  | .netAcknowledgement .. | .netRefusal .. | .networkTimeout .. | .transportResend .. | .saKeyInstall .. | .bondAnnouncement ..
  | .bondDecision .. | .bondWithdrawal .. | .bondConversion .. | .spdmVersion .. | .spdmCapabilities .. | .spdmAlgorithms ..
  | .spdmDigests .. | .spdmCertificate .. | .spdmChallenge .. | .spdmMeasurements .. | .spdmKeyExchange .. | .spdmFinish ..
  | .spdmHeartbeat .. | .spdmKeyUpdate .. | .spdmEndSession .. | .ideKm .. | .protectedKeyInstall ..
  | .lockInterfaceRequest .. | .startInterfaceRequest .. | .stopInterfaceRequest .. | .getDeviceInterfaceState ..
  | .getDeviceInterfaceReport .. | .ideStreamFailure .. | .barAddressChange .. | .apbase .. | .hostBar2Write ..
  | .hostBar2Read .. | .registerWrite .. | .powerOn | .firmwareActivation | .trainingComplete | .phase3Entry | .hotReset
  | .linkDown | .functionLevelReset .. | .scrubPass .. | .uncorrectableError .. | .thermalTrip | .supplyTrip | .portDown ..
  | .portUp .. => true
  | _ => false

/-- What the outside can still do in the fatal phase: its accesses, which read the registers and are discarded or answered with ones
at BAR2, and what resets the device (R364, R375). -/
def reachesFatal : Instr → Bool
  | .powerOn | .hotReset | .linkDown | .functionLevelReset .. | .registerWrite .. | .chctl .. | .chtrig .. | .apbase .. | .hostBar2Write ..
  | .hostBar2Read .. => true
  | _ => false

/-- The oldest input from outside; one that nothing takes has no effect. -/
def runInput (s : State) : Out :=
  match s.inputs with
  | [] => .next s
  | i :: r =>
    if fromOutside s i && (s.phase ≠ 4 || reachesFatal i) then exec i { s with inputs := r } else .next { s with inputs := r }

/-- The action that turn `k` gives (log 5): turn 0 is that of the thread in focus. In the fatal phase nothing runs, and the
outside alone acts (R375). -/
def act (k : Nat) (s : State) : Out :=
  if s.phase = 4 then runInput s
  else
    match k with
    | 0 => issueHere s
    | k + 1 =>
      let n := s.pending.length
      let us := issuers s
      let fs := prefetchers s
      let j := k % (n + 1 + us.length + fs.length)
      if j < n then runPending j s
      else if j = n then runInput s
      else
        match us[j - n - 1]? with
        | some u => issueBy s u
        | none =>
          match fs[j - n - 1 - us.length]? with
          | some h => .next (prefetch (focusOn s (fun t => isLive t && t.handle = h)))
          | none => .next s

/-- The count of steps, and whose turn is next (log 5). -/
def tick (s : State) : State := { s with clock := s.clock + 1, turn := Config.freeTurn s.clock }

/-! ### The next instruction, placed from outside -/

/-- Can the thread in focus fetch at once? -/
def canFetch (t : Thread) : Bool :=
  isLive t && t.status = .ready && !boundaryDue t && field t.pc 0 3 = 0 && field t.pc 56 8 = 0

/-- A thread as a launch leaves it (R93), with a full window, at the address of the examples of spec/02_notation.md. -/
def launchedThread : Thread := newThread 0 0 0 0 0 0 0 none 0 0 16 0x400000 0

/-- The thread that is to fetch: the one in focus, or a launched one in its place. -/
def fetcher (s : State) : Thread := if canFetch s.th then { s.th with fetched := [] } else launchedThread

/-- A leaf that lets a page be fetched from, at the first frame of the device (R340). -/
def fetchLeaf (dev : BitVec 12) : Word := (0#1 ++ dev ++ 0#29 ++ 0#22).cast (by decide) ||| 0x13

/-- A bundle stands where the machine fetches its next one, written at its home under no key, and nothing comes before that fetch
(log 1). -/
def placeBundle (s : State) (b : BitVec 64) : State :=
  let t := fetcher s
  let k := coreOf s t.core
  let e : TlbEntry := { asid := t.asid, page := t.pc.toNat / 65536, big := false, leaf := fetchLeaf s.dev }
  let s1 := setCore s t.core { k with tlb := (e :: k.tlb).take 64, last := t.slot - 1 }
  let a := t.pc.toNat % 65536
  wrPiece { s1 with th := t, turn := 0, phase := 3, pending := s.pending.filter (fun e => !acquireOf s t e)
                    rest := s.rest.filter (fun u => !(inSlot u && u.core = t.core && u.slot = t.slot)) }
    { addr := a, va := a, len := 8, off := 0, key := none } (bytesOfBundle b)

end Sys2Proof.Machine
end

