-- ==== Sys2Proof/Machine/Step.lean ====
section
/-! DEFINITION. One step of the machine. -/

namespace Sys2Proof.Machine

open Sys2Proof

/-- One step: the action that has the turn, and the count goes on (log 5). -/
def step (s : State) : Host.Outcome State Fault Refusal := mapNext (act s.turn s) tick

/-- The instruction of a row's bits stands where the next step fetches (log 1). -/
def State.withFetchWord (s : State) (nbits w : Nat) : State := placeBundle s (tableBundle nbits w)

end Sys2Proof.Machine
end

