-- ==== Sys2Proof/Safety.lean ====
section
/-! DEFINITION. The terms in which the statements speak: what it takes for an instruction to take effect, what it
leaves as it was, and the invariants of a step. -/

namespace Sys2Proof.Machine

open Sys2Proof

/-! ### What an instruction asks for -/

/-- Every register of a list is present in the thread in focus (R94). -/
def Ready (s : State) (l : List Reg) : Prop := ∀ r ∈ l, present s.th r = true

/-- Every vector specifier of a list names a register of the window (R29). -/
def InWindow (s : State) (l : List (BitVec 8)) : Prop := ∀ v ∈ l, (specIndex s.th v).toNat < winSize s.th

/-- The formats of the operands obey the rule of the instruction (R59, R134). -/
def FormatsAgree (s : State) (rule : FmtRule) (l : List (BitVec 8)) : Prop := fmtsOk rule (l.map (fun v => (vop s.th v).fmt)) = true

/-- A request of the thread in focus can leave: its core has room for one more, and no fence holds its kind (R159, R168). -/
def MaySend (s : State) (kinds : BitVec 4) : Prop := requestsFull s s.th = false ∧ fenced s s.th kinds = false

/-! ### What becomes of the machine -/

/-- The bundle takes effect, and of all the machine only the thread in focus is another. -/
def becomes (s : State) (t : Thread) : Out := .next { s with th := t, last := .done }

/-- The bundle traps precisely, with its own address (R33, R196); of a program, an address that is not translated is a miss too. -/
def trapsWith (s : State) (c : Cause) (v : Word) : Out := .next { trapFocus (missOf s c v) c v s.th.pc with last := .trapped }

/-- Nothing but the thread in focus, and how its bundle ended, is another. -/
def SameMachine (s t : State) : Prop := t = { s with th := t.th, last := t.last }

/-- Of the thread in focus nothing but its scalar registers, its program counter, and the record of the register that a stalled bundle
awaits (R102) is another. -/
def OnlyScalars (s t : State) : Prop := t.th = { s.th with s := t.th.s, pc := t.th.pc, awaited := t.th.awaited }

/-- Every byte of memory reads as before. -/
def SameMemory (s t : State) : Prop := ∀ a, rdByte t a = rdByte s a

/-- Every byte outside the `n` bytes from `lo` on reads as before. -/
def SameMemoryOutside (s t : State) (lo n : Nat) : Prop := ∀ a, a < lo ∨ lo + n ≤ a → rdByte t a = rdByte s a

/-- Nothing of the machine is another but the actions that wait to be taken and the packets in flight: what is asked of a host
action that only starts something. -/
def SameThreads (s t : State) : Prop := t.th = s.th ∧ t.rest = s.rest

/-! ### Rows that are words -/

/-- The rows that have an encoding of their own: those of the C-slot, the A-slot and the L-form. -/
def hasWord (i : Instr) : Bool := (encodeC i).isSome || (encodeA i).isSome || (encodeL i).isSome

/-! ### Invariants -/

/-- The four memories stand in canonical form: addresses strictly rising, and no byte listed that an unlisted address would
read as (log 4). -/
def MemoriesCanonical (s : State) : Prop :=
  Memory.wf s.mem = true ∧ Memory.wf s.gmem = true ∧ Memory.wf s.ringMem = true ∧ Memory.wf s.msixMem = true

end Sys2Proof.Machine
end

