-- ==== Sys2Proof/Certificates/Slice0/Obligations.lean ====
section
/-! DEFINITION. The statements for the provers. Each says in its docstring which rules of spec/ it formalises. The functions
before the statements say in the terms of the spec what an instruction computes; none of them is used by the model. -/

namespace Sys2Proof.Machine

open Sys2Proof

/-! ### Encodings -/

/-- The bundle decodes to the instruction alone: beside a `NOP`, or as an L-form. -/
def holdsAlone (b : BitVec 64) (i : Instr) : Prop :=
  decodeBundle b = .long i ∨ decodeBundle b = .pair i .nopA ∨ decodeBundle b = .pair .nop i

end Sys2Proof.Machine

/-! ### A step -/

namespace Sys2Proof.Machine

open Sys2Proof

/-- The next step issues a bundle of the thread in focus, out of memory: it is this thread's core's turn, the thread is the
next of its core (R89), nothing stands at its boundary (R196), no acquire of its own is still to be performed (R74), and its fetch is permitted (R156). -/
structure Issues (s : State) : Prop where
  turn : s.turn = 0
  phase : s.phase ≠ 4
  live : isLive s.th = true
  proper : s.th.prog = none
  issuer : issuerOf s.th = some (.core s.th.core)
  first : (issueOrder s s.th.core).head? = some s.th.handle
  clear : boundaryDue s.th = false
  acquired : acquiring s s.th = false
  empty : s.th.fetched = []
  fetch : fetchBad s s.th s.th.pc = none

/-- The bundle that the thread in focus fetches. -/
def theBundle (s : State) : BitVec 64 := (fetchBundle s s.th s.th.pc).2

/-- The machine after that fetch, the thread ready and awaiting nothing. -/
def afterFetch (s : State) : State :=
  let s1 := (fetchBundle s s.th s.th.pc).1
  setTh s1 { s1.th with status := .ready, awaited := [] }

end Sys2Proof.Machine

/-! ### Scalar arithmetic (R104 to R110) -/

namespace Sys2Proof.Machine

open Sys2Proof

/-- What a scalar instruction writes: its destination, the registers it reads, and its result, as R104 to R107 and R110 state it.
`S0` reads zero in `rdS` (R29). -/
def scalarEffect (t : Thread) : Instr → Option (BitVec 6 × List (BitVec 6) × Word)
  | .add d a b => some (d, [a, b], rdS t a + rdS t b)
  | .sub d a b => some (d, [a, b], rdS t a - rdS t b)
  | .and d a b => some (d, [a, b], rdS t a &&& rdS t b)
  | .or d a b => some (d, [a, b], rdS t a ||| rdS t b)
  | .xor d a b => some (d, [a, b], rdS t a ^^^ rdS t b)
  | .andn d a b => some (d, [a, b], rdS t a &&& ~~~rdS t b)
  | .orn d a b => some (d, [a, b], rdS t a ||| ~~~rdS t b)
  | .xnor d a b => some (d, [a, b], ~~~(rdS t a ^^^ rdS t b))
  | .sll d a b => some (d, [a, b], word ((rdS t a).toNat * 2 ^ ((rdS t b).toNat % 64)))
  | .srl d a b => some (d, [a, b], word ((rdS t a).toNat / 2 ^ ((rdS t b).toNat % 64)))
  | .sra d a b => some (d, [a, b], BitVec.ofInt 64 ((rdS t a).toInt / 2 ^ ((rdS t b).toNat % 64)))
  | .ror d a b => some (d, [a, b], (rdS t a).rotateRight ((rdS t b).toNat % 64))
  | .slt d a b => some (d, [a, b], if (rdS t a).toInt < (rdS t b).toInt then 1 else 0)
  | .sltu d a b => some (d, [a, b], if (rdS t a).toNat < (rdS t b).toNat then 1 else 0)
  | .seq d a b => some (d, [a, b], if rdS t a = rdS t b then 1 else 0)
  | .sne d a b => some (d, [a, b], if rdS t a = rdS t b then 0 else 1)
  | .min d a b => some (d, [a, b], BitVec.ofInt 64 (min (rdS t a).toInt (rdS t b).toInt))
  | .max d a b => some (d, [a, b], BitVec.ofInt 64 (max (rdS t a).toInt (rdS t b).toInt))
  | .minu d a b => some (d, [a, b], word (min (rdS t a).toNat (rdS t b).toNat))
  | .maxu d a b => some (d, [a, b], word (max (rdS t a).toNat (rdS t b).toNat))
  | .mul d a b => some (d, [a, b], word ((rdS t a).toNat * (rdS t b).toNat))
  | .mulh d a b => some (d, [a, b], bits ((rdS t a).signExtend 128 * (rdS t b).signExtend 128) 64 64)
  | .mulhu d a b => some (d, [a, b], bits ((rdS t a).zeroExtend 128 * (rdS t b).zeroExtend 128) 64 64)
  | .addi d a i => some (d, [a], rdS t a + i.signExtend 64)
  | .andi d a i => some (d, [a], rdS t a &&& i.signExtend 64)
  | .ori d a i => some (d, [a], rdS t a ||| i.signExtend 64)
  | .xori d a i => some (d, [a], rdS t a ^^^ i.signExtend 64)
  | .slti d a i => some (d, [a], if (rdS t a).toInt < i.toInt then 1 else 0)
  | .sltiu d a i => some (d, [a], if (rdS t a).toNat < (i.signExtend 64).toNat then 1 else 0)
  | .muli d a i => some (d, [a], rdS t a * i.signExtend 64)
  | .slli d a n => some (d, [a], word ((rdS t a).toNat * 2 ^ n.toNat))
  | .srli d a n => some (d, [a], word ((rdS t a).toNat / 2 ^ n.toNat))
  | .srai d a n => some (d, [a], BitVec.ofInt 64 ((rdS t a).toInt / 2 ^ n.toNat))
  | .rori d a n => some (d, [a], (rdS t a).rotateRight n.toNat)
  | .addpc d i => some (d, [], t.pc + i.signExtend 64 * 8)
  | .xget d x => some (d, [], (rdX t x).zeroExtend 64)
  | .movi d i => some (d, [], i.signExtend 64)
  | .movih d i => some (d, [d], i ++ bits (rdS t d) 0 48)
  | .clz d a => some (d, [a], word (((List.range 64).find? (fun i => (rdS t a).getMsbD i)).getD 64))
  | .ctz d a => some (d, [a], word (((List.range 64).find? (fun i => (rdS t a).getLsbD i)).getD 64))
  | .popc d a => some (d, [a], word ((List.range 64).countP (fun i => (rdS t a).getLsbD i)))
  | .brev d a => some (d, [a], (rdS t a).reverse)
  | .bswap d a =>
    let x := rdS t a
    some (d, [a], bits x 0 8 ++ bits x 8 8 ++ bits x 16 8 ++ bits x 24 8 ++ bits x 32 8 ++ bits x 40 8 ++ bits x 48 8 ++ bits x 56 8)
  | .sextB d a => some (d, [a], ((rdS t a).truncate 8).signExtend 64)
  | .sextH d a => some (d, [a], ((rdS t a).truncate 16).signExtend 64)
  | .sextW d a => some (d, [a], ((rdS t a).truncate 32).signExtend 64)
  | .zextB d a => some (d, [a], word ((rdS t a).toNat % 2 ^ 8))
  | .zextH d a => some (d, [a], word ((rdS t a).toNat % 2 ^ 16))
  | .zextW d a => some (d, [a], word ((rdS t a).toNat % 2 ^ 32))
  | _ => none

/-- Quotient and remainder as the program of R105 computes them, signed. -/
def divide (a b : Word) : Word × Word :=
  if b = 0 then (BitVec.allOnes 64, a)
  else if a = BitVec.intMin 64 ∧ b = BitVec.allOnes 64 then (BitVec.intMin 64, 0)
  else
    let q := BitVec.ofInt 64 (a.toInt.tdiv b.toInt)
    (q, a - b * q)

/-- The same, unsigned. -/
def divideUnsigned (a b : Word) : Word × Word :=
  if b = 0 then (BitVec.allOnes 64, a)
  else
    let q := word (a.toNat / b.toNat)
    (q, a - b * q)

/-- What a division writes (R105). -/
def divisionEffect (t : Thread) : Instr → Option (BitVec 6 × List (BitVec 6) × Word)
  | .div d a b => some (d, [a, b], (divide (rdS t a) (rdS t b)).1)
  | .rem d a b => some (d, [a, b], (divide (rdS t a) (rdS t b)).2)
  | .divu d a b => some (d, [a, b], (divideUnsigned (rdS t a) (rdS t b)).1)
  | .remu d a b => some (d, [a, b], (divideUnsigned (rdS t a) (rdS t b)).2)
  | _ => none

/-- The registers of a scalar instruction that must be present: its destination and its sources (R80, R94). -/
def scalarNeeds (d : BitVec 6) (reads : List (BitVec 6)) : List Reg := .s d :: reads.map Reg.s

/-- A scalar instruction of these statements. -/
def isScalarForm (t : Thread) (i : Instr) (d : BitVec 6) (reads : List (BitVec 6)) : Prop :=
  (∃ v, scalarEffect t i = some (d, reads, v)) ∨ (∃ v, divisionEffect t i = some (d, reads, v)) ∨
    (∃ a l p, (i = .bfxu d a l p ∨ i = .bfx d a l p ∨ i = .bfi d a l p) ∧ reads = [a])

end Sys2Proof.Machine

/-! ### Special registers (R95 to R100, R129) -/

namespace Sys2Proof.Machine

open Sys2Proof

/-- The special registers that a thread has (R95): bank `b` is there for b below w/32. -/
def specialThere (t : Thread) (n : Nat) : Prop :=
  n ≤ 4 ∨ (0x10 ≤ n ∧ n < 0x20 ∧ n < 0x10 + t.win.toNat) ∨ (0x20 ≤ n ∧ n < 0x60 ∧ (n - 0x20) / 4 < t.win.toNat) ∨ (0x60 ≤ n ∧ n ≤ 0x67)

/-- What a special register reads (R95 to R100, R194). -/
def specialReads (s : State) (n : Nat) (v : Word) : Prop :=
  let t := s.th
  if n = 0 then bits v 0 24 = t.handle ∧ bits v 24 12 = s.dev ∧ bits v 36 28 = 0
  else if n = 1 then bits v 0 11 = t.core ∧ bits v 11 3 = t.slot ∧ bits v 14 50 = 0
  else if n = 2 then bits v 0 5 = t.win ∧ bits v 5 59 = 0
  else if n = 3 then v = t.tstat
  else if n = 4 then v = t.actl
  else if n < 0x20 then bits v 0 8 = rdBfmt t (BitVec.ofNat 4 (n - 0x10)) ∧ bits v 8 56 = 0
  else if n < 0x60 then v = bits (rdCbk t (BitVec.ofNat 4 ((n - 0x20) / 4))) (64 * ((n - 0x20) % 4)) 64
  else if n = 0x60 then v = t.tcause
  else if n = 0x61 then v = t.tval
  else if n = 0x62 then v = t.tepc
  else if n = 0x63 then v = t.tvec
  else if n = 0x64 then v = t.lfaultLo
  else if n = 0x65 then v = t.lfaultHi
  else if n = 0x66 then
    let live := t.ring.map (·.2)
    let age (e : RingEntry) := (t.dseqNext - e.seq).toNat
    bits v 0 16 = t.dseqNext ∧
    (live.any incomplete = false → bits v 16 16 = t.dseqNext) ∧
    (live.any incomplete = true → ∃ e ∈ live, incomplete e = true ∧ bits v 16 16 = e.seq ∧
      ∀ f ∈ live, incomplete f = true → age f ≤ age e) ∧
    bits v 32 7 = BitVec.ofNat 7 (live.filter (fun e => e.state ≠ 0)).length ∧ bits v 39 25 = 0
  else v = t.muw

/-- ILLEGAL at a C-slot instruction: `TVAL` names the slot and holds word 0 (R33). -/
def illegalAt (s : State) (w : BitVec 32) (r : Report) : Out :=
  .next { trapFocus s .illegal (word (2 ^ 62 + w.toNat)) s.th.pc with last := r }

end Sys2Proof.Machine

/-! ### The life of a thread (R117 to R128) -/

namespace Sys2Proof.Machine

open Sys2Proof

/-- The thread in focus is a thread of a slot and runs. -/
structure Running (s : State) : Prop where
  proper : s.th.prog = none
  ready : s.th.status = .ready

/-- On whose behalf the thread in focus sends its next request (R176, R177). -/
def itsOrigin (s : State) : Origin :=
  { by' := s.th.handle, dev := s.dev, core := s.th.core, seq := (coreOf s s.th.core).seq.zeroExtend 32, world := s.th.world
    agent := .core s.th.core, n := s.stamp }

/-- A request leaves: its destination is empty and awaits one arrival, the request is counted, and it waits at its agent (R94,
R159). -/
def requests (s t : State) (d : BitVec 6) (e : Event) : Prop :=
  t.th = advance (setCount s.th (.s d) 1) ∧ t.rest = s.rest ∧ t.pending = s.pending ++ [e] ∧ t.mem = s.mem ∧
    (coreOf t s.th.core).outst = (coreOf s s.th.core).outst + 1 ∧ t.last = .done

/-- A value is on its way to a register of the thread that asked. -/
def answersWith (t : State) (o : Origin) (d : BitVec 6) (v : Word) : Prop :=
  ∃ p ∈ t.copies ++ t.heldBack, p.la = regLa o.dev o.by' (.s d) ∧ p.payload = leBytes 8 v.toNat ∧ p.o.by' = o.by' ∧ p.counted = true

end Sys2Proof.Machine

/-! ### Memory (R156 to R168, R246) -/

namespace Sys2Proof.Machine

open Sys2Proof

/-- Bytes of an access width (R26). -/
def sizeOf' : Width → Nat
  | .b => 1
  | .h => 2
  | .w => 4
  | .d => 8

/-- A scalar load: destination, base, width, offset, signed, acquire (R160). -/
def loadForm : Instr → Option (BitVec 6 × BitVec 6 × Width × Word × Bool × Bool)
  | .ld d a wd i => some (d, a, wd, i.signExtend 64, true, false)
  | .ldu d a wd i => some (d, a, wd, i.signExtend 64, false, false)
  | .ldAq d a wd => some (d, a, wd, 0, true, true)
  | .lduAq d a wd => some (d, a, wd, 0, false, true)
  | _ => none

/-- A scalar store: source, base, width, offset, release (R160). -/
def storeForm : Instr → Option (BitVec 6 × BitVec 6 × Width × Word × Bool)
  | .st d a wd i => some (d, a, wd, i.signExtend 64, false)
  | .stRl d a wd => some (d, a, wd, 0, true)
  | _ => none

/-- LDL: landing address, base, width, offset, release (R161). -/
def landLoadForm : Instr → Option (BitVec 6 × BitVec 6 × Width × Word × Bool)
  | .ldl l a wd i => some (l, a, wd, i.signExtend 64, false)
  | .ldlRl l a wd => some (l, a, wd, 0, true)
  | _ => none

/-- A landing instruction: the vector specifiers it names, the registers it needs, its landing address, its payload, the lane mask,
conditional, release (R165, R166). -/
def landingForm (t : Thread) : Instr → Option (List (BitVec 8) × List Reg × Word × List Byte × Option Word × Bool × Bool)
  | .put l a r => some ([], [.s l, .s a], rdS t l, putPayload (rdS t l) (rdS t a), none, false, r)
  | .pute l a r => some ([], [.s l, .s a], rdS t l, putPayload (rdS t l) (rdS t a), none, true, r)
  | .vput v l e r => some ([v], [.v (spec t v), .s l], rdS t l, leBytes 256 (rdV t (spec t v)).toNat, none, e, r)
  | .vputl v l e r n f =>
    some ([v], [.v (spec t v), .s l], rdS t l,
      ((leBytes 256 (rdV t (spec t v)).toNat).drop (4 * f.toNat)).take (4 * Sys2Proof.lanesOf n), none, e, r)
  | .lamk v l r k => some ([v], [.v (spec t v), .s l, .m k], rdS t l, leBytes 256 (rdV t (spec t v)).toNat, some (rdM t k), false, r)
  | _ => none

/-- The access of `len` bytes at a virtual address goes to this place: it is translated and permitted (R343). -/
def goesTo (s : State) (acc : Acc) (va len off : Nat) (p : Piece) : Prop :=
  p.va = va ∧ p.len = len ∧ p.off = off ∧ seek s (tlbsOf s s.th) s.th.asid va acc = .ok p.addr p.key

/-- What the core did for a counted request, but for the event that stands last among those that wait (R159). -/
def counts (s t : State) : Prop :=
  t.rest = s.rest ∧ t.mem = s.mem ∧ t.last = .done ∧ (coreOf t s.th.core).outst = (coreOf s s.th.core).outst + 1

/-- The lines in the set of the channel buffer that an address belongs to (R223). -/
def bufferSet (s : State) (a : Nat) : List BufLine :=
  match channelOf s a with
  | some (m, n) => sget [] s.buffers (m * 128 + n % 128)
  | none => []

/-- An access to this place changes no byte by itself (R223, R224): the place is in die SRAM; or its line stands in its buffer under the
key of the access; or neither the access nor a line of the buffer's set has a key. -/
def sameKey (s : State) (p : Piece) : Prop :=
  channelOf s p.addr = none ∨
    (∃ x, (bufferSet s p.addr).find? (fun x => x.line = p.addr / 64) = some x ∧ x.key = p.key) ∨
    (p.key = none ∧ ∀ x ∈ bufferSet s p.addr, x.key = none)

/-- A strided or gathered form: data register, specifiers, further registers, mask, run, acquire or release, load, base of group j
(R163). -/
def groupForm (t : Thread) : Instr → Option (BitVec 8 × List (BitVec 8) × List Reg × BitVec 4 × BitVec 3 × Bool × Bool × (Nat → Word))
  | .vlds v a b m r q => some (v, [v], [.v (spec t v), .s a, .s b, .m m], m, r, q, true, fun j => rdS t a + word j * rdS t b)
  | .vsts v a b m r q => some (v, [v], [.v (spec t v), .s a, .s b, .m m], m, r, q, false, fun j => rdS t a + word j * rdS t b)
  | .vldg v a vb m r q => some (v, [v, vb], [.v (spec t v), .s a, .v (spec t vb), .m m], m, r, q, true,
      fun j => rdS t a + (bits (rdV t (spec t vb)) (32 * j) 32).signExtend 64)
  | .vstg v a vb m r q => some (v, [v, vb], [.v (spec t v), .s a, .v (spec t vb), .m m], m, r, q, false,
      fun j => rdS t a + (bits (rdV t (spec t vb)) (32 * j) 32).signExtend 64)
  | _ => none

/-- The byte address of a lane (R163). -/
def laneAddr (run : Nat) (base : Nat → Word) (l : Nat) : Nat := (base (l / run) + word (4 * (l % run))).toNat

/-- The value that an atomic leaves in a word of w bits (R167). -/
def atomicResult (op : AmoOp) (w : Nat) (old b c : BitVec w) : BitVec w :=
  match op with
  | .swap => b
  | .add => old + b
  | .and => old &&& b
  | .or => old ||| b
  | .xor => old ^^^ b
  | .min => BitVec.ofInt w (min old.toInt b.toInt)
  | .max => BitVec.ofInt w (max old.toInt b.toInt)
  | .minu => BitVec.ofNat w (min old.toNat b.toNat)
  | .maxu => BitVec.ofNat w (max old.toNat b.toNat)
  | .cas => if old = c then b else old
  | .fadd => BitVec.ofNat w (roundTo .fp32 .rne false (numAdd (decodeFloat .fp32 old.toNat) (decodeFloat .fp32 b.toNat)).1).1

end Sys2Proof.Machine

/-! ### Vectors (R133 to R153) -/

namespace Sys2Proof.Machine

open Sys2Proof

/-- Element `e` of a register of elements of `w` bits (R46). -/
def elemAt (w : Nat) (x : Lanes) (e : Nat) : Nat := x.toNat / 2 ^ (w * e) % 2 ^ w

/-- Container width of the bank that holds the register of a specifier (R57). -/
def widthAt (s : State) (v : BitVec 8) : Nat := fmtWidth (vop s.th v).fmt

/-- The exact value of element `e` of a register, in its bank's format (R134). -/
def valueAt (s : State) (v : BitVec 8) (e : Nat) : Exact :=
  decodeElem (vop s.th v).fmt (vop s.th v).book (elemAt (widthAt s v) (rdV s.th (spec s.th v)) e)

/-- Its encoding: bits [7:6] of a 6-bit format are no part of it (R46). -/
def codeAt (s : State) (v : BitVec 8) (e : Nat) : Nat :=
  elemAt (widthAt s v) (rdV s.th (spec s.th v)) e % 2 ^ fmtUsed (vop s.th v).fmt

/-- An exact result, rounded once into the format of the destination, or wrapped (R53, R59). -/
def rounded (s : State) (d : BitVec 8) (x : Exact × Bool) : Nat × Flags := intoFmt (vop s.th d).fmt x

/-- What an A-slot instruction of elementwise kind asks and computes: destination, vector sources, further registers, governing
mask, rule of the formats, and the result of element e. -/
structure VForm where
  d : BitVec 8
  srcs : List (BitVec 8)
  more : List Reg
  m : BitVec 2
  rule : FmtRule
  val : Nat → Nat × Flags

/-- The scalar element of R59: the selected half, in the format of `v`. -/
def scalarElem (s : State) (v : BitVec 8) (b : BitVec 6) (hi : Bool) : Exact :=
  decodeElem (vop s.th v).fmt (vop s.th v).book ((rdS s.th b).toNat / 2 ^ (if hi then 32 else 0) % 2 ^ 32 % 2 ^ widthAt s v)

/-- A shift of R138 of an encoding of `w` bits; `sign` says that the fill of `VSRA` is the sign bit. -/
def shiftLeft' (w x n : Nat) : Nat := if w ≤ n then 0 else x * 2 ^ n % 2 ^ w
/-- Right, with zeros. -/
def shiftRight' (w x n : Nat) : Nat := if w ≤ n then 0 else x / 2 ^ n
/-- Right, with the fill bit. -/
def shiftSigned' (sign : Bool) (w x n : Nat) : Nat :=
  if sign && 2 ^ (w - 1) ≤ x then ((((x : Int) - 2 ^ w) / 2 ^ n) % 2 ^ w).toNat else x / 2 ^ n

/-- The elementwise instructions and what R136 to R142 and R146 make of an element. -/
def vform (s : State) : Instr → Option VForm
  | .vadd d a b m => some ⟨d, [a, b], [], m, .either, fun e => rounded s d (numAdd (valueAt s a e) (valueAt s b e))⟩
  | .vsub d a b m => some ⟨d, [a, b], [], m, .either, fun e => rounded s d (numAdd (valueAt s a e) (numNegate (valueAt s b e)))⟩
  | .vmul d a b m => some ⟨d, [a, b], [], m, .either, fun e => rounded s d (numMul (valueAt s a e) (valueAt s b e))⟩
  | .vfma d a b m => some ⟨d, [a, b], [], m, .either, fun e => rounded s d (numFma (valueAt s a e) (valueAt s b e) (valueAt s d e))⟩
  | .vfms d a b m => some ⟨d, [a, b], [], m, .either, fun e => rounded s d (numFma (numNegate (valueAt s a e)) (valueAt s b e) (valueAt s d e))⟩
  | .vmin d a b m => some ⟨d, [a, b], [], m, .either, fun e => rounded s d (numPick false (valueAt s a e) (valueAt s b e))⟩
  | .vmax d a b m => some ⟨d, [a, b], [], m, .either, fun e => rounded s d (numPick true (valueAt s a e) (valueAt s b e))⟩
  | .vaddi d a i m => some ⟨d, [a], [], m, .either, fun e => rounded s d (numAdd (valueAt s a e) (numOf i.toInt 0))⟩
  | .vadds d a b hi m => some ⟨d, [a], [.s b], m, .either, fun e => rounded s d (numAdd (valueAt s a e) (scalarElem s d b hi))⟩
  | .vsubs d a b hi m => some ⟨d, [a], [.s b], m, .either, fun e => rounded s d (numAdd (valueAt s a e) (numNegate (scalarElem s d b hi)))⟩
  | .vmuls d a b hi m => some ⟨d, [a], [.s b], m, .either, fun e => rounded s d (numMul (valueAt s a e) (scalarElem s d b hi))⟩
  | .vfmas d a b hi m => some ⟨d, [a], [.s b], m, .either, fun e => rounded s d (numFma (valueAt s a e) (scalarElem s d b hi) (valueAt s d e))⟩
  | .vand d a b m => some ⟨d, [a, b], [], m, .widths, fun e => ((codeAt s a e &&& codeAt s b e) % 2 ^ fmtUsed (vop s.th d).fmt, noFlags)⟩
  | .vor d a b m => some ⟨d, [a, b], [], m, .widths, fun e => ((codeAt s a e ||| codeAt s b e) % 2 ^ fmtUsed (vop s.th d).fmt, noFlags)⟩
  | .vxor d a b m => some ⟨d, [a, b], [], m, .widths, fun e => ((codeAt s a e ^^^ codeAt s b e) % 2 ^ fmtUsed (vop s.th d).fmt, noFlags)⟩
  | .vshl d a b m => some ⟨d, [a, b], [], m, .ofClass .int, fun e => (shiftLeft' (widthAt s d) (codeAt s a e) (codeAt s b e), noFlags)⟩
  | .vshr d a b m => some ⟨d, [a, b], [], m, .ofClass .int, fun e => (shiftRight' (widthAt s d) (codeAt s a e) (codeAt s b e), noFlags)⟩
  | .vsra d a b m => some ⟨d, [a, b], [], m, .ofClass .int,
      fun e => (shiftSigned' ((vop s.th d).fmt ≠ .uint8) (widthAt s d) (codeAt s a e) (codeAt s b e), noFlags)⟩
  | .vshli d a i m => some ⟨d, [a], [], m, .ofClass .int, fun e => (shiftLeft' (widthAt s d) (codeAt s a e) i.toNat, noFlags)⟩
  | .vshri d a i m => some ⟨d, [a], [], m, .ofClass .int, fun e => (shiftRight' (widthAt s d) (codeAt s a e) i.toNat, noFlags)⟩
  | .vsrai d a i m => some ⟨d, [a], [], m, .ofClass .int,
      fun e => (shiftSigned' ((vop s.th d).fmt ≠ .uint8) (widthAt s d) (codeAt s a e) i.toNat, noFlags)⟩
  | .vnot d a m => some ⟨d, [a], [], m, .widths,
      fun e => ((2 ^ widthAt s d - 1 - codeAt s a e) % 2 ^ fmtUsed (vop s.th d).fmt, noFlags)⟩
  | .vclz d a m => some ⟨d, [a], [], m, .ofClass .int,
      fun e => (if codeAt s a e = 0 then widthAt s d else widthAt s d - 1 - Nat.log2 (codeAt s a e), noFlags)⟩
  | .vpopc d a m => some ⟨d, [a], [], m, .ofClass .int,
      fun e => ((List.range (widthAt s d)).countP (fun i => codeAt s a e / 2 ^ i % 2 = 1), noFlags)⟩
  | .vbcast d b hi m => some ⟨d, [], [.s b], m, .either,
      fun _ => ((rdS s.th b).toNat / 2 ^ (if hi then 32 else 0) % 2 ^ 32 % 2 ^ fmtUsed (vop s.th d).fmt, noFlags)⟩
  | .viota d i m => some ⟨d, [], [], m, .either, fun e => rounded s d (numOf (i.toNat + e : Nat) 0, false)⟩
  | _ => none

/-- A unary function of R140 to R142, of an exact value: its result before the rounding, and the flags that it raises itself. -/
def unaryForm : Instr → Option (BitVec 8 × BitVec 8 × BitVec 2 × FmtRule × (Exact → Exact × Flags))
  | .vabs d a m => some (d, a, m, .either, numAbs)
  | .vneg d a m => some (d, a, m, .either, numMinus)
  | .vsqrt d a m => some (d, a, m, .ofClass .float, numSqrt)
  | .vrcp d a m => some (d, a, m, .ofClass .float, numRecip)
  | .vrsq d a m => some (d, a, m, .ofClass .float, numRsqrt)
  | .vexp2 d a m => some (d, a, m, .ofClass .float, numExp2)
  | .vlog2 d a m => some (d, a, m, .ofClass .float, numLog2)
  | .vflr d a m => some (d, a, m, .ofClass .float, numIntegral false)
  | .vceil d a m => some (d, a, m, .ofClass .float, numIntegral true)
  | _ => none

/-- The register `x` holds, in elements of `w` bits, the results of the active elements and the old bits of the others (R133). -/
def mixes (w : Nat) (mask : Word) (old x : Lanes) (val : Nat → Nat) : Prop :=
  ∀ e < 2048 / w, elemAt w x e = if mask.getLsbD (e * w / 32) then val e % 2 ^ w else elemAt w old e

/-- The flags are those that the active elements raise (R56, R133). -/
def gathers (w : Nat) (mask : Word) (fl : Flags) (val : Nat → Flags) : Prop :=
  ∀ g : Flags → Bool, g ∈ [Flags.nv, Flags.dz, Flags.of', Flags.uf, Flags.nx] →
    (g fl = true ↔ ∃ e < 2048 / w, mask.getLsbD (e * w / 32) = true ∧ g (val e) = true)

/-- Only a register of the window and the sticky flags are another (R31, R56, R133). -/
def writesVector (s : State) (i : Instr) (d : BitVec 8) (x : Lanes) (fl : Flags) : Prop :=
  exec i s = becomes s (raise (advance (wrV s.th (spec s.th d) x)) fl)

/-- Lane `l` of a register (R46). -/
def laneAt (x : Lanes) (l : Nat) : Nat := elemAt 32 x l

/-- The lane that a permute puts in lane `l`, from the lanes of D, A and B (R147). -/
def permuteForm (t : Thread) : Instr → Option (BitVec 8 × BitVec 8 × List (BitVec 8) × BitVec 2 × (Nat → Nat))
  | .vperm d a b m => some (d, a, [b], m, fun l => laneAt (rdV t (spec t a)) (laneAt (rdV t (spec t b)) l % 64))
  | .vrot d a k m => some (d, a, [], m, fun l => laneAt (rdV t (spec t a)) ((l + k.toNat) % 64))
  | .vrev d a m => some (d, a, [], m, fun l => laneAt (rdV t (spec t a)) (63 - l))
  | .vzip d a hi m => some (d, a, [], m, fun l =>
      laneAt (rdV t (spec t (if l % 2 = 0 then d else a))) ((if hi then 32 else 0) + l / 2))
  | .vuzp d a od m => some (d, a, [], m, fun l =>
      if l < 32 then laneAt (rdV t (spec t d)) (2 * l + if od then 1 else 0)
      else laneAt (rdV t (spec t a)) (2 * (l - 32) + if od then 1 else 0))
  | _ => none

/-- The node over the 2^j leaves from `p` on (R65). -/
def treeNode {α : Type} (node : α → α → α) (leaf : Nat → α) : Nat → Nat → α
  | 0, p => leaf p
  | j + 1, p => node (treeNode node leaf j p) (treeNode node leaf j (p + 2 ^ j))

/-- The prefix over the first `n` leaves, `n` below 2^k: the blocks that the digits of `n` give, the largest first (R66). -/
def treePrefix {α : Type} (node : α → α → α) (leaf : Nat → α) (n : Nat) : Nat → Nat → Option α → Option α
  | 0, _, acc => acc
  | k + 1, p, acc =>
    if n / 2 ^ k % 2 = 1 then
      let b := treeNode node leaf k p
      treePrefix node leaf n k (p + 2 ^ k) (some (match acc with
        | none => b
        | some a => node a b))
    else treePrefix node leaf n k p acc

/-- What `VRED` and `VSCAN` leave: the root of the tree in element 0 and the others as they were, and the prefixes in every element (R65, R66,
R148). -/
def reducesTo {α : Type} (s : State) (o : RedOp) (d a : BitVec 8) (m : BitVec 2) (k : Nat) (node : α → α → α) (leaf : Nat → α) (put : α → Nat) : Prop :=
  let w := widthAt s d
  (∃ x fl, writesVector s (.vred d a o m) d x fl ∧ elemAt w x 0 = put (treeNode node leaf k 0) ∧
    ∀ e, 1 ≤ e → e < 2 ^ k → elemAt w x e = elemAt w (rdV s.th (spec s.th d)) e) ∧
  (∃ x fl, writesVector s (.vscan d a o m) d x fl ∧ ∀ e < 2 ^ k, ∃ y, treePrefix node leaf (e + 1) (k + 1) 0 none = some y ∧ elemAt w x e = put y)

/-- The identity of `.MIN` (`low` false) and of `.MAX` in a format: an infinity, or the largest or smallest value where it has none (R65). -/
def extremeOf (low : Bool) : Fmt → Exact
  | .int32 => numOf (if low then -2147483648 else 2147483647) 0
  | .int8 => numOf (if low then -128 else 127) 0
  | .uint8 => numOf (if low then 0 else 255) 0
  | .fp32 | .bf16 | .fp16 | .e5m2 => .inf low
  | .e4m3 => decodeFloat .e4m3 (if low then 0xFE else 0x7E)
  | .e3m2 => decodeFloat .e3m2 (if low then 0x3F else 0x1F)
  | .e2m3 => decodeFloat .e2m3 (if low then 0x3F else 0x1F)
  | .e2m1 => decodeFloat .e2m1 (if low then 0xF else 0x7)
  | .cb4 | .e8m0 => .zero false

/-- The source element that pairs with destination element `e` (R149). -/
def pairedWith (ws wd part e : Nat) : Option Nat :=
  if ws = wd then some e
  else if ws < wd then some (part * (2048 / wd) + e)
  else if part * (2048 / ws) ≤ e ∧ e < (part + 1) * (2048 / ws) then some (e - part * (2048 / ws)) else none

/-- May the part be named (R149)? -/
def partFits (ws wd part : Nat) : Prop := if ws = wd then part = 0 else if ws < wd then part < wd / ws else part < ws / wd

/-- The conversions and moves of R150 and R151: what becomes of a source element. -/
def moveForm (s : State) : Instr → Option (BitVec 8 × BitVec 8 × BitVec 3 × BitVec 2 × Bool × (Nat → Nat × Flags))
  | .vmov d a p r sat m => some (d, a, p, m, decide ((vop s.th d).fmt ≠ .cb4 ∧ ((vop s.th d).fmt ≠ .e8m0 ∨ r = .rne)), fun k =>
      let c := convertNum (vop s.th a).fmt (vop s.th d).fmt r sat (valueAt s a k)
      (c.1 % 2 ^ fmtUsed (vop s.th d).fmt, c.2))
  | .vpack d a p m => some (d, a, p, m, true, fun k =>
      (if widthAt s a = widthAt s d then elemAt (widthAt s a) (rdV s.th (spec s.th a)) k
       else codeAt s a k % 2 ^ fmtUsed (vop s.th d).fmt, noFlags))
  | .vunpk d a p sx m => some (d, a, p, m, true, fun k =>
      (if widthAt s a = widthAt s d then elemAt (widthAt s a) (rdV s.th (spec s.th a)) k
       else
        let u := fmtUsed (vop s.th a).fmt
        let x : Int := if sx && 2 ^ (u - 1) ≤ codeAt s a k then (codeAt s a k : Int) - 2 ^ u else codeAt s a k
        (x % 2 ^ fmtUsed (vop s.th d).fmt).toNat, noFlags))
  | _ => none

end Sys2Proof.Machine

/-! ### Engine ports and traps at a boundary (R169 to R174, R186, R196, R200, R204) -/

namespace Sys2Proof.Machine

open Sys2Proof

/-- The words of a command block (R171). -/
def block (t : Thread) (a : BitVec 6) (n : BitVec 4) : List Word :=
  (List.range (n.toNat + 1)).map (fun i => rdS t (a + BitVec.ofNat 6 i))

/-- A completion word (R172). -/
def completes (w : Word) (q : BitVec 16) (st : BitVec 8) (p : BitVec 2) (res : BitVec 32) : Prop :=
  bits w 0 16 = q ∧ bits w 16 8 = st ∧ bits w 24 8 = p.zeroExtend 8 ∧ bits w 32 32 = res

/-- A thread that has taken a trap at a boundary where it was Ready, its handler there (R194, R196). -/
def entersAtBoundary (t : Thread) (cause : BitVec 8) (val : Word) (port : BitVec 2) (seq : BitVec 16) (sub : BitVec 8) : Thread :=
  { t with tcause := word (sub.toNat * 2 ^ 32 + seq.toNat * 2 ^ 16 + port.toNat * 2 ^ 12 + 2 ^ 8 + cause.toNat)
           tval := val, tepc := t.pc, tstat := t.tstat ||| 0x40, pc := t.tvec, waited := none, woken := false }

/-- The thread in focus is the live thread of the handle, Ready, outside a handler, and has one (R196). -/
structure Interruptible (s : State) (h : Handle) : Prop where
  live : isLive s.th = true
  name : s.th.handle = h
  ready : s.th.status = .ready
  outside : s.th.tstat.getLsbD 6 = false
  handler : s.th.tvec ≠ 0

end Sys2Proof.Machine

/-! ### The matrix unit (R60 to R64, R230 to R248) -/

namespace Sys2Proof.Machine

open Sys2Proof

/-- Element `k` of row `r` of an operand slot (R61). -/
def slotElem (x : OpSlot) (r k : Nat) : Nat :=
  ofLe ((List.range 128).map (fun i => sget 0 x.data (128 * r + i))) / 2 ^ (fmtWidth (slotFmt x) * k) % 2 ^ fmtWidth (slotFmt x)

/-- One block of a K-step (R61 to R63): `blk` products from element `k0` on, and the scales of their granule with MX. -/
def blockOf (x y : OpSlot) (r c blk gran k0 : Nat) : Exact :=
  let value (z : OpSlot) (row k : Nat) := decodeElem (slotFmt z) (slotBook z) (slotElem z row k)
  let scale (z : OpSlot) (row : Nat) := if k0 / gran < 4 then (sget (0 : Byte) z.scale (4 * row + k0 / gran)).toNat else 0
  blockSum ((List.range blk).map (fun i => value x r (k0 + i))) ((List.range blk).map (fun i => value y c (k0 + i)))
    (if x.mx then some (scale x r, scale y c) else none)

/-- Element (r, c) of a tile after a K-step of slots `x` and `y` (R63): the blocks in ascending K, or with `INT8` the sum of 128 products. -/
def stepElem (x y : OpSlot) (old : BitVec 32) (r c : Nat) : BitVec 32 :=
  if slotFmt x = .int8 then
    old + BitVec.ofInt 32 (((List.range 128).map (fun k => intElem .int8 (slotElem x r k) * intElem .int8 (slotElem y c k))).sum)
  else
    let (k, blk, gran) := operandShape (slotFmt x)
    kStepFloat old ((List.range (k / blk)).map (fun i => blockOf x y r c blk gran (i * blk)))

/-- The tables of a unit stand in canonical form. -/
def UnitCanonical (s : State) (u : BitVec 8) : Prop :=
  (∀ i < 64, swf 0 (slotAt s u i).data = true ∧ swf 0 (slotAt s u i).scale = true ∧ swf 0 (slotAt s u i).book = true) ∧
  ∀ j < 8, swf 0 (tileAt s u j).elems = true

/-- The rows that act on the entry at the head of a core's queue (R236). -/
def headRow (core : BitVec 11) : Nat → Option Instr
  | 1 => some (.mma core)
  | 2 => some (.drain core)
  | 3 => some (.mzero core)
  | _ => none

/-- A command has ended with this status and result; its completion is due (R172). -/
def hasEnded (t : State) (h : Handle) (q : BitVec 16) (st : BitVec 8) (res : BitVec 32) : Prop :=
  .completionLanding h q ∈ t.pending ∧ ∀ c, findCmd t h q = some c → c.fin = some (st, res)

/-- A command is parked with a fault, and its thread's ring says so (R197, R200). -/
def parks (s t : State) (c : Command) (cause : Cause) (sub : BitVec 8) (val : Word) : Prop :=
  ∀ u, findThread s c.handle = some u → u.status = .ready → (ringAt u c.seq).state ≠ 0 → (ringAt u c.seq).seq = c.seq →
    (∀ d, findCmd t c.handle c.seq = some d → d.state = .parked ∧ d.fault = some (causeCode cause, sub, val) ∧ d.vec = c.vec) ∧
    ∃ v, findThread t c.handle = some v ∧ ringAt v c.seq = { ringAt u c.seq with state := 2, status := sub, vec := c.vec }

end Sys2Proof.Machine

/-! ### Copy engines and memory cores (R210 to R229) -/

namespace Sys2Proof.Machine

open Sys2Proof

/-- ILLEGAL at an L-form: `TVAL` names the slot and holds F (R33). -/
def illegalLong (s : State) (i : Instr) : Prop :=
  ∃ op f, encodeL i = some (op, f) ∧
    exec i s = .next { trapFocus s .illegal (word (3 * 2 ^ 62 + f.toNat)) s.th.pc with last := .window }

/-- Row i of a stream instruction is sent: a read of its bytes, and where they are to land (R228). -/
def sendsRow (s t : State) (n : Nat) (from' : Nat) (to' : Word) (dst : List Chunk) (k : Nat) : Prop :=
  ∃ r, .readRequest r ∈ t.pending ∧ r.o.by' = s.th.handle ∧ r.o.n = k ∧ r.got.length = n ∧
    r.pieces = piecesOf s s.th (chunks .r from' n 0) ∧ r.reply = .row to' (piecesOf s s.th dst)

end Sys2Proof.Machine

/-! ### The fates of landings (R176 to R193) -/

namespace Sys2Proof.Machine

open Sys2Proof

/-- An arrival at a register as R11, R80, R90, R94 and R165 have it: the bytes selected are written, the count falls by one or `LOVR` is set, the
wait that it ends is over, and nothing else of the thread is another. -/
def Delivered (u v : Thread) (p : Packet) : Prop :=
  let r := laReg p.la
  let n := count u r
  let lane := laLane p.la
  if r = .s 0 ∨ r = .m 0 then v = u
  else
    v = { u with s := v.s, m := v.m, v := v.v, sc := v.sc, mc := v.mc, vc := v.vc, tstat := v.tstat, status := v.status } ∧
    count v r = n - (if n = 0 then 0 else 1) ∧ v.tstat = (if n = 0 then u.tstat ||| 0x20 else u.tstat) ∧ (∀ q, q ≠ r → count v q = count u q) ∧
    (match r with
     | .s d => rdS v d = word (ofLe p.payload) ∧ (∀ e, e ≠ d → rdS v e = rdS u e) ∧ v.m = u.m ∧ v.v = u.v
     | .m d => rdM v d = word (ofLe p.payload) ∧ (∀ e, e ≠ d → rdM v e = rdM u e) ∧ v.s = u.s ∧ v.v = u.v
     | .v d => (∀ e, e ≠ d → rdV v e = rdV u e) ∧ v.s = u.s ∧ v.m = u.m ∧
         ∀ i < 256, bits (rdV v d) (8 * i) 8 =
           if 4 * lane ≤ i ∧ i < 4 * lane + p.payload.length ∧ (p.hasMask = false ∨ p.lmask.getLsbD (i / 4) = true) then p.payload.getD (i - 4 * lane) 0
           else bits (rdV u d) (8 * i) 8) ∧
    v.status = (match u.status with
      | .sleeping (.waitp q _) => if q = r ∧ n ≤ 1 then .ready else u.status
      | .sleeping .sleep => .ready
      | x => x)

/-- The subcode with which a landing is refused at its register (R184), in the order of the tests. -/
def refusedWith (u : Thread) (p : Packet) : Option (BitVec 8) :=
  let r := laReg p.la
  if p.o.world ≠ u.world then some 3
  else if laClass p.la = 1 ∧ 32 * u.win.toNat ≤ (laNum p.la).toNat then some 6
  else if p.cond = true ∧ r ≠ .s 0 ∧ r ≠ .m 0 ∧ count u r = 0 then some 4
  else none

/-- The record of a landing failure (R185). -/
def fails (u : Thread) (la : Word) (sub : BitVec 8) (seq : BitVec 32) : Thread :=
  let n := min 255 (field u.lfaultHi 8 8 + 1)
  if field u.lfaultHi 8 8 = 0 ∧ u.tstat.getLsbD 6 = false then
    { u with lfaultLo := la, lfaultHi := word (seq.toNat * 2 ^ 32 + n * 2 ^ 8 + sub.toNat) }
  else
    { u with lfaultHi := word (field u.lfaultHi 32 32 * 2 ^ 32 + 2 ^ 16 + n * 2 ^ 8 + field u.lfaultHi 0 8) }

end Sys2Proof.Machine

/-! ### Saving, resuming, launching and placing (R201 to R207, R316 to R335) -/

namespace Sys2Proof.Machine

open Sys2Proof

/-- The thread in focus is the live thread of the handle. -/
def Focused (s : State) (h : Handle) : Prop := isLive s.th = true ∧ s.th.handle = h

/-- What a node's counter begins with (R319). -/
def firstCount (s : State) (g : BitVec 8) (i : Nat) : Nat := gRd s (nodeAt s g i + 24) 2

/-- The teams of a node, in the order in which they wait for placement (R323). -/
def teamsOf (s : State) (g : BitVec 8) (i : Nat) : List TeamWait :=
  (List.range (nodeTeams s g i)).map (fun j => { graph := g, node := BitVec.ofNat 16 i, team := j })

/-- A valid graph whose nodes have at least one team each and are not concurrent; some node waits for no other (R317 to R319). -/
structure Launchable (s : State) (g : BitVec 8) : Prop where
  valid : graphOk s g = true
  nodes : nodeBad s g = none
  teams : ∀ i < nodeCount s g, 1 ≤ nodeTeams s g i ∧ nodeMode s g i ≠ 2
  first : ∃ i < nodeCount s g, firstCount s g i = 0

/-- The nodes of a graph as `p` has it have been set going: their counters hold their first values, those at 0 are released, and the teams of these
wait for placement, node by node in order (R318, R323). -/
def Released (p t : State) (g : BitVec 8) : Prop :=
  gRd t (graphAt g + 16) 4 = nodeCount p g ∧
  (∀ i < nodeCount p g, nodeCounter t g i = firstCount p g i ∧ nodeState t g i = if firstCount p g i = 0 then 1 else 0) ∧
  t.queue = p.queue ++ ((List.range (nodeCount p g)).filter (fun i => firstCount p g i = 0)).flatMap (teamsOf p g) ∧ .teamPlacement ∈ t.pending

/-- That graph has been launched (R318, R323). -/
def Launched (s t : State) (g : BitVec 8) : Prop :=
  graphState t g = 1 ∧ Released s t g ∧ t.mem = s.mem ∧
    ∃ l, launchOf t g = some l ∧ l.aborting = none ∧ l.asid = BitVec.ofNat 12 (gRd s (graphAt g + 12) 4) ∧ l.world = graphWorld s g

/-- A launch is over, or on its way to its end (R327, R328). -/
def Aborts (t : State) (g : BitVec 8) : Prop := ∀ l, launchOf t g = some l → l.aborting ≠ none

/-- What an entry of a patch list writes into a node: the parameter, the number of teams, the priority or the first count (R322). -/
def patches (s t : State) (g : BitVec 8) (e : PatchEntry) : Prop :=
  let a := nodeAt s g e.node
  let (off, n) : Nat × Nat := if e.what = 0 then (0, 8) else if e.what = 1 then (16, 2) else if e.what = 2 then (20, 1) else (24, 2)
  gRd t (a + off) n = e.value % 2 ^ (8 * n) ∧ (∀ b, b < a + off ∨ a + off + n ≤ b → sget 0 t.gmem b = sget 0 s.gmem b) ∧ t.mem = s.mem

/-- No two live threads have one handle. -/
def HandlesDistinct (s : State) : Prop := ((allThreads s).filter isLive).Pairwise (fun u v => u.handle ≠ v.handle)

/-- No line of a channel buffer stands under a key (R223, R224). -/
def NoKeys (s : State) : Prop := ∀ e ∈ s.buffers, ∀ x ∈ e.2, x.key = none

/-- The image and the record of a saved thread stand in memory, as it is now, and no other byte has changed (R102, R103). -/
def SavedIn (s t : State) (image : Word) : Prop :=
  let a := image.toNat % 2 ^ 45
  let r := recordPlace s (hIndex t.th.handle)
  rdMem t.mem a (imageBytes t.th).length = imageBytes t.th ∧ rdMem t.mem r 64 = recordBytes t.th image ∧
    ∀ b, ¬ (a ≤ b ∧ b < a + (imageBytes t.th).length) → ¬ (r ≤ b ∧ b < r + 64) → rdByte t b = rdByte s b

/-- The blocked team that gives way to the first waiting team of a parallel node that finds no room and has one in its graph (R332). -/
def reliefFor (s : State) : Option Nat :=
  s.queue.findSome? (fun w =>
    if nodeMode s w.graph w.node.toNat = 1 ∧
        clusterFor s (nodeDie s w.graph w.node.toNat) (nodeThreads s w.graph w.node.toNat) (nodeWindow s w.graph w.node.toNat) = none
    then blockedFor s w else none)

/-- Every thread of a team that is in a slot is ordered to be saved, or leaves already (R333). -/
def SavesTeam (s t : State) (n : Nat) : Prop :=
  ∀ u ∈ allThreads s, inSlot u = true → u.team = n → ∃ v ∈ allThreads t, v.handle = u.handle ∧ leaving v = true

end Sys2Proof.Machine

/-! ### Translation, pages and the requests of system software (R337 to R350, R358, R359, R367, R368) -/

namespace Sys2Proof.Machine

open Sys2Proof

/-- No translation agent holds an entry that the invalidation selects, nor has an access or walk under one (R347). -/
def NobodyHolds (s : State) (tag : Word) (sel : BitVec 2) : Prop :=
  ∀ g, (tlbOf s g).any (selects tag sel) = false ∧ agentBusy s g tag sel = false

/-- The number in bytes of a request, lowest first (R368). -/
def byteField (e : BitVec 512) (at' n : Nat) : Nat := (e.extractLsb' (8 * at') (8 * n)).toNat

/-- The bytes of a request that its operation does not name are 0 (R368). -/
def otherwiseZero (e : BitVec 512) (named : List (Nat × Nat)) : Prop :=
  ∀ i, 8 ≤ i → i < 64 → (∀ r ∈ named, ¬ (r.1 ≤ i ∧ i < r.1 + r.2)) → byteField e i 1 = 0

/-- The MMP answers a request with a status, and does to the machine, its rings apart, what `does` says (R367, R368). -/
def served (s : State) (i : Instr) (e : BitVec 512) (st : BitVec 8) (does : State → Prop) : Prop :=
  ∃ t, exec i s = .next t ∧ .ring (e.truncate 8) st ∈ t.outbox ∧ t.th = s.th ∧ t.rest = s.rest ∧ does t

/-- An entry of a table at an address reads as this word. -/
def entryReads (t : State) (a : Nat) (w : Word) : Prop := word (ofLe (rdBytes t a 8)) = w

end Sys2Proof.Machine

/-! ### The host, device interfaces, attestation, resets and bring-up (R316, R351 to R377) -/

namespace Sys2Proof.Machine

open Sys2Proof

/-- Every byte of an access through the aperture may be reached (R360). -/
def reachesAll (s : State) (f : BitVec 6) (a n : Nat) : Prop := ∀ i, i < n → hostReaches s f (a + i) = true

/-- The destruction of an interface's world has begun: its launches are being aborted, the sessions bound to the interface have ended, and the
interface is to go on to a state once the world's threads have ended (R361, R363). -/
def leavesLock (s t : State) (f : BitVec 6) (st : Tdisp) : Prop :=
  let w := (funcAt s f).world
  (funcAt t f).leaving = some st ∧ .leaveLock f st ∈ t.pending ∧ (funcAt t f).tdisp = (funcAt s f).tdisp ∧
  (funcAt t f).apbase = (funcAt s f).apbase ∧ (funcAt t f).ide = false ∧
  (∀ g l, launchOf t g = some l → l.world = w → l.aborting.isSome = true) ∧
  (∀ c, (funcAt s (chanAt s c).func).world = w ∨ (chanAt s c).world = w → (chanAt t c).en = false ∧ (chanAt t c).fifo = []) ∧ (∀ e ∈ t.sessions, e.1 ≠ f) ∧ ∀ e ∈ t.ideKeys, e.1 ≠ f

/-- What moves an interface out of its locked states: once, and no more while it is leaving them. -/
def movesOut (i : Instr) (s : State) (f : BitVec 6) (st : Tdisp) : Prop :=
  ((funcAt s f).leaving = none → ∃ t, exec i s = .next t ∧ leavesLock s t f st) ∧ ((funcAt s f).leaving ≠ none → exec i s = .next s)

/-- The world of an interface is destroyed: no key, window, bond entry or frame is its own any more; the interface is in its new state, which
is reported (R361, R363). -/
def destroyed (s t : State) (f : BitVec 6) (st : Tdisp) : Prop :=
  let w := (funcAt s f).world
  (funcAt t f).tdisp = st ∧ (funcAt t f).leaving = none ∧ .tdisp f st ∈ t.outbox ∧
  (∀ k x, sget none t.keySlots k = some x → x.1 ≠ w) ∧ (∀ k x, sget none t.windows k = some x → x.world ≠ w) ∧
  (∀ k x, sget none t.bonds k = some x → x.world ≠ w) ∧
  (swf Owner.init s.owners = true → ∀ fr, ¬ ((ownerOf t fr).st = 1 ∧ (ownerOf t fr).world = w))

/-- What the host writes to graph memory: the status words and fatal records of the graph table keep their bytes (R317, R318). -/
def hostGraphBytes (s : State) (o : Nat) (data : List Byte) : List Byte :=
  (List.range data.length).map (fun i =>
    let a := o + i
    if a < 0x4000 ∧ ((24 ≤ a % 64 ∧ a % 64 < 37) ∨ (40 ≤ a % 64 ∧ a % 64 < 56)) then sget 0 s.gmem a else data.getD i 0)

/-- The machine once what has failed is fused out (R373). -/
def afterFuses (s : State) : State := { s with capcl := (fusedOut s).1, capst := (fusedOut s).2, broken := [] }

/-- Lintel answers a request with an SPDM message of a kind, whose bytes are free (log 6), and the machine is else as `u`. -/
def attests (i : Instr) (s u : State) (f : BitVec 6) (kind : Nat) : Prop := ∃ d, exec i s = .next (send u (.spdm f kind d))

/-- Lintel refuses a request (R355, R361). -/
def attestRefused (i : Instr) (s : State) (f : BitVec 6) : Prop := exec i s = .next (send s (.spdmError f))

end Sys2Proof.Machine

/-! ### The tree engine (R252 to R271) -/

namespace Sys2Proof.Machine

open Sys2Proof

/-- An instruction of a tree engine may act: its tree is bound, of its world, no earlier instruction is to end first, and no range lock covers
what it touches (R219, R259, R269). -/
structure ActsOn (s : State) (r : TreeReq) (t : Tree) : Prop where
  bound : treeAt s r.cluster r.t = some t
  world : t.world = r.o.world
  turn : treeBehind s r = false
  free : engLocked s t.world (treeTouches s t r.op) = false

/-- The word of R261. -/
def descentWord (w : Word) (node slot depth kind : Nat) : Prop :=
  field w 0 32 = node % 2 ^ 32 ∧ field w 32 16 = slot ∧ field w 48 8 = min depth 255 ∧ field w 56 8 = kind

/-- The record of a child (R262). -/
def freshChild (leaf : Nat) (entry : List Byte) : Node :=
  { n := 0, w := 0, vl := 0, flags := if ofLe (slice entry 6 1) % 2 = 1 then 2 else 0, p := ofLe (slice entry 4 2), count := 0, first := 0xFFFFFFFF
    parent := leaf, action := ofLe (slice entry 0 4), batch := 0xFFFFFFFF }

/-- A dead record (R254). -/
def deadNode : Node := { n := 0, w := 0, vl := 0, flags := 0, p := 0, count := 0, first := 0, parent := 0, action := 0, batch := 0 }

/-- A descriptor in the form of R252, which is checked before `init` sets any of its fields (R260). -/
def goodDescriptor (b : List Byte) : Prop :=
  let f (off n : Nat) := ofLe (slice b off n)
  f 0 8 % 32 = 0 ∧ 1 ≤ f 8 4 ∧ f 8 4 ≤ 2 ^ 24 ∧ 1 ≤ f 12 2 ∧ f 12 2 ≤ 256 ∧ f 14 1 < 2 ∧ f 15 1 = 0 ∧ f 8 4 * f 12 2 < 2 ^ 32 ∧
    f 32 4 ≤ f 8 4 ∧ f 55 9 = 0

end Sys2Proof.Machine

/-! ### The bond engine (R274 to R293) -/

namespace Sys2Proof.Machine

open Sys2Proof

/-- A state word is valid for an entry (R276). -/
def ValidState (m : Mesh) (b : BondEntry) (st : BitVec 32) : Prop :=
  let shards (d : Nat) : Nat := (((List.range m.sizes.length).filter (fun i => field st (8 * i) 2 = 1 ∧ field st (8 * i + 2) 2 = d)).map (fun i => m.sizes.getD i 1)).foldl (· * ·) 1
  let f := (fmtOf b.fmt).getD .fp32
  (∀ i < 4, if m.sizes.length ≤ i then field st (8 * i) 8 = 0
    else field st (8 * i) 2 ≠ 3 ∧ field st (8 * i + 4) 4 = 0 ∧ (field st (8 * i) 2 = 1 → field st (8 * i + 2) 2 < b.ndim.toNat) ∧
      (field st (8 * i) 2 ≠ 1 → field st (8 * i + 2) 2 = 0) ∧ (field st (8 * i) 2 = 2 → f ≠ .cb4 ∧ f ≠ .e8m0)) ∧
  (∀ d < 4, dimOf b d % shards d = 0) ∧ (fmtWidth f = 4 → dimOf b 0 / shards 0 % 2 = 0)

/-- `TVAL` of PLACEMENT_FAULT (R281). -/
def placementVal (v : Word) (e : BitVec 12) (r : BitVec 4) (c : BitVec 12) (q : BitVec 32) : Prop :=
  bits v 0 12 = e ∧ bits v 12 4 = r ∧ bits v 16 12 = c ∧ bits v 28 4 = 0 ∧ bits v 32 32 = q

/-- The thread in focus stands on no agreement with this bundle. -/
def NewDemand (s : State) : Prop := ∀ w ∈ s.bondWaits, ∀ e ∈ w.waiters, ¬ (e.1 = s.th.handle ∧ e.2.2 = s.th.pc)

/-- An agreement goes on, in which the thread in focus stands with this bundle: the first of the waits for it. -/
def StandsOn (s : State) (p : BondWait → Bool) (w : BondWait) : Prop :=
  s.bondWaits.find? (fun v => p v && v.waiters.any (fun e => e.1 = s.th.handle && e.2.2 = s.th.pc)) = some w

end Sys2Proof.Machine

/-! ### The network engine (R85, R191, R294 to R311) -/

namespace Sys2Proof.Machine

open Sys2Proof

/-- What a network command asks for, before its connection has numbered it (R304, R305). -/
def asksFor (dst : BitVec 12) (x : NetMod) (d : BitVec 6) (target place : Word) (len : Nat) : NetCmd :=
  let seg := 1024 * 2 ^ x.seg.toNat
  { dst := dst, cls := x.cc, mode := x.dm, tag := 0, gen := 0, msg := 0, csn := 0, ob := x.ob, e := x.e.toNat, seg := seg, land := false, target := target
    place := place, len := len, op := .swap, dbl := false, b := 0, c := 0, reply := none, packets := (len + seg - 1) / seg, sent := 0, got := [], heard := []
    status := 0, d := d }

/-- There is room for one more network command of the thread: in its ring, among the tags, and no fence holds it (R297, R305). -/
structure NetRoom (s : State) (dst : BitVec 12) (cls : BitVec 4) : Prop where
  few : outstanding64 s.th < 64
  free : (ringAt s.th s.th.dseqNext).state = 0
  tags : (tagsUsed s dst cls).length < 4096
  open' : fenced s s.th 8 = false

/-- A network command is accepted: its ring entry is taken, its destination awaits the completion word, and its connection has numbered its packets and
its message, under a tag that is free (R85, R296, R297, R305). -/
def accepted (s t : State) (d : BitVec 6) (kind : BitVec 8) (n : NetCmd) : Prop :=
  let q := s.th.dseqNext
  let e : RingEntry := { RingEntry.free with seq := q, lc := decide (d ≠ 0), state := 1, kind := kind }
  let k := connOf s n.dst n.cls n.mode
  t.th = (let u := { ringSet (advance s.th) q e with dseqNext := q + 1 }; if d = 0 then u else setCount u (.s d) 1) ∧ t.rest = s.rest ∧ t.mem = s.mem ∧
    .netSend s.th.handle q ∈ t.pending ∧ (connOf t n.dst n.cls n.mode).csn = k.csn + BitVec.ofNat 32 n.packets ∧
    (connOf t n.dst n.cls n.mode).msg = k.msg + 1 ∧
    ∃ c tag, t.cmds = s.cmds ++ [c] ∧ c.handle = s.th.handle ∧ c.seq = q ∧ c.kind = kind ∧ c.world = s.th.world ∧ c.asid = s.th.asid ∧ c.state = .running ∧
      c.fin = none ∧ tag ∉ tagsUsed s n.dst n.cls ∧
      c.net = some { n with csn := k.csn, msg := k.msg, tag := tag, gen := sget 0 s.tagGens (tagKey n.dst n.cls tag) }

/-- Of a network target: device, window and offset (R298). -/
def targetOf (t : Word) : BitVec 12 × BitVec 16 × Nat := (bits t 52 12, bits t 36 16, (bits t 0 36).toNat)

/-- A target cannot be named by a command of some bytes: window 0, past 2³⁶, with the ordering bit a device of standard semantics, or with
packets of 8,192 bytes another device by a port of smaller frames (R294, R305). -/
def unnameable (s : State) (t : Word) (n : Nat) (x : NetMod) : Prop :=
  let dst := (targetOf t).1
  (targetOf t).2.1 = 0 ∨ 2 ^ 36 < (targetOf t).2.2 + n ∨ (x.ob = true ∧ lomkin s dst = false) ∨
    (x.seg = 3 ∧ dst ≠ s.dev ∧ ∃ k, k < 2 ^ x.e.toNat ∧ Config.smallFrames (portFor s (netDie dst x.cc) (BitVec.ofNat 8 k)) = true)

end Sys2Proof.Machine

/-! ### Invariants and reset -/

namespace Sys2Proof.Machine

open Sys2Proof

/-- The tables of every matrix unit stand in canonical form: the bytes, scales and codebooks of its slots, the elements of its tiles. -/
def UnitsCanonical (s : State) : Prop :=
  ∀ u ∈ s.units, (∀ x ∈ u.2.slots, swf (0 : Byte) x.2.data = true ∧ swf (0 : Byte) x.2.scale = true ∧ swf (0 : Byte) x.2.book = true) ∧
    ∀ x ∈ u.2.tiles, swf (0 : BitVec 32) x.2.elems = true

/-- Memories and units stand in canonical form: what every step keeps. -/
def Canonical (s : State) : Prop := MemoriesCanonical s ∧ UnitsCanonical s

end Sys2Proof.Machine

section
open Sys2Proof Sys2Proof.Machine

/-- (1) The worked encodings of R28, R30, R35, R95, R110, R113, R116 and R131 decode to the instructions that they stand for. (2) R35: erased memory
holds no instruction: the all-zero bundle and the all-ones bundle are ILLEGAL, in the slots that the rule names. -/
def Obligations.WorkedEncodingsDecode : Prop :=
 (
  decodeBundle 0x0000000082304180 = .pair (.add 6 2 3) .nopA ∧
  decodeBundle 0x00000000A0090003 = .pair (.bcond .eq 9 0 3) .nopA ∧
  decodeBundle 0x0000000902000004 = .long (.movi 4 0x480000) ∧
  decodeBundle 0x000000009038A083 = .pair (.srai 7 5 3) .nopA ∧
  decodeBundle 0x00000000921892C8 = .pair (.bfx 3 4 11 8) .nopA ∧
  decodeBundle 0x0000000004100147 = .long (.movih 7 0x4005) ∧
  decodeBundle 0x00000000A5FFFFFC = .pair (.jal 0x1FFFFFC) .nopA ∧
  decodeBundle 0x00000000A607E000 = .pair (.jalr 0 63 0) .nopA ∧
  decodeBundle 0x00000000B4120001 = .pair (.waitp (.s 9) true) .nopA ∧
  decodeBundle 0x00000000B0280103 = .pair (.vempty 20 3) .nopA ∧
  decodeBundle 0x00000000AC180003 = .pair (.rdsr 3 3) .nopA ∧
  decodeBundle 0x00000000B6000001 = .pair (.trap 1) .nopA ∧
  decodeBundle 0x07E813E880000000 = .pair .nop (.vadd 250 4 250 0) ∧
  decodeBundle 0x0000000080000000 = .pair .nop .nopA) ∧
 (
  (∃ r, decodeBundle 0 = .illegal 3 0 r) ∧ (∃ r, decodeBundle (BitVec.allOnes 64) = .illegal 1 0xFFFFFFFF r))

/-- (1) R25 to R43: every well-formed instruction of each slot is read back from its word, with every operand at every value. (2) R34: a word that
decodes in the C-slot is the one encoding of a well-formed instruction: no bit of it is ignored, and no other word stands for the same. (3) R34:
the same of the A-slot. (4) R34: the same of the L-form. -/
def Obligations.EncodingIsABijection : Prop :=
 (
  (∀ (i : Instr) (w : BitVec 32), wf i = true → encodeC i = some w → decodeC w = .ok i) ∧
  (∀ (i : Instr) (w : BitVec 32), wf i = true → encodeA i = some w → decodeA w = .ok i) ∧
  (∀ (i : Instr) (op : BitVec 6) (f : BitVec 57), wf i = true → encodeL i = some (op, f) → decodeL op f = .ok i)) ∧
 (
  ∀ (w : BitVec 32) (i : Instr), decodeC w = .ok i → encodeC i = some w ∧ wf i = true) ∧
 (
  ∀ (w : BitVec 32) (i : Instr), decodeA w = .ok i → encodeA i = some w ∧ wf i = true) ∧
 (
  ∀ (op : BitVec 6) (f : BitVec 57) (i : Instr), decodeL op f = .ok i → encodeL i = some (op, f) ∧ wf i = true)

/-- R25, R28, R35: every well-formed instruction that has an encoding stands in a bundle of its own, and the eight bytes of that bundle, lowest
address first, give it back. -/
def Obligations.BundlesRoundTrip : Prop :=
  ∀ i : Instr, wf i = true → hasWord i = true →
    ∃ b, encode i = some b ∧ holdsAlone b i ∧ decodeBytes (bytesOfBundle b) = .ok (decodeBundle b, [])

/-- R25, R31, R89: when the bundle at the program counter decodes to a well-formed instruction, alone or beside a `NOP`, the step is that
instruction, run on the machine after the fetch; around it the step notes that the slot issued last and moves the turn (the turn is the model's
own, log 5). A bundle that waits is tried again, and is not this case. -/
def Obligations.StepRunsDecodedInstruction : Prop :=
  ∀ (s t : State) (i : Instr), Issues s → wf i = true → holdsAlone (theBundle s) i →
    exec i (afterFetch s) = .next t → waits t.last = false → step s = .next (tick (noteIssue s.th t))

/-- R31: of a paired bundle both instructions read the machine as it stood before the bundle, and their effects take place together: the program
counter and everything beside the registers is the C-slot's, each register is that of the instruction which changes it, and the flags of both are
raised. -/
def Obligations.StepRunsBothInstructions : Prop :=
  ∀ (s x y : State) (c a : Instr), Issues s → decodeBundle (theBundle s) = .pair c a → isNopA a = false → isNopC c = false →
    formBad (afterFetch s) c = false → formBad (afterFetch s) a = false → conflict (afterFetch s).th c a = false →
    exec c (afterFetch s) = .next x → exec a (clearFlags (afterFetch s)) = .next y → x.last = .done → y.last = .done →
    ∃ t, step s = .next (tick (noteIssue s.th t)) ∧ t = setTh x t.th ∧ t.th.pc = x.th.pc ∧ t.th.v = y.th.v ∧
      (∀ n : Fin 64, t.th.s[n] = if y.th.s[n] = s.th.s[n] then x.th.s[n] else y.th.s[n]) ∧
      (∀ n : Fin 16, t.th.m[n] = if y.th.m[n] = s.th.m[n] then x.th.m[n] else y.th.m[n]) ∧
      t.th.tstat = x.th.tstat ||| (y.th.tstat &&& 0x1F)

/-- (1) R32, R33: two instructions that write one register trap ILLEGAL with slot 0 and word 0 in `TVAL`, and neither takes effect. (2) R34: a bundle
that decodes to no instruction traps ILLEGAL at its own address, before any operand is waited for; `TVAL` holds the slot and the word that failed
(R33). A C-slot that decodes and is ILLEGAL by itself, such as a read of a special register that is not there, comes before an A-slot that does
not decode. (3) R34: a word that stands for no instruction, once it has been decoded as such, traps ILLEGAL with its slot and its detail in
`TVAL`. -/
def Obligations.BundlesThatTrap : Prop :=
 (
  ∀ (s : State) (c a : Instr), Issues s → decodeBundle (theBundle s) = .pair c a → isNopA a = false →
    formBad (afterFetch s) c = false → formBad (afterFetch s) a = false → conflict (afterFetch s).th c a = true →
    step s = .next (tick (noteIssue s.th { trapFocus (afterFetch s) .illegal ((word0 (theBundle s)).zeroExtend 64) s.th.pc with last := .window }))) ∧
 (
  ∀ (s : State) (slot : BitVec 2) (detail : BitVec 57) (r : Reject), Issues s → decodeBundle (theBundle s) = .illegal slot detail r →
    let traps (v : Nat) : Prop := step s = .next (tick (noteIssue s.th { trapFocus (afterFetch s) .illegal (word v) s.th.pc with last := .window }))
    let first (c : Instr) : Prop := slot = 2 ∧ decodeC (word0 (theBundle s)) = .ok c ∧ formBad (afterFetch s) c = true
    ((∀ c, ¬ first c) → traps (slot.toNat * 2 ^ 62 + detail.toNat)) ∧ (∀ c, first c → traps (2 ^ 62 + (word0 (theBundle s)).toNat))) ∧
 (
  ∀ (s : State) (slot : BitVec 2) (detail : BitVec 57),
    exec (.unassigned slot detail) s =
      .next { trapFocus s .illegal (word (slot.toNat * 2 ^ 62 + detail.toNat)) s.th.pc with last := .window })

/-- (1) R104, R106, R107, R109, R110, R30: with its operands and its destination present a scalar instruction completes: its result stands in its
destination, the program counter is at the next bundle, and nothing else is another. (2) R105: division by zero, the one quotient that does not
fit, and every other division. (3) R108: the field of `l + 1` bits from `p` on, for every field that lies in the register. -/
def Obligations.ScalarResults : Prop :=
 (
  ∀ (s : State) (i : Instr) (d : BitVec 6) (reads : List (BitVec 6)) (v : Word), scalarEffect s.th i = some (d, reads, v) →
    Ready s (scalarNeeds d reads) → exec i s = becomes s (advance (wrS s.th d v))) ∧
 (
  ∀ (s : State) (i : Instr) (d : BitVec 6) (reads : List (BitVec 6)) (v : Word), divisionEffect s.th i = some (d, reads, v) →
    Ready s (scalarNeeds d reads) → exec i s = becomes s (advance (wrS s.th d v))) ∧
 (
  ∀ (s : State) (d a l p : BitVec 6), p.toNat + l.toNat < 64 → Ready s [.s d, .s a] →
    exec (.bfxu d a l p) s =
      becomes s (advance (wrS s.th d ((rdS s.th a <<< (63 - l.toNat - p.toNat)) >>> (63 - l.toNat)))) ∧
    exec (.bfx d a l p) s =
      becomes s (advance (wrS s.th d ((rdS s.th a <<< (63 - l.toNat - p.toNat)).sshiftRight (63 - l.toNat)))) ∧
    ∃ v : Word, exec (.bfi d a l p) s = becomes s (advance (wrS s.th d v)) ∧
      ∀ i < 64, v.getLsbD i = if p.toNat ≤ i ∧ i ≤ p.toNat + l.toNat then (rdS s.th a).getLsbD (i - p.toNat) else (rdS s.th d).getLsbD i)

/-- (1) The frame of the scalar instructions (R31, R104): whatever state comes next, no register but the destination, no flag, no special register,
no presence, no byte of memory and no other thread is another, unless the bundle trapped. (2) R90, R94, R102: a scalar instruction that names an
empty register stalls: it does not take effect, and it does not trap. Of the machine only the record of its operands, of which the thread awaits
the first empty one in field order, is another. (3) R29, R92: `S0` reads zero and `M0` all ones, a write to either is discarded, and both
are always present. Every other register reads what was last written to it, and a write leaves the others as they were. (4) R30, R35: `XSET`
writes ten bits of a sum; a `NOP` of either slot only moves on. -/
def Obligations.ScalarFrame : Prop :=
 (
  ∀ (s t : State) (i : Instr) (d : BitVec 6) (reads : List (BitVec 6)), isScalarForm s.th i d reads → exec i s = .next t →
    SameMachine s t ∧ OnlyScalars s t ∧ SameMemory s t ∧ (∀ r, r ≠ d → rdS t.th r = rdS s.th r)) ∧
 (
  ∀ (s : State) (i : Instr) (d : BitVec 6) (reads : List (BitVec 6)) (r : Reg), isScalarForm s.th i d reads →
    r ∈ scalarNeeds d reads → present s.th r = false →
      exec i s = .next { s with th := { s.th with awaited := scalarNeeds d reads }, last := .stalled }) ∧
 (
  ∀ (t : Thread) (v : Word), rdS t 0 = 0 ∧ rdM t 0 = BitVec.allOnes 64 ∧ wrS t 0 v = t ∧ wrM t 0 v = t ∧
    present t (.s 0) = true ∧ present t (.m 0) = true ∧
    (∀ r : BitVec 6, r ≠ 0 → rdS (wrS t r v) r = v) ∧ (∀ r q : BitVec 6, r ≠ q → rdS (wrS t r v) q = rdS t q) ∧
    (∀ r : BitVec 4, r ≠ 0 → rdM (wrM t r v) r = v) ∧ (∀ r q : BitVec 4, r ≠ q → rdM (wrM t r v) q = rdM t q)) ∧
 (
  ∀ (s : State) (x : BitVec 3) (a : BitVec 6) (i : BitVec 13),
    exec .nop s = becomes s (advance s.th) ∧ exec .nopA s = becomes s (advance s.th) ∧
    (present s.th (.s a) = true →
      exec (.xset x a i) s = becomes s (advance (wrX s.th x ((rdS s.th a + i.signExtend 64).truncate 10)))))

/-- (1) R111: a branch goes `off10` bundles on if its condition holds, and to the next bundle otherwise. (2) R112: jumps are relative to the bundle's
own address, and link the address of the next; `JL` to `S0` links nowhere. (3) R113: `JALR` reads its base before it links, and traps MISALIGN
with the target in `TVAL`, changing neither, if the target is no multiple of 8. -/
def Obligations.BranchesAndJumps : Prop :=
 (
  ∀ (s : State) (a b : BitVec 6) (o : BitVec 10), Ready s [.s a, .s b] →
    let x := rdS s.th a
    let y := rdS s.th b
    let go (p : Prop) [Decidable p] : Out := becomes s { s.th with pc := if p then s.th.pc + 8 * o.signExtend 64 else s.th.pc + 8 }
    exec (.bcond .eq a b o) s = go (x = y) ∧ exec (.bcond .ne a b o) s = go (x ≠ y) ∧
    exec (.bcond .lt a b o) s = go (x.toInt < y.toInt) ∧ exec (.bcond .ge a b o) s = go (y.toInt ≤ x.toInt) ∧
    exec (.bcond .ltu a b o) s = go (x.toNat < y.toNat) ∧ exec (.bcond .geu a b o) s = go (y.toNat ≤ x.toNat)) ∧
 (
  ∀ (s : State) (d : BitVec 6) (o : BitVec 25) (f : BitVec 51), Ready s [.s 63, .s d] →
    exec (.j o) s = becomes s { s.th with pc := s.th.pc + 8 * o.signExtend 64 } ∧
    exec (.jal o) s = becomes s { wrS s.th 63 (s.th.pc + 8) with pc := s.th.pc + 8 * o.signExtend 64 } ∧
    exec (.jl d f) s = becomes s { wrS s.th d (s.th.pc + 8) with pc := s.th.pc + 8 * f.signExtend 64 } ∧
    exec (.jl 0 f) s = becomes s { s.th with pc := s.th.pc + 8 * f.signExtend 64 }) ∧
 (
  ∀ (s : State) (d a : BitVec 6) (i : BitVec 13), Ready s [.s d, .s a] →
    let target := rdS s.th a + i.signExtend 64
    (target.toNat % 8 = 0 → exec (.jalr d a i) s = becomes s { wrS s.th d (s.th.pc + 8) with pc := target }) ∧
    (target.toNat % 8 ≠ 0 → exec (.jalr d a i) s = trapsWith s .misalign target))

/-- (1) R115: `EMPTY` sets the count of arrivals that its register awaits to n, `FILL` to 0, whether the register is empty or not; its bits stay. (2)
R92: `EMPTY` and `FILL` of `S0` or `M0` are ILLEGAL; `TVAL` names the slot and holds the word (R33). (3) R94: the count of a register after its
presence was set, and that of every other register as it was. -/
def Obligations.PresenceInstructions : Prop :=
 (
  ∀ (s : State) (r n : BitVec 6) (k : BitVec 4) (v : BitVec 8),
    (r ≠ 0 → exec (.empty r n) s = becomes s (advance (setCount s.th (.s r) (BitVec.ofNat 7 (n.toNat + 1))))) ∧
    (k ≠ 0 → exec (.emptyMask k n) s = becomes s (advance (setCount s.th (.m k) (BitVec.ofNat 7 (n.toNat + 1))))) ∧
    (InWindow s [v] → exec (.vempty v n) s = becomes s (advance (setCount s.th (.v (spec s.th v)) (BitVec.ofNat 7 (n.toNat + 1))))) ∧
    (r ≠ 0 → exec (.fill (.s r)) s = becomes s (advance (setCount s.th (.s r) 0))) ∧
    (k ≠ 0 → exec (.fill (.m k)) s = becomes s (advance (setCount s.th (.m k) 0))) ∧
    (InWindow s [v] → exec (.fill (.v v)) s = becomes s (advance (setCount s.th (.v (spec s.th v)) 0)))) ∧
 (
  ∀ (s : State) (n : BitVec 6) (i : Instr), i ∈ [.empty 0 n, .emptyMask 0 n, .fill (.s 0), .fill (.m 0)] →
    ∃ w, encodeC i = some w ∧
      exec i s = .next { trapFocus s .illegal (word (2 ^ 62 + w.toNat)) s.th.pc with last := .window }) ∧
 (
  ∀ (t : Thread) (r q : Reg) (c : BitVec 7), r ≠ .s 0 → r ≠ .m 0 →
    count (setCount t r c) r = c ∧ (present (setCount t r c) r = true ↔ c = 0) ∧ (q ≠ r → count (setCount t r c) q = count t q))

/-- R116: a thread that waits for a present register goes on; for an empty one it sleeps after its bundle, and the wait names the register. -/
def Obligations.WaitSleepsUntilPresent : Prop :=
  ∀ (s : State) (r : PReg) (q : Bool), InWindow s (pregSpecs r) →
    (present s.th (pregReg s.th r) = true → exec (.waitp r q) s = becomes s (advance s.th)) ∧
    (present s.th (pregReg s.th r) = false →
      exec (.waitp r q) s = becomes s { advance s.th with status := .sleeping (.waitp (pregReg s.th r) q) })

/-- (1) R95, R129: `RDSR` gives the register that its number names, and is ILLEGAL where there is none. (2) R95 to R98, R100, R194: a value that a
writable special register takes; `INTRAP` is not written. (3) R194, R198: a write of `TEPC` clears `WAIT` and abandons the wait; a waiter queued
in `EVW` leaves its line. (4) R95: what a special register does not take. A reserved bit, a value outside a field's range, a register that is
read only or not there: ILLEGAL. A reserved format code: FORMAT. That a value for `BFMTb` with both a reserved bit and a reserved format code is
ILLEGAL is the model's choice, since R95 gives no order (log 45). -/
def Obligations.SpecialRegisters : Prop :=
 (
  ∀ (s : State) (d : BitVec 6) (n : BitVec 12),
    (specialThere s.th n.toNat → present s.th (.s d) = true →
      ∃ v, specialReads s n.toNat v ∧ exec (.rdsr d n) s = becomes s (advance (wrS s.th d v))) ∧
    (¬ specialThere s.th n.toNat → ∃ w, encodeC (.rdsr d n) = some w ∧ exec (.rdsr d n) s = illegalAt s w .window)) ∧
 (
  ∀ (s : State) (a : BitVec 6) (b : BitVec 4) (q : Fin 4), present s.th (.s a) = true →
    let v := rdS s.th a
    (v.toNat < 2 ^ 7 → exec (.wrsr a 3) s = becomes s { advance s.th with tstat := (v &&& 0x3F) ||| (s.th.tstat &&& 0x40) }) ∧
    (v.toNat < 2 → exec (.wrsr a 4) s = becomes s { advance s.th with actl := v }) ∧
    (b.toNat < s.th.win.toNat → v.toNat < 256 → (fmtOf (v.truncate 8)).isSome = true →
      exec (.wrsr a (0x10 + b.zeroExtend 12)) s = becomes s (wrBfmt (advance s.th) b (v.truncate 8))) ∧
    (b.toNat < s.th.win.toNat → ∃ c : BitVec 256,
      exec (.wrsr a (0x20 + 4 * b.zeroExtend 12 + BitVec.ofNat 12 q.val)) s = becomes s (wrCbk (advance s.th) b c) ∧
      ∀ j : Fin 4, bits c (64 * j.val) 64 = if j = q then v else bits (rdCbk s.th b) (64 * j.val) 64) ∧
    (v.toNat % 8 = 0 → v.toNat < 2 ^ 56 → exec (.wrsr a 0x63) s = becomes s { advance s.th with tvec := v }) ∧
    (1 ≤ v.toNat → v.toNat ≤ 8 → exec (.wrsr a 0x67) s = becomes s { advance s.th with muw := v })) ∧
 (
  ∀ (s : State) (a : BitVec 6), present s.th (.s a) = true →
    ∃ t, exec (.wrsr a 0x62) s = .next t ∧ t.last = .done ∧ t.rest = s.rest ∧
      t.th = { advance s.th with tepc := rdS s.th a, tcause := s.th.tcause &&& ~~~0xE00, waited := none, woken := false } ∧
      ∀ (line : BitVec 8) (c : BitVec 7), s.th.waited = some (.evw line) → ∀ w ∈ (clusterAt t c).waiters, w.2 ≠ s.th.handle) ∧
 (
  ∀ (s : State) (a : BitVec 6) (n : BitVec 12) (b : BitVec 4),
    (n.toNat ∉ [3, 4, 0x62, 0x63, 0x67] → ¬ (0x10 ≤ n.toNat ∧ n.toNat < 0x60 ∧ specialThere s.th n.toNat) →
      ∃ w, encodeC (.wrsr a n) = some w ∧ exec (.wrsr a n) s = illegalAt s w .window) ∧
    (present s.th (.s a) = true → let v := rdS s.th a
      (n = 3 ∧ 2 ^ 7 ≤ v.toNat) ∨ (n = 4 ∧ 2 ≤ v.toNat) ∨ (n = 0x63 ∧ (v.toNat % 8 ≠ 0 ∨ 2 ^ 56 ≤ v.toNat)) ∨
        (n = 0x67 ∧ (v = 0 ∨ 8 < v.toNat)) ∨ (n = 0x10 + b.zeroExtend 12 ∧ b.toNat < s.th.win.toNat ∧ 256 ≤ v.toNat) →
      ∃ w, encodeC (.wrsr a n) = some w ∧ exec (.wrsr a n) s = illegalAt s w .trapped) ∧
    (present s.th (.s a) = true → b.toNat < s.th.win.toNat → (rdS s.th a).toNat < 256 →
      fmtOf ((rdS s.th a).truncate 8) = none → exec (.wrsr a (0x10 + b.zeroExtend 12)) s = trapsWith s .format 0))

/-- (1) R196: taking a trap, as the procedure TrapEntry has it: outside a handler, with a handler, the cause word is formed, the value and the return
address are saved, `INTRAP` is set, and the thread goes on at its handler. R199: with `INTRAP` 1 or no handler it stops fatally; its trap
registers receive the cause all the same, and it does not enter a handler. (2) R131, R43: `TRAP` enters the handler with its code and the address
of the next bundle, `BKPT` with its own address, a pool marker traps EXEC_POOL with its length. -/
def Obligations.TrapEntry : Prop :=
 (
  ∀ (t : Thread) (i : TrapInfo),
    let cause := word (i.sub.toNat * 2 ^ 32 + i.seq.toNat * 2 ^ 16 + i.port.toNat * 2 ^ 12 + i.wait.toNat * 2 ^ 9 +
      (if i.async then 2 ^ 8 else 0) + i.cause.toNat)
    (t.tstat.getLsbD 6 = false → t.tvec ≠ 0 →
      trapEntry t i = { t with tcause := cause, tval := i.val, tepc := i.epc, tstat := t.tstat ||| 0x40, pc := t.tvec }) ∧
    (t.tstat.getLsbD 6 = true ∨ t.tvec = 0 →
      trapEntry t i = { t with tcause := cause, tval := i.val, tepc := i.epc, save := some .fatal })) ∧
 (
  ∀ (s : State) (c : BitVec 13) (n : BitVec 16), s.th.prog = none → s.th.tstat.getLsbD 6 = false → s.th.tvec ≠ 0 →
    exec (.trap c) s = becomes s { s.th with tcause := 0x20, tval := c.zeroExtend 64, tepc := s.th.pc + 8, tstat := s.th.tstat ||| 0x40, pc := s.th.tvec } ∧
    exec .bkpt s = becomes s { s.th with tcause := 0x21, tval := 0, tepc := s.th.pc, tstat := s.th.tstat ||| 0x40, pc := s.th.tvec } ∧
    exec (.pool n) s = .next { s with
      th := { s.th with tcause := 0x02, tval := n.zeroExtend 64, tepc := s.th.pc, tstat := s.th.tstat ||| 0x40, pc := s.th.tvec }
      last := .trapped })

/-- (1) R132: `TRET` outside a handler traps PROTECT; with a misaligned `TEPC` MISALIGN; otherwise, where no wait is named, it goes on at `TEPC` with
`INTRAP` 0, and changes nothing else but `WAIT`. (2) R198: where `TCAUSE.WAIT` names a wait, `TRET` fetches the bundle before `TEPC` afresh. A
`WAITP` is entered again with the operand that stands there; a `SLEEP` has ended; a wait on a line or a barrier goes on only if its signal has
not come; a bundle of another kind abandons the wait. The model's choice (log 45): an `EVW` waits on in the line in which it stood, whatever its
operand now names, and a `WAITP` with an indirect specifier outside the window waits without a trap. -/
def Obligations.TrapReturn : Prop :=
 (
  ∀ s : State,
    (s.th.tstat.getLsbD 6 = false → exec .tret s = trapsWith s .protect 0) ∧
    (s.th.tstat.getLsbD 6 = true → s.th.tepc.toNat % 8 ≠ 0 → exec .tret s = trapsWith s .misalign s.th.tepc) ∧
    (s.th.tstat.getLsbD 6 = true → s.th.tepc.toNat % 8 = 0 → bits s.th.tcause 9 3 = 0 →
      exec .tret s = becomes s { s.th with pc := s.th.tepc, tstat := s.th.tstat &&& ~~~0x40, tcause := s.th.tcause &&& ~~~0xE00 })) ∧
 (
  ∀ (s : State) (g : Reg) (r : PReg) (q q' : Bool) (a : BitVec 6) (line : BitVec 8),
    s.th.tstat.getLsbD 6 = true → s.th.tepc.toNat % 8 = 0 → bits s.th.tcause 9 3 ≠ 0 → fetchBad s s.th (s.th.tepc - 8) = none →
    let b := (fetchBundle s s.th (s.th.tepc - 8)).2
    let back : Thread :=
      { s.th with pc := s.th.tepc, tstat := s.th.tstat &&& ~~~0x40, tcause := s.th.tcause &&& ~~~0xE00, waited := none, woken := false }
    let ends (u : Thread) : Prop := ∃ t, exec .tret s = .next t ∧ t.th = u ∧ t.rest = s.rest ∧ t.last = .done
    (s.th.waited = some (.waitp g q) → slotC b = some (.waitp r q') → present s.th (pregReg s.th r) = true → ends back) ∧
    (s.th.waited = some (.waitp g q) → slotC b = some (.waitp r q') → present s.th (pregReg s.th r) = false →
      ends { back with status := .sleeping (.waitp (pregReg s.th r) q') }) ∧
    (s.th.waited = some .sleep → slotC b = some (.sleep a) → ends back) ∧
    (s.th.waited = some (.evw line) → slotC b = some (.evw a) → s.th.woken = true → ends back) ∧
    (s.th.waited = some (.evw line) → slotC b = some (.evw a) → s.th.woken = false → ends { back with status := .sleeping (.evw line) }) ∧
    (s.th.waited = some .teambar → slotC b = some .teambar → s.th.woken = false → ends { back with status := .sleeping .teambar }) ∧
    (s.th.waited = some (.waitp g q) → slotC b = none → ends back))

/-- (1) R117, R118, R120: `SLEEP` of 0 has no effect, of more it sleeps until its time or an arrival; `YIELD` is saved only for a runnable
continuation of its priority or higher in its cluster's queue; `MIGRATE` to its own core has no effect, to another it is saved, to a core that is
fused out it traps PROTECT with the number. (2) R117: when its time has come, a thread that still sleeps in `SLEEP` is Ready; another is as it
was. -/
def Obligations.LeavingTheSlot : Prop :=
 (
  ∀ (s : State) (a : BitVec 6), present s.th (.s a) = true →
    let v := rdS s.th a
    let c : BitVec 11 := v.truncate 11
    let wanted : Prop := ∃ h ∈ (clusterAt s (clusterOf s.th.core)).queue, ∃ u, findThread s h = some u ∧ u.runnable = true ∧ s.th.prio ≤ u.prio
    (v = 0 → exec (.sleep a) s = becomes s (advance s.th)) ∧
    (v ≠ 0 → ∃ t, exec (.sleep a) s = .next t ∧ t.th = { advance s.th with status := .sleeping .sleep } ∧ t.rest = s.rest ∧
      t.mem = s.mem ∧ .sleepTimeout s.th.handle ∈ t.pending) ∧
    (wanted → exec .yield s = becomes s { advance s.th with save := some .yield }) ∧
    (¬ wanted → exec .yield s = becomes s (advance s.th)) ∧
    (c = s.th.core → exec (.migrate a) s = becomes s (advance s.th)) ∧
    (c ≠ s.th.core → clusterPresent s (clusterOf c) = true → exec (.migrate a) s = becomes s { advance s.th with save := some (.migrate c) }) ∧
    (c ≠ s.th.core → clusterPresent s (clusterOf c) = false → exec (.migrate a) s = trapsWith s .protect (c.zeroExtend 64))) ∧
 (
  ∀ (s : State) (h : Handle), isLive s.th = true → s.th.handle = h →
    exec (.sleepTimeout h) s = .next (if s.th.status = .sleeping .sleep then { s with th := { s.th with status := .ready } } else s))

/-- (1) R119, R200, R226: `EXIT` completes: the thread issues no bundle, its exit waits, and nothing of its registers and of memory is another. Every
command of it that is parked is cancelled: it ends with `ST` 1, and its completion is due. The `EXIT` of a memory-core program ends its MCRUN.
(2) R119, R122, R324, R328: an exit that has begun waits while anything of the thread is unanswered or not yet accepted by its engine. Then it
completes: the thread has ended, and unless its team ends with it, its directory entry is Free and keeps its generation. A team of which others
remain counts one thread less, has it no longer at its barrier, and leaves the barrier if only it was missing. A team that ends is counted by its
node. The last thread of a launch that is aborting ends the launch. -/
def Obligations.ExitWaitsAndFrees : Prop :=
 (
  ∀ s : State,
    (Running s → ∃ t, exec .exit s = .next t ∧ t.last = .done ∧ t.rest = s.rest ∧ t.mem = s.mem ∧
      t.th.status = .exiting false ∧ t.th.pc = s.th.pc + 8 ∧ t.th.s = s.th.s ∧ t.th.m = s.th.m ∧ t.th.v = s.th.v ∧
      .threadExitComplete s.th.handle ∈ t.pending ∧
      (∀ c ∈ t.cmds, c.handle = s.th.handle → c.accz = none → c.state ≠ .parked) ∧
      (∀ c ∈ s.cmds, c.handle = s.th.handle → c.accz = none → c.state = .parked →
        .completionLanding s.th.handle c.seq ∈ t.pending ∧
          ∃ e ∈ t.cmds, e.handle = s.th.handle ∧ e.seq = c.seq ∧ e.fin.map (·.1) = some 1)) ∧
    (∀ p, s.th.prog = some p → exec .exit s =
      .next { s with th := { s.th with pc := s.th.pc + 8, status := .exiting false }, last := .done
                     pending := s.pending ++ [.mcrunEnd s.th.handle p.seq] })) ∧
 (
  ∀ (s : State) (away : Bool), s.th.prog = none → s.th.status = .exiting away →
    let h := s.th.handle
    let waits := unanswered s (senderOf s s.th) = true ∨ requestsOpen s h = true
    let entry := dirOf s (hIndex h)
    (waits → exec (.threadExitComplete h) s = .next (pend s (.threadExitComplete h))) ∧
    (¬ waits → ∃ t, exec (.threadExitComplete h) s = .next t ∧ t.th.status = .ended ∧
      (teamAt s s.th.team = none → (dirOf t (hIndex h)).state = 0 ∧ (dirOf t (hIndex h)).gen = entry.gen) ∧
      (∀ m, teamAt s s.th.team = some m → 1 < m.alive → (dirOf t (hIndex h)).state = 0 ∧ (dirOf t (hIndex h)).gen = entry.gen ∧
        ∃ m', teamAt t s.th.team = some m' ∧ m'.members = m.members ∧ m'.alive = m.alive - 1 ∧
          m'.left = (if s.th.member = none then m.left else m.left ++ [h]) ∧
          m'.arrived = (if ∀ g ∈ m.members, g ∈ m'.left ∨ g ∈ m.arrived ∧ g ≠ h then [] else m.arrived.filter (fun g => g ≠ h))) ∧
      (∀ m, teamAt s s.th.team = some m → m.alive = 1 → s.th.team < s.teamNext →
        teamAt t s.th.team = none ∧
        (let done := gRd s (nodeAt s s.th.graph s.th.node.toNat + 50) 2 + 1
         done ≠ nodeTeams s s.th.graph s.th.node.toNat →
           gRd t (nodeAt s s.th.graph s.th.node.toNat + 50) 2 = done % 65536)) ∧
      (∀ l why, teamAt s s.th.team = none → launchOf s s.th.graph = some l → l.aborting = some why →
        (∀ u ∈ s.rest, isLive u = true → u.graph ≠ s.th.graph) →
        launchOf t s.th.graph = none ∧ graphState t s.th.graph = 3 ∧ bits (graphStatus t s.th.graph) 4 8 = why.1)))

/-- (1) R121, R124: `PREEMPT` and `GETTID.Q` send a request and empty their destination. `PREEMPT` of the thread itself is answered 0, and the thread
is to be saved at the boundary after its bundle. (2) R121, R124: what the dispatcher and the directory answer. -/
def Obligations.RequestsToTheDispatcher : Prop :=
 (
  ∀ (s : State) (d a : BitVec 6), Running s → Ready s [.s d, .s a] → (coreOf s s.th.core).outst < 256 →
    let h : Handle := (rdS s.th a).truncate 24
    (∃ t, exec (.gettidQ d a) s = .next t ∧ requests s t d (.directoryLookup (itsOrigin s) d h)) ∧
    (h ≠ s.th.handle → ∃ t, exec (.preempt d a) s = .next t ∧ requests s t d (.preemptAtDispatcher (itsOrigin s) d h)) ∧
    (h = s.th.handle → ∃ t, exec (.preempt d a) s = .next t ∧ t.th = { advance (setCount s.th (.s d) 1) with save := some .preempt } ∧
      answersWith t (itsOrigin s) d 0)) ∧
 (
  ∀ (s : State) (o : Origin) (d : BitVec 6) (h : Handle),
    let e := dirOf s (hIndex h)
    (∃ t, exec (.directoryLookup o d h) s = .next t ∧ SameThreads s t ∧
      answersWith t o d (if e.state ≠ 0 ∧ e.gen = hGen h then 1 else 0)) ∧
    (e.state = 0 ∨ e.gen ≠ hGen h → ∃ t, exec (.preemptAtDispatcher o d h) s = .next t ∧ SameThreads s t ∧ answersWith t o d 2) ∧
    (∀ u v, findThread s h = some u → findThread s o.by' = some v → e.state ≠ 0 → e.gen = hGen h →
      ((u.graph ≠ v.graph ∨ u.node ≠ v.node) → ∃ t, exec (.preemptAtDispatcher o d h) s = .next t ∧ SameThreads s t ∧ answersWith t o d 2) ∧
      (u.graph = v.graph → u.node = v.node → e.state ≠ 1 →
        ∃ t, exec (.preemptAtDispatcher o d h) s = .next t ∧ SameThreads s t ∧ answersWith t o d 1) ∧
      (u.graph = v.graph → u.node = v.node → e.state = 1 → u.status = .ready → u.save = none →
        ∃ t, exec (.preemptAtDispatcher o d h) s = .next t ∧ answersWith t o d 0 ∧ findThread t h = some { u with save := some .preempt })))

/-- (1) R122: `TEAMBAR` of a thread of no team traps PROTECT. Another member sleeps until every member that has not exited has arrived; with the last
arrival all leave together and the barrier is clear: the thread itself and every other member that sleeps there are Ready, one in a handler finds
its wait over (R198), and one that is saved is runnable with cause 6 (R201). (2) R123, R81: `EVW` takes one of the signals that its own cluster's line has pending, or
sleeps behind the waiters before it; `EVS` sends a releasing event landing to a line of its own cluster (R10). (3) R11, R123, R184: an event
landing whose check code holds signals its line whatever its payload: the first waiter of the line wakes, or the count rises by one, at most to
65,535; a landing to a cluster that is fused out is refused with subcode 5. -/
def Obligations.BarriersAndEventLines : Prop :=
 (
  ∀ (s : State) (m : Team) (i : BitVec 4), Running s →
    (s.th.member = none → exec .teambar s = trapsWith s .protect 0) ∧
    (s.th.member = some i → teamAt s s.th.team = some m → s.th.waited = none → outstanding s (senderOf s s.th) 0xF = [] →
      ∃ t, exec .teambar s = .next t ∧ t.th.pc = s.th.pc + 8 ∧
        if ∀ h ∈ m.members, h ∉ m.left → h ∈ m.arrived ∨ h = s.th.handle then
          t.th.status = .ready ∧ (teamAt t s.th.team).map (·.arrived) = some [] ∧
          ∀ h u, h ∈ m.arrived → h ≠ s.th.handle → findThread s h = some u →
            (u.status = .sleeping .teambar → u.waited = none → findThread t h = some { u with status := .ready }) ∧
            (u.waited = some .teambar → u.woken = false → ∃ v, findThread t h = some v ∧ v.woken = true ∧ v.status = u.status) ∧
            (u.status = .away (some .teambar) → u.waited = none → u.runnable = false →
              ∃ v, findThread t h = some v ∧ v.status = .away none ∧ v.runnable = true ∧ v.cause = 6)
        else t.th.status = .sleeping .teambar ∧ (teamAt t s.th.team).map (·.arrived) = some (m.arrived ++ [s.th.handle]))) ∧
 (
  ∀ (s : State) (a : BitVec 6), present s.th (.s a) = true →
    let line : BitVec 8 := (rdS s.th a).truncate 8
    let c := clusterOf s.th.core
    let k := clusterAt s c
    let n := sget 0 k.events line.toNat
    (0 < n → exec (.evw a) s = .next { setCluster s c { k with events := sset 0 k.events line.toNat (n - 1) } with th := advance s.th, last := .done }) ∧
    (n = 0 → exec (.evw a) s = .next { setCluster s c { k with waiters := k.waiters ++ [(line, s.th.handle)] } with
      th := { advance s.th with status := .sleeping (.evw line) }, last := .done }) ∧
    ∃ t, exec (.evs a) s = .next t ∧ t.th = advance s.th ∧ t.rest = s.rest ∧ t.mem = s.mem ∧
      ∃ p ∈ t.copies ++ t.heldBack, p.rel = true ∧
        p.la = word (3 * 2 ^ 62 + s.dev.toNat * 2 ^ 48 + c.toNat * 2 ^ 41 + line.toNat * 2 ^ 33)) ∧
 (
  ∀ (s : State) (p : Packet), crcOk p = true →
    let c := laCluster p.la
    let line := laLine p.la
    let k := clusterAt s c
    (clusterPresent s c = true → (∀ w ∈ k.waiters, w.1 ≠ line) →
      exec (.eventLanding p) s =
        .next (pend (setCluster s c { k with events := sset 0 k.events line.toNat (min 65535 (sget 0 k.events line.toNat + 1)) })
          (.landingAcknowledgement p 0xFFF))) ∧
    (∀ rest, clusterPresent s c = true → k.waiters = (line, s.th.handle) :: rest → isLive s.th = true → s.th.waited = none →
      s.th.status = .sleeping (.evw line) → exec (.eventLanding p) s =
        .next (pend { setCluster s c { k with waiters := rest } with th := { s.th with status := .ready } } (.landingAcknowledgement p 0xFFF))) ∧
    (clusterPresent s c = false → exec (.eventLanding p) s = .next (pend s (.landingRefusal p 5))))

/-- (1) R124: `GETTID` gives the handle of a member of the thread's team, exited or not, and all ones past the team's size or without one. (2) R126,
R127: `FORK` completes. It recruits k threads: as many idle slots as its search finds, at most `maxr` and N - 1; fewer only if the directory has
no Free index left (the model's choice there, log 8). It writes the join cell, and gives participant j of k + 1 its share of the range; the
parent goes on as participant 0. A recruit belongs to no team and has the parent's `S1` to `S15`, formats, codebooks and handler (log 21: their
presence is not waited for). (3) R128: `JOIN` completes: it decrements the count. Above 0 the thread exits; at 0 it is the last finisher, goes on
at the continuation PC, and takes the parent's place in its team. A count that was 0 stays, and the bundle traps PROTECT with the cell's address.
A continuation PC that is no multiple of 8 traps MISALIGN (the model's choice, log 13). -/
def Obligations.TeamsForkAndJoin : Prop :=
 (
  ∀ (s : State) (d : BitVec 6) (i : BitVec 4), present s.th (.s d) = true →
    (s.th.member = none ∨ teamAt s s.th.team = none → exec (.gettid d i) s = becomes s (advance (wrS s.th d (BitVec.allOnes 64)))) ∧
    (∀ m, s.th.member ≠ none → teamAt s s.th.team = some m →
      (m.members.length ≤ i.toNat → exec (.gettid d i) s = becomes s (advance (wrS s.th d (BitVec.allOnes 64)))) ∧
      (∀ h, m.members[i.toNat]? = some h → exec (.gettid d i) s = becomes s (advance (wrS s.th d (h.zeroExtend 64)))))) ∧
 (
  ∀ (s : State) (sa sc : BitVec 6) (maxr : BitVec 12) (die : Bool) (body : BitVec 24) (a : Nat), Running s →
    Ready s [.s sa, .s sc, .s 16, .s 17, .s 18, .s 19] → outstanding s (senderOf s s.th) 0xF = [] →
    cellBad s s.th (rdS s.th sc) = none → cellAddr s s.th (rdS s.th sc) = some a →
    let n := (rdS s.th sa).toNat % 2 ^ 32
    let pc := s.th.pc + 8 * body.signExtend 64
    let most := min (forkSlots s s.th die).length (min maxr.toNat (n - 1))
    ∃ k t, exec (.fork sa sc maxr die body) s = .next t ∧ t.last = .done ∧ k ≤ most ∧ (k < most → ∀ i, (dirOf t i).state ≠ 0) ∧
      ofLe (rdBytes t a 4) = k + 1 ∧ ofLe (rdBytes t (a + 8) 8) = (s.th.pc + 8).toNat ∧
      ofLe (rdBytes t (a + 16) 4) = s.th.handle.toNat ∧ ofLe (rdBytes t (a + 20) 2) = s.th.member.elim 0xFFFF (·.toNat) ∧
      ofLe (rdBytes t (a + 24) 8) = n ∧ SameMemoryOutside s t a 32 ∧
      (∀ j ≤ k, ∃ u : Thread, (if j = 0 then u = t.th ∧ u.handle = s.th.handle else u ∈ t.rest ∧ u.member = none ∧ u.status = .ready) ∧
        u.pc = pc ∧ rdS u 16 = word (n * j / (k + 1)) ∧ rdS u 17 = word (n * (j + 1) / (k + 1)) ∧ rdS u 18 = rdS s.th sc ∧
        rdS u 19 = word j ∧ u.world = s.th.world ∧ u.prio = s.th.prio ∧ u.win = s.th.win ∧ u.tvec = s.th.tvec ∧
        u.bfmt = s.th.bfmt ∧ u.cbk = s.th.cbk ∧ ∀ r : BitVec 6, 1 ≤ r.toNat → r.toNat ≤ 15 → rdS u r = rdS s.th r)) ∧
 (
  ∀ (s : State) (r : BitVec 6) (a : Nat), Running s → present s.th (.s r) = true → outstanding s (senderOf s s.th) 0xF = [] →
    cellBad s s.th (rdS s.th r) = none → cellAddr s s.th (rdS s.th r) = some a →
    let n := ofLe (rdBytes s a 4)
    let pc := ofLe (rdBytes s (a + 8) 8)
    let i := ofLe (rdBytes s (a + 20) 2)
    (n = 0 → exec (.join r) s = trapsWith s .protect (rdS s.th r)) ∧
    (1 < n → ∃ t, exec (.join r) s = .next t ∧ t.last = .done ∧ ofLe (rdBytes t a 4) = n - 1 ∧ t.th.status = .exiting false ∧
      .threadExitComplete s.th.handle ∈ t.pending ∧ SameMemoryOutside s t a 4) ∧
    (n = 1 → pc % 8 ≠ 0 → exec (.join r) s = trapsWith s .misalign (word pc)) ∧
    (n = 1 → pc % 8 = 0 → ∃ t, exec (.join r) s = .next t ∧ t.last = .done ∧ ofLe (rdBytes t a 4) = 0 ∧ t.th.pc = word pc ∧
      t.th.status = .ready ∧ t.th.s = s.th.s ∧ t.th.v = s.th.v ∧
      t.th.member = (if i = 0xFFFF ∨ teamAt s s.th.team = none then s.th.member else some (BitVec.ofNat 4 i)) ∧
      SameMemoryOutside s t a 4))

/-- (1) R157, R160, R159: a scalar load that may be made completes at once: its destination is empty and awaits one arrival, and one read of its
bytes, at the place its address translates to, waits at its home. Memory is as it was. (2) R157, R160: a scalar store sends one write of the low
bytes of its source; the thread is otherwise as it was. (3) R156 to R158, R219, R341, R343, R344: why a scalar load or store does not go on, in
the order of the checks: a misaligned address traps MISALIGN; a miss beyond the 32 that its cluster may have outstanding waits, unless the bundle
has had its page walked already; an address of no
device space traps the fault of its kind; an absent or unmapped page suspends the thread, to be issued again, and the page's one service knows
it; a page that denies the access traps PROTECT; a locked byte, RANGE_LOCKED with the first of them. `TVAL` holds the failing address. -/
def Obligations.ScalarMemoryAccesses : Prop :=
 (
  ∀ (s : State) (i : Instr) (d a : BitVec 6) (wd : Width) (off : Word) (signed acq : Bool), Running s →
    loadForm i = some (d, a, wd, off, signed, acq) → Ready s [.s d, .s a] → MaySend s 1 →
    let va := (rdS s.th a + off).toNat
    accessBad s s.th [(va, sizeOf' wd)] (chunks .r va (sizeOf' wd) 0) = none →
    ∃ t r, exec i s = .next t ∧ counts s t ∧ t.th = advance (setCount s.th (.s d) 1) ∧ t.pending.getLast? = some (.readRequest r) ∧
      r.o = itsOrigin s ∧ r.got.length = sizeOf' wd ∧ r.reply = .scalar d signed ∧ r.acq = acq ∧
      ∃ p, r.pieces = [p] ∧ goesTo s .r va (sizeOf' wd) 0 p) ∧
 (
  ∀ (s : State) (i : Instr) (d a : BitVec 6) (wd : Width) (off : Word) (rel : Bool), Running s →
    storeForm i = some (d, a, wd, off, rel) → Ready s [.s d, .s a] → MaySend s 2 →
    let va := (rdS s.th a + off).toNat
    accessBad s s.th [(va, sizeOf' wd)] (chunks .w va (sizeOf' wd) 0) = none →
    ∃ t r, exec i s = .next t ∧ counts s t ∧ t.th = advance s.th ∧ t.pending.getLast? = some (.writeRequest r) ∧
      r.o = itsOrigin s ∧ r.data = leBytes (sizeOf' wd) (rdS s.th d).toNat ∧ r.rel = rel ∧
      ∃ p, r.pieces = [p] ∧ goesTo s .w va (sizeOf' wd) 0 p) ∧
 (
  ∀ (s : State) (i : Instr) (d a : BitVec 6) (wd : Width) (off : Word) (acc : Acc), Running s →
    ((∃ sg q, loadForm i = some (d, a, wd, off, sg, q) ∧ acc = .r) ∨ (∃ q, storeForm i = some (d, a, wd, off, q) ∧ acc = .w)) →
    Ready s [.s d, .s a] →
    let va := rdS s.th a + off
    let x := seek s (tlbsOf s s.th) s.th.asid va.toNat acc
    let cause : Cause := if acc = .r then .loadFault else .storeFault
    let waits : Prop := va.toNat / 65536 ∉ s.th.walked ∧ missWaits s (tlbsOf s s.th) (clusterOf s.th.core) s.th.asid [va.toNat] = true
    let aligned : Prop := va.toNat % sizeOf' wd = 0
    (¬ aligned → exec i s = trapsWith s .misalign va) ∧
    (aligned → waits → exec i s = .next { s with last := .unchecked }) ∧
    (aligned → ¬ waits → x = .device → exec i s = trapsWith s cause va) ∧
    (aligned → ¬ waits → x = .absent ∨ x = .unmapped → ∃ t, exec i s = .next t ∧ t.last = .trapped ∧
      t.th = { s.th with save := some .fault, served := false } ∧ t.mem = s.mem ∧
      ∃ f ∈ t.pageFaults, f.asid = s.th.asid ∧ f.page = faultPage s s.th.asid va.toNat ∧ (s.th.handle, causeCode cause, va) ∈ f.threads) ∧
    (aligned → ¬ waits → x = .denied → exec i s = trapsWith s .protect va) ∧
    (∀ p k, aligned → ¬ waits → x = .ok p k →
      ∀ l, s.locks = [l] → l.dst = true → l.world = s.th.world → l.lo < va.toNat + sizeOf' wd → va.toNat < l.hi →
        exec i s = trapsWith s .rangeLocked (word (max va.toNat l.lo))))

/-- (1) R8, R69, R160: a read at its home answers with the bytes in memory, sign- or zero-extended as the load asks; it changes no byte. (2) R69,
R71, R160: a write at its home stores its payload at the place its address was translated to, no other byte of memory is another, and with the
last piece the request is answered. (3) R69: of a request of several pieces one is performed, any of them, and the others stay to be performed.
(4) R337: a request to a local address outside every range that a device has stops the machine with the fault that names it (the spec says that
no page-table entry may name such an address). (5) R69, R162: the parts of an access cover it, in order and without gap or overlap, and none
crosses an 8-byte boundary. -/
def Obligations.RequestsAtTheirHome : Prop :=
 (
  ∀ (s : State) (r : ReadReq) (p : Piece) (d : BitVec 6) (signed : Bool), r.pieces = [p] → r.reply = .scalar d signed →
    r.got.length = p.len → p.off = 0 → 0 < p.len → p.len ≤ 8 → r.o.seq.getLsbD 31 = false → assigned s p.addr = true → sameKey s p →
    let n := ofLe (rdBytes s p.addr p.len)
    ∃ t, exec (.readRequest r) s = .next t ∧ SameThreads s t ∧ SameMemory s t ∧
      answersWith t r.o d (if signed then BitVec.ofInt 64 (BitVec.ofNat (8 * p.len) n).toInt else word n)) ∧
 (
  ∀ (s : State) (r : WriteReq) (p : Piece), r.pieces = [p] → r.o.seq.getLsbD 31 = false → p.off + p.len ≤ r.data.length →
    assigned s p.addr = true → sameKey s p →
    ∃ t, exec (.writeRequest r) s = .next t ∧ SameThreads s t ∧ rdBytes t p.addr p.len = (r.data.drop p.off).take p.len ∧
      SameMemoryOutside s t p.addr p.len ∧ (coreOf t r.o.core).outst = (coreOf s r.o.core).outst - 1) ∧
 (
  ∀ (s : State) (r : WriteReq), 2 ≤ r.pieces.length → (∀ p ∈ r.pieces, assigned s p.addr = true ∧ sameKey s p) →
    ∃ t p l, exec (.writeRequest r) s = .next t ∧ SameThreads s t ∧ p ∈ r.pieces ∧ r.pieces.Perm (p :: l) ∧
      t.pending = .writeRequest { r with pieces := l } :: s.pending ∧ SameMemoryOutside s t p.addr p.len) ∧
 (
  ∀ (s : State) (r : ReadReq) (w : WriteReq) (a : AmoReq) (p : Piece), assigned s p.addr = false →
    (r.pieces = [p] → exec (.readRequest r) s = .fault (.unassignedAddress p.addr)) ∧
    (w.pieces = [p] → exec (.writeRequest w) s = .fault (.unassignedAddress p.addr)) ∧
    (a.addr = p.addr → exec (.amoAtHome a) s = .fault (.unassignedAddress p.addr))) ∧
 (
  ∀ (acc : Acc) (va n off : Nat),
    (∀ c ∈ chunks acc va n off, c.acc = acc ∧ 0 < c.len ∧ c.va / 8 = (c.va + c.len - 1) / 8 ∧ c.va - va = c.off - off ∧ va ≤ c.va ∧ off ≤ c.off) ∧
    (∀ k < n, ∃ c ∈ chunks acc va n off, c.va ≤ va + k ∧ va + k < c.va + c.len) ∧
    (chunks acc va n off).Pairwise (fun a b => a.va + a.len ≤ b.va) ∧ ∀ c ∈ chunks acc va n off, c.va + c.len ≤ va + n)

/-- R167: an atomic is sent as one request; at its home its word is read and written in one action, and the old value, sign-extended, lands in the
destination. Its checks come before it waits for its destination: misaligned it traps, present or not; with its checks passed and the destination
empty it stalls. -/
def Obligations.AtomicsActAtTheirHome : Prop :=
  (∀ (s : State) (d a b c : BitVec 6) (op : AmoOp) (dbl : Bool) (ord : BitVec 2), Running s →
    Ready s [.s d, .s a, .s b, .s c] → MaySend s 3 →
    let va := (rdS s.th a).toNat
    let n := if dbl then 8 else 4
    accessBad s s.th [(va, n)] (chunks .w va n 0) = none →
    ∃ t r p, exec (.amo d a b c op dbl ord) s = .next t ∧ counts s t ∧ t.th = advance (setCount s.th (.s d) 1) ∧
      t.pending.getLast? = some (.amoAtHome r) ∧ goesTo s .w va n 0 p ∧ r.addr = p.addr ∧ r.key = p.key ∧ r.dbl = dbl ∧ r.op = op ∧
      r.b = rdS s.th b ∧ r.c = rdS s.th c ∧ r.d = d ∧ r.o = itsOrigin s) ∧
  (∀ (s : State) (d a b c : BitVec 6) (op : AmoOp) (dbl : Bool) (ord : BitVec 2), Ready s [.s a, .s b, .s c] →
    let va := (rdS s.th a).toNat
    let n := if dbl then 8 else 4
    (va % n ≠ 0 → exec (.amo d a b c op dbl ord) s = trapsWith s .misalign (word va)) ∧
    (present s.th (.s d) = false → accessBad s s.th [(va, n)] (chunks .w va n 0) = none →
      ∃ t, exec (.amo d a b c op dbl ord) s = .next t ∧ t = { s with th := { s.th with awaited := t.th.awaited }, last := .stalled })) ∧
  (∀ (s : State) (r : AmoReq), r.o.seq.getLsbD 31 = false → assigned s r.addr = true → (r.op = .fadd → r.dbl = false) →
    sameKey s { addr := r.addr, va := 0, len := 8, off := 0, key := r.key } →
    let n := if r.dbl then 8 else 4
    let old := BitVec.ofNat (8 * n) (ofLe (rdBytes s r.addr n))
    ∃ t, exec (.amoAtHome r) s = .next t ∧ SameThreads s t ∧ SameMemoryOutside s t r.addr n ∧
      ofLe (rdBytes t r.addr n) = (atomicResult r.op (8 * n) old (r.b.truncate (8 * n)) (r.c.truncate (8 * n))).toNat ∧
      answersWith t r.o r.d (BitVec.ofInt 64 old.toInt))

/-- (1) R162: `VLD` and `VST` move the 256 bytes of one register, lane L at byte 4L, in pieces that cross no 8-byte boundary. (2) R163, R164: a
strided or gathered access touches exactly its active lanes, lane l of group l / run at its group's base; with no active lane it sends nothing,
and its register stays present. -/
def Obligations.VectorAccesses : Prop :=
 (
  ∀ (s : State) (v : BitVec 8) (a : BitVec 6) (q : Bool) (i : BitVec 8), Running s → InWindow s [v] → Ready s [.v (spec s.th v), .s a] →
    let va := (rdS s.th a + i.signExtend 64 * 256).toNat
    (MaySend s 1 → accessBad s s.th [(va, 4)] (chunks .r va 256 0) = none →
      ∃ t r, exec (.vld v a q i) s = .next t ∧ counts s t ∧ t.th = advance (setCount s.th (.v (spec s.th v)) 1) ∧
        t.pending.getLast? = some (.readRequest r) ∧ r.reply = .lanes (spec s.th v) (BitVec.allOnes 64) ∧ r.acq = q ∧
        r.o = itsOrigin s ∧ r.pieces = piecesOf s s.th (chunks .r va 256 0)) ∧
    (MaySend s 2 → accessBad s s.th [(va, 4)] (chunks .w va 256 0) = none →
      ∃ t r, exec (.vst v a q i) s = .next t ∧ counts s t ∧ t.th = advance s.th ∧
        t.pending.getLast? = some (.writeRequest r) ∧ r.data = leBytes 256 (rdV s.th (spec s.th v)).toNat ∧ r.rel = q ∧
        r.o = itsOrigin s ∧ r.pieces = piecesOf s s.th (chunks .w va 256 0))) ∧
 (
  ∀ (s : State) (i : Instr) (v : BitVec 8) (specs : List (BitVec 8)) (needs : List Reg) (m : BitVec 4) (lg : BitVec 3) (q load : Bool)
    (base : Nat → Word), Running s → groupForm s.th i = some (v, specs, needs, m, lg, q, load, base) → lg ≠ 7 →
    InWindow s specs → Ready s needs → MaySend s (if load then 1 else 2) →
    let run := 2 ^ lg.toNat
    let mask := rdM s.th m
    let touched := ((List.range 64).filter (fun l => mask.getLsbD l)).map (laneAddr run base)
    missWaits s (tlbsOf s s.th) (clusterOf s.th.core) s.th.asid touched = false →
    let active (l : Nat) : Prop := l < 64 ∧ mask.getLsbD l = true
    let place (l : Nat) (p : Piece) : Prop := goesTo s (if load then .r else .w) (laneAddr run base l) 4 (4 * l) p
    (mask = 0 → exec i s = becomes s (advance s.th)) ∧
    (mask ≠ 0 → (∀ l, active l → (base (l / run)).toNat % 4 = 0 ∧ s.locks = [] ∧ ∃ p, place l p) →
      ∃ t, exec i s = .next t ∧ counts s t ∧
        (load = true → ∃ r, t.pending.getLast? = some (.readRequest r) ∧ t.th = advance (setCount s.th (.v (spec s.th v)) 1) ∧
          r.reply = .lanes (spec s.th v) mask ∧ r.acq = q ∧ ∀ p, p ∈ r.pieces ↔ ∃ l, active l ∧ place l p) ∧
        (load = false → ∃ r, t.pending.getLast? = some (.writeRequest r) ∧ t.th = advance s.th ∧ r.rel = q ∧
          r.data = leBytes 256 (rdV s.th (spec s.th v)).toNat ∧ (∀ p ∈ r.pieces, ∃ l, active l ∧ place l p) ∧
          ∀ l p, active l → place l p → (∀ l' p', active l' → place l' p' → l < l' → overlap p p' = false) → p ∈ r.pieces)))

/-- (1) R161: `LDL` sends one read whose value the home lands at the address in its register, in whichever space and at whichever device; it writes
no register of its own thread. A landing in memory space is checked as a write of its bytes, and a malformed address, or a device that takes no
landings (R294), traps BAD_LA once both accesses have passed. (2) R161: the home sends the value on, shaped by the space: in a scalar or mask
register extended with zeros to 64 bits, in a vector lane to 32; elsewhere as it stands. (3) R246: `MLOAD` sends one landing for each of its n + 1
registers to the slot of its core's unit, at the offset of its row. -/
def Obligations.LoadsThatLand : Prop :=
 (
  ∀ (s : State) (i : Instr) (l a : BitVec 6) (wd : Width) (off : Word) (rel : Bool), Running s →
    landLoadForm i = some (l, a, wd, off, rel) → Ready s [.s l, .s a] → MaySend s 5 →
    let va := (rdS s.th a + off).toNat
    let la := rdS s.th l
    let n := sizeOf' wd
    let inMemory := laSpace la = 0
    accessBad s s.th ((va, n) :: if inMemory then [(laVa la, n)] else []) (chunks .r va n 0 ++ if inMemory then chunks .w (laVa la) n 0 else []) = none →
    let bad := laMalformed la = true ∨ laUnreachable s la = true ∨
      laCrosses la (if laSpace la = 1 then (if wd = .d ∨ laClass la ≠ 1 then 8 else 4) else n) false = true
    (bad → exec i s = trapsWith s .badLa la) ∧
    (¬ bad → ∃ t r, exec i s = .next t ∧ counts s t ∧ t.th = advance s.th ∧ t.pending.getLast? = some (.readRequest r) ∧
      r.o = itsOrigin s ∧ r.reply = .land la rel (if inMemory then piecesOf s s.th (chunks .w (laVa la) n 0) else []) ∧ r.got.length = n ∧
      ∃ p, r.pieces = [p] ∧ goesTo s .r va n 0 p)) ∧
 (
  ∀ (s : State) (r : ReadReq) (p : Piece) (la : Word) (rel : Bool) (to' : List Piece), r.pieces = [p] → r.reply = .land la rel to' →
    r.got.length = p.len → p.off = 0 → 0 < p.len → p.len ≤ 8 → assigned s p.addr = true → sameKey s p →
    let b := rdBytes s p.addr p.len
    let long := laSpace la = 1 ∧ (laClass la ≠ 1 ∨ p.len = 8)
    ∃ t q, exec (.readRequest r) s = .next t ∧ SameThreads s t ∧ SameMemory s t ∧ q ∈ t.copies ++ t.heldBack ∧ q.la = la ∧ q.rel = rel ∧
      q.pieces = to' ∧ q.cond = false ∧ q.hasMask = false ∧
      q.payload = if long then b ++ List.replicate (8 - p.len) 0 else if laSpace la = 1 then b ++ List.replicate (4 - p.len) 0 else b) ∧
 (
  ∀ (s : State) (v : BitVec 8) (a : BitVec 6) (n : BitVec 3) (r : Bool), Running s →
    let base := (specIndex s.th v).toNat
    let x := rdS s.th a
    base + n.toNat < winSize s.th → base + n.toNat < 512 → (∀ k ≤ n.toNat, present s.th (.v (BitVec.ofNat 9 (base + k))) = true) → present s.th (.s a) = true →
    mloadBad x (n.toNat + 1) = false → MaySend s 4 → (coreOf s s.th.core).outst + n.toNat + 1 ≤ 256 →
    ∃ t, exec (.mload v a n r) s = .next t ∧ t.th = advance s.th ∧ t.rest = s.rest ∧ t.mem = s.mem ∧
      (coreOf t s.th.core).outst = (coreOf s s.th.core).outst + n.toNat + 1 ∧
      ∀ k ≤ n.toNat, ∃ p ∈ t.copies ++ t.heldBack, p.la = mloadLa s.dev (unitOf s.th.core) x k ∧ p.rel = r ∧
        p.payload = (leBytes 256 (rdV s.th (BitVec.ofNat 9 (base + k))).toNat).take (if bits x 6 2 = 2#2 then 32 else 256))

/-- R165, R166, R176, R191: a landing instruction sends one landing, to a register, to memory, to a slot or to an event line, of this device or of
another, with the payload that its entry names, and writes no register of its sender. In memory space the landing is checked as a write, and
stores all of its payload, or for `LAMK` the lanes that the mask selects; one to another device goes to the network engine. A malformed address,
one that the payload runs past, a conditional landing whose space is not register, or a device that takes no landings (R294) traps BAD_LA with
the address; a misaligned address in memory space traps MISALIGN before. -/
def Obligations.LandingInstructions : Prop :=
  ∀ (s : State) (i : Instr) (specs : List (BitVec 8)) (needs : List Reg) (la : Word) (payload : List Byte) (mask : Option Word)
    (cond rel : Bool), Running s → wf i = true → landingForm s.th i = some (specs, needs, la, payload, mask, cond, rel) → InWindow s specs →
    Ready s needs → MaySend s 4 →
    let n := payload.length
    let inMemory := laSpace la = 0
    let passes := accessBad s s.th (if inMemory then [(laVa la, min n 8)] else []) (if inMemory then chunks .w (laVa la) n 0 else []) = none
    let bad := laMalformed la = true ∨ laCrosses la n mask.isSome = true ∨ (cond = true ∧ laSpace la ≠ 1) ∨ laUnreachable s la = true
    (passes → ¬ bad →
      ∃ t p, exec i s = .next t ∧ counts s t ∧ t.th = advance s.th ∧ p ∈ t.copies ++ t.heldBack ∧ p.la = la ∧ p.payload = payload ∧
        p.cond = cond ∧ p.rel = rel ∧ p.hasMask = mask.isSome ∧ p.lmask = mask.getD 0 ∧ p.o = itsOrigin s ∧ crcOk p = true ∧
        (inMemory → mask = none → p.pieces = piecesOf s s.th (chunks .w (laVa la) n 0)) ∧
        (∀ w, inMemory → mask = some w → ∀ q, q ∈ p.pieces ↔ ∃ l < 64, w.getLsbD l = true ∧ goesTo s .w (laVa la + 4 * l) 4 (4 * l) q) ∧
        (heldBy (s.copies ++ s.heldBack) p = false → p ∈ t.copies ∧
          if inMemory then .memoryLanding p ∈ t.pending
          else if laDev la ≠ s.dev then .netLand p ∈ t.pending
          else if laSpace la = 1 then .directoryResolve p ∈ t.pending ∨ ∃ c, .landingArrival c p ∈ t.pending
          else if laSpace la = 2 then .slotLanding p ∈ t.pending
          else .eventLanding p ∈ t.pending)) ∧
    (passes → bad → exec i s = trapsWith s .badLa la) ∧
    (inMemory → laVa la % min n 8 ≠ 0 → exec i s = trapsWith s .misalign (word (laVa la)))

/-- R76, R87, R168: `FENCE` completes at once, and remembers which earlier events of its predecessor set are not performed. As long as one of them is
not, an event of its successor set is held: a read, a write, an atomic, a landing, or both of `LDL`, whose instruction could otherwise be sent;
events that it does not name pass. With `.I` it discards what has been fetched ahead, once the events of its predecessor set are performed, and
is itself held until then. -/
def Obligations.FencesHoldLaterEvents : Prop :=
  ∀ (s : State) (sc : Scope) (u p : BitVec 4),
    let mine := outstanding s (senderOf s s.th) p
    (∃ f, exec (.fence false sc u p) s = becomes s { advance s.th with fences := f } ∧
      ∀ set : BitVec 4, fenced s { s.th with fences := f } set = true ↔ fenced s s.th set = true ∨ (u &&& set ≠ 0 ∧ mine ≠ [])) ∧
    (mine = [] → ∃ f, exec (.fence true sc u p) s = becomes s { advance s.th with fences := f, fetched := [] }) ∧
    (mine ≠ [] → exec (.fence true sc u p) s = .next { s with last := .held }) ∧
    ∀ (i : Instr) (d a b c : BitVec 6) (wd : Width) (off : Word) (x q : Bool), Ready s [.s d, .s a, .s b, .s c] →
      let held : Prop := exec i s = .next { s with last := .held }
      let va := (rdS s.th a + off).toNat
      let may (acc : Acc) (n : Nat) : Prop := accessBad s s.th [(va, n)] (chunks acc va n 0) = none
      (loadForm i = some (d, a, wd, off, x, q) → may .r (sizeOf' wd) → fenced s s.th 1 = true → held) ∧
      (storeForm i = some (d, a, wd, off, q) → may .w (sizeOf' wd) → fenced s s.th 2 = true → held) ∧
      (∀ op ord, i = .amo d a b c op x ord → off = 0 → may .w (if x then 8 else 4) → fenced s s.th 3 = true → held) ∧
      (landLoadForm i = some (d, a, wd, off, q) → laSpace (rdS s.th d) = 1 → laMalformed (rdS s.th d) = false → laDev (rdS s.th d) = s.dev →
        laCrosses (rdS s.th d) (if wd = .d ∨ laClass (rdS s.th d) ≠ 1 then 8 else 4) false = false → may .r (sizeOf' wd) →
        fenced s s.th 5 = true → held) ∧
      (∀ specs needs la payload mask cond rel, landingForm s.th i = some (specs, needs, la, payload, mask, cond, rel) → InWindow s specs →
        Ready s needs → laSpace la = 1 → laMalformed la = false → laCrosses la payload.length mask.isSome = false → laDev la = s.dev →
        wf i = true → fenced s s.th 4 = true → held)

/-- (1) R133, R134, R136 to R138, R140, R146: an elementwise instruction whose operands are present and whose formats agree completes: each active
element of its destination holds the result, each other its old bits, the flags that active elements raise are set, and nothing else is another.
(2) R140 to R142: the same of the unary functions; the flags of an element are those of the function and of its one rounding. (3) R59, R134, R33:
formats that break the rule of an instruction trap FORMAT, with `TVAL` 0, and nothing is written; a register outside the window traps ILLEGAL,
with the slot, the window bit and the index in `TVAL`. -/
def Obligations.VectorResults : Prop :=
 (
  ∀ (s : State) (i : Instr) (f : VForm), vform s i = some f → InWindow s (f.d :: f.srcs) →
    Ready s (.v (spec s.th f.d) :: f.srcs.map (fun v => Reg.v (spec s.th v)) ++ f.more ++ [.m (f.m.zeroExtend 4)]) →
    FormatsAgree s f.rule (f.srcs ++ [f.d]) →
    ∃ x fl, writesVector s i f.d x fl ∧
      mixes (widthAt s f.d) (rdM s.th (f.m.zeroExtend 4)) (rdV s.th (spec s.th f.d)) x (fun e => (f.val e).1) ∧
      gathers (widthAt s f.d) (rdM s.th (f.m.zeroExtend 4)) fl (fun e => (f.val e).2)) ∧
 (
  ∀ (s : State) (i : Instr) (d a : BitVec 8) (m : BitVec 2) (rule : FmtRule) (f : Exact → Exact × Flags),
    unaryForm i = some (d, a, m, rule, f) → InWindow s [d, a] →
    Ready s [.v (spec s.th d), .v (spec s.th a), .m (m.zeroExtend 4)] → FormatsAgree s rule [a, d] →
    let val (e : Nat) := rounded s d ((f (valueAt s a e)).1, false)
    ∃ x fl, writesVector s i d x fl ∧
      mixes (widthAt s d) (rdM s.th (m.zeroExtend 4)) (rdV s.th (spec s.th d)) x (fun e => (val e).1) ∧
      gathers (widthAt s d) (rdM s.th (m.zeroExtend 4)) fl (fun e => orFlags (f (valueAt s a e)).2 (val e).2)) ∧
 (
  ∀ (s : State) (i : Instr) (f : VForm), vform s i = some f →
    (InWindow s (f.d :: f.srcs) → ¬ FormatsAgree s f.rule (f.srcs ++ [f.d]) →
      Ready s (.v (spec s.th f.d) :: f.srcs.map (fun v => Reg.v (spec s.th v)) ++ f.more ++ [.m (f.m.zeroExtend 4)]) →
      exec i s = trapsWith s .format 0) ∧
    (¬ InWindow s [f.d] → exec i s =
      .next { trapFocus s .illegal (word (2 * 2 ^ 62 + 2 ^ 61 + (specIndex s.th f.d).toNat)) s.th.pc with last := .window }))

/-- (1) R139: an active group of four holds its exact sum, rounded once, in its first element and zeros in the others. (2) R65, R66, R148: the
floating-point and integer sum of a register, and its prefixes, formed by the fixed tree, in the encoding of the destination. An inactive element
stands as the identity. `VRED` writes element 0 alone, `VSCAN` every element, whatever the mask. (3) R65, R66, R137: the same of `.MIN` and `.MAX`,
whose nodes select, and whose identities are those of the source's format. (4) R65, R66: the same of `.AND`, `.OR` and `.XOR`, whose nodes act
on encodings. -/
def Obligations.DotProductsAndReductions : Prop :=
 (
  ∀ (s : State) (d a b : BitVec 8) (m : BitVec 2), InWindow s [d, a, b] →
    Ready s [.v (spec s.th d), .v (spec s.th a), .v (spec s.th b), .m (m.zeroExtend 4)] → FormatsAgree s .either [a, b, d] →
    let w := widthAt s d
    let mask := rdM s.th (m.zeroExtend 4)
    let pair (e : Nat) := (valueAt s a e, valueAt s b e)
    let sum (g : Nat) := rounded s d (dotFour (valueAt s d (4 * g)) [pair (4 * g), pair (4 * g + 1), pair (4 * g + 2), pair (4 * g + 3)])
    ∃ x fl, writesVector s (.vdot4 d a b m) d x fl ∧ ∀ g < 2048 / w / 4, ∀ j < 4,
      elemAt w x (4 * g + j) =
        if mask.getLsbD (4 * g * w / 32) then (if j = 0 then (sum g).1 % 2 ^ w else 0)
        else elemAt w (rdV s.th (spec s.th d)) (4 * g + j)) ∧
 (
  ∀ (s : State) (d a : BitVec 8) (m : BitVec 2) (k : Nat), InWindow s [d, a] →
    Ready s [.v (spec s.th d), .v (spec s.th a), .m (m.zeroExtend 4)] → FormatsAgree s .either [a, d] → 2048 = 2 ^ k * widthAt s d →
    let w := widthAt s d
    let f := (vop s.th d).fmt
    let active (e : Nat) : Bool := (rdM s.th (m.zeroExtend 4)).getLsbD (e * w / 32)
    let ident : Exact := if fmtClass f = .int then .zero false else .zero true
    let leaf (e : Nat) : Exact := if active e then valueAt s a e else ident
    let node (x y : Exact) : Exact := decodeElem f 0 (intoFmt f (numAdd x y)).1
    let put (x : Exact) : Nat := (intoFmt f (x, false)).1 % 2 ^ w
    reducesTo s .add d a m k node leaf put) ∧
 (
  ∀ (s : State) (o : RedOp) (d a : BitVec 8) (m : BitVec 2) (k : Nat), o = .min ∨ o = .max → InWindow s [d, a] →
    Ready s [.v (spec s.th d), .v (spec s.th a), .m (m.zeroExtend 4)] → FormatsAgree s .either [a, d] → 2048 = 2 ^ k * widthAt s d →
    let w := widthAt s d
    let active (e : Nat) : Bool := (rdM s.th (m.zeroExtend 4)).getLsbD (e * w / 32)
    let leaf (e : Nat) : Exact := if active e then valueAt s a e else extremeOf (decide (o = .max)) (vop s.th a).fmt
    reducesTo s o d a m k (fun x y => (numPick (decide (o = .max)) x y).1) leaf (fun x => (intoFmt (vop s.th d).fmt (x, false)).1 % 2 ^ w)) ∧
 (
  ∀ (s : State) (o : RedOp) (d a : BitVec 8) (m : BitVec 2) (k : Nat), o = .and ∨ o = .or ∨ o = .xor → InWindow s [d, a] →
    Ready s [.v (spec s.th d), .v (spec s.th a), .m (m.zeroExtend 4)] → FormatsAgree s .either [a, d] → 2048 = 2 ^ k * widthAt s d →
    let active (e : Nat) : Bool := (rdM s.th (m.zeroExtend 4)).getLsbD (e * widthAt s d / 32)
    let leaf (e : Nat) : Nat := if active e then codeAt s a e else if o = .and then 2 ^ fmtUsed (vop s.th a).fmt - 1 else 0
    let node (x y : Nat) : Nat := if o = .and then x &&& y else if o = .or then x ||| y else x ^^^ y
    reducesTo s o d a m k node leaf (fun x => x % 2 ^ fmtUsed (vop s.th d).fmt))

/-- (1) R143: a compare sets the bit of a lane whose governing bit is 1 exactly if its condition holds for every element of the lane, and keeps the
other bits; only a signalling NaN sets `FNV`. (2) R144, R145: `VSEL` writes every element, from A where its mask has a 1 and from B elsewhere;
the mask logic computes on 64 bits. -/
def Obligations.ComparesAndSelects : Prop :=
 (
  ∀ (s : State) (c : VCond) (k : BitVec 4) (a b : BitVec 8) (r : BitVec 6) (hi : Bool) (m : BitVec 2), InWindow s [a, b] →
    Ready s [.m k, .v (spec s.th a), .v (spec s.th b), .s r, .m (m.zeroExtend 4)] → FormatsAgree s .either [a, b] →
    let w := widthAt s a
    let gov := rdM s.th (m.zeroExtend 4)
    let holds (x : Word) (y : Nat → Exact) : Prop := ∀ l < 64, x.getLsbD l =
      if gov.getLsbD l then decide (∀ e < 2048 / w, e * w / 32 = l → vcondHolds c (valueAt s a e) (y e) = true) else (rdM s.th k).getLsbD l
    let invalid (y : Nat → Exact) : Prop :=
      ∃ e < 2048 / w, gov.getLsbD (e * w / 32) = true ∧ (numIsSig (valueAt s a e) = true ∨ numIsSig (y e) = true)
    (∃ x fl, exec (.vcmp c k a b m) s = becomes s (raise (advance (wrM s.th k x)) fl) ∧ holds x (valueAt s b) ∧
      (fl.nv = true ↔ invalid (valueAt s b)) ∧ fl.dz = false ∧ fl.of' = false ∧ fl.uf = false ∧ fl.nx = false) ∧
    (∃ x fl, exec (.vcmps c k a r hi m) s = becomes s (raise (advance (wrM s.th k x)) fl) ∧ holds x (fun _ => scalarElem s a r hi) ∧
      (fl.nv = true ↔ invalid (fun _ => scalarElem s a r hi)) ∧ fl.dz = false ∧ fl.of' = false ∧ fl.uf = false ∧ fl.nx = false)) ∧
 (
  ∀ (s : State) (d a b : BitVec 8) (m : BitVec 2) (x y z : BitVec 4),
    (InWindow s [d, a, b] → Ready s [.v (spec s.th d), .v (spec s.th a), .v (spec s.th b), .m (m.zeroExtend 4)] →
      FormatsAgree s .either [a, b, d] →
      ∃ r fl, writesVector s (.vsel d a b m) d r fl ∧ ∀ e < 2048 / widthAt s d, elemAt (widthAt s d) r e =
        (intoFmt (vop s.th d).fmt
          (if (rdM s.th (m.zeroExtend 4)).getLsbD (e * widthAt s d / 32) then valueAt s a e else valueAt s b e, false)).1 % 2 ^ widthAt s d) ∧
    (Ready s [.m x, .m y, .m z] →
      exec (.mand x y z) s = becomes s (advance (wrM s.th x (rdM s.th y &&& rdM s.th z))) ∧
      exec (.mor x y z) s = becomes s (advance (wrM s.th x (rdM s.th y ||| rdM s.th z))) ∧
      exec (.mxor x y z) s = becomes s (advance (wrM s.th x (rdM s.th y ^^^ rdM s.th z))) ∧
      exec (.mandn x y z) s = becomes s (advance (wrM s.th x (rdM s.th y &&& ~~~rdM s.th z))) ∧
      exec (.mnot x y) s = becomes s (advance (wrM s.th x (~~~rdM s.th y)))))

/-- (1) R147: a permute moves whole lanes as bits, ignores the formats, and writes a lane only where the governing bit is 1. (2) R146: `VINS` writes
one active lane with the half that is named, whatever the format; `VEXT` gives a lane, zero-extended, to a scalar register. -/
def Obligations.PermutesAndLanes : Prop :=
 (
  ∀ (s : State) (i : Instr) (d a : BitVec 8) (bs : List (BitVec 8)) (m : BitVec 2) (src : Nat → Nat),
    permuteForm s.th i = some (d, a, bs, m, src) → InWindow s (d :: a :: bs) →
    Ready s (.v (spec s.th d) :: .v (spec s.th a) :: bs.map (fun v => Reg.v (spec s.th v)) ++ [.m (m.zeroExtend 4)]) →
    ∃ x, exec i s = becomes s (advance (wrV s.th (spec s.th d) x)) ∧ ∀ l < 64, laneAt x l =
      if (rdM s.th (m.zeroExtend 4)).getLsbD l then src l else laneAt (rdV s.th (spec s.th d)) l) ∧
 (
  ∀ (s : State) (v : BitVec 8) (l b d : BitVec 6) (hi : Bool) (m : BitVec 2), InWindow s [v] → FormatsAgree s .either [v] →
    Ready s [.v (spec s.th v), .s b, .s d, .m (m.zeroExtend 4)] →
    (∃ x, exec (.vins v l b hi m) s = becomes s (advance (wrV s.th (spec s.th v) x)) ∧ ∀ k < 64, laneAt x k =
      if k = l.toNat ∧ (rdM s.th (m.zeroExtend 4)).getLsbD k = true then (rdS s.th b).toNat / 2 ^ (if hi then 32 else 0) % 2 ^ 32
      else laneAt (rdV s.th (spec s.th v)) k) ∧
    exec (.vext d v l) s = becomes s (advance (wrS s.th d (word (laneAt (rdV s.th (spec s.th v)) l.toNat)))))

/-- (1) R149 to R151: the elements that the part pairs are converted, or moved as encodings; the other elements keep their bits. That `VUNPK` in a
narrowing pairing writes the low bits of the encoding, and which flags a tiny value sets in `E8M0`, is the model's reading (log 46). A part outside its
range, a `CB4` destination of `VMOV`, and an `E8M0` one but under RNE trap FORMAT. (2) R48, R54, R55: a number that the format holds is rounded
to itself, under every mode, and raises no flag. -/
def Obligations.MovesAndRounding : Prop :=
 (
  ∀ (s : State) (i : Instr) (d a : BitVec 8) (p : BitVec 3) (m : BitVec 2) (ok : Bool) (val : Nat → Nat × Flags),
    moveForm s i = some (d, a, p, m, ok, val) → InWindow s [d, a] →
    Ready s [.v (spec s.th d), .v (spec s.th a), .m (m.zeroExtend 4)] →
    let w := widthAt s d
    (ok = true → partFits (widthAt s a) w p.toNat →
      ∃ x fl, writesVector s i d x fl ∧ ∀ e < 2048 / w, elemAt w x e =
        match pairedWith (widthAt s a) w p.toNat e with
        | some k => if (rdM s.th (m.zeroExtend 4)).getLsbD (e * w / 32) then (val k).1 % 2 ^ w else elemAt w (rdV s.th (spec s.th d)) e
        | none => elemAt w (rdV s.th (spec s.th d)) e) ∧
    (ok = false ∨ ¬ partFits (widthAt s a) w p.toNat → exec i s = trapsWith s .format 0)) ∧
 (
  ∀ (f : Fmt) (mode : Rnd) (sat : Bool) (x : Nat), fmtClass f = .float → x < 2 ^ fmtUsed f → numIsNan (decodeFloat f x) = false →
    (∀ n, decodeFloat f x ≠ .inf n) → roundTo f mode sat (decodeFloat f x) = (x, noFlags))

/-- R152, R153, R95: `SETBF` writes a bank's tag, `LDCB` a codebook from the low 256 bits of a register; a bank that the window does not have is
ILLEGAL, a reserved format code traps FORMAT. -/
def Obligations.BankTagsAndCodebooks : Prop :=
  ∀ (s : State) (b : BitVec 4) (f v : BitVec 8),
    (b.toNat < s.th.win.toNat → (fmtOf f).isSome = true → exec (.setbf b f) s = becomes s (advance (wrBfmt s.th b f))) ∧
    (b.toNat < s.th.win.toNat → fmtOf f = none → exec (.setbf b f) s = trapsWith s .format 0) ∧
    (b.toNat < s.th.win.toNat → InWindow s [v] → present s.th (.v (spec s.th v)) = true →
      exec (.ldcb b v) s = becomes s (advance (wrCbk s.th b ((rdV s.th (spec s.th v)).truncate 256)))) ∧
    (s.th.win.toNat ≤ b.toNat → ∀ i ∈ [Instr.setbf b f, .ldcb b v], ∃ w, encodeA i = some w ∧
      exec i s = .next { trapFocus s .illegal (word (2 * 2 ^ 62 + w.toNat)) s.th.pc with last := .window })

/-- R169, R171: `ISSUE` gives its block the number `DSEQ.NEXT`, enters it in the dispatch ring as outstanding and queues it behind the commands
before it. A block whose length is not that of its kind is ILLEGAL. While the queue, the ring or the completion entries have no room the bundle
is held. -/
def Obligations.IssueQueuesACommand : Prop :=
  ∀ (s : State) (n : BitVec 4) (a : BitVec 6) (p : Port), Running s → wf (.issue n a p) = true →
    (∀ i ≤ n.toNat, present s.th (.s (a + BitVec.ofNat 6 i)) = true) →
    let ws := block s.th a n
    let w0 := nthWord ws 0
    let q := s.th.dseqNext
    (issueBad s n a p ws = none → issueHeld s s.th p w0 = false →
      ∃ t c, exec (.issue n a p) s = .next t ∧ t.last = .done ∧ t.mem = s.mem ∧ t.rest = s.rest ∧ t.cmds = s.cmds ++ [c] ∧
        c.handle = s.th.handle ∧ c.seq = q ∧ c.port = p ∧ c.words = ws ∧ c.world = s.th.world ∧ c.asid = s.th.asid ∧
        c.kind = w0.truncate 8 ∧ c.vec = 0 ∧ c.fin = none ∧ c.weight = s.th.muw.truncate 4 ∧
        ringAt t.th q = { RingEntry.free with seq := q, port := portNum p, q := w0.getLsbD 8, lc := w0.getLsbD 9, state := 1, kind := w0.truncate 8 } ∧
        t.th = { advance s.th with dseqNext := q + 1, ring := t.th.ring }) ∧
    (cmdLength p w0 ≠ some (n.toNat + 1) → ∃ w, encodeC (.issue n a p) = some w ∧ exec (.issue n a p) s = illegalAt s w .trapped) ∧
    (issueBad s n a p ws = none → issueHeld s s.th p w0 = true → exec (.issue n a p) s = .next { s with last := .held })

/-- (1) R172 to R174: `POP` takes the oldest completion word in completion order and frees its ring entry, or sleeps; `PORTST` reads without waiting,
and of the commands in the ring counts those of engines alone, network commands not: the model's reading (log 23); `SEQWAIT` is held until no
command up to s is incomplete. (2) R82, R172, R200, R341: an ended command waits for the answers of its landings, and while its own landing meets a
miss beyond the 32 that its cluster may have outstanding. Then its range locks go, its ring entry becomes free or, with `Q`, holds the completion word with the next completion order number, and the command is
gone. Memory is as it was, unless the thread is saved, whose image then follows (R200). -/
def Obligations.CompletionsAreRead : Prop :=
 (
  ∀ (s : State) (d : BitVec 6) (p : Port), present s.th (.s d) = true →
    let words := (s.th.ring.map (·.2)).filter (fun e => e.state = 4 ∧ e.port = portNum p)
    let open' (e : RingEntry) : Prop := e.state = 1 ∨ e.state = 2 ∨ e.state = 3
    (words ≠ [] → ∃ e w, e ∈ words ∧ (∀ f ∈ words, (s.th.cord - f.cord).toNat ≤ (s.th.cord - e.cord).toNat) ∧
      completes w e.seq e.status e.port (e.vec.truncate 32) ∧
      exec (.pop d p) s = becomes s { advance (wrS s.th d w) with ring := sset RingEntry.free s.th.ring (e.seq.toNat % 64) RingEntry.free }) ∧
    (words = [] → exec (.pop d p) s = becomes s { advance s.th with status := .sleeping (.pop p d) }) ∧
    (∃ v, exec (.portst d p) s = becomes s (advance (wrS s.th d v)) ∧ bits v 0 8 = BitVec.ofNat 8 (min 255 (portDepth p - queueUsed s s.th.core p)) ∧
      bits v 8 8 = BitVec.ofNat 8 words.length ∧ bits v 32 32 = 0 ∧
      let mine := (s.th.ring.map (·.2)).filter (fun e => open' e ∧ e.port = portNum p ∧ e.kind.toNat < 0x20)
      (mine = [] → bits v 16 16 = s.th.dseqNext) ∧
      (mine ≠ [] → ∃ e ∈ mine, bits v 16 16 = e.seq ∧ ∀ f ∈ mine, (s.th.dseqNext - f.seq).toNat ≤ (s.th.dseqNext - e.seq).toNat)) ∧
    ((∀ e ∈ s.th.ring.map (·.2), open' e → 2 ^ 15 ≤ ((rdS s.th d).truncate 16 - e.seq).toNat) → exec (.seqwait d) s = becomes s (advance s.th)) ∧
    (∀ e ∈ s.th.ring.map (·.2), open' e → ((rdS s.th d).truncate 16 - e.seq).toNat < 2 ^ 15 → exec (.seqwait d) s = .next { s with last := .held })) ∧
 (
  ∀ (s : State) (h : Handle) (q : BitVec 16) (c : Command) (st : BitVec 8) (res : BitVec 32),
    findCmd s h q = some c → c.fin = some (st, res) →
    (c.acks ≠ 0 → exec (.completionLanding h q) s = .next (pend s (.completionLanding h q))) ∧
    (completionWaits s c = true → exec (.completionLanding h q) s = .next (pend s (.completionLanding h q))) ∧
    (c.acks = 0 → behindEnded s c = false → completionWaits s c = false → c.refused = false →
      ∃ t, exec (.completionLanding h q) s = .next t ∧ findCmd t h q = none ∧ (∀ l ∈ t.locks, l.owner ≠ .cmd h q) ∧
        ((∀ u, findThread s h = some u → isAway u = false) → t.mem = s.mem) ∧
        ∀ u, findThread s h = some u → u.status = .ready → (ringAt u q).state ≠ 0 → (ringAt u q).seq = q →
          ∃ v, findThread t h = some v ∧
            ((ringAt u q).q = false → ringAt v q = RingEntry.free) ∧
            ((ringAt u q).q = true → ringAt v q = { ringAt u q with state := 4, status := st, cord := u.cord, vec := res.zeroExtend 64 } ∧
              v.cord = u.cord + 1)))

/-- (1) R196, R197, R186, R204, R343: the traps that a thread takes at a boundary, in the order late fault, landing failure, PROGRESS, and the
precise one of its fetch. Each has its cause, its value, and the bundle that comes next in `TEPC`. (2) R204: the watchdog marks every live thread
of a context that has one resident, and the graph's status word records it. -/
def Obligations.TrapsAtABoundary : Prop :=
 (
  ∀ (s : State) (h : Handle) (pc : Word), Interruptible s h →
    let pend' := field s.th.lfaultHi 8 8
    (∀ e c f, lateFault s.th = some e → findCmd s h e.seq = some c → c.fault = some f →
      exec (.engineFaultTrap h) s = .next { s with
        th := { entersAtBoundary s.th f.1 f.2.2 e.port e.seq f.2.1 with ring := sset RingEntry.free s.th.ring (e.seq.toNat % 64) { e with state := 3 } } }) ∧
    (lateFault s.th = none → pend' ≠ 0 →
      let cause : BitVec 8 := if 2 ≤ pend' ∨ s.th.lfaultHi.getLsbD 16 = true then 0x12 else if field s.th.lfaultHi 0 8 = 0 then 0x11 else 0x10
      exec (.landingFailureTrap h) s = .next { s with
        th := { entersAtBoundary s.th cause (word pend') 0 0 0 with lfaultHi := s.th.lfaultHi &&& ~~~0xFF00 } }) ∧
    (lateFault s.th = none → pend' = 0 → s.th.progress = true → ∀ l, launchOf s s.th.graph = some l →
      exec (.progressTrap h) s = .next { s with
        th := { entersAtBoundary s.th 0x28 (l.wdk.zeroExtend 64) 0 0 0 with progress := false } }) ∧
    exec (.fetchFault h pc) s = .next { s with
      th := { s.th with tcause := 0x04, tval := pc, tepc := s.th.pc, tstat := s.th.tstat ||| 0x40, pc := s.th.tvec, failed := none } }) ∧
 (
  ∀ (s : State) (g : BitVec 8), (∃ u ∈ allThreads s, inSlot u = true ∧ u.graph = g) →
    ∃ t, exec (.progress g) s = .next t ∧ (graphStatus t g).getLsbD 28 = true ∧ t.mem = s.mem ∧ t.rest.length = s.rest.length ∧
      ∀ (i : Nat) (u : Thread), (allThreads s)[i]? = some u → (allThreads t)[i]? = some (if isLive u = true ∧ u.graph = g then { u with progress := true } else u))

/-- (1) R231, R232, R234, R247: `CLAIM`, `RELEASE`, `ACCZ` and `ACCRD` send their request and empty their destinations; the checks are precise: a
reserved bit ILLEGAL, a format that no slot has FORMAT, a tile that is not the thread's PROTECT, whether or not the destinations of `ACCRD` are
present. (2) R247, R248: a snapshot that nothing stands before answers with 64 elements of the row, all of one boundary between K-steps, and with
its step word; it changes neither. -/
def Obligations.MatrixRequests : Prop :=
 (
  ∀ (s : State) (d a : BitVec 6) (v : BitVec 8), Running s → (coreOf s s.th.core).outst < 256 →
    let x := rdS s.th a
    let u := unitOf s.th.core
    let claimable := claimFmtOk (fmtOf (bits x 8 8)) (x.getLsbD 16)
    let r := spec s.th v
    (Ready s [.s d, .s a] → field x 6 2 = 0 → x.toNat < 2 ^ 18 → s.phase ≠ 2 →
      (claimable = true → ∃ t, exec (.claim d a) s = .next t ∧ requests s t d (.claimAtUnit (itsOrigin s) d u x)) ∧
      (claimable = false → exec (.claim d a) s = trapsWith s .format 0)) ∧
    (Ready s [.s d, .s a] → field x 6 2 ≠ 0 ∨ 2 ^ 18 ≤ x.toNat → ∃ w, encodeC (.claim d a) = some w ∧ exec (.claim d a) s = illegalAt s w .trapped) ∧
    (Ready s [.s d, .s a] → x.toNat < 2 ^ 16 → (x.getLsbD 6 = false ∨ x.getLsbD 7 = true ∨ field x 0 6 < 8) →
      ∃ t, exec (.release d a) s = .next t ∧ requests s t d (.releaseAtUnit (itsOrigin s) d x)) ∧
    (Ready s [.s d] → queueUsed s s.th.core .e0 < 16 →
      ∃ t c, exec (.accz d) s = .next t ∧ t.th = advance (setCount s.th (.s d) 1) ∧ t.mem = s.mem ∧ t.rest = s.rest ∧
        t.cmds = s.cmds ++ [c] ∧ c.accz = some d ∧ c.handle = s.th.handle ∧ c.core = s.th.core ∧ c.port = .e0) ∧
    (InWindow s [v] → Ready s [.v r, .s d, .s a] →
      ((coreOf s s.th.core).tileOwner = some s.th.handle → ∃ t, exec (.accrd v d a) s = .next t ∧
        t.th = advance (setCount (setCount s.th (.v r) 1) (.s d) 1) ∧ t.mem = s.mem ∧ t.rest = s.rest ∧
        t.pending = s.pending ++ [.accrdSnapshot (itsOrigin s) r d s.th.core (x.truncate 7) (x.getLsbD 7)])) ∧
    (InWindow s [v] → Ready s [.s a] →
      ((coreOf s s.th.core).tileOwner ≠ some s.th.handle → exec (.accrd v d a) s = trapsWith s .protect (word (s.th.core.toNat % 8))))) ∧
 (
  ∀ (s : State) (o : Origin) (v : BitVec 9) (c : BitVec 6) (core : BitVec 11) (row : BitVec 7) (half : Bool), snapshotWaits s o core = false →
    let x := tileAt s (unitOf core) (core.toNat % 8)
    let first := 128 * row.toNat + if half then 64 else 0
    ∃ (t : State) (w : Word), exec (.accrdSnapshot o v c core row half) s = .next t ∧ SameThreads s t ∧ t.mem = s.mem ∧ t.units = s.units ∧
      bits w 0 32 = BitVec.ofNat 32 x.count ∧ bits w 32 16 = (if x.count = 0 then 0 else x.lseq) ∧ bits w 49 2 = x.cls ∧ bits w 51 13 = 0 ∧
      (w.getLsbD 48 = true ↔ ∃ e ∈ matrixQueue s core, e.accz = none ∧ e.kind = 1) ∧
      (∃ p ∈ t.copies ++ t.heldBack, p.la = regLa o.dev o.by' (.v v) ∧
        p.payload = (List.range 64).flatMap (fun l => leBytes 4 (sget (0 : BitVec 32) x.elems (first + l)).toNat)) ∧
      ∃ p ∈ t.copies ++ t.heldBack, p.la = regLa o.dev o.by' (.s c) ∧ p.payload = leBytes 8 w.toNat)

/-- (1) R230, R231: `CLAIM` at the unit waits for the earlier commands that read the slot, and stands inside no landing into it (log 5). Another's
slot stays and is answered 1; one that is free or the thread's own takes owner, world, tag and `SH`, keeps its bytes within one world, and is
answered 0. (2) R232, R233, R234: `RELEASE` of a slot or tile that no accepted command uses, and of a slot that no landing is inside of (log 5),
clears its owner and keeps its bytes, answer 0, or 1 where the thread holds none; `ACCZ` at the head of its queue takes a tile that is free or the thread's own, and zeroes it; another's stays,
answer 1. -/
def Obligations.SlotsAndTilesChangeHands : Prop :=
 (
  ∀ (s : State) (o : Origin) (d : BitVec 6) (u : BitVec 8) (v : Word), (∀ c ∈ unitCmds s u, c.n < o.n → readsSlot c (field v 0 6) = false) →
    slotBusy s u (field v 0 6) = false →
    let x := slotAt s u (field v 0 6)
    (x.owner ≠ none → x.owner ≠ some o.by' →
      ∃ t, exec (.claimAtUnit o d u v) s = .next t ∧ SameThreads s t ∧ t.units = s.units ∧ answersWith t o d 1) ∧
    (x.owner = none ∨ x.owner = some o.by' →
      ∃ t y, exec (.claimAtUnit o d u v) s = .next t ∧ SameThreads s t ∧ t.mem = s.mem ∧ answersWith t o d 0 ∧ slotAt t u (field v 0 6) = y ∧
        y.owner = some o.by' ∧ y.world = o.world ∧ y.lastWorld = some o.world ∧ y.fmt = bits v 8 8 ∧ y.mx = v.getLsbD 16 ∧ y.sh = v.getLsbD 17 ∧
        (x.owner = some o.by' ∨ x.lastWorld = some o.world → y.data = x.data ∧ y.scale = x.scale ∧ y.book = x.book) ∧
        (x.owner = none → x.lastWorld ≠ some o.world → y.data = [] ∧ y.scale = [] ∧ y.book = []))) ∧
 (
  (∀ (s : State) (o : Origin) (d : BitVec 6) (v : Word) (u : BitVec 8) (i : Nat), bits v 8 8 = u → v.getLsbD 7 = false → field v 0 6 = i →
    unitPresent s u = true → unitCmds s u = [] → slotBusy s u i = false →
    (v.getLsbD 6 = false →
      let x := slotAt s u i
      ∃ t, exec (.releaseAtUnit o d v) s = .next t ∧ SameThreads s t ∧ t.mem = s.mem ∧
        (x.owner = some o.by' → slotAt t u i = { x with owner := none } ∧ answersWith t o d 0) ∧
        (x.owner ≠ some o.by' → slotAt t u i = x ∧ answersWith t o d 1)) ∧
    (v.getLsbD 6 = true → i < 8 → (tileAt s u i).owner = some o.by' →
      ∃ t, exec (.releaseAtUnit o d v) s = .next t ∧ SameThreads s t ∧ t.mem = s.mem ∧ answersWith t o d 0 ∧
        tileAt t u i = { tileAt s u i with owner := none } ∧ (coreOf t (BitVec.ofNat 11 (8 * u.toNat + i))).tileOwner = none)) ∧
  (∀ (s : State) (core : BitVec 11) (c : Command) (l : List Command) (d : BitVec 6), matrixQueue s core = c :: l → c.accz = some d →
    let u := unitOf core
    let x := tileAt s u (core.toNat % 8)
    let answer : Word := if x.owner = none ∨ x.owner = some c.handle then 0 else 1
    ∃ t, exec (.acczAtHead core) s = .next t ∧ SameThreads s t ∧ t.mem = s.mem ∧ c ∉ t.cmds ∧
      (∃ p ∈ t.copies ++ t.heldBack, p.la = regLa s.dev c.handle (.s d) ∧ p.payload = leBytes 8 answer.toNat) ∧
      (answer = 1 → tileAt t u (core.toNat % 8) = x) ∧
      (answer = 0 → tileAt t u (core.toNat % 8) = { Tile.init with owner := some c.handle } ∧ (coreOf t core).tileOwner = some c.handle)))

/-- R60 to R64, R237, R240, R244: a K-step of the unit is of the core whose turn it is. It changes every element of that core's tile as R63 computes
it from the two slots, and counts; after the last one its command ends with the number of its K-steps. A step that fails a check parks the
command and changes no element. -/
def Obligations.KStepsAccumulate : Prop :=
  ∀ (s : State) (u : BitVec 8) (c : Command) (k : UnitState), UnitCanonical s u → nextTurn s u = some (c, k) → findCmd s c.handle c.seq = some c →
    c.core = tileCore u (tileNum c.core) → c.net = none → c.port = .e0 →
    let j := tileNum c.core
    let a : Int := field (nthWord c.words 0) 14 6 + nestSum (nestPoint c) (mmaStrides c).1
    let b : Int := field (nthWord c.words 0) 20 6 + nestSum (nestPoint c) (mmaStrides c).2
    let x := slotAt s u a.toNat
    let y := slotAt s u b.toNat
    (kStepBad s c a b = none → ∃ t z, exec (.kStep u) s = .next t ∧ SameThreads s t ∧ t.mem = s.mem ∧ tileAt t u j = z ∧
      z.owner = (tileAt s u j).owner ∧ z.count = (tileAt s u j).count + 1 ∧ z.lseq = c.seq ∧ z.cls = (if slotFmt x = .int8 then 2 else 1) ∧
      (∀ r < 128, ∀ n < 128, sget 0 z.elems (128 * r + n) = stepElem x y (sget 0 (tileAt s u j).elems (128 * r + n)) r n) ∧
      (nextVec c 2 = none → hasEnded t c.handle c.seq 0 (BitVec.ofNat 32 (c.count + 1))) ∧
      (∀ v, nextVec c 2 = some v → ∀ d, findCmd t c.handle c.seq = some d → d.vec = v ∧ d.count = c.count + 1)) ∧
    (∀ f, kStepBad s c a b = some f → ∃ t, exec (.kStep u) s = .next t ∧ parks s t c f.cause f.sub f.val ∧ tileAt t u j = tileAt s u j ∧
      ((∀ u, findThread s c.handle = some u → isAway u = false) → t.mem = s.mem))

/-- (1) R240 to R242, R244: the entry at the head of a core's queue, its fields and tile in order. `MMA` begins its K-steps, its tile zeroed first
with `Z`; `MZERO` fills its tile with the value, whatever it encodes, and ends. Where the tile is not the thread's, both are parked with subcode
16. (2) R241: a run of `DRAIN` sends the elements of its tile row, converted as its fields say, as one landing; after the last run the command
ends with the bytes written, and with `Z` its tile is zeroed. (3) R82, R200, R215, R216, R243: the restart and cancel commands of E0 and E1 wait
for the earlier events of their thread. Then, where the command that they name is parked, the one lets it go on from its iteration vector, a
matrix command from the checks at the head of its queue; the other ends it with `ST` 1 and what it had done. Else they end with `ST` 2. -/
def Obligations.MatrixCommands : Prop :=
 (
  ∀ (s : State) (core : BitVec 11) (c : Command) (i : Instr), headCmd s core = some (c, true) → headRow core c.kind.toNat = some i →
    c.accz = none → c.core = core → c.net = none →
    let u := unitOf core
    let j := core.toNat % 8
    let x := tileAt s u j
    let w1 := nthWord c.words 1
    (c.kind = 1 → mmaHeadBad s c = none → ∃ t, exec i s = .next t ∧ SameThreads s t ∧ t.mem = s.mem ∧ .kStep u ∈ t.pending ∧
      (∀ d, findCmd t c.handle c.seq = some d → d.state = .running) ∧
      tileAt t u j = (if c.count = 0 ∧ (nthWord c.words 0).getLsbD 13 = true then { Tile.init with owner := x.owner } else x)) ∧
    (c.kind = 3 → x.owner = some c.handle → field (nthWord c.words 0) 10 54 = 0 → field w1 33 31 = 0 →
      ∃ t, exec i s = .next t ∧ SameThreads s t ∧ t.mem = s.mem ∧ hasEnded t c.handle c.seq 0 0 ∧
        (∀ k < 16384, sget 0 (tileAt t u j).elems k = w1.truncate 32) ∧ (tileAt t u j).count = 0 ∧ (tileAt t u j).owner = x.owner ∧
        (tileAt t u j).cls = (if w1.getLsbD 32 then 2 else 1)) ∧
    (x.owner ≠ some c.handle → findCmd s c.handle c.seq = some c →
      (c.kind = 3 ∧ field (nthWord c.words 0) 10 54 = 0 ∧ field w1 33 31 = 0) ∨
        (c.kind = 1 ∧ field (nthWord c.words 0) 26 38 = 0 ∧ ∀ z ∈ levelWords c 2, field z 28 36 = 0) →
      ∃ t, exec i s = .next t ∧ parks s t c .engineFault 16 (word j) ∧ tileAt t u j = x)) ∧
 (
  ∀ (s : State) (core : BitVec 11) (c : Command), headCmd s core = some (c, true) → c.kind = 2 → c.accz = none → c.core = core → c.net = none →
    c.port = .e0 → findCmd s c.handle c.seq = some c → drainHeadBad s c = none →
    let u := unitOf core
    let w := nthWord c.words 0
    let la := nthWord c.words 1
    let row : Int := field w 36 7 + nestSum (nestPoint c) ((levelWords c 3).map (fun x => sfield x 12 8))
    let adv : Int := nestSum (nestPoint c) ((levelWords c 3).map (fun x => sfield x 20 26)) * 2 ^ field w 32 4
    let x := tileAt s u (tileNum core)
    let n := field w 25 7 + 1
    ∀ df rnd, fmtOf (bits w 17 8) = some df → Machine.rndOf (field w 13 3) = some rnd → 0 ≤ row → row ≤ 127 →
      dstBad s c la adv (runBytes df n) (containerBytes df) = none → s.locks = [] → engineWaits s c (dstChunks la adv (runBytes df n)) = false →
      let from' : Fmt := if x.cls = 2 then .int32 else .fp32
      let elem (e : Nat) := (convertNum from' df rnd (w.getLsbD 16) (decodeElem from' 0 (sget (0 : BitVec 32) x.elems (128 * row.toNat + field w 43 7 + e)).toNat)).1
      ∃ t, exec (.drain core) s = .next t ∧ t.mem = s.mem ∧ t.th = s.th ∧ t.rest = s.rest ∧
        (∃ p ∈ t.copies ++ t.heldBack, p.la = runLa la adv ∧ p.payload = bytesOfElems df ((List.range n).map elem) ∧ p.o.by' = c.handle) ∧
        (nextVec c 3 = none → hasEnded t c.handle c.seq 0 (BitVec.ofNat 32 (c.count + runBytes df n)) ∧
          tileAt t u (tileNum core) = if w.getLsbD 50 then { Tile.init with owner := x.owner } else x) ∧
        (∀ v, nextVec c 3 = some v → tileAt t u (tileNum core) = x ∧ .drain core ∈ t.pending ∧
          ∀ d, findCmd t c.handle c.seq = some d → d.vec = v)) ∧
 (
  ∀ (s : State) (h : Handle) (q : BitVec 16) (c : Command) (i j : Instr),
    (i = .mresume h q ∧ j = .mcancel h q ∧ c.port = .e0 ∨ i = .copyr h q ∧ j = .copyc h q ∧ c.port = .e1) →
    findCmd s h q = some c → c.fin = none → c.state ≠ .parked → c.net = none → (∀ u, findThread s h = some u → isAway u = false) →
    let m : BitVec 16 := (nthWord c.words 1).truncate 16
    let both (p : State → Prop) : Prop := (∃ t, exec i s = .next t ∧ t.mem = s.mem ∧ p t) ∧ ∃ t, exec j s = .next t ∧ t.mem = s.mem ∧ p t
    (cmdFree s c = false → both (fun t => recoverAction c ∈ t.pending ∧ findCmd t h q = some { c with state := .running })) ∧
    (cmdFree s c = true → namedParked s c = none → both (fun t => hasEnded t h q 2 0)) ∧
    (∀ d, cmdFree s c = true → namedParked s c = some d →
      (∃ t e, exec i s = .next t ∧ t.mem = s.mem ∧ hasEnded t h q 0 0 ∧ findCmd t h m = some e ∧
        e.state = (if c.port = .e0 then .waiting else .running) ∧ e.fault = none ∧ e.vec = d.vec ∧ cmdAction d ∈ t.pending) ∧
      ∃ t, exec j s = .next t ∧ t.mem = s.mem ∧ hasEnded t h q 0 0 ∧ hasEnded t h m 1 (BitVec.ofNat 32 d.count)))

/-- (1) R210, R217, R218, R220: a copy or fill whose turn has come is accepted when its ranges meet no live lock that forbids them and no access
under way lies in them; its locks are then live, one of its die's eight engines has it, and its runs begin. Until then nothing of it happens. (2)
R69, R200, R212: a run of a copy begins once the landing of the run before it is answered. It reads the pieces of its source, any of them first;
then it converts each element and sends them as one landing to the destination advanced by its point of the nest. A fill takes its constant.
Memory is as it was. After the last run the command ends with the bytes sent. -/
def Obligations.CopiesConvertAndLand : Prop :=
 (
  ∀ (s : State) (h : Handle) (q : BitVec 16) (c : Command) (i : Instr), i = .copy h q ∨ i = .copyf h q →
    findCmd s h q = some c → c.fin = none → c.state = .queued → copyFieldsBad c = none →
    let free : Prop := queuedBefore s c = false ∧ cmdFree s c = true ∧
      (∀ a ∈ copyLocks c, ∀ b ∈ s.locks, a.world = b.world → a.lo < b.hi → b.lo < a.hi → a.dst = false ∧ b.dst = false) ∧
      (s.locks.filter (fun l => l.die = dieOf c.core)).length + (copyLocks c).length ≤ 1024 ∧
      ∀ a ∈ copyLocks c, accessesInside s a = false
    (free → ∃ t, exec i s = .next t ∧ t.locks = s.locks ++ copyLocks c ∧ SameThreads s t ∧ t.mem = s.mem ∧ cmdAction c ∈ t.pending ∧
      ∃ e : BitVec 5, findCmd t h q = some { c with state := .running, engine := e } ∧ e.toNat / 8 = (dieOf c.core).toNat) ∧
    (¬ free → exec i s = .next (pend s (cmdAction c)))) ∧
 (
  ∀ (s : State) (h : Handle) (q : BitVec 16) (c : Command) (i : Instr) (f g : Fmt), i = .copy h q ∨ i = .copyf h q →
    findCmd s h q = some c → c.fin = none → c.state = .running → c.port = .e1 → c.net = none →
    let p := copySpec c
    copyFieldsBad c = none → firstFault (copyFmtBad p) = none → p.sf = some f → p.df = some g →
    let so := copySrc p (nestPoint c)
    let adv := copyAdv p (nestPoint c)
    let places := enginePieces s c (srcChunks p so f)
    let goesOn (r : List Piece × List Byte) (t : State) : Prop := findCmd t h q = some { c with reads := some r } ∧ cmdAction c ∈ t.pending
    (c.reads = none → c.acks ≠ 0 → exec i s = .next (pend s (cmdAction c))) ∧
    (c.reads = none → c.acks = 0 → engineWaits s c (srcChunks p so f ++ dstChunks p.dst adv (runBytes g p.n)) = false →
      copyRunBad s c p so adv f g = none →
      ∃ t, exec i s = .next t ∧ SameThreads s t ∧ t.mem = s.mem ∧ goesOn (places, List.replicate (runBytes f p.n) 0) t) ∧
    (∀ l got, c.reads = some (l, got) → l ≠ [] → (∀ x ∈ l, sameKey s x) →
      ∃ t x r, exec i s = .next t ∧ SameThreads s t ∧ SameMemory s t ∧ l.Perm (x :: r) ∧ goesOn (r, patch got x.off (rdBytes s x.addr x.len)) t) ∧
    (∀ bytes, c.reads = some ([], bytes) → copyRunBad s c p so adv f g = none →
      let elem (e : Nat) := if p.fill then p.src.toNat % 2 ^ fmtWidth f else ofLe bytes / 2 ^ (fmtWidth f * e) % 2 ^ fmtWidth f
      let out (e : Nat) := if f = g then elem e else (convertNum f g p.rnd p.sat (decodeElem f 0 (elem e))).1
      ∃ t, exec i s = .next t ∧ SameThreads s t ∧ t.mem = s.mem ∧
        (∃ x ∈ t.copies ++ t.heldBack, x.la = runLa p.dst adv ∧ x.payload = bytesOfElems g ((List.range p.n).map out) ∧ x.o.by' = c.handle) ∧
        (nextVec c 4 = none → hasEnded t h q 0 (BitVec.ofNat 32 (c.count + runBytes g p.n))) ∧
        (∀ v, nextVec c 4 = some v → cmdAction c ∈ t.pending ∧ ∀ d, findCmd t h q = some d → d.vec = v ∧ d.fin = none ∧ d.reads = none)))

/-- (1) R225, R227: `MCRUN` starts a program where its memory core has a free slot, with `S1` the parameter, `S2` the memory core and every other
register zero; when the program has ended and nothing that it has sent is unanswered, the command ends with `S3`, or with the cause and bundle of
its trap. (2) R34, R226, R228, R229: the stream instructions are ILLEGAL on a compute core. In a program whose operands are present and whose
rows all pass their checks, `SLOAD` and `SSTORE` send one read for each row, under their tag, and `SPREF` goes on; `SWAIT` goes on when no row of
its tags is in flight and stalls before. -/
def Obligations.MemoryCoreProgramsAndStreams : Prop :=
 (
  (∀ (s : State) (h : Handle) (q : BitVec 16) (c : Command), findCmd s h q = some c → c.fin = none → c.state = .queued →
    queuedBefore s c = false → cmdFree s c = true → mcrunBad s c = none →
    let m := 192 * (dieOf c.core).toNat + field (nthWord c.words 1) 0 8
    (4 ≤ progsOn s m → exec (.mcrun h q) s = .next (pend s (.mcrun h q))) ∧
    (progsOn s m < 4 → ∃ t u, exec (.mcrun h q) s = .next t ∧ t.th = s.th ∧ t.mem = s.mem ∧ u ∈ t.rest ∧
      findCmd t h q = some { c with state := .running } ∧ isProg h q u = true ∧ u.status = .ready ∧ u.pc = nthWord c.words 2 ∧
      u.world = c.world ∧ u.asid = c.asid ∧
      ∀ r : BitVec 6, rdS u r = (if r = 1 then nthWord c.words 4 else if r = 2 then (nthWord c.words 1) &&& 0xFF else 0) ∧ count u (.s r) = 0)) ∧
  (∀ (s : State) (p : McProgram) (away : Bool), s.th.prog = some p → s.th.status = .exiting away →
    let h := s.th.handle
    (unanswered s (senderOf s s.th) = true → exec (.mcrunEnd h p.seq) s = .next (pend s (.mcrunEnd h p.seq))) ∧
    (unanswered s (senderOf s s.th) = false → (∀ c, findCmd s h p.seq = some c → c.net = none) →
      ∃ t, exec (.mcrunEnd h p.seq) s = .next t ∧ t.th.status = .ended ∧ t.mem = s.mem ∧
        (p.ended = none → hasEnded t h p.seq 0 ((rdS s.th 3).truncate 32)) ∧
        (∀ cause pc, p.ended = some (cause, pc) →
          hasEnded t h p.seq 3 (BitVec.ofNat 32 ((pc - p.pc0).toNat / 8 % 2 ^ 24 * 256 + cause.toNat)))))) ∧
 (
  ∀ (s : State) (d a b c : BitVec 6) (rows len : BitVec 8) (tag : BitVec 4) (m : BitVec 16),
    (s.th.prog = none → illegalLong s (.sload d a b c rows len tag) ∧ illegalLong s (.sstore d a b c rows len tag) ∧
      illegalLong s (.spref a b rows len) ∧ illegalLong s (.swait m)) ∧
    ∀ p, s.th.prog = some p → (streamsOpen s s.th).length < 16 → s.th.fences = [] →
      let n := len.toNat + 1
      let k := rows.toNat + 1
      let src (i : Nat) := (rdS s.th a + word i * rdS s.th b).toNat
      let la (i : Nat) := runLa (rdS s.th d) (i * (rdS s.th c).toInt)
      let va (i : Nat) := (rdS s.th d + word i * rdS s.th c).toNat
      let ends (i : Instr) (to' : Nat → Word) (dst : Nat → List Chunk) : Prop :=
        ∃ t l, exec i s = .next t ∧ t.last = .done ∧ t.rest = s.rest ∧ t.mem = s.mem ∧ l.length = k ∧
          t.th = advance { s.th with prog := some { p with streams := streamsOpen s s.th ++ [(tag, l)] } } ∧
          ∀ i, i < k → ∃ x, l[i]? = some x ∧ sendsRow s t n (src i) (to' i) (dst i) x
      (Ready s [.s d, .s a, .s b, .s c] →
        accessBad s s.th ((List.range k).flatMap (fun i => laAlign (la i) n)) ((List.range k).flatMap (fun i => chunks .r (src i) n 0 ++ laChunks (la i) n)) = none →
        rowsLaBad s (rdS s.th d) (rdS s.th c) k n = none → ends (.sload d a b c rows len tag) la (fun i => laChunks (la i) n)) ∧
      (Ready s [.s d, .s a, .s b, .s c] →
        accessBad s s.th [] ((List.range k).flatMap (fun i => chunks .r (src i) n 0 ++ chunks .w (va i) n 0)) = none →
        ends (.sstore d a b c rows len tag) (fun i => word (va i)) (fun i => chunks .w (va i) n 0)) ∧
      (Ready s [.s a, .s b] → accessBad s s.th [] ((List.range k).flatMap (fun i => chunks .r (src i) n 0)) = none →
        ∃ t, exec (.spref a b rows len) s = .next t ∧ t.last = .done ∧ t.th = advance s.th ∧ t.rest = s.rest) ∧
      (m ≠ 0 → (∀ e ∈ streamsOpen s s.th, m.getLsbD e.1.toNat = false) →
        ∃ u, exec (.swait m) s = becomes s (advance { s.th with prog := some u })) ∧
      (∀ e ∈ streamsOpen s s.th, m.getLsbD e.1.toNat = true → exec (.swait m) s = .next { s with last := .held }))

/-- (1) R178, R182, R184, R187: a landing at the core of its thread. One whose check code fails is sent again; one that fails a test is refused with
the first subcode; one for a thread that is saved or restored is buffered, up to 64 of them, then busy; any other is delivered and acknowledged
with the core's number. (2) R178, R182, R183, R184, R188, R190: a landing whose thread is not at the core goes where a forwarding entry sends it,
at most twice, else to the directory agent, which sends it on, holds it or refuses it by its entry; one that is not sent on has its check code
tested first. A held landing arrives in the image, and a thread whose awaited register is then present is runnable, with cause 2. -/
def Obligations.LandingsMeetTheirThread : Prop :=
 (
  ∀ (s : State) (core : BitVec 11) (p : Packet), inSlot s.th = true → s.th.core = core → s.th.handle = laHandle p.la →
    let away : Prop := ∃ w, s.th.status = .saving w ∨ s.th.status = .restoring w
    let k := coreOf s core
    (crcOk p = false → exec (.landingArrival core p) s = .next (pend s (.checkFailure p))) ∧
    (crcOk p = true → away → k.mortar.length < 64 →
      exec (.landingArrival core p) s = .next (setCore s core { k with mortar := k.mortar ++ [p] })) ∧
    (crcOk p = true → away → 64 ≤ k.mortar.length → exec (.landingArrival core p) s = .next (pend s (.busy p))) ∧
    (∀ sub, crcOk p = true → ¬ away → refusedWith s.th p = some sub → exec (.landingArrival core p) s = .next (pend s (.landingRefusal p sub))) ∧
    (crcOk p = true → ¬ away → refusedWith s.th p = none → ∃ v, Delivered s.th v p ∧
      exec (.landingArrival core p) s = .next (pend { s with th := v } (.landingAcknowledgement p (core.zeroExtend 12))))) ∧
 (
  ∀ (s : State) (core : BitVec 11) (p : Packet),
    let h := laHandle p.la
    let e := dirOf s (hIndex h)
    (residentAt s core h = none → ∀ to', (coreOf s core).fwd.find? (fun x => x.1 = h) = some (h, some to') →
      exec (.landingArrival core p) s = .next (if p.hops.toNat < 2 then pend s (.landingArrival to' { p with hops := p.hops + 1, fwd := true })
        else pend s (.directoryResolve p))) ∧
    (residentAt s core h = none → (coreOf s core).fwd.find? (fun x => x.1 = h) = none →
      exec (.landingArrival core p) s = .next (pend s (.directoryResolve p))) ∧
    (e.state ≠ 1 ∨ e.gen ≠ hGen h ∨ e.world ≠ p.o.world → crcOk p = false →
      exec (.directoryResolve p) s = .next (pend s (.checkFailure p))) ∧
    (crcOk p = true → e.state = 0 → exec (.directoryResolve p) s = .next (pend s (.landingRefusal p 1))) ∧
    (crcOk p = true → e.state ≠ 0 → e.gen ≠ hGen h → exec (.directoryResolve p) s = .next (pend s (.landingRefusal p 2))) ∧
    (crcOk p = true → e.state ≠ 0 → e.gen = hGen h → e.world ≠ p.o.world →
      exec (.directoryResolve p) s = .next (pend s (.landingRefusal p 3))) ∧
    (e.state = 1 → e.gen = hGen h → e.world = p.o.world →
      exec (.directoryResolve p) s = .next (pend s (.landingArrival e.core { p with hops := 0 }))) ∧
    (∀ w, e.state = 2 ∨ e.state = 3 → e.gen = hGen h → e.world = p.o.world → crcOk p = true → isLive s.th = true → s.th.handle = h →
      s.th.status = .away w → s.th.world = p.o.world →
      (∀ sub, refusedWith s.th p = some sub → exec (.directoryResolve p) s = .next (pend s (.landingRefusal p sub))) ∧
      (refusedWith s.th p = none → ∃ t v, exec (.directoryResolve p) s = .next t ∧ Delivered s.th v p ∧ (e.image = 0 → t.mem = s.mem) ∧
        .landingAcknowledgement p 0xFFF ∈ t.pending ∧
        ((∀ x, recordedReg s.th = some x → present v x = false) → t.th = v) ∧
        (∀ x, recordedReg s.th = some x → present v x = true → s.th.runnable = false →
          t.th = { v with status := .away none, awaited := [], runnable := true, cause := 2 } ∧
            h ∈ (clusterAt t (clusterOf s.th.core)).queue))))

/-- (1) R11, R69, R165, R178, R184, R230, R246: a landing in an operand slot that a thread of its world has claimed writes its bytes, of a masked one
those of the selected lanes, into the part it names and no other, piece by piece and in any order, as long as the slot is claimed; one in memory
stores its bytes at the places of its translation. Both are acknowledged after the last piece; a slot that is not claimed, or of another world,
refuses. (2) R177, R180, R185, R187: what comes back to a landing's agent. An
acknowledgement drops the copy and names the thread's place; a refusal is recorded with its sender, and the agent's cache forgets the place;
after a failed check the copy is sent again, four times in all, and then the failure is final, with subcode 0; busy has it sent again, uncounted. -/
def Obligations.LandingsStoreAndAreAnswered : Prop :=
 (
  (∀ (s : State) (p : Packet),
    let u := laUnit p.la
    let x := slotAt s u (laSlot p.la)
    let part (y : OpSlot) : Sparse Byte := if laPart p.la = 1 then y.scale else if laPart p.la = 2 then y.book else y.data
    let present' : Prop := clusterPresent s (u.extractLsb' 1 7) = true
    let fresh : Prop := p.pieces = [] ∧ crcOk p = true
    let l := if p.pieces = [] then slotPieces p else p.pieces
    (p.pieces = [] → crcOk p = false → exec (.slotLanding p) s = .next (pend s (.checkFailure p))) ∧
    (fresh → ¬ present' ∨ x.owner = none → exec (.slotLanding p) s = .next (pend s (.landingRefusal p 5))) ∧
    (fresh → present' → x.owner ≠ none → x.world ≠ p.o.world → exec (.slotLanding p) s = .next (pend s (.landingRefusal p 3))) ∧
    (p.pieces ≠ [] → x.owner = none → exec (.slotLanding p) s = .next (pend s (.landingRefusal p 5))) ∧
    (fresh → present' → x.owner ≠ none → x.world = p.o.world → l = [] →
      exec (.slotLanding p) s = .next (pend s (.landingAcknowledgement p 0xFFF))) ∧
    (x.owner ≠ none → fresh ∧ present' ∧ x.world = p.o.world ∨ p.pieces ≠ [] → l ≠ [] → (∀ z ∈ l, z.off + z.len ≤ p.payload.length) →
      ∃ t y z r, exec (.slotLanding p) s = .next t ∧ SameThreads s t ∧ t.mem = s.mem ∧ l.Perm (z :: r) ∧ slotAt t u (laSlot p.la) = y ∧
        t.pending = (if r = [] then s.pending ++ [.landingAcknowledgement { p with pieces := [] } 0xFFF]
          else .slotLanding { p with pieces := r } :: s.pending) ∧
        y = { x with data := y.data, scale := y.scale, book := y.book } ∧
        (∀ i, i < z.len → sget 0 (part y) (z.addr + i) = p.payload.getD (z.off + i) 0) ∧
        (∀ k, k < z.addr ∨ z.addr + z.len ≤ k → sget 0 (part y) k = sget 0 (part x) k) ∧
        (laPart p.la ≠ 1 → y.scale = x.scale) ∧ (laPart p.la ≠ 2 → y.book = x.book) ∧ (laPart p.la = 1 ∨ laPart p.la = 2 → y.data = x.data))) ∧
  (∀ (s : State) (p : Packet) (x : Piece), crcOk p = true → p.pieces = [x] → assigned s x.addr = true → sameKey s x →
    x.off + x.len ≤ p.payload.length →
    ∃ t, exec (.memoryLanding p) s = .next t ∧ SameThreads s t ∧ rdBytes t x.addr x.len = (p.payload.drop x.off).take x.len ∧
      SameMemoryOutside s t x.addr x.len ∧ t.pending = s.pending ++ [.landingAcknowledgement { p with pieces := [] } 0xFFF])) ∧
 (
  ∀ (s : State) (p q : Packet) (l r : List Packet) (place : BitVec 12) (sub : BitVec 8), p.o.dev = s.dev → p.o.seq.getLsbD 31 = false →
    s.copies = l ++ q :: r → (∀ x ∈ l, samePacket p x = false) → samePacket p q = true →
    let mine : Prop := isLive s.th = true ∧ s.th.handle = p.o.by'
    let dropped (t : State) : Prop := (t.copies ++ t.heldBack).Perm (l ++ r ++ s.heldBack)
    (∃ t, exec (.landingAcknowledgement p place) s = .next t ∧ SameThreads s t ∧ t.mem = s.mem ∧ dropped t ∧
      (laSpace p.la = 1 → laDev p.la = s.dev →
        (locOf t p.o.agent).head? = some (laHandle p.la, if place = 0xFFF then none else some (place.truncate 11))) ∧
      (p.counted = true → (coreOf t p.o.core).outst = (coreOf s p.o.core).outst - 1)) ∧
    (mine → ∃ t, exec (.landingRefusal p sub) s = .next t ∧ dropped t ∧ (isAway s.th = false → t.mem = s.mem) ∧ t.rest = s.rest ∧
      t.th = fails s.th p.la sub p.o.seq ∧
      (laSpace p.la = 1 → sub ≠ 0 → ∀ x ∈ locOf t p.o.agent, x.1 ≠ laHandle p.la)) ∧
    (q.tries < 4 → ∃ t x, exec (.checkFailure p) s = .next t ∧ SameThreads s t ∧ t.mem = s.mem ∧ x ∈ t.copies ∧ samePacket p x = true ∧
      x.tries = q.tries + 1 ∧ t.pending.length = s.pending.length + 1) ∧
    (4 ≤ q.tries → mine → ∃ t, exec (.checkFailure p) s = .next t ∧ dropped t ∧ (isAway s.th = false → t.mem = s.mem) ∧ t.rest = s.rest ∧
      t.th = fails s.th q.la 0 p.o.seq) ∧
    exec (.busy p) s = .next (pend s (.busyResend p)) ∧
    ∃ t x, exec (.busyResend p) s = .next t ∧ SameThreads s t ∧ t.mem = s.mem ∧ x ∈ t.copies ∧ samePacket p x = true ∧ x.tries = q.tries ∧
      t.pending.length = s.pending.length + 1)

/-- (1) R102, R103, R201, R370: a thread ordered saved stops at its boundary, once its image has a free place in its die's reserve, and keeps its
wait; when everything of it is answered and nothing is buffered, its image and its record stand in memory, and the directory entry says where it
is: Suspended, or Moving with the target core; a forwarding entry names it. It is runnable unless it waits for what has not come. R199, R317: a
fatal one leaves handle, cause, address and value in its graph's entry. The cause in a fatal one's record is the model's (log 22), and so is
which free place is taken (log 8). (2) R203: the restore of a runnable continuation takes an idle slot with room for its window; when its image
is loaded and nothing is buffered, the thread is Ready, or asleep again in a wait that has not ended. -/
def Obligations.SavesAndContinuations : Prop :=
 (
  (∀ (s : State) (h : Handle) (why : SaveWhy), Focused s h → s.th.save = some why →
    (∀ a, imagePlace s s.th = some a →
      (s.th.status = .ready ∨ (∃ w, s.th.status = .sleeping w) ∨ s.th.status = .stalled →
        ∃ t, exec (.saveStart h) s = .next t ∧ t.rest = s.rest ∧ t.mem = s.mem ∧ .saveReport h ∈ t.pending ∧
          (dirOf t (hIndex h)).image = word (fabric s a) ∧ (reserveOf s (dieOf s.th.core).toNat).1 ≤ a ∧
          a + imageSize s.th ≤ (reserveOf s (dieOf s.th.core).toNat).1 + (reserveOf s (dieOf s.th.core).toNat).2 ∧
          (∀ x ∈ reserveTaken s, x.1 + x.2 ≤ a ∨ a + imageSize s.th ≤ x.1) ∧
          (s.th.status = .ready → t.th = { s.th with status := .saving none, fetched := [], awaited := [] }) ∧
          (s.th.status = .stalled → t.th = { s.th with status := .saving none, fetched := [] }) ∧
          (∀ w, s.th.status = .sleeping w → t.th = { s.th with status := .saving (some w), fetched := [], awaited := [] }))) ∧
    (imagePlace s s.th = none → s.th.status = .ready ∨ s.th.status = .stalled → exec (.saveStart h) s = .next s)) ∧
  (∀ (s : State) (h : Handle) (w : Option Wait) (why : SaveWhy), Focused s h → s.th.save = some why → s.th.status = .saving w →
    let image := (dirOf s (hIndex h)).image
    let lacks := (s.th.awaited.find? (fun r => !present s.th r)).toList
    (draining s s.th = true → exec (.saveReport h) s = .next (pend s (.saveReport h))) ∧
    (draining s s.th = false → mortarOf s s.th = [] → unanswered s (senderOf s s.th) = false →
      (∀ l, launchOf s s.th.graph = some l → l.aborting = none) →
      (∀ (to' : BitVec 11) (moves : Bool) (cause : BitVec 3),
        (why = .preempt ∧ cause = 1 ∧ to' = s.th.core ∧ moves = false) ∨ (why = .yield ∧ cause = 3 ∧ to' = s.th.core ∧ moves = false) ∨
          (why = .migrate to' ∧ cause = 4 ∧ moves = true) →
        ∃ t, exec (.saveReport h) s = .next t ∧ t.rest = s.rest ∧ (dirOf t (hIndex h)).state = (if moves then 3 else 2) ∧
          (dirOf t (hIndex h)).image = image ∧ (image = 0 → t.mem = s.mem) ∧
          (image ≠ 0 → NoKeys s →
            (image.toNat % 2 ^ 45 + (imageBytes t.th).length ≤ recordPlace s (hIndex h) ∨
              recordPlace s (hIndex h) + 64 ≤ image.toNat % 2 ^ 45) → SavedIn s t image) ∧
          (moves = true → (dirOf t (hIndex h)).core = to') ∧
          (coreOf t s.th.core).fwd.head? = some (h, if moves then some to' else none) ∧
          (w = none → t.th = { s.th with status := .away none, save := none, served := false, runnable := true, cause := cause, core := to', awaited := lacks } ∧
            h ∈ (clusterAt t (clusterOf to')).queue) ∧
          (∀ line, w = some (.evw line) →
            t.th = { s.th with status := .away w, save := none, served := false, runnable := false, cause := cause, core := to', awaited := lacks })) ∧
      (why = .fatal → ∃ t, exec (.saveReport h) s = .next t ∧ gRd t (graphAt s.th.graph + 32) 4 = h.toNat ∧
        gRd t (graphAt s.th.graph + 36) 1 = field s.th.tcause 0 8 ∧ gRd t (graphAt s.th.graph + 40) 8 = s.th.tepc.toNat ∧
        gRd t (graphAt s.th.graph + 48) 8 = s.th.tval.toNat)))) ∧
 (
  ∀ (s : State) (h : Handle) (core : BitVec 11) (slot : BitVec 3) (w : Option Wait), Focused s h →
    (s.th.status = .away w → s.th.runnable = true → slot ∈ idleSlots s core → s.th.win.toNat ≤ freeBanks s core →
      ∃ t, exec (.resume h core slot) s = .next t ∧ t.th = { s.th with status := .restoring w, core := core, slot := slot } ∧ t.rest = s.rest ∧
        t.mem = s.mem ∧ (dirOf t (hIndex h)).state = 1 ∧ (dirOf t (hIndex h)).core = core ∧ (dirOf t (hIndex h)).slot = slot ∧
        .resume h core slot ∈ t.pending) ∧
    (s.th.status = .restoring w → mortarOf s s.th = [] → (∀ l, launchOf s s.th.graph = some l → l.aborting = none) →
      ∃ t, exec (.resume h core slot) s = .next t ∧ t.rest = s.rest ∧ t.mem = s.mem ∧ (dirOf t (hIndex h)).image = 0 ∧
        (w = none ∨ w = some .sleep → t.th = { s.th with status := .ready }) ∧
        (∀ r q, w = some (.waitp r q) → t.th = { s.th with status := if present s.th r then .ready else .sleeping (.waitp r q) }) ∧
        (∀ line, w = some (.evw line) → t.th = { s.th with status := .sleeping (.evw line) })))

/-- (1) R320, R321, R323, R334, R361: a trigger is queued at an enabled channel with room, of an interface that is not locked, or dropped, as
`LAUNCH` is answered; one from the host to a channel of an interface in ERROR has no effect. `LAUNCH` on a channel that is not its own traps
PROTECT, its destination present or not. At its start a trigger is refused with `ERR` 1 or 2, `END` and the vector, or its graph runs: its nodes
whose counters begin at 0 are released, and their teams wait. A trigger in the queue of a channel that is disabled meanwhile is served all the
same (the model's reading, log 28), and one of a world that is being destroyed waits (R363, log 34). A released concurrent node has its teams placed
at once and whole, or the launch is aborted with reason 2. (2) R83, R319, R322: a launch that waits for its patch list: it goes on waiting for a page
or a range lock; with a list in order its nodes are patched, entry by entry, and it starts; with any other it is aborted. (3) R322, R325, R335:
`GRUN` runs a graph of the thread's world that does not run, and else, or where the world is being destroyed (log 34), ends with `ST` 2, or with 4
where the address space in which its patch list would lie is none of the 4,096; `DEPDEC` decrements the counter of a node of a running graph,
releases the node where it was 1, and where it is 0 already aborts the launch and ends with `ST` 3. -/
def Obligations.LaunchesAndGraphs : Prop :=
 (
  ∀ (s : State) (c : BitVec 4) (v : Word) (rest : List Word) (d a b : BitVec 6),
    let k := chanAt s c
    let taken : Prop := k.en = true ∧ k.fifo.length < 16 ∧ (funcAt s k.func).tdisp ≠ .locked ∧ (s.phase = 2 ∨ s.phase = 3)
    let g : BitVec 8 := v.truncate 8
    ((funcAt s k.func).tdisp = .error → exec (.chtrig c v) s = .next s) ∧
    (taken → (funcAt s k.func).tdisp ≠ .error → ∃ t, exec (.chtrig c v) s = .next t ∧ SameThreads s t ∧ t.mem = s.mem ∧ chanAt t c = { k with fifo := k.fifo ++ [v] } ∧
      .launchStart c ∈ t.pending) ∧
    (¬ taken → (funcAt s k.func).tdisp ≠ .error → exec (.chtrig c v) s = .next (setChan s c { k with drop := true })) ∧
    (Ready s [.s a, .s b] → (rdS s.th a).truncate 4 = c → k.devl = false ∨ k.world ≠ s.th.world →
      exec (.launch d a b) s = trapsWith s .protect (c.zeroExtend 64)) ∧
    (Running s → Ready s [.s d, .s a, .s b] → (rdS s.th a).truncate 4 = c → (coreOf s s.th.core).outst < 256 → outstanding s (senderOf s s.th) 0xF = [] →
      (k.devl = true → k.world = s.th.world → ∃ t, exec (.launch d a b) s = .next t ∧ t.th = advance (setCount s.th (.s d) 1) ∧
        (taken → chanAt t c = { k with fifo := k.fifo ++ [rdS s.th b] } ∧ answersWith t (itsOrigin s) d 0) ∧
        (¬ taken → chanAt t c = { k with drop := true } ∧ answersWith t (itsOrigin s) d 1))) ∧
    (k.running = none → k.fifo = v :: rest → s.phase = 3 → launchOf s g = none →
      (∀ err : BitVec 2, (err = 1 ∧ graphOk s g = false) ∨ (err = 2 ∧ graphOk s g = true ∧ graphWorld s g ≠ k.world) →
        ∃ t, exec (.launchStart c) s = .next t ∧ SameThreads s t ∧ chanAt t c = { k with fifo := rest, ended := true, err := err } ∧
          .msix k.vec ∈ t.outbox) ∧
      (graphOk s g = true → graphWorld s g = k.world → worldLeaving s k.world = true → exec (.launchStart c) s = .next (pend s (.launchStart c))) ∧
      (graphWorld s g = k.world → worldLeaving s k.world = false → v.toNat < 2 ^ 8 →
        (Launchable s g → ∃ t, exec (.launchStart c) s = .next t ∧ Launched s t g ∧ chanAt t c = { k with fifo := rest, running := some g }) ∧
        (graphOk s g = true → nodeBad s g = none → nodeCount s g = 1 → firstCount s g 0 = 0 → nodeMode s g 0 = 2 →
          let n := nodeThreads s g 0
          let room := clusterFor s (nodeDie s g 0) n (nodeWindow s g 0)
          (room = none → 1 ≤ nodeTeams s g 0 → (∀ u ∈ allThreads s, isLive u = true → u.graph ≠ g) →
            ∃ t, exec (.launchStart c) s = .next t ∧ launchOf t g = none ∧ graphState t g = 3 ∧ bits (graphStatus t g) 4 8 = 2) ∧
          (∀ j, room = some j → nodeTeams s g 0 = 1 → n ≤ freeIndices s → ∃ t m, exec (.launchStart c) s = .next t ∧ nodeState t g 0 = 1 ∧
            teamAt t s.teamNext = some m ∧ m.home = j ∧ m.members.length = n ∧ t.queue = s.queue))))) ∧
 (
  (∀ (s : State) (c : BitVec 4) (g : BitVec 8) (l : Launch) (list : Word), (chanAt s c).running = some g → launchOf s g = some l → l.chan = some c →
    l.aborting = none → l.patch = some list → list ≠ 0 →
    let a := graphAsid s g
    (∀ s1 va, readList s a list.toNat 8 = (s1, .page va) →
      ∃ t, exec (.launchStart c) s = .next t ∧ launchOf t g = some l ∧ t.gmem = s.gmem ∧ ∃ f ∈ t.pageFaults, g ∈ f.launches) ∧
    (∀ s1, readList s a list.toNat 8 = (s1, .locked) →
      ∃ t, exec (.launchStart c) s = .next t ∧ launchOf t g = some l ∧ t.gmem = s.gmem ∧ .launchStart c ∈ t.pending) ∧
    (∀ s1, readList s a list.toNat 8 = (s1, .bad) → ∃ t, exec (.launchStart c) s = .next t ∧ Aborts t g) ∧
    (∀ s1 b, readList s a list.toNat 8 = (s1, .bytes b) →
      (4096 < ofLe b → ∃ t, exec (.launchStart c) s = .next t ∧ Aborts t g) ∧
      (∀ s2 x, ofLe b ≤ 4096 → readList s1 a (list.toNat + 8) (16 * ofLe b) = (s2, .bytes x) →
        let entry (i : Nat) := patchEntry ((x.drop (16 * i)).take 16)
        ((∃ i < ofLe b, patchOk (nodeCount s g) (entry i) = false) → ∃ t, exec (.launchStart c) s = .next t ∧ Aborts t g) ∧
        ((∀ i < ofLe b, patchOk (nodeCount s g) (entry i) = true) →
          let p := ((List.range (ofLe b)).map entry).foldl (fun s e => patchNode s g e) s
          Launchable p g → ∃ t, exec (.launchStart c) s = .next t ∧ Released p t g ∧ ∃ m, launchOf t g = some m ∧ m.aborting = none ∧ m.patch = none)))) ∧
  (∀ (s : State) (g : BitVec 8) (e : PatchEntry), patches s (patchNode s g e) g e)) ∧
 (
  ∀ (s : State) (h : Handle) (q : BitVec 16) (c : Command), findCmd s h q = some c → c.fin = none → cmdFree s c = true → c.state = .queued →
    c.net = none →
    let g : BitVec 8 := bits (nthWord c.words 0) 10 8
    let i := field (nthWord c.words 1) 0 16
    let k : BitVec 8 := bits (nthWord c.words 1) 16 8
    (graphOk s g = false ∨ graphWorld s g ≠ c.world ∨ launchOf s g ≠ none ∨ worldLeaving s c.world = true → ∃ t, exec (.grun h q) s = .next t ∧ hasEnded t h q 2 0) ∧
    (Launchable s g → graphWorld s g = c.world → launchOf s g = none → worldLeaving s c.world = false → nthWord c.words 1 = 0 → s.phase = 3 →
      ∃ t, exec (.grun h q) s = .next t ∧ Launched s t g ∧ findCmd t h q = some { c with state := .running }) ∧
    (graphOk s g = true → graphWorld s g = c.world → launchOf s g = none → worldLeaving s c.world = false → nthWord c.words 1 ≠ 0 → s.phase = 3 →
      4096 ≤ gRd s (graphAt g + 12) 4 → ∃ t, exec (.grun h q) s = .next t ∧ hasEnded t h q 4 0 ∧ t.gmem = s.gmem) ∧
    (launchOf s k = none → ∃ t, exec (.depdec h q) s = .next t ∧ hasEnded t h q 2 0) ∧
    (∀ l, launchOf s k = some l → l.patch = none → graphWorld s k = c.world → i < nodeCount s k →
      (1 < nodeCounter s k i → ∃ t, exec (.depdec h q) s = .next t ∧ hasEnded t h q 0 0 ∧ nodeCounter t k i = nodeCounter s k i - 1) ∧
      (nodeCounter s k i = 1 → l.aborting = none → 1 ≤ nodeTeams s k i → nodeMode s k i ≠ 2 → gRd s (graphAt k + 16) 4 ≠ 0 →
        ∃ t, exec (.depdec h q) s = .next t ∧ hasEnded t h q 0 0 ∧ nodeCounter t k i = 0 ∧ nodeState t k i = 1 ∧
          t.queue = s.queue ++ teamsOf s k i ∧ .teamPlacement ∈ t.pending) ∧
      (nodeCounter s k i = 0 → ∃ t, exec (.depdec h q) s = .next t ∧ hasEnded t h q 3 0 ∧ nodeCounter t k i = 0 ∧
        ∀ m, launchOf t k = some m → m.aborting ≠ none)))

/-- R329 to R333: a continuation that can resume is served first; else the next waiting team is placed whole in one cluster, each member Ready there
with the parameter of its node in `S1`; that the directory must have as many Free indices is the model's choice (log 8). Where no room is, a team
of lower priority, or of the blocked graph, that is of no concurrent node is saved whole, in phase 3. -/
def Obligations.TeamsArePlacedWhole : Prop :=
  ∀ (s : State),
    (∀ h core slot, nextResume s = some (h, core, slot) → Focused s h → (∃ w, s.th.status = .away w) →
      ∃ t, exec .teamPlacement s = .next t ∧ t.th = { s.th with status := t.th.status, core := core, slot := slot } ∧ .resume h core slot ∈ t.pending) ∧
    (∀ w s1 k l, nextResume s = none → nextTeam s = some (w, s1) → launchOf s w.graph = some l →
      nodeThreads s w.graph w.node.toNat ≤ freeIndices s →
      clusterFor s (nodeDie s w.graph w.node.toNat) (nodeThreads s w.graph w.node.toNat) (nodeWindow s w.graph w.node.toNat) = some k →
      nodeThreads s w.graph w.node.toNat ≤ 16 →
      ∃ t m, exec .teamPlacement s = .next t ∧ t.th = s.th ∧
        (NoKeys s → (∀ c x, pieceOf s [] l.asid c = some x → x.key = none) → t.mem = s.mem) ∧ t.queue = s.queue.erase w ∧ teamAt t s.teamNext = some m ∧
        m.members.length = nodeThreads s w.graph w.node.toNat ∧ m.alive = m.members.length ∧ m.home = k ∧ m.arrived = [] ∧ m.left = [] ∧
        ∀ h ∈ m.members, ∃ u ∈ t.rest, u.handle = h ∧ clusterOf u.core = k ∧ u.status = .ready ∧ u.world = l.world ∧ u.asid = l.asid ∧
          u.graph = w.graph ∧ u.node = w.node ∧ u.team = s.teamNext ∧ rdS u 1 = word (gRd s (nodeAt s w.graph w.node.toNat) 8) ∧ u.pc.toNat % 8 = 0) ∧
    (HandlesDistinct s → s.phase = 3 → ∀ n, reliefFor s = some n →
      ∃ t, exec .blockedTeamEviction s = .next t ∧ t.mem = s.mem ∧ SavesTeam s t n) ∧
    (HandlesDistinct s → s.phase = 3 → ∀ q w n, s.queue.find? (fun w => waitPrio s w = q && teamStuck s w) = some w → victim s q (helpedClusters s w) = some n →
      (∀ u ∈ allThreads s, leaving u = false) →
      ∃ t m, exec (.priorityPreemption q) s = .next t ∧ t.mem = s.mem ∧ SavesTeam s t n ∧ (n, some m) ∈ s.teams ∧
        taskPriority s m.graph m.node.toNat < q ∧ nodeMode s m.graph m.node.toNat ≠ 2)

/-- (1) R341, R342, R345 to R347, R350: `TLBW` and a walk fill the cluster's TLB where the fill port lets the leaf pass; `TLBI` answers when every
agent has acknowledged; an agent drops the selected entries at once, and acknowledges when its accesses under them are performed; a core's agent
acts after its cluster's, whose TLB would fill it again. Outside the system world the instructions trap PROTECT. (2) R224, R343, R344, R348,
R349, R358, R359: the MMP serves a page that some thread waits for. Present again, it lets the thread go on, with cause 5; unmapped, it resumes
the thread with its trap; absent and to be allocated, it takes a free frame, zeroed and the world's, and maps it; with the host, it asks for the
bytes. A page moves unless it is pinned or its frame is not wholly outside device-reserved memory: its entries are absent while the agents acknowledge, and
its new frame is its world's from then on. A frame that the ownership table lists changes owner through scrubbing, while firmware runs, and a move
from or to it goes no further. The model's readings: the size of the page in an entry that `TLBW` fills, a frame that goes to its owner in one action
and `LG` cleared (log 30), the template of a page that no MAP_RANGE covered, and the move that ends (log 31). -/
def Obligations.TranslationAndPages : Prop :=
 (
  (∀ (s : State) (d a b : BitVec 6), Running s → Ready s [.s d, .s a, .s b] → (coreOf s s.th.core).outst < 256 →
    let tag := rdS s.th a
    let l := rdS s.th b
    let va := tagVa tag
    let big := pageBig s (tagAsid tag) va
    let k := clusterOf s.th.core
    let ends (i : Instr) (does : State → Prop) : Prop :=
      ∃ t, exec i s = .next t ∧ t.th = advance (setCount s.th (.s d) 1) ∧ t.mem = s.mem ∧ t.rest = s.rest ∧ does t
    (s.th.world ≠ 0 → exec (.tlbw d a b) s = trapsWith s .protect 0 ∧ exec (.tlbi d a b) s = trapsWith s .protect 0) ∧
    (s.th.world = 0 → tagBad tag = false → leafOk big l = true →
      ends (.tlbw d a b) (fun t =>
        if fillPort s (tagAsid tag) big l = true then answersWith t (itsOrigin s) d 0 ∧
          (clusterAt t k).tlb.head? = some { asid := tagAsid tag, page := va / 65536, big := big, leaf := l }
        else answersWith t (itsOrigin s) d 1 ∧ (clusterAt t k).tlb = (clusterAt s k).tlb)) ∧
    (s.th.world = 0 → tagBad tag = true ∨ leafOk big l = false →
      ends (.tlbw d a b) (fun t => answersWith t (itsOrigin s) d 2 ∧ (clusterAt t k).tlb = (clusterAt s k).tlb)) ∧
    (s.th.world = 0 → outstanding s (senderOf s s.th) 0xF = [] →
      (tagBad tag = true ∨ 3 ≤ l.toNat → ends (.tlbi d a b) (fun t => answersWith t (itsOrigin s) d 2)) ∧
      (tagBad tag = false → l.toNat < 3 → NobodyHolds s tag (l.truncate 2) → ends (.tlbi d a b) (fun t => answersWith t (itsOrigin s) d 0)) ∧
      (tagBad tag = false → l.toNat < 3 → ∀ g ∈ holders s tag (l.truncate 2), ends (.tlbi d a b) (fun t =>
        .invalidationAtAgent g tag (l.truncate 2) ∈ t.pending ∧ ∃ x ∈ t.shootdowns, (g, tag, l.truncate 2) ∈ x.left ∧ x.job = .tlbi (itsOrigin s) d)))) ∧
  (∀ (s : State) (k : BitVec 7) (asid : BitVec 12) (va : Word),
    (∀ big l, walk s asid va.toNat = .leaf big l → leafAddr big l 0 / 2 ^ 45 = s.dev.toNat → fillPort s asid big l = true →
      ∃ t, exec (.tlbMissWalk k asid va) s = .next t ∧ SameThreads s t ∧ (NoKeys s → t.mem = s.mem) ∧
        (clusterAt t k).tlb.head? = some { asid := asid, page := va.toNat / 65536, big := big, leaf := l }) ∧
    (walk s asid va.toNat = .absent ∨ walk s asid va.toNat = .unmapped false →
      ∃ t, exec (.tlbMissWalk k asid va) s = .next t ∧ SameThreads s t ∧ (NoKeys s → t.mem = s.mem) ∧ t.clusters = s.clusters)) ∧
  (∀ (s : State) (c : BitVec 11) (tag : Word) (sel : BitVec 2),
    (∃ d ∈ s.shootdowns, (Agent.cluster (clusterOf c), tag, sel) ∈ d.left) →
      exec (.invalidationAtAgent (.core c) tag sel) s = .next (pend s (.invalidationAtAgent (.core c) tag sel))) ∧
  (∀ (s : State) (g : Agent) (tag : Word) (sel : BitVec 2), (∀ c, g = .core c → ∀ d ∈ s.shootdowns, (Agent.cluster (clusterOf c), tag, sel) ∉ d.left) →
    ∃ t, exec (.invalidationAtAgent g tag sel) s = .next t ∧ SameThreads s t ∧
    (∀ e ∈ tlbOf t g, selects tag sel e = false) ∧
    (agentBusy s g tag sel = true → .invalidationAtAgent g tag sel ∈ t.pending ∧ t.shootdowns = s.shootdowns ∧ t.mem = s.mem) ∧
    (agentBusy s g tag sel = false → ∀ x ∈ t.shootdowns, (g, tag, sel) ∉ x.left))) ∧
 (
  (∀ (s : State) (asid : BitVec 12) (va : Word) (f : PageFault) (c : BitVec 8) (x : Word),
    s.pageFaults.find? (fun f => f.asid = asid ∧ f.page = va.toNat / 65536) = some f → f.tag = none → f.threads = [(s.th.handle, c, x)] →
    isLive s.th = true → (∃ w, s.th.status = .away w) → s.th.runnable = false → f.launches = [] → f.gruns = [] →
    let goesOn (t : State) : Prop := s.th.handle ∈ (clusterAt t (clusterOf s.th.core)).queue ∧ ∀ g ∈ t.pageFaults, ¬ (g.asid = f.asid ∧ g.page = f.page)
    let imageless : Prop := (dirOf s (hIndex s.th.handle)).image = 0
    (∀ big l, walk s asid va.toNat = .leaf big l → ∃ t, exec (.pageFaultService asid va) s = .next t ∧ (imageless → t.mem = s.mem) ∧ goesOn t ∧
      t.th = { s.th with served := true, runnable := true, cause := 5 }) ∧
    (walk s asid va.toNat = .unmapped false → ∃ t, exec (.pageFaultService asid va) s = .next t ∧ (imageless → t.mem = s.mem) ∧ goesOn t ∧
      t.th = { s.th with served := true, runnable := true, cause := 5, failed := some (c, x) }) ∧
    (∀ big a fr, walk s asid va.toNat = .absent → entryOf s asid va.toNat = some (big, a) → freeRun s (leafFrames big) = some fr →
      let kind := ofLe (rdBytes s a 8) / 4 % 8
      (kind = 1 → ∃ t, exec (.pageFaultService asid va) s = .next t ∧ goesOn t ∧ t.th = { s.th with served := true, runnable := true, cause := 5 } ∧
        (ownerOf t fr).st = 1 ∧ (ownerOf t fr).world = (asidWorld s asid).getD 0 ∧
        (imageless → entryReads t a ((((templateOf s asid va.toNat ||| 3) &&& 0x3FFFFF) |||
          word ((s.dev.toNat * 2 ^ 45 + 65536 * fr) / 65536 * 2 ^ 22))))) ∧
      (kind = 2 → ∃ t, exec (.pageFaultService asid va) s = .next t ∧ t.th = s.th ∧ .pageRequest asid f.page s.pageTag fr ∈ t.outbox ∧
        t.pageTag = s.pageTag + 1 ∧ t.mevHead = s.mevHead + 1))) ∧
  (∀ (s : State) (frame : BitVec 41) (dest : MoveTo) (e : PageEntry),
    let f := frame.toNat % 2 ^ 29
    ((ownerOf s f).st ≠ 1 ∨ frameListed s f = false ∨ firmwareRuns s = false ∨ frame.toNat / 2 ^ 29 ≠ s.dev.toNat ∨ isPinned s e.asid e.va 65536 = true → (allEntries s).filter (fun x => mapsFrame s x f) = [e] → e.big = false →
      exec (.pageMigration frame dest) s = .next s) ∧
    ((ownerOf s f).st = 1 → frameListed s f = true → firmwareRuns s = true → (allEntries s).filter (fun x => mapsFrame s x f) = [e] → e.big = false →
      frame.toNat / 2 ^ 29 = s.dev.toNat → isPinned s e.asid e.va 65536 = false → holders s (pageTagWord e.asid e.va) 0 ≠ [] →
      (∀ g, dest = .frame g → g.toNat / 2 ^ 29 = s.dev.toNat ∧ destFree s (g.toNat % 2 ^ 29) 1 = true) →
      ∃ t, exec (.pageMigration frame dest) s = .next t ∧ SameThreads s t ∧ entryReads t e.addr (absentWord 3) ∧ SameMemoryOutside s t e.addr 8 ∧
        (∀ g, dest = .frame g → ownerOf t (g.toNat % 2 ^ 29) = { world := (ownerOf s f).world, st := 1, lg := false }) ∧
        ∃ x ∈ t.shootdowns, x.job = .move f 1 dest [(e.addr, e.entry)] ∧ x.left ≠ [])) ∧
  (∀ (s : State) (frame : BitVec 29) (w : World),
    (frameListed s frame.toNat = false ∨ (s.phase ≠ 2 ∧ s.phase ≠ 3) → exec (.frameOwnerChange frame w) s = .next s) ∧
    let moves (u : State) : Prop := ∃ d ∈ u.shootdowns, ∃ a n dest l, d.job = .move a n dest l ∧
      ((a ≤ frame.toNat ∧ frame.toNat < a + n) ∨ frame.toNat ∈ destFrames n dest)
    (frameListed s frame.toNat = true → s.phase = 2 ∨ s.phase = 3 → ∃ t, exec (.frameOwnerChange frame w) s = .next t ∧ SameThreads s t ∧ ¬ moves t ∧
      (¬ moves s → (∀ x ∈ frameTags s [frame.toNat], NobodyHolds s x.1 x.2) →
        (ownerOf t frame.toNat) = { world := w, st := 1, lg := false } ∧ (∀ a, a / 65536 = frame.toNat → rdByte t a = 0) ∧
        ∀ a, a / 65536 ≠ frame.toNat → rdByte t a = rdByte s a) ∧
      (¬ moves s → (∃ x ∈ frameTags s [frame.toNat], holders s x.1 x.2 ≠ []) → (ownerOf t frame.toNat).st = 2 ∧ t.mem = s.mem))))

/-- (1) R338, R339, R344, R348, R349, R368: what system software asks of its address spaces. A request in order is done and answered 0: an entry of
the address-space table is set; a page of a range is mapped, absent of its kind or with a frame; the entries of a range become unmapped; a page that
the host has written is mapped. One that a running graph or a pinned page forbids is answered 2 and does nothing. (2) R274, R294, R297, R298,
R320, R356, R357, R361, R362, R365, R368: the requests that set the tables of the device, each in order and permitted; those of an unknown
operation are answered 4, and one that would bind a locked interface is answered 2 and moves it towards ERROR. In a phase in which no image runs
nothing is answered. The model's readings: the words of entries that are unmapped or absent, and the template of a page that the host has written
(log 31); what becomes of an interface whose binding is asked while it is locked (log 34). -/
def Obligations.SystemSoftwareSetsTables : Prop :=
 (
  ∀ (s : State) (e : BitVec 512), s.phase = 3 →
    let asid := byteField e 8 2
    let base := byteField e 16 8
    let len := byteField e 24 8
    let kind := byteField e 41 1
    let template := word (byteField e 32 8)
    let unasked : Prop := ∀ f ∈ s.pageFaults, f.asid.toNat = asid → f.tag = none
    let range : Prop := asid < 4096 ∧ sget none s.asids asid ≠ none ∧ base % 65536 = 0 ∧ len % 65536 = 0 ∧ 0 < len ∧ base + len ≤ 2 ^ 56
    (otherwiseZero e [(8, 5), (16, 8)] → asid < 4096 → byteField e 12 1 ≤ 1 → base < 2 ^ 57 → base % 65536 = 0 → base / 2 ^ 45 = s.dev.toNat →
      (hbmDie s (base % 2 ^ 45)).isSome = true → (hbmDie s (base % 2 ^ 45 + 65535)).isSome = true → reserved s (base % 2 ^ 45) = true →
      ((∀ l ∈ s.launches, l.asid.toNat ≠ asid) → served s (.setAddressSpaceEntry e) e 0 (fun t => t.mem = s.mem ∧
        sget none t.asids asid = if byteField e 12 1 = 1 then some { world := BitVec.ofNat 16 (byteField e 10 2), root := word base } else none)) ∧
      ((∃ l ∈ s.launches, l.asid.toNat = asid) → served s (.setAddressSpaceEntry e) e 2 (fun t => t.asids = s.asids ∧ t.mem = s.mem))) ∧
    (otherwiseZero e [(8, 2), (16, 26)] → range → template &&& ~~~0x1FFF3F = 0 → byteField e 40 1 = 0 → kind = 1 ∨ kind = 2 →
      (isPinned s (BitVec.ofNat 12 asid) base len = true → served s (.mapRange e) e 2 (fun t => t.mem = s.mem)) ∧
      (∀ q a, isPinned s (BitVec.ofNat 12 asid) base len = false → len = 65536 → unasked →
        (∀ x ∈ allEntries s, x.asid.toNat = asid → x.va + 65536 * leafFrames x.big ≤ base ∨ base + len ≤ x.va) →
        pageEntry s (BitVec.ofNat 12 asid) base false = some (q, a) →
        served s (.mapRange e) e 0 (fun t => entryReads t a (word (2 + 4 * kind)) ∧ templateOf t (BitVec.ofNat 12 asid) base = template))) ∧
    (otherwiseZero e [(8, 2), (16, 16)] → range →
      (isPinned s (BitVec.ofNat 12 asid) base len = true → served s (.unmapRange e) e 2 (fun t => t.mem = s.mem)) ∧
      (isPinned s (BitVec.ofNat 12 asid) base len = false → unasked →
        (∀ d ∈ s.shootdowns, ∀ a n dest l, d.job = .move a n dest l → ∀ z ∈ l, ∀ x ∈ entriesIn s (BitVec.ofNat 12 asid) base len, z.1 ≠ x.addr) →
        (∀ x ∈ allEntries s, x.asid.toNat = asid → x.big = true → x.va + 2 ^ 25 ≤ base ∨ base + len ≤ x.va ∨ (base ≤ x.va ∧ x.va + 2 ^ 25 ≤ base + len)) →
        served s (.unmapRange e) e 0 (fun t =>
        ∀ x ∈ entriesIn s (BitVec.ofNat 12 asid) base len, entryReads t x.addr (absentWord 0)))) ∧
    (otherwiseZero e [(8, 5)] → byteField e 12 1 ≤ 1 →
      let tag : BitVec 32 := BitVec.ofNat 32 (byteField e 8 4)
      ((∀ f ∈ s.pageFaults, f.tag.map (·.1) ≠ some tag) → served s (.hostPageWritten e) e 2 (fun t => t.mem = s.mem)) ∧
      (∀ f fr big a, s.pageFaults.find? (fun f => f.tag.map (·.1) = some tag) = some f → f.tag = some (tag, fr) → f.threads = [] → f.launches = [] →
        f.gruns = [] → entryOf s f.asid (f.page * 65536) = some (big, a) → byteField e 12 1 = 0 →
        served s (.hostPageWritten e) e 0 (fun t => SameMemoryOutside s t a 8 ∧ (∀ g ∈ t.pageFaults, ¬ (g.asid = f.asid ∧ g.page = f.page)) ∧
          entryReads t a (((templateOf s f.asid (f.page * 65536) ||| 3) &&& 0x3FFFFF) ||| word ((s.dev.toNat * 2 ^ 45 + 65536 * fr) / 65536 * 2 ^ 22)))))) ∧
 (
  ∀ (s : State) (e keys : BitVec 512) (map : MeshMap),
    let f : BitVec 6 := BitVec.ofNat 6 (byteField e 8 1)
    let w : World := BitVec.ofNat 16 (byteField e 8 2)
    let axes := byteField e 10 1 + 1
    let sizes := (List.range axes).map (fun i => byteField e (11 + i) 1 + 1)
    let coords := (List.range axes).map (fun i => byteField e (15 + i) 1)
    (s.phase ≠ 2 → s.phase ≠ 3 → ∀ i ∈ [Instr.setAddressSpaceEntry e, .mapRange e, .unmapRange e, .hostPageWritten e, .installMesh e map, .jobTableEntry e,
      .peerMapEntry e, .networkParameters e, .bindFunctionToWorld e, .assignChannel e, .assignMsixVectors e, .installKey e keys, .removeKey e,
      .unknownOperation e], exec i s = .next s) ∧
    (s.phase = 3 →
      (otherwiseZero e [(8, 11), (24, 8)] → axes ≤ 4 → (∀ i, axes ≤ i → i < 4 → byteField e (11 + i) 1 = 0 ∧ byteField e (15 + i) 1 = 0) →
        map.length = 4096 → sizes.foldl (· * ·) 1 ≤ 4096 → (∀ i, i < axes → byteField e (15 + i) 1 ≤ byteField e (11 + i) 1) →
        map.getD (linearOf sizes coords) 0 = s.dev → (∀ l ∈ s.launches, l.world ≠ w) → s.bonds = [] →
        served s (.installMesh e map) e 0 (fun t => meshOf t w = some { sizes := sizes, coords := coords, map := map.take (sizes.foldl (· * ·) 1) })) ∧
      (otherwiseZero e [(8, 7)] → byteField e 8 4 < 2 ^ 24 → byteField e 14 1 = 1 → jobLive s (BitVec.ofNat 24 (byteField e 8 4)) = false → s.jobs.length < 4096 →
        served s (.jobTableEntry e) e 0 (fun t => sget none t.jobs (byteField e 8 4) = some (BitVec.ofNat 16 (byteField e 12 2)))) ∧
      (otherwiseZero e [(8, 3)] → byteField e 8 2 < 4096 → byteField e 10 1 < 8 → s.conns = [] → s.rxConns = [] →
        served s (.peerMapEntry e) e 0 (fun t => sget none t.peers (byteField e 8 2) = some
          { lomkin := byteField e 10 1 % 2 = 1, netCc := byteField e 10 1 / 2 % 2 = 1, rxCc := byteField e 10 1 / 4 = 1 })) ∧
      (otherwiseZero e [(8, 1), (10, 2)] → 20 ≤ byteField e 8 1 → byteField e 8 1 ≤ 34 → (∀ c ∈ s.cmds, c.net = none) →
        served s (.networkParameters e) e 0 (fun t => t.netTimeout.toNat = byteField e 8 1 ∧ t.pfc.toNat = byteField e 10 2)) ∧
      (otherwiseZero e [(8, 1), (10, 2)] → byteField e 8 1 < 64 → byteField e 10 2 ≠ 0 →
        ((funcAt s f).tdisp = .unlocked → served s (.bindFunctionToWorld e) e 0 (fun t =>
          funcAt t f = { funcAt s f with world := BitVec.ofNat 16 (byteField e 10 2) })) ∧
        ((funcAt s f).tdisp = .error → served s (.bindFunctionToWorld e) e 2 (fun t => t.funcs = s.funcs)) ∧
        ((funcAt s f).tdisp = .locked ∨ (funcAt s f).tdisp = .run → (funcAt s f).leaving = none → s.launches = [] →
          served s (.bindFunctionToWorld e) e 2 (fun t =>
            funcAt t f = { funcAt s f with ide := false, leaving := some .error } ∧ .leaveLock f .error ∈ t.pending))) ∧
      (otherwiseZero e [(8, 2)] → byteField e 8 1 < 16 → byteField e 9 1 < 64 →
        let c : BitVec 4 := BitVec.ofNat 4 (byteField e 8 1)
        (chanAt s c).running = none → (chanAt s c).fifo = [] → (funcAt s (chanAt s c).func).tdisp = .unlocked →
        (funcAt s (BitVec.ofNat 6 (byteField e 9 1))).tdisp = .unlocked →
        served s (.assignChannel e) e 0 (fun t => chanAt t c = { chanAt s c with func := BitVec.ofNat 6 (byteField e 9 1) })) ∧
      (otherwiseZero e [(8, 1), (10, 4)] → byteField e 8 1 < 64 → byteField e 10 2 + byteField e 12 2 ≤ 2048 → (funcAt s f).tdisp = .unlocked →
        (∀ x, x ≠ f → byteField e 10 2 + byteField e 12 2 ≤ (funcAt s x).vecFirst ∨ (funcAt s x).vecFirst + (funcAt s x).vecCount ≤ byteField e 10 2) →
        served s (.assignMsixVectors e) e 0 (fun t => funcAt t f = { funcAt s f with vecFirst := byteField e 10 2, vecCount := byteField e 12 2 })) ∧
      (otherwiseZero e [(8, 4), (16, 8)] → byteField e 8 2 < 8192 → (∀ x, (funcAt s x).world = BitVec.ofNat 16 (byteField e 10 2) → (funcAt s x).tdisp = .unlocked) →
        sget none s.keySlots (byteField e 8 2) = none →
        served s (.installKey e keys) e 0 (fun t => sget none t.keySlots (byteField e 8 2) = some (BitVec.ofNat 16 (byteField e 10 2), keys))) ∧
      (otherwiseZero e [(8, 2)] → byteField e 8 2 < 8192 → ∀ x k, sget none s.keySlots (byteField e 8 2) = some (x, k) →
        (∀ y, (funcAt s y).world = x → (funcAt s y).tdisp = .unlocked) →
        (keyNamed s x (BitVec.ofNat 13 (byteField e 8 2)) = false → served s (.removeKey e) e 0 (fun t => sget none t.keySlots (byteField e 8 2) = none)) ∧
        (keyNamed s x (BitVec.ofNat 13 (byteField e 8 2)) = true → served s (.removeKey e) e 2 (fun t => t.keySlots = s.keySlots))) ∧
      served s (.unknownOperation e) e 4 (fun t => t.mem = s.mem)))

/-- (1) R221, R316, R351, R360, R367: the host reads and writes memory through the aperture of a function, where the frames are its world's; what it
may not reach reads as ones, is not written, and stands in the error log; a write to what a range lock has recorded waits. In recovery the
aperture shows the staging region. A write that meets a running graph is discarded and sets `WRUN`, bit 29; of another the status words and fatal
records are kept. (2) R320, R361, R362, R365 to R367, R375: the writes of BAR0. What is reserved, or not the function's, is discarded, and in the
fatal phase everything; `APBASE`, `CHCTL` and the device registers take their value; a write to what the lock has frozen moves the interface
towards ERROR; in ERROR nothing is written and all reads as ones. The model's readings: a write of `CHCTL` while its interface is leaving its
locked states is discarded (log 34), and so is one at an offset that is no multiple of 8 (log 32); an access of the host is under no key (log 47). -/
def Obligations.HostReachesItsWorld : Prop :=
 (
  ∀ (s : State) (f : BitVec 6) (off : BitVec 36) (n : Nat) (data : Bytes),
    let a := apertureAt s f off.toNat
    let o := off.toNat
    let staging : Prop := s.phase = 0 ∨ s.phase = 1
    let service : Prop := s.phase = 2 ∨ s.phase = 3
    (staging → o + n ≤ 2 ^ 28 → exec (.hostBar2Read f off n) s = .next (send s (.bar2 (rdBytes s (stagingBase s + o) n)))) ∧
    (staging → o + data.length ≤ 2 ^ 28 → ∃ t, exec (.hostBar2Write f off data) s = .next t ∧ SameThreads s t ∧
      rdBytes t (stagingBase s + o) data.length = data ∧ SameMemoryOutside s t (stagingBase s + o) data.length) ∧
    (service → showsGraphs s f = false →
      (reachesAll s f a n → NoKeys s → ∃ t, exec (.hostBar2Read f off n) s = .next t ∧ SameThreads s t ∧ SameMemory s t ∧
        t.outbox.getLast? = some (.bar2 (rdBytes s a n))) ∧
      (0 < n → (∀ i, i < n → hostReaches s f (a + i) = false) →
        exec (.hostBar2Read f off n) s = .next (send (logDenied s f a) (.bar2 (List.replicate n 0xFF)))) ∧
      (hostWaits s f o data.length = true → exec (.hostBar2Write f off data) s = .next (pend s (.bar2Write f off data))) ∧
      (hostWaits s f o data.length = false → reachesAll s f a data.length → NoKeys s →
        ∃ t, exec (.hostBar2Write f off data) s = .next t ∧ SameThreads s t ∧ rdBytes t a data.length = data ∧
          SameMemoryOutside s t a data.length) ∧
      (hostWaits s f o data.length = false → data ≠ [] → (∀ i, i < data.length → hostReaches s f (a + i) = false) →
        exec (.hostBar2Write f off data) s = .next (logDenied s f a))) ∧
    (service → showsGraphs s f = true → o + data.length ≤ 2 ^ 23 →
      let s1 := { s with gmem := wrMem s.gmem o (hostGraphBytes s o data) }
      (graphsMet s o data.length = [] → graphsMet s1 o data.length = [] → exec (.hostBar2Write f off data) s = .next s1) ∧
      (∀ g, graphsMet s o data.length = [g] → graphWorld s g = (funcAt s f).world → launchOf s g ≠ none →
        ∃ t, exec (.hostBar2Write f off data) s = .next t ∧ SameThreads s t ∧ graphStatus t g = graphStatus s g ||| 0x20000000) ∧
      (∀ g, g ∈ graphsMet s o data.length → graphWorld s g ≠ (funcAt s f).world → exec (.hostBar2Write f off data) s = .next (logDenied s f o)))) ∧
 (
  ∀ (s : State) (f : BitVec 6) (c : BitVec 4) (off : BitVec 26) (v : Word),
    let x := funcAt s f
    let k := chanAt s c
    let legal : Prop := bits v 1 35 = 0 ∧ bits v 45 19 = 0
    let locked (y : Func) : Prop := y.tdisp = .locked ∨ y.tdisp = .run
    let goodCtl : Prop := bits v 48 16 = 0 ∧ 1 ≤ field v 5 4 ∧ field v 5 4 ≤ 8 ∧ 20 ≤ field v 9 6 ∧ field v 9 6 ≤ 40 ∧ 16 ≤ field v 15 6 ∧ field v 15 6 ≤ 36
    (s.phase = 4 → exec (.registerWrite f off v) s = .next s ∧ exec (.apbase f v) s = .next s ∧ exec (.chctl c v) s = .next s) ∧
    (x.tdisp = .error → registerRead s f off = BitVec.allOnes 64) ∧
    (x.tdisp ≠ .error → registerRead s f 0x20000 = x.apbase ∧ registerRead s f 0x40 = s.elTail.zeroExtend 64 ∧
      registerRead s f 0x28 = s.dumpBase ∧
      (off.toNat / 64 = 0x400 + c.toNat → k.func ≠ f → registerRead s f off = 0) ∧
      (f ≠ 0 → 0x30000 ≤ off.toNat → off.toNat < 0x60000 → registerRead s f off = 0) ∧
      (f = 0 → registerRead s f 0x38000 = s.mrqHead ∧ registerRead s f 0x38008 = s.mrqTail ∧ registerRead s f 0x38010 = s.mevHead ∧
        registerRead s f 0x38018 = s.mevTail)) ∧
    (s.phase ≠ 4 →
    (x.tdisp = .error → exec (.registerWrite f off v) s = .next s ∧ exec (.apbase f v) s = .next s) ∧
    (x.tdisp = .unlocked → (legal → ∃ t, exec (.apbase f v) s = .next t ∧ SameThreads s t ∧ t.mem = s.mem ∧ funcAt t f = { x with apbase := v }) ∧
      (¬ legal → exec (.apbase f v) s = .next s)) ∧
    (locked x → movesOut (.apbase f v) s f .error) ∧
    (x.tdisp ≠ .error → exec (.registerWrite f 0x20000 v) s = exec (.apbase f v) s ∧
      (off.toNat % 8 ≠ 0 → exec (.registerWrite f off v) s = .next s) ∧
      (off.toNat = 0x10000 + 64 * c.toNat + 8 →
        (k.func = f → exec (.registerWrite f off v) s = exec (.chctl c v) s) ∧ (k.func ≠ f → exec (.registerWrite f off v) s = .next s)) ∧
      (off.toNat = 0x10000 + 64 * c.toNat → k.func = f → exec (.registerWrite f off v) s = exec (.chtrig c v) s)) ∧
    ((funcAt s 0).tdisp ≠ .error →
      exec (.registerWrite 0 0x40 v) s = .next (if bits v 32 32 = 0 then { s with elTail := bits v 0 32 } else s) ∧
      exec (.registerWrite 0 0x28 v) s = .next (if bits v 0 12 = 0 then { s with dumpBase := v } else s) ∧
      exec (.registerWrite 0 0x38018 v) s = .next { s with mevTail := v } ∧ exec (.registerWrite 0 0x38 v) s = .next s) ∧
    ((funcAt s k.func).tdisp = .error → exec (.chctl c v) s = .next s) ∧
    (locked (funcAt s k.func) → (funcAt s k.func).leaving ≠ none → exec (.chctl c v) s = .next s) ∧
    ((funcAt s k.func).tdisp ≠ .error → ¬ (locked (funcAt s k.func) ∧ (funcAt s k.func).leaving ≠ none) → ¬ goodCtl → exec (.chctl c v) s = .next (setChan s c { k with badw := true })) ∧
    (locked (funcAt s k.func) → goodCtl → v.getLsbD 1 ≠ k.devl ∨ bits v 32 16 ≠ k.world →
      movesOut (.chctl c v) s k.func .error) ∧
    (goodCtl → (funcAt s k.func).tdisp = .unlocked ∨ (locked (funcAt s k.func) ∧ (funcAt s k.func).leaving = none ∧ v.getLsbD 1 = k.devl ∧ bits v 32 16 = k.world) →
      let k' := { k with devl := v.getLsbD 1, pmax := bits v 2 3, wt := bits v 5 4, wdk := bits v 9 6, progthr := bits v 15 6, vec := bits v 21 11,
                         world := bits v 32 16 }
      (v.getLsbD 0 = true → exec (.chctl c v) s = .next (setChan s c { k' with en := true })) ∧
      (v.getLsbD 0 = false → k.running = none → exec (.chctl c v) s = .next (setChan s c { k' with en := false })) ∧
      (v.getLsbD 0 = false → ∀ g l, k.running = some g → launchOf s g = some l → l.aborting = none → launchThreads s g ≠ [] →
        ∃ t, exec (.chctl c v) s = .next t ∧ chanAt t c = { k' with en := false } ∧ ∃ l', launchOf t g = some l' ∧ l'.aborting = some (4, 0)))))

/-- (1) R361 to R363: a device interface is locked in a session with its link stream active and nothing of its channels queued or running; it runs
when it is started; a stop, a failure of its stream or a change of its base addresses begins the destruction of its world, and the new state
stands only when that has ended. State and report are answered always. The model's choices: what of the vectors the report's bytes 6 and 7 hold
(log 10), and that start and stop are refused while the interface is leaving its locked states (log 34). (2) R354, R355, R357: what Lintel answers to attestation requests:
certificate slot 0 only; the four measurements; 64 sessions; and within a session alone heartbeat, key update, its end, the key of the link
stream, and a key of a protected world into an empty slot. -/
def Obligations.InterfacesAndAttestation : Prop :=
 (
  ∀ (s : State) (f k : BitVec 6),
    let x := funcAt s f
    let idle : Prop := ∀ c, (chanAt s c).func = f → (chanAt s c).fifo = [] ∧ (chanAt s c).running = none
    let moves (i : Instr) (st : Tdisp) : Prop := ∃ t, exec i s = .next t ∧ SameThreads s t ∧ t.mem = s.mem ∧ funcAt t f = { x with tdisp := st } ∧
      .tdisp f st ∈ t.outbox
    (s.phase ≠ 2 → s.phase ≠ 3 → ∀ i ∈ [Instr.lockInterfaceRequest f k, .startInterfaceRequest f, .stopInterfaceRequest f, .getDeviceInterfaceState f,
      .getDeviceInterfaceReport f, .ideStreamFailure f, .barAddressChange f], exec i s = .next s) ∧
    (s.phase = 2 ∨ s.phase = 3 →
      (x.tdisp = .unlocked → (f, k) ∈ s.sessions → x.ide = true → idle → moves (.lockInterfaceRequest f k) .locked) ∧
      (x.tdisp ≠ .unlocked ∨ (f, k) ∉ s.sessions ∨ x.ide = false ∨ ¬ idle → attestRefused (.lockInterfaceRequest f k) s f) ∧
      (x.tdisp = .locked → x.leaving = none → moves (.startInterfaceRequest f) .run) ∧
      (x.tdisp ≠ .locked ∨ x.leaving ≠ none → attestRefused (.startInterfaceRequest f) s f) ∧
      (x.tdisp = .error → moves (.stopInterfaceRequest f) .unlocked) ∧ (x.tdisp = .unlocked → attestRefused (.stopInterfaceRequest f) s f) ∧
      (x.tdisp = .locked ∨ x.tdisp = .run → movesOut (.ideStreamFailure f) s f .error ∧ movesOut (.barAddressChange f) s f .error ∧
        (x.leaving = none → movesOut (.stopInterfaceRequest f) s f .unlocked) ∧
        (x.leaving ≠ none → attestRefused (.stopInterfaceRequest f) s f)) ∧
      (∀ st, x.leaving ≠ none →
        (worldLives s x.world = true → runEvent (.leaveLock f st) s = .next (pend s (.leaveLock f st))) ∧
        (worldLives s x.world = false → ∃ t, runEvent (.leaveLock f st) s = .next t ∧ destroyed s t f st)) ∧
      (x.tdisp = .unlocked ∨ x.tdisp = .error → exec (.barAddressChange f) s = .next s ∧
        ∃ t, exec (.ideStreamFailure f) s = .next t ∧ SameThreads s t ∧ funcAt t f = { x with ide := false }) ∧
      exec (.getDeviceInterfaceState f) s = .next (send s (.tdisp f x.tdisp)) ∧
      ∃ d : BitVec 768, exec (.getDeviceInterfaceReport f) s = .next (send s (.report f d)) ∧ field d 0 16 = f.toNat ∧ bits d 16 16 = x.world ∧
        (∀ b : BitVec 4, d.getLsbD (32 + b.toNat) = true ↔ (chanAt s b).func = f) ∧
        bits d 48 16 = Config.vectorField x.vecFirst x.vecCount ∧ field d 128 64 = field x.apbase 36 9 * 2 ^ 36 ∧ field d 192 64 = 2 ^ 36 ∧ bits d 256 384 = s.measurements[1] ∧ bits d 640 32 = s.svn)) ∧
 (
  ∀ (s : State) (f k : BitVec 6) (slot : BitVec 3) (key : BitVec 256) (id : BitVec 13) (xts : BitVec 512),
    let w := (funcAt s f).world
    let used (j : BitVec 6) : Prop := ∃ g, (g, j) ∈ s.sessions ∨ (g, j) ∈ s.handshakes
    (s.phase ≠ 2 → s.phase ≠ 3 → ∀ i ∈ [Instr.spdmVersion f, .spdmCapabilities f, .spdmAlgorithms f, .spdmDigests f, .spdmCertificate f slot,
      .spdmChallenge f slot, .spdmMeasurements f, .spdmKeyExchange f, .spdmFinish f k, .spdmHeartbeat f k, .spdmKeyUpdate f k, .spdmEndSession f k,
      .ideKm f k key, .protectedKeyInstall f k id xts], exec i s = .next s) ∧
    (s.phase = 2 ∨ s.phase = 3 →
      attests (.spdmVersion f) s s f 0 ∧ attests (.spdmCapabilities f) s s f 1 ∧ attests (.spdmAlgorithms f) s s f 2 ∧ attests (.spdmDigests f) s s f 3 ∧
      (slot = 0 → attests (.spdmCertificate f slot) s s f 4 ∧ attests (.spdmChallenge f slot) s s f 5) ∧
      (slot ≠ 0 → attestRefused (.spdmCertificate f slot) s f ∧ attestRefused (.spdmChallenge f slot) s f) ∧
      exec (.spdmMeasurements f) s = .next (send s (.measure f s.measurements.toList)) ∧
      ((∃ j, ¬ used j) → ∃ j, ¬ used j ∧ attests (.spdmKeyExchange f) s { s with handshakes := s.handshakes ++ [(f, j)] } f 6) ∧
      ((∀ j, used j) → attestRefused (.spdmKeyExchange f) s f) ∧
      ((f, k) ∈ s.handshakes →
        attests (.spdmFinish f k) s { s with handshakes := s.handshakes.erase (f, k), sessions := s.sessions ++ [(f, k)] } f 7) ∧
      ((f, k) ∉ s.handshakes → attestRefused (.spdmFinish f k) s f) ∧
      ((f, k) ∈ s.sessions →
        attests (.spdmHeartbeat f k) s s f 8 ∧ attests (.spdmKeyUpdate f k) s s f 9 ∧
        attests (.spdmEndSession f k) s { s with sessions := s.sessions.erase (f, k) } f 10 ∧
        (∃ u, attests (.ideKm f k key) s u f 11 ∧ funcAt u f = { funcAt s f with ide := true } ∧ (f, key) ∈ u.ideKeys ∧
          (∀ e ∈ u.ideKeys, e.1 = f → e.2 = key) ∧ SameThreads s u ∧ u.sessions = s.sessions) ∧
        (worldProtected s w = true → sget none s.keySlots id.toNat = none →
          ∃ u, attests (.protectedKeyInstall f k id xts) s u f 12 ∧ sget none u.keySlots id.toNat = some (w, xts) ∧ SameThreads s u ∧
            ∀ j, j ≠ id.toNat → sget none u.keySlots j = sget none s.keySlots j) ∧
        (worldProtected s w = false ∨ sget none s.keySlots id.toNat ≠ none → attestRefused (.protectedKeyInstall f k id xts) s f)) ∧
      ((f, k) ∉ s.sessions → ∀ i ∈ [Instr.spdmHeartbeat f k, .spdmKeyUpdate f k, .spdmEndSession f k, .ideKm f k key, .protectedKeyInstall f k id xts],
        attestRefused i s f)))

/-- R271, R293, R311, R364: after a reset of any kind no thread, launch, command, lock, landing, claim, session, window, connection, bond or agreement is left,
every interface is unlocked and every channel disabled and empty, its other fields kept; aborted launches say so in their graphs, with reason 4;
the keys and frames of protected worlds are gone. Address spaces, meshes, keys of other worlds, measurements and the phase are kept; with no
world protected, memory too. -/
def Obligations.ResetsLeaveNothingRunning : Prop :=
  ∀ (s : State) (f : BitVec 6), ∀ i ∈ [Instr.hotReset, .linkDown, .functionLevelReset f], ∃ t, exec i s = .next t ∧
    t.th = Thread.none ∧ t.rest = [] ∧ t.teams = [] ∧ t.launches = [] ∧ t.queue = [] ∧ t.cmds = [] ∧ t.locks = [] ∧ t.copies = [] ∧ t.heldBack = [] ∧
    t.windows = [] ∧ t.conns = [] ∧ t.rxConns = [] ∧ t.bondWaits = [] ∧ t.secAssocs = [] ∧ t.jobs = [] ∧ t.sessions = [] ∧ t.handshakes = [] ∧ t.ideKeys = [] ∧
    (∀ e, sget none t.bonds e = none) ∧ (∀ k j, sget none (clusterAt t k).trees j = none) ∧
    (∀ x, (funcAt t x).tdisp = .unlocked ∧ (funcAt t x).ide = false ∧ (funcAt t x).leaving = none) ∧
    (∀ c, chanAt t c = { chanAt s c with en := false, fifo := [], running := none, ended := (chanAt t c).ended, lgraph := (chanAt t c).lgraph }) ∧
    (∀ g, launchOf s g ≠ none → graphState t g = 3 ∧ field (graphStatus t g) 4 8 = 4) ∧
    (∀ u ∈ allThreads s, isLive u = true → (dirOf t (hIndex u.handle)).state = 0) ∧
    (∀ u j, (slotAt t u j).owner = none ∧ (tileAt t u j).owner = none) ∧
    (∀ x, (funcAt s x).tdisp ≠ .unlocked → ∀ j key, sget none t.keySlots j ≠ some ((funcAt s x).world, key)) ∧
    (swf Owner.init s.owners = true → ∀ x, (funcAt s x).tdisp ≠ .unlocked → ∀ fr, ¬ ((ownerOf t fr).st = 1 ∧ (ownerOf t fr).world = (funcAt s x).world)) ∧
    (∀ j w key, sget none s.keySlots j = some (w, key) → (∀ x, (funcAt s x).world = w → (funcAt s x).tdisp = .unlocked) →
      sget none t.keySlots j = some (w, key)) ∧
    ((∀ x, (funcAt s x).tdisp = .unlocked) → SameMemory s t ∧ t.keySlots = s.keySlots ∧ t.owners = s.owners) ∧
    t.asids = s.asids ∧ t.meshes = s.meshes ∧ t.measurements = s.measurements ∧ t.svn = s.svn ∧ t.netTimeout = s.netTimeout ∧ t.pfc = s.pfc ∧
    t.phase = (if s.phase = 4 ∧ i = .hotReset then 2 else s.phase)

/-- (1) R351 to R353, R366, R369, R371, R373: the image in the staging region is accepted into reduced service, or the device is in recovery with the
lowest failing check as its cause; what has failed is fused out at power-on. An activation while firmware runs first stops everything as a hot
reset does. When training has ended and no launch runs the device enters full service, with the reserved structures moved to HBM and the queued
triggers to start. What happens where nothing has been staged is log 3; where in HBM they go is log 11; that
POWER_ON in a later phase is a power cycle, which leaves nothing staged, is log 41, and memory without contents log 4. (2) R373 to R377: an uncorrected error
and a trip are fatal, once: the device stands in phase 4 with their cause, its link sessions dropped, has written its dump, as far as the room
goes, and signals vector 0 of the PF; how long the dump is beyond what the spec sizes, and its header's fields, are the model's (log 33). A
correction is logged, by a read as by the scrubber, of HBM with its address; the sixteenth of one pass in a bank marks it, a pass without any
unmarks it. (3) R375: in phase 4 no thread, engine or agent acts: without an input from outside, a step changes nothing but the model's own count
of steps, and an input that is neither a reset nor an access of the host is dropped. -/
def Obligations.TheDeviceComesUpAndStops : Prop :=
 (
  ∀ (s : State),
    let verified (i : Instr) (u : State) : Prop :=
      let number (off : Nat) := ofLe (rdBytes u (stagingBase u + off) 4)
      let badLength : Prop := number 0 ≠ 0x4C4D4B01 ∨ number 4 = 0 ∨ 192 * 2 ^ 20 < number 4 ∨ 3984 < number 12
      let padded : Prop := ∀ j, 112 + number 12 ≤ j → j < 4096 → rdByte u (stagingBase u + j) = 0
      let cells := stagedCells u
      let part (off n : Nat) : List (Nat × Byte) := (cells.filter (fun c => off ≤ c.1 && c.1 < off + n)).map (fun c => (c.1 - off, c.2))
      let signed := cells.filter (fun c => c.1 < 16 || (4096 ≤ c.1 && c.1 < 4096 + number 4))
      let ecdsa : Prop := Config.ecdsaVerifies signed (part 16 96) = true
      let lms : Prop := Config.lmsVerifies signed (part 112 (number 12)) = true
      let old : Prop := BitVec.ofNat 32 (number 8) < Config.fusedMinSvn
      let well : Prop := cells ≠ [] ∧ ¬ badLength ∧ padded
      (cells = [] → exec i s = .next { u with phase := 1, rcause := 5 }) ∧
      (cells ≠ [] → badLength ∨ ¬ padded → exec i s = .next { u with phase := 1, rcause := 1 }) ∧
      (well → ¬ ecdsa → exec i s = .next { u with phase := 1, rcause := 2 }) ∧ (well → ecdsa → ¬ lms → exec i s = .next { u with phase := 1, rcause := 3 }) ∧
      (well → ecdsa → lms → old → exec i s = .next { u with phase := 1, rcause := 4 }) ∧
      (well → ecdsa → lms → ¬ old → ∃ t, exec i s = .next t ∧
        t = { u with phase := 2, trained := false, rcause := 0, svn := BitVec.ofNat 32 (number 8), measurements := t.measurements, pending := t.pending } ∧
        (u.mrqHead = u.mrqTail → t.pending = u.pending) ∧ (u.mrqHead ≠ u.mrqTail → .serveRing ∈ t.pending) ∧
        t.measurements[0] = Config.romDigest ∧ t.measurements[3] = Config.fuseState u.capcl u.capst)
    (s.phase = 0 → verified .powerOn (afterFuses s)) ∧
    (∃ t, exec .powerOn s = .next t ∧ (∀ u : BitVec 7, t.capcl.getLsbD u.toNat = (s.capcl.getLsbD u.toNat && !s.broken.contains (false, u))) ∧
      ∀ u : BitVec 7, u.toNat < 24 → t.capst.getLsbD u.toNat = (s.capst.getLsbD u.toNat && !s.broken.contains (true, u))) ∧
    (s.phase ≠ 0 → ∃ t, exec .powerOn s = .next t ∧ t.phase = 1 ∧ t.rcause = 5 ∧ t.th = Thread.none ∧ t.rest = [] ∧ t.mem = []) ∧
    (s.phase = 0 ∨ s.phase = 1 → verified .firmwareActivation s) ∧
    (s.phase = 4 → exec .firmwareActivation s = .next s) ∧
    (s.phase = 2 ∨ s.phase = 3 → ∃ t, exec .firmwareActivation s = .next t ∧ (t.phase = 1 ∨ t.phase = 2) ∧ t.th = Thread.none ∧ t.rest = [] ∧
      t.launches = [] ∧ t.cmds = [] ∧ (swf Owner.init s.owners = true → ∀ x, (funcAt s x).tdisp ≠ .unlocked → ∀ fr,
        ¬ ((ownerOf t fr).st = 1 ∧ (ownerOf t fr).world = (funcAt s x).world)) ∧
      ((∀ x, (funcAt s x).tdisp = .unlocked) → t.keySlots = s.keySlots ∧ t.owners = s.owners)) ∧
    (s.phase = 2 → ∃ t, exec .trainingComplete s = .next t ∧ t = { s with trained := true, pending := t.pending } ∧ .phase3Entry ∈ t.pending) ∧
    (s.phase ≠ 2 → exec .trainingComplete s = .next s) ∧
    (s.phase ≠ 2 ∨ s.trained = false → exec .phase3Entry s = .next s) ∧
    (s.phase = 2 → s.trained = true →
      (s.launches ≠ [] → ∃ t, exec .phase3Entry s = .next t ∧ t = { s with pending := t.pending } ∧ .phase3Entry ∈ t.pending) ∧
      (s.launches = [] → ∃ t, exec .phase3Entry s = .next t ∧ t.phase = 3 ∧ SameThreads s t ∧ t.channels = s.channels ∧
        (∀ c, (chanAt s c).fifo ≠ [] → .launchStart c ∈ t.pending) ∧
        (s.capcl = BitVec.allOnes 128 → s.capst = BitVec.allOnes 24 → s.tables = [] → s.asids = [] → (∀ x ∈ s.dir, x.2.image = 0) →
          swf (0 : Byte) s.mem = true → ∀ d i, d < 4 → i < 2 ^ 23 →
          let base := d * 2 ^ 40 + 576 * 10 ^ 9 - 2 ^ 34 + (if d = 0 then 2 ^ 28 else 0)
          rdByte t (base + i + (if i < 0x140000 then 0 else 0x148000)) = rdByte s (sramBase + d * 0x4000000 + 0x3800000 + i))))) ∧
 (
  (∀ (s : State) (i : Instr) (cause : BitVec 8) (u : Option (BitVec 7)),
    (i, cause) ∈ [(Instr.uncorrectableError ⟨false, u⟩, 1), (.uncorrectableError ⟨true, u⟩, 2), (.thermalTrip, 3), (.supplyTrip, 4)] →
    (s.phase = 4 → ∃ t, exec i s = .next t ∧ t = { s with broken := t.broken }) ∧
    (∀ x, u = some x → ∃ t, exec (.uncorrectableError ⟨cause = 2, u⟩) s = .next t ∧ ((cause = 2 : Bool), x) ∈ t.broken) ∧
    (s.phase ≠ 4 → ∃ t, exec i s = .next t ∧ SameThreads s t ∧ t.mem = s.mem ∧ t.phase = 4 ∧ t.fcause = cause ∧ t.sessions = [] ∧ t.ideKeys = [] ∧
      t.secAssocs = [] ∧ (∀ x, (funcAt t x).ide = false) ∧ .msix (BitVec.ofNat 11 (funcAt s 0).vecFirst) ∈ t.outbox ∧
      (t.dumpSt = 0 ↔ s.dumpLen = 0) ∧
      (s.dumpLen ≠ 0 → ∃ data, .dump s.dumpBase data ∈ t.outbox ∧
        data.length = min (4096 * s.dumpLen.toNat) (4096 + 131072 + 16384 + 384 + Config.dumpRest) ∧ data.take 4 = leBytes 4 0x4C4D4B44 ∧
        ∀ j, j < 16384 → 4096 + 131072 + j < data.length → data.getD (4096 + 131072 + j) 0 = sget 0 s.gmem j))) ∧
  (∀ (s : State) (b n : Nat) (l : List (Nat × Nat)), s.phase ≠ 4 →
    let entry (t : State) (i : Nat) (kind : BitVec 16) (detail : Nat) : Prop :=
      ∃ e, sget none t.errLog ((s.elHead + BitVec.ofNat 32 i).toNat % 4096) = some e ∧ e.kind = kind ∧ e.detail = BitVec.ofNat 32 detail
    let made := sget 0 s.corrected b + 1
    (s.marked = [] → 0 < n → ∃ t, exec (.scrubPass ⟨[], [(b, n)], l⟩) s = .next t ∧ SameThreads s t ∧ entry t 0 8 n ∧ t.elTail = s.elTail) ∧
    (s.marked = [] → ∃ t, exec (.scrubPass ⟨[(n, b)], [], l⟩) s = .next t ∧ SameThreads s t ∧ t.mem = s.mem ∧ entry t 0 3 b ∧ t.corrected = [] ∧
      t.upsets = l ∧ (made < 16 → t.marked = []) ∧ (16 ≤ made → t.marked = [b] ∧ entry t 1 4 b ∧ t.elHead = s.elHead + 2)) ∧
    (s.marked = [b] → ∃ t, exec (.scrubPass ⟨[(n, b)], [], l⟩) s = .next t ∧ t.marked = [b] ∧ entry t 0 3 b) ∧
    (s.marked = [b] → ∃ t, exec (.scrubPass ⟨[], [], l⟩) s = .next t ∧ (made = 1 → t.marked = [] ∧ entry t 0 4 b) ∧ (1 < made → t.marked = [b])) ∧
    (∀ (r : ReadReq) (p : Piece) (d : BitVec 6) (signed : Bool), r.pieces = [p] → r.reply = .scalar d signed → r.got.length = p.len → p.off = 0 →
      0 < p.len → p.len ≤ 8 → r.o.seq.getLsbD 31 = false → assigned s p.addr = true → s.marked = [] → s.upsets = [(n, b)] →
      p.addr / 16 ≤ n / 16 → n < p.addr + p.len →
      ∃ t, exec (.readRequest r) s = .next t ∧ SameThreads s t ∧ entry t 0 3 b ∧ sget 0 t.corrected b = made ∧
        (made < 16 → t.marked = []) ∧ (16 ≤ made → t.marked = [b] ∧ entry t 1 4 b)))) ∧
 (
  ∀ s : State, s.phase = 4 →
    (s.inputs = [] → step s = .next (tick s)) ∧
    ∀ i r, s.inputs = i :: r → reachesFatal i = false → step s = .next (tick { s with inputs := r }))

/-- (1) R76, R82, R159, R259, R263: a tree instruction whose operands are present, and that no fence holds, sends one request to the engine of its
cluster; its destination awaits one arrival. With `ACTL.TREETRAP` an expansion waits for the thread's earlier instructions on the tree and its
earlier accesses, traps TREE_FAULT where the pool is exhausted, with leaf and tree number in `TVAL`, and else goes on with the engine's answer: a
status, or a block taken aside. (2) R252, R253, R259, R260, R267, R268: binding checks the entry, the descriptor and its pages, copies the
descriptor and marks it, and with `init` writes block 0, unless a range lock covers what it touches (R219); the order of its statuses, and that
`ROOT` and the free list are not checked, are the model's (log 35); unbinding writes the copy back and frees the entry; a record is read whole; the
statistics are the tree's. An instruction on a tree number that is not bound answers −3, of another world −4. -/
def Obligations.TreesAreBoundAndAsked : Prop :=
 (
  ∀ (s : State) (d a b c : BitVec 6) (v : BitVec 8) (n : BitVec 4) (init vl : Bool) (f : BitVec 3), Running s →
    (coreOf s s.th.core).outst < 256 → fenced s s.th 8 = false →
    let k := clusterOf s.th.core
    let request (op : TreeOp) (begun : Bool) : Event :=
      .treeAction { o := itsOrigin s, d := d, cluster := k, t := n, asid := s.th.asid, op := op, begun := begun }
    let asks (i : Instr) (op : TreeOp) : Prop := ∃ t, exec i s = .next t ∧ requests s t d (request op false)
    let leaf := (rdS s.th a).toNat
    let op (mine : Bool) : TreeOp := .expand leaf (rdS s.th b) (field (rdS s.th c) 0 9) mine
    (Ready s [.s d, .s a] → asks (.tbind d n a init) (.bind (rdS s.th a) init)) ∧
    (Ready s [.s d] → asks (.tbindUnbind d n) .unbind ∧ asks (.tdesc d n) (.desc none) ∧ asks (.tstat d n f) (.stat f)) ∧
    (Ready s [.s d, .s a, .s b] → asks (.tback d n a b vl) (.back leaf ((rdS s.th b).truncate 32) (!vl) 0 0)) ∧
    (Ready s [.s d, .s a] → asks (.treroot d n a) (.reroot leaf) ∧ asks (.tfree d n a) (.free (leaf % 2 ^ 32) 0)) ∧
    (InWindow s [v] → Ready s [.v (spec s.th v), .s a] → ∃ t, exec (.trdn v n a) s = .next t ∧
      t.th = advance (setCount s.th (.v (spec s.th v)) 1) ∧ t.rest = s.rest ∧ t.mem = s.mem ∧
      .treeAction { o := itsOrigin s, d := 0, cluster := k, t := n, asid := s.th.asid, op := .read leaf (spec s.th v), begun := false } ∈ t.pending) ∧
    (Ready s [.s d, .s a, .s b, .s c] →
      let behind : Prop := ∃ r, .treeAction r ∈ s.pending ∧ r.cluster = k ∧ r.t = n ∧ r.o.by' = s.th.handle
      let exhausted (x : Tree) : Prop := x.cap + x.nfree.toNat - x.bump.toNat - x.reserved = 0
      let locked : Prop := ∃ x, treeAt s k n = some x ∧ engLocked s x.world [(x.base.toNat + 32 * leaf, 32)] = true
      let waits' : Prop := behind ∨ outstanding s (senderOf s s.th) 7 ≠ [] ∨ locked
      let told (v : Word) : Prop := ∃ t, exec (.texpand d n a b c) s = .next t ∧ requests s t d (request (.told v) true)
      (s.th.actl.getLsbD 0 = false → asks (.texpand d n a b c) (op false)) ∧
      (s.th.actl.getLsbD 0 = true → waits' → exec (.texpand d n a b c) s = .next { s with last := .held }) ∧
      (s.th.actl.getLsbD 0 = true → ¬ waits' →
        (treeAt s k n = none → told (-3)) ∧
        ∀ x, treeAt s k n = some x → (x.world ≠ s.th.world → told (-4)) ∧ (x.world = s.th.world →
          (x.cap * x.bs ≤ leaf → told (-5)) ∧ (leaf < x.cap * x.bs → x.bs < field (rdS s.th c) 0 9 → told (-10)) ∧
          (leaf < x.cap * x.bs → field (rdS s.th c) 0 9 ≤ x.bs →
            ((rdNode s x leaf).flags % 4 ≠ 0 → told (-6)) ∧
            ((rdNode s x leaf).flags % 4 = 0 → field (rdS s.th c) 0 9 = 0 → asks (.texpand d n a b c) (op false)) ∧
            ((rdNode s x leaf).flags % 4 = 0 → 0 < field (rdS s.th c) 0 9 →
              (exhausted x → exec (.texpand d n a b c) s = trapsWith s .treeFault (word (leaf % 2 ^ 32 + n.toNat * 2 ^ 32))) ∧
              (¬ exhausted x → ∃ t, exec (.texpand d n a b c) s = .next t ∧ t.th = advance (setCount s.th (.s d) 1) ∧ t.mem = s.mem ∧
                treeAt t k n = some { x with reserved := x.reserved + 1 } ∧ request (op true) true ∈ t.pending))))))) ∧
 (
  ∀ (s : State) (r : TreeReq),
    let answers (v : Word) (u : State) : Prop := treeStep r s = treeAnswer u r (.word v)
    (treeBehind s r = false → ∀ v, r.op = .told v → answers v s) ∧
    (treeBehind s r = false → (∀ a i, r.op ≠ .bind a i) → (∀ v, r.op ≠ .told v) →
      (treeAt s r.cluster r.t = none → answers (-3) s) ∧
      (∀ x, treeAt s r.cluster r.t = some x → x.world ≠ r.o.world → answers (-4) s)) ∧
    (treeBehind s r = true → treeStep r s = pend s (.treeAction r)) ∧
    (∀ (addr : Word) (init : Bool), r.op = .bind addr init → treeBehind s r = false → engLocked s r.o.world (bindTouches s r addr init) = false →
      let b := (engRead s r.asid addr.toNat 64).2
      let f (off n : Nat) := ofLe (slice b off n)
      let g (off : Nat) : BitVec 32 := BitVec.ofNat 32 (f off 4)
      let open' : Prop := addr.toNat % 64 = 0 ∧ engOk s r.asid [.r, .w] addr.toNat 64 = true
      let x : Tree := { desc := addr, world := r.o.world, asid := r.asid, base := word (f 0 8), cap := f 8 4, bs := f 12 2, two := decide (f 14 1 % 2 = 1),
                        cpuct := g 16, lambda := g 20, fpv := g 24, root := g 28, bump := g 32, free := g 36, lazy := g 40, nfree := g 44, nlazy := g 48,
                        bnext := BitVec.ofNat 16 (f 52 2), reserved := 0 }
      let good : Prop := goodDescriptor b ∧ engOk s r.asid [.r, .w] (f 0 8) (32 * (f 8 4 * f 12 2)) = true
      let marked := engWrite (engRead s r.asid addr.toNat 64).1 r.asid (addr.toNat + 54) (leBytes 1 (1 + 2 * r.cluster.toNat))
      (treeAt s r.cluster r.t ≠ none → answers (-9) s) ∧
      (treeAt s r.cluster r.t = none → ¬ open' → answers (-8) s) ∧
      (treeAt s r.cluster r.t = none → open' → f 54 1 % 2 = 1 → answers (-9) s) ∧
      (treeAt s r.cluster r.t = none → open' → f 54 1 % 2 = 0 → ¬ good → answers (-8) s) ∧
      (treeAt s r.cluster r.t = none → open' → f 54 1 % 2 = 0 → good →
        (init = false → answers 0 (setTree marked r.cluster r.t (some x))) ∧
        (init = true → answers 0 (setTree ((List.range (x.bs - 1)).foldl (fun u i => wrNode u x (1 + i) deadNode)
            (wrNode marked x 0 { deadNode with flags := 8, first := 0xFFFFFFFF, parent := 0xFFFFFFFF, batch := 0xFFFFFFFF }))
          r.cluster r.t (some { x with root := 0, bump := 1, free := 0xFFFFFFFF, lazy := 0xFFFFFFFF, nfree := 0, nlazy := 0, bnext := 0 }))))) ∧
    (∀ x, ActsOn s r x →
      (r.op = .unbind → ∃ u, answers 0 (setTree u r.cluster r.t none) ∧ u = engWrite s x.asid x.desc.toNat (descBytes x)) ∧
      (∀ i (v : BitVec 9), r.op = .read i v → i < x.cap * x.bs → r.o.dev = s.dev →
        ∃ p ∈ (treeStep r s).copies ++ (treeStep r s).heldBack, p.la = regLa r.o.dev r.o.by' (.v v) ∧
          p.payload = (engRead s x.asid (x.base.toNat + 32 * i) 32).2) ∧
      (∀ i (v : BitVec 9), r.op = .read i v → x.cap * x.bs ≤ i → r.o.dev = s.dev →
        ∃ p ∈ (treeStep r s).copies ++ (treeStep r s).heldBack, p.la = regLa r.o.dev r.o.by' (.v v) ∧
          p.payload = leBytes 8 (-5 : Word).toNat ++ List.replicate 24 0) ∧
      (r.op = .stat 0 → answers (x.root.zeroExtend 64) (setTree s r.cluster r.t (some x))) ∧
      (r.op = .stat 1 → answers (x.bump.zeroExtend 64 - x.nfree.zeroExtend 64) (setTree s r.cluster r.t (some x))) ∧
      (r.op = .stat 2 → answers (x.nfree.zeroExtend 64) (setTree s r.cluster r.t (some x))) ∧
      (r.op = .stat 3 → answers (x.nlazy.zeroExtend 64) (setTree s r.cluster r.t (some x))) ∧
      (r.op = .stat 4 → answers (x.bnext.zeroExtend 64) (setTree s r.cluster r.t (some x))) ∧
      (r.op = .stat 5 → answers (x.bnext.zeroExtend 64) (setTree s r.cluster r.t (some { x with bnext := 0 }))) ∧
      (r.op = .stat 6 → answers (word x.cap - x.bump.zeroExtend 64 + x.nfree.zeroExtend 64) (setTree s r.cluster r.t (some x)))))

/-- (1) R257, R258, R261: one action of a descent. At the root one virtual loss more; a node without children to choose from ends it, with its kind;
a new leaf is pending from then on and takes the next batch slot; else the child of the greatest score, the lowest index among equals, takes a
virtual loss, and the descent goes on there. (2) R255, R262, R264 to R266: an expansion takes a block, from the free list first, and writes the
children and the leaf, or answers the lowest of its statuses; a backup counts visit and value at each node up to the root; a reroot gives the old
root's block, and those of the other children, to the lazy list, after its statuses in the order −2, −5, −7 (the model's, log 35); reclaiming
moves a block to the free list, zeroed, its children's blocks to the lazy list. -/
def Obligations.TreesAreSearchedAndGrow : Prop :=
 (
  ∀ (s : State) (r : TreeReq) (x : Tree) (at' : Option (Nat × Nat)), ActsOn s r x → r.op = .desc at' →
    let p := (at'.map (·.1)).getD x.root.toNat
    let depth := (at'.map (·.2)).getD 0
    let y := rdNode s x p
    let y' := if y.flags / 8 % 2 = 1 then { y with vl := min (y.vl + 1) 65535 } else y
    let s1 := wrNode s x p y'
    let leaf : Prop := y.flags / 2 % 2 = 0 ∧ y.flags % 2 = 0
    (x.cap * x.bs ≤ p → treeStep r s = treeAnswer s r (.word (-5))) ∧
    (p < x.cap * x.bs →
      (y.flags / 2 % 2 = 1 ∨ (y.flags % 2 = 1 ∧ y.count = 0) → ∃ w, treeStep r s = treeAnswer s1 r (.word w) ∧ descentWord w p 0xFFFF depth 2) ∧
      (leaf → y.flags / 4 % 2 = 1 → ∃ w, treeStep r s = treeAnswer s1 r (.word w) ∧ descentWord w p 0xFFFF depth 1) ∧
      (leaf → y.flags / 4 % 2 = 0 → ∃ w, treeStep r s = treeAnswer (setTree (wrNode s x p { y' with flags := y.flags + 4, batch := x.bnext.toNat })
        r.cluster r.t (some { x with bnext := x.bnext + 1 })) r (.word w) ∧ descentWord w p x.bnext.toNat depth 0) ∧
      (y.flags / 2 % 2 = 0 → y.flags % 2 = 1 → 0 < y.count → x.cap * x.bs < y.first + y.count → treeStep r s = treeAnswer s1 r (.word (-5))) ∧
      (y.flags / 2 % 2 = 0 → y.flags % 2 = 1 → 0 < y.count → y.first + y.count ≤ x.cap * x.bs →
        let points (i : Nat) := score x (rdNode s1 x i) y'
        ∃ i, y.first ≤ i ∧ i < y.first + y.count ∧ (∀ j, y.first ≤ j → j < y.first + y.count → scoreLess (points i) (points j) = false) ∧
          (∀ j, y.first ≤ j → j < i → scoreLess (points j) (points i) = true) ∧
          treeStep r s = pend (wrNode s1 x i { rdNode s1 x i with vl := min ((rdNode s1 x i).vl + 1) 65535 })
            (.treeAction { r with op := .desc (some (i, depth + 1)), begun := true })))) ∧
 (
  ∀ (s : State) (r : TreeReq) (x : Tree), ActsOn s r x →
    let size := x.cap * x.bs
    let answers (v : Word) (u : State) : Prop := treeStep r s = treeAnswer u r (.word v)
    let keeps (u : State) (x' : Tree) : State := setTree u r.cluster r.t (some x')
    let parent' (z : Node) : Bool := z.flags % 2 = 1 && 0 < z.count
    let pushes (b : Nat) : State × Tree := (wrNode s x (b * x.bs) { rdNode s x (b * x.bs) with parent := x.lazy.toNat },
      { x with lazy := BitVec.ofNat 32 b, nlazy := x.nlazy + 1 })
    (∀ leaf table k, r.op = .expand leaf table k false →
      let y := rdNode s x leaf
      let room := x.cap + x.nfree.toNat - x.bump.toNat - x.reserved
      let readable : Prop := table.toNat % 8 = 0 ∧ engOk s r.asid [.r] table.toNat (8 * k) = true
      (size ≤ leaf → answers (-5) (keeps s x)) ∧
      (leaf < size → x.bs < k → answers (-10) (keeps s x)) ∧
      (leaf < size → k ≤ x.bs → y.flags % 4 ≠ 0 → answers (-6) (keeps s x)) ∧
      (leaf < size → k ≤ x.bs → y.flags % 4 = 0 →
        (k = 0 → answers (word leaf) (keeps (wrNode s x leaf { y with flags := y.flags / 8 * 8 + 3, batch := 0xFFFFFFFF }) x)) ∧
        (0 < k → room = 0 → answers (-1) (keeps s x)) ∧
        (0 < k → room ≠ 0 → ¬ readable → answers (-12) (keeps s x)) ∧
        (0 < k → room ≠ 0 → readable → x.nfree = 0 ∨ x.free.toNat < x.cap →
          let (u, b) := engRead s r.asid table.toNat (8 * k)
          let blk := if x.nfree ≠ 0 then x.free.toNat else x.bump.toNat
          let x' := if x.nfree ≠ 0 then { x with free := BitVec.ofNat 32 (rdNode u x (x.free.toNat * x.bs)).parent, nfree := x.nfree - 1 } else { x with bump := x.bump + 1 }
          let filled := (List.range x.bs).foldl (fun u i =>
            wrNode u x (blk * x.bs + i) (if i < k then freshChild leaf (slice b (8 * i) 8) else deadNode)) u
          answers (word (blk * x.bs)) (keeps (wrNode filled x leaf { y with flags := y.flags / 8 * 8 + 1, first := blk * x.bs, count := k, batch := 0xFFFFFFFF }) x')))) ∧
    (∀ i v full n z, r.op = .back i v full n z →
      let y := rdNode s x i
      let sum := (roundTo .fp32 .rne false (numAdd (const32 y.w) (const32 v.toNat)).1).1
      let y' := if full then { y with n := min (y.n + 1) 0xFFFFFFFF, w := sum, vl := y.vl - 1 } else { y with vl := y.vl - 1 }
      let z' := if y.vl = 0 then z + 1 else z
      (i = 0xFFFFFFFF → answers (word (z % 65536 * 2 ^ 32 + n)) s) ∧
      (i ≠ 0xFFFFFFFF → size ≤ i → answers (-5) s) ∧ (i ≠ 0xFFFFFFFF → i < size → n = 65536 → answers (-11) s) ∧
      (i ≠ 0xFFFFFFFF → i < size → n ≠ 65536 → y.parent = 0xFFFFFFFF → answers (word (z' % 65536 * 2 ^ 32 + (n + 1))) (wrNode s x i y')) ∧
      (i ≠ 0xFFFFFFFF → i < size → n ≠ 65536 → y.parent ≠ 0xFFFFFFFF → treeStep r s = pend (wrNode s x i y')
        (.treeAction { r with op := .back y.parent (if x.two then v ^^^ 0x80000000 else v) full (n + 1) z', begun := true }))) ∧
    (∀ c, r.op = .reroot c → x.root.toNat < size →
      let y := rdNode s x x.root.toNat
      (y.vl ≠ 0 → answers (-2) s) ∧ (y.vl = 0 → size ≤ c → answers (-5) s) ∧
      (y.vl = 0 → c < size → (rdNode s x c).parent ≠ x.root.toNat → answers (-7) s) ∧
      let sib (i : Nat) : Prop := y.first ≤ i ∧ i < y.first + y.count ∧ i ≠ c
      (y.vl = 0 → c < size → (rdNode s x c).parent = x.root.toNat → y.count ≠ 0 ∧ size < y.first + y.count → answers (-5) s) ∧
      (y.vl = 0 → c < size → (rdNode s x c).parent = x.root.toNat → y.count = 0 ∨ y.first + y.count ≤ size →
        (∀ i, sib i → parent' (rdNode s x i) = true → (rdNode s x i).first < size) →
        let gives (a : State × Tree × Nat) (i : Nat) : State × Tree × Nat :=
          let z := rdNode a.1 x i
          let b := if parent' z then pushLazy a.1 a.2.1 (z.first / x.bs) else (a.1, a.2.1)
          (wrNode b.1 x i { rdNode b.1 x i with flags := 0 }, b.2, a.2.2 + if parent' z then 1 else 0)
        let (s0, x0, n) := (((List.range y.count).map (fun k => y.first + k)).filter (fun i => i ≠ c)).foldl gives (s, x, 0)
        let s1 := wrNode s0 x x.root.toNat { rdNode s0 x x.root.toNat with flags := 0 }
        let apart : Prop := x.root.toNat / x.bs ≠ c / x.bs
        let promoted (u : State) := wrNode u x c { rdNode u x c with parent := 0xFFFFFFFF, flags := (rdNode u x c).flags / 16 * 16 + 8 + (rdNode u x c).flags % 8 }
        let (s2, x2) := pushLazy s1 x0 (x.root.toNat / x.bs)
        (¬ apart → answers (word n) (keeps (promoted s1) { x0 with root := BitVec.ofNat 32 c })) ∧
        (apart → answers (word (n + 1)) (keeps (promoted s2) { x2 with root := BitVec.ofNat 32 c })))) ∧
    (∀ b, pushLazy s x b = pushes b) ∧
    (∀ m n, r.op = .free m n →
      let b := x.lazy.toNat
      (m ≤ n ∨ b = 0xFFFFFFFF → answers (word n) s) ∧
      (n < m → b ≠ 0xFFFFFFFF → x.cap ≤ b → answers (-5) s) ∧
      (n < m → b < x.cap → x.cap ≤ 2 ^ 24 → (∃ i < x.bs, parent' (rdNode s x (b * x.bs + i)) = true ∧ size ≤ (rdNode s x (b * x.bs + i)).first) →
        answers (-5) s) ∧
      (n < m → b < x.cap → x.cap ≤ 2 ^ 24 → (∀ i < x.bs, parent' (rdNode s x (b * x.bs + i)) = true → (rdNode s x (b * x.bs + i)).first < size) →
        let gives (a : State × Tree) (i : Nat) : State × Tree :=
          let z := rdNode a.1 x (b * x.bs + i)
          let p := if parent' z then pushLazy a.1 a.2 (z.first / x.bs) else a
          (wrNode p.1 x (b * x.bs + i) deadNode, p.2)
        let (s1, x1) := (List.range x.bs).foldl gives (s, { x with lazy := BitVec.ofNat 32 (rdNode s x (b * x.bs)).parent, nlazy := x.nlazy - 1 })
        treeStep r s = pend (keeps (wrNode s1 x (b * x.bs) { deadNode with parent := x.free.toNat })
          { x1 with free := BitVec.ofNat 32 b, nfree := x1.nfree + 1 })
          (.treeAction { r with op := .free m (n + 1), begun := true }))))

/-- (1) R275, R276, R283 to R286, R289, R290: what a device does alone with its bond table. A declaration checks entry, mesh and descriptor; a `PSET`
changes the state word and counts `SEQ`; a query waits until the entry is not busy; a `PDROP` clears the entry, and withdraws what is undecided:
where another device coordinates, the entry stands until that has answered. A declaration whose descriptor a live range lock covers waits (R219).
(2) R280 to R282, R290, R291, R353: the coordinator decides, in full service alone, when it holds an announcement of every member: go where all
agree, else a fault with the reason and the lowest coordinate that disagrees, or that it could not reach in time; a coordinator that cannot be
reached is a fault too, with its own coordinate. What is withdrawn before that is gone, and its member is told so. A decision makes the entry
busy, or failed; a fault is kept for the threads that are stalled on it. The model's reading (log 36): the status 0xFF of a withdrawal by `PDROP`
and its confirming message, the entry that stands meanwhile, that the destination of a `PCONV` is part of its announcement, that `PSET` acts at
once beside an announcement that stands, and the coordinate of a disagreement, measured against the coordinator's own announcement. -/
def Obligations.BondsAreKeptAndAgreed : Prop :=
 (
  (∀ (s : State) (d a b : BitVec 6) (f : BitVec 4), Running s → (coreOf s s.th.core).outst < 256 → fenced s s.th 8 = false →
    let e : BitVec 12 := (rdS s.th a).truncate 12
    let asks (i : Instr) (op : BondOp) : Prop := ∃ t, exec i s = .next t ∧ requests s t d (.bondRequest (itsOrigin s) d s.th.asid op)
    (Ready s [.s d, .s a, .s b] → asks (.pdecl d a b) (.decl e (rdS s.th b)) ∧ asks (.pset d a b) (.set e ((rdS s.th b).truncate 32))) ∧
    (Ready s [.s d, .s a] → asks (.pqry d a f) (.qry e f) ∧ asks (.pdrop d a) (.drop e))) ∧
  (∀ (s : State) (o : Origin) (d : BitVec 6) (asid : BitVec 12) (op : BondOp) (e : BitVec 12),
    let gives (v : Word) (u : State) : Prop := bondRequestStep o d asid op s = answerTo u o (.bond (dieOf o.core)) (.s d) v true
    let onEntry : Prop := (∃ st, op = .set e st) ∨ (∃ f : BitVec 4, f.toNat < 5 ∧ op = .qry e f) ∨ op = .drop e
    (s.phase = 2 → gives (-4) s) ∧
    (s.phase ≠ 2 → onEntry →
      (bondAt s e = none → gives (-1) s) ∧
      (∀ b, bondAt s e = some b → (b.world ≠ o.world → gives (-3) s) ∧
        (b.world = o.world → b.busy = true → bondRequestStep o d asid op s = pend s (.bondWaiting o d asid op)))) ∧
    (s.phase ≠ 2 → ∀ b, bondAt s e = some b → b.world = o.world → b.busy = false →
      (∀ st, op = .set e st → (meshOf s o.world = none → gives (-4) s) ∧
        (∀ m, meshOf s o.world = some m → (¬ ValidState m b st → gives (-5) s) ∧
          (ValidState m b st → gives ((b.seq + 1).zeroExtend 64) (setBond s e (some { b with state := st, seq := b.seq + 1, failed := false, reason := 0, fco := 0 }))))) ∧
      (op = .qry e 0 → ∃ v, gives v s ∧ bits v 0 32 = b.state ∧ v.getLsbD 32 = true ∧ v.getLsbD 33 = false ∧ v.getLsbD 34 = b.failed ∧
        v.getLsbD 35 = b.announced ∧ (b.failed = true → bits v 36 4 = b.reason) ∧ bits v 40 24 = 0) ∧
      (op = .qry e 1 → gives (b.seq.zeroExtend 64) s) ∧ (op = .qry e 2 → gives b.base s) ∧ (op = .qry e 3 → gives (b.tag.zeroExtend 64) s) ∧
      (∀ m, op = .qry e 4 → meshOf s b.world = some m → gives (word (localCount m b b.state)) s) ∧
      (op = .drop e → (∀ w ∈ s.bondWaits, w.entry = e ∨ w.dstEntry = some e → w.decision ≠ none) → gives 0 (setBond s e none)) ∧
      (∀ w m, op = .drop e → s.bondWaits = [w] → w.entry = e ∨ w.dstEntry = some e → w.decision = none → meshOf s w.ann.world = some m → s.announced = [] →
        (coordinator w.group = w.ann.src → ∃ u, gives 0 u ∧ bondAt u e = none ∧ u.bondWaits = []) ∧
        (coordinator w.group ≠ w.ann.src →
          bondAt (bondRequestStep o d asid op s) e = some b ∧ .bondWaiting o d asid op ∈ (bondRequestStep o d asid op s).pending ∧
          (bondRequestStep o d asid op s).bondWaits = [{ w with leaving := true }] ∧
          (w.leaving = false →
            .bondSend (deviceAt m (coordinator w.group)) (.withdraw { w.ann with status := 0xFF }) ∈ (bondRequestStep o d asid op s).pending ∧
            .bondTimeout (deviceAt m (coordinator w.group)) ∈ (bondRequestStep o d asid op s).pending)))) ∧
    (s.phase ≠ 2 → ∀ m, meshOf s o.world = some m → m.coords.length = m.sizes.length → m.sizes.length ≤ 4 →
      (∀ i, i < m.sizes.length → m.coords.getD i 0 < m.sizes.getD i 0 ∧ m.sizes.getD i 0 ≤ 256) → linearOf m.sizes m.coords < 4096 →
      (op = .qry e 5 → ∃ v, gives v s ∧ field v 0 3 = m.sizes.length ∧ ∀ i, i < m.sizes.length → field v (8 * (i + 1)) 8 = m.sizes.getD i 0 - 1) ∧
      (op = .qry e 6 → ∃ v, gives v s ∧ field v 32 12 = linearOf m.sizes m.coords ∧ ∀ i, i < m.sizes.length → field v (8 * i) 8 = m.coords.getD i 0)) ∧
    (s.phase ≠ 2 → ∀ desc, op = .decl e desc →
      let u := (engRead s asid desc.toNat 64).1
      let bytes := (engRead s asid desc.toNat 64).2
      let f (off n : Nat) := ofLe (slice bytes off n)
      let open' : Prop := desc.toNat % 64 = 0 ∧ engOk s asid [.r] desc.toNat 64 = true
      let b : BondEntry := { base := word (f 0 8), scr := word (f 8 8), tag := BitVec.ofNat 32 (f 16 4), seq := 0,
                             dims := [BitVec.ofNat 32 (f 20 4), BitVec.ofNat 32 (f 24 4), BitVec.ofNat 32 (f 28 4), BitVec.ofNat 32 (f 32 4)],
                             ndim := BitVec.ofNat 8 (f 36 1), fmt := BitVec.ofNat 8 (f 37 1), busy := false, failed := false, announced := false, reason := 0,
                             world := o.world, asid := asid, fco := 0, state := BitVec.ofNat 32 (f 40 4) }
      let c := bondBytes b
      let good (m : Mesh) : Prop := f 38 2 = 0 ∧ f 44 20 = 0 ∧ 1 ≤ b.ndim.toNat ∧ b.ndim.toNat ≤ 4 ∧ fmtOf b.fmt ≠ none ∧
        (∀ d < 4, if d < b.ndim.toNat then 1 ≤ dimOf b d else dimOf b d = 1) ∧ b.base.toNat % 256 = 0 ∧ b.scr.toNat % 256 = 0 ∧ ValidState m b b.state ∧
        (b.base.toNat + c ≤ b.scr.toNat ∨ b.scr.toNat + c ≤ b.base.toNat) ∧ engOk s asid [.r, .w] b.base.toNat c = true ∧ engOk s asid [.r, .w] b.scr.toNat c = true
      (bondAt s e ≠ none → gives (-2) s) ∧ (bondAt s e = none → meshOf s o.world = none → gives (-4) s) ∧
      (∀ m, bondAt s e = none → meshOf s o.world = some m →
        (¬ open' → gives (-7) s) ∧
        (open' → engLocked s o.world [(desc.toNat, 64)] = true → bondRequestStep o d asid op s = pend s (.bondWaiting o d asid op)) ∧
        (open' → engLocked s o.world [(desc.toNat, 64)] = false → (¬ good m → gives (-7) u) ∧ (good m → gives 0 (setBond u e (some b)))))))) ∧
 (
  (∀ (s : State) (n own : Announcement) (m : Mesh), meshOf s n.world = some m →
    (s.phase ≠ 3 ∨ coordinator (groupOf m n) ≠ ownCoord m → exec (.bondAnnouncement n) s = .next s) ∧
    (s.phase = 3 → coordinator (groupOf m n) = ownCoord m → (∀ a ∈ s.announced, a.src ≠ ownCoord m) → n.src ≠ ownCoord m →
      exec (.bondAnnouncement n) s = .next { s with announced := s.announced ++ [n] }) ∧
    (s.phase = 3 → coordinator (groupOf m n) = ownCoord m → s.announced = [own] → own.src = ownCoord m → n.src ≠ own.src → groupOf m own = [own.src, n.src] →
      own.world = n.world → own.status = 0 →
      let decides (go : Bool) (r : BitVec 4) (c : BitVec 12) : Prop := ∃ t, exec (.bondAnnouncement n) s = .next t ∧ SameThreads s t ∧ t.announced = [] ∧
        .bondDecision own.key go r c ∈ t.pending ∧ .bondSend (deviceAt m n.src) (.decide n.key go r c) ∈ t.pending
      let at' : BitVec 12 := BitVec.ofNat 12 n.src
      (∀ w tag q r, own.key = .tensor w tag q → n.key = .tensor w tag r →
        (n.status = 0xFF → decides false 3 at') ∧
        (n.status ≠ 0xFF → r ≠ q ∨ (n.status = 0 ∧ bits n.extra 32 32 ≠ bits own.extra 32 32) → decides false 1 at') ∧
        (n.status ≠ 0xFF → r = q → (n.status = 0 → bits n.extra 32 32 = bits own.extra 32 32) →
          let like : Prop := n.fmt = own.fmt ∧ n.ndim = own.ndim ∧ n.dims = own.dims ∧ n.cur = own.cur ∧ n.want = own.want ∧ n.extra = own.extra ∧ n.status = 0
          (¬ like → decides false 2 at') ∧ (like → decides true 0 0xFFF))) ∧
      (∀ w mask k, own.key = .sync w mask k → n.key = .sync w mask k → n.status = 0 →
        (n.extra ≠ own.extra → decides false 5 at') ∧ (n.extra = own.extra → decides true 0 0xFFF)))) ∧
  (∀ (s : State) (own : Announcement) (m : Mesh) (j : Nat), meshOf s own.world = some m → s.announced = [own] → own.src = ownCoord m →
    groupOf m own = [own.src, j] → j ≠ own.src → deviceAt m own.src ≠ deviceAt m j → streamStopped s (deviceAt m j) 14 = false →
    (connOf s (deviceAt m j) 14 .rud).open' ≠ [] →
    ∃ t, bondTimeoutStep (deviceAt m j) s = t ∧ SameThreads s t ∧ t.announced = [] ∧ .bondDecision own.key false 4 (BitVec.ofNat 12 j) ∈ t.pending) ∧
  (∀ (s : State) (w : BondWait) (m : Mesh), w ∈ s.bondWaits → w.decision = none → meshOf s w.ann.world = some m →
    coordinator w.group ≠ w.ann.src →
    let dst := deviceAt m (coordinator w.group)
    streamStopped s dst 14 = false → (connOf s dst 14 .rud).open' ≠ [] →
    .bondDecision w.ann.key false 4 (BitVec.ofNat 12 (coordinator w.group)) ∈ (bondTimeoutStep dst s).pending) ∧
  (∀ (s : State) (n : Announcement) (m : Mesh), meshOf s n.world = some m →
    (n.src ≠ ownCoord m → n.status ≠ 0xFF → (∃ a ∈ s.announced, a.key = n.key ∧ a.src = n.src ∧ a.world = n.world) →
      ∃ t, exec (.bondWithdrawal n) s = .next t ∧ SameThreads s t ∧ .bondSend (deviceAt m n.src) (.withdraw n) ∈ t.pending ∧
        ∀ a ∈ t.announced, ¬ (a.key = n.key ∧ a.src = n.src ∧ a.world = n.world)) ∧
    (n.src ≠ ownCoord m → (∀ a ∈ s.announced, ¬ (a.key = n.key ∧ a.src = n.src ∧ a.world = n.world)) → exec (.bondWithdrawal n) s = .next s) ∧
    (∀ w b v tag q, n.src = ownCoord m → n.key = .tensor v tag q → s.bondWaits = [w] → w.ann.key = n.key → w.ann.world = n.world → w.decision = none →
      bondAt s w.entry = some b → ∃ t, exec (.bondWithdrawal n) s = .next t ∧ SameThreads s t ∧ t.bondWaits = [] ∧
        bondAt t w.entry = some { b with announced := false })) ∧
  (∀ (s : State) (k : BondKey) (go : Bool) (r : BitVec 4) (c : BitVec 12) (w : BondWait),
    s.bondWaits.find? (fun w => w.ann.key = k && w.decision.isNone) = some w →
    (∀ e ∈ w.waiters, ∀ u, findThread s e.1 = some u → ∀ x, u.status ≠ .saving x) →
    (∀ v tag q b, k = .tensor v tag q → bondAt s w.entry = some b →
      (go = true → w.dstEntry = none → ∃ t, exec (.bondDecision k go r c) s = .next t ∧ SameThreads s t ∧ t.mem = s.mem ∧
        bondAt t w.entry = some { b with busy := true, announced := false } ∧ .bondLock k ∈ t.pending ∧ { w with decision := some none } ∈ t.bondWaits) ∧
      (go = false → ∃ t, exec (.bondDecision k go r c) s = .next t ∧ SameThreads s t ∧ t.mem = s.mem ∧
        bondAt t w.entry = some { b with failed := true, announced := false, reason := r, fco := c } ∧
        (w.waiters ≠ [] → { w with decision := some (some (r, c)) } ∈ t.bondWaits))) ∧
    (∀ v mask j, k = .sync v mask j →
      (go = true → w.waiters ≠ [] → (∀ v ∈ s.bondWaits, v.ann = w.ann → v = w) → ∃ t, exec (.bondDecision k go r c) s = .next t ∧ SameThreads s t ∧ t.mem = s.mem ∧
        { w with decision := some none, result := some 0, dests := [] } ∈ t.bondWaits ∧ ∀ e ∈ w.dests, answersWith t e.1 e.2 0) ∧
      (go = false → ∃ t, exec (.bondDecision k go r c) s = .next t ∧ SameThreads s t ∧ { w with decision := some (some (r, c)) } ∈ t.bondWaits))))

/-- (1) R281, R282, R284, R287, R288, R291: `PLOAD`, `PCONV` and `PSYNC`. A status lands at once, and of a valid entry it is announced; a state that
stands already lands the buffer; a failed entry traps with what stands in it; else the device announces and the thread stalls. Decided to go, the
bundle takes effect and awaits its result; decided to fault, it traps with the reason, whatever has become of the entry since. (2) R277 to R279, R282, R288: a conversion takes its locks when they are
free, and then reads its contribution; with the contributions of all it writes the result, counts `SEQ`, exchanges the buffers, gives up its
locks and lands the new `BASE`; a `PCONV` writes the destination entry's buffer and leaves its source. What the elements become on a mesh of one
axis, for a tensor of one dimension, is R278's table; from blocks of both axes of a mesh of two by two, every element comes from the device whose
block R277 names. -/
def Obligations.BondDemandsAndConversions : Prop :=
 (
  ∀ (s : State) (d a b c : BitVec 6) (mask : BitVec 4), Running s → Ready s [.s d, .s a, .s b, .s c] → (coreOf s s.th.core).outst < 256 →
    fenced s s.th 8 = false → outstanding s (senderOf s s.th) 7 = [] →
    let e : BitVec 12 := (rdS s.th a).truncate 12
    let want : BitVec 32 := (rdS s.th b).truncate 32
    let dst : BitVec 12 := (rdS s.th c).truncate 12
    let lands (i : Instr) (v : Word) : Prop := ∃ t, exec i s = .next t ∧ t.th = advance (setCount s.th (.s d) 1) ∧ t.rest = s.rest ∧ t.mem = s.mem ∧
      answersWith t (itsOrigin s) d v
    let stalls (i : Instr) : Prop := exec i s = .next { s with last := .stalled }
    let taken (i : Instr) (w : BondWait) : Prop := ∃ t, exec i s = .next t ∧ t.th = advance (setCount s.th (.s d) 1) ∧ t.rest = s.rest ∧ t.mem = s.mem ∧
      (∀ v, w.result = some v → answersWith t (itsOrigin s) d v) ∧
      (w.result = none → ∃ x ∈ t.bondWaits, (itsOrigin s, d) ∈ x.dests ∧ ∀ y ∈ x.waiters, y.1 ≠ s.th.handle)
    let hold (i : Instr) : Prop := exec i s = .next { s with last := .held }
    let faults (i : Instr) (e : BitVec 12) (r : BitVec 4) (x : BitVec 12) (q : BitVec 32) : Prop := ∃ v t, exec i s = .next t ∧ placementVal v e r x q ∧
      t.th = (trapFocus s .placementFault v s.th.pc).th ∧ t.mem = s.mem ∧ t.last = .trapped
    (NewDemand s →
      (s.phase = 2 → lands (.pload d a b) (-4) ∧ lands (.pconv d a b c) (-4) ∧ lands (.psync d a mask) (-4)) ∧
      (s.phase ≠ 2 →
        (bondAt s e = none → lands (.pload d a b) (-1)) ∧
        (∀ x, bondAt s e = some x →
          (x.busy = true → hold (.pload d a b) ∧ hold (.pconv d a b c)) ∧
          (x.busy = false → x.world ≠ s.th.world → lands (.pload d a b) (-3) ∧
            ∀ m, meshOf s x.world = some m → ∃ t n, exec (.pload d a b) s = .next t ∧ n.status = 3 ∧ n.key = .tensor x.world x.tag x.seq ∧ n.src = ownCoord m ∧
              (1 < (groupOf m n).length → ∀ j ∈ groupOf m n, j ≠ ownCoord m → .bondSend (deviceAt m j) (.announce n) ∈ t.pending)) ∧
          (x.busy = false → x.world = s.th.world →
            (meshOf s s.th.world = none → lands (.pload d a b) (-4)) ∧
            (∀ m, meshOf s s.th.world = some m →
              (¬ ValidState m x want → lands (.pload d a b) (-5)) ∧
              (ValidState m x want → x.failed = true → faults (.pload d a b) e x.reason x.fco x.seq) ∧
              (ValidState m x want → x.failed = false → x.state = want → lands (.pload d a b) x.base) ∧
              (ValidState m x want → x.failed = false → x.state ≠ want → (∀ w ∈ s.bondWaits, w.entry ≠ e) →
                ∃ t, exec (.pload d a b) s = .next t ∧ SameThreads s t ∧ t.mem = s.mem ∧ t.last = .stalled ∧ bondAt t e = some { x with announced := true } ∧
                  ∃ w ∈ t.bondWaits, w.entry = e ∧ w.dstEntry = none ∧ w.decision = none ∧ w.waiters = [(s.th.handle, d, s.th.pc)] ∧
                    w.ann.key = .tensor x.world x.tag x.seq ∧ w.ann.cur = x.state ∧ w.ann.want = want ∧ w.ann.dims = x.dims ∧ w.ann.status = 0) ∧
              (∀ y, bondAt s dst = some y → y.busy = false → y.world = s.th.world → ValidState m x want →
                (dst = e ∨ y.fmt ≠ x.fmt ∨ y.ndim ≠ x.ndim ∨ y.dims ≠ x.dims → lands (.pconv d a b c) (-8))) ∧
              (bondAt s dst = none → lands (.pconv d a b c) (-1))))) ∧
        (meshOf s s.th.world = none → lands (.psync d a mask) (-4)) ∧
        (∀ m, meshOf s s.th.world = some m → m.sizes.length ≤ 4 →
          ((∃ i, m.sizes.length ≤ i ∧ i < 4 ∧ mask.getLsbD i = true) → lands (.psync d a mask) (-5)) ∧
          ((∀ i, m.sizes.length ≤ i → i < 4 → mask.getLsbD i = false) →
            ∃ t, exec (.psync d a mask) s = .next t ∧ SameThreads s t ∧ t.mem = s.mem ∧ t.last = .stalled ∧
              ∃ w ∈ t.bondWaits, ∃ k, w.ann.key = .sync s.th.world mask k ∧ field w.ann.extra 0 32 = field (rdS s.th a) 0 32 ∧ w.decision = none ∧
                w.waiters = [(s.th.handle, d, s.th.pc)])))) ∧
    (∀ w, StandsOn s (fun w => w.entry = e && w.dstEntry = none && w.ann.want = want) w →
      (w.decision = none → stalls (.pload d a b)) ∧ (w.decision = some none → taken (.pload d a b) w) ∧
      (∀ u tag q r x, w.ann.key = .tensor u tag q → w.decision = some (some (r, x)) → faults (.pload d a b) e r x q)) ∧
    (∀ w, StandsOn s (fun w => w.entry = e && w.dstEntry = some dst && w.ann.want = want) w →
      (w.decision = none → stalls (.pconv d a b c)) ∧ (w.decision = some none → taken (.pconv d a b c) w) ∧
      (∀ u tag q r x, w.ann.key = .tensor u tag q → w.decision = some (some (r, x)) → faults (.pconv d a b c) e r x q)) ∧
    (∀ w, StandsOn s (waitsSync s.th.world mask) w →
      (w.decision = none → stalls (.psync d a mask)) ∧ (w.decision = some none → taken (.psync d a mask) w) ∧
      (∀ r x, w.decision = some (some (r, x)) → faults (.psync d a mask) 0xFFF r x 0))) ∧
 (
  (∀ (s : State) (k : BondKey) (data : PeerData) (w : BondWait) (b : BondEntry) (m : Mesh) (mine : List Byte),
    s.bondWaits.find? (fun w => w.ann.key = k && w.decision = some none && w.result.isNone) = some w → bondAt s w.entry = some b →
    meshOf s w.ann.world = some m → w.mine = some mine →
    let all := (w.ann.src, mine) :: data.filter (fun e => e.1 ≠ w.ann.src)
    let out := converted m b w.ann.want all
    (∀ i ∈ w.group, ∃ e ∈ all, e.1 = i) →
    (w.dstEntry = none → ∃ t, exec (.bondConversion k data) s = .next t ∧ SameThreads s t ∧ t.mem = (engWrite s b.asid b.scr.toNat out).mem ∧
      bondAt t w.entry = some { b with base := b.scr, scr := b.base, state := w.ann.want, seq := b.seq + 1, busy := false } ∧
      (∀ l ∈ t.locks, l.owner ≠ .bond w.entry.toNat) ∧ ∀ e ∈ w.dests, answersWith t e.1 e.2 b.scr) ∧
    (∀ e c, w.dstEntry = some e → e ≠ w.entry → bondAt s e = some c → ∃ t, exec (.bondConversion k data) s = .next t ∧ SameThreads s t ∧
      t.mem = (engWrite s c.asid c.base.toNat out).mem ∧ bondAt t e = some { c with state := w.ann.want, seq := c.seq + 1, busy := false } ∧
      bondAt t w.entry = some { b with busy := false } ∧ (∀ l ∈ t.locks, l.owner ≠ .bond w.entry.toNat) ∧ ∀ x ∈ w.dests, answersWith t x.1 x.2 c.base)) ∧
  (∀ (s : State) (k : BondKey) (w : BondWait) (b : BondEntry) (m : Mesh),
    s.bondWaits = [w] → w.ann.key = k → w.decision = some none → w.mine = none → w.dstEntry = none → bondAt s w.entry = some b → meshOf s b.world = some m →
    s.locks = [] → s.pending = [] → s.cmds = [] → s.copies = [] → s.heldBack = [] →
    ∃ t, bondLockStep k s = t ∧ (∃ x y, t.locks = [x, y] ∧ x.owner = .bond w.entry.toNat ∧ y.owner = .bond w.entry.toNat ∧ x.dst = true ∧ y.dst = true ∧
      x.lo = b.base.toNat / 64 * 64 ∧ y.lo = b.scr.toNat / 64 * 64) ∧
      ∃ v ∈ t.bondWaits, v.mine = some (engRead s b.asid b.base.toNat (localCount m b b.state * fmtWidth (bondFmt b) / 8)).2) ∧
  (∀ (m : Mesh) (b : BondEntry) (i j n : Nat) (data : List (Nat × List Byte)), m.sizes = [2, 2] → m.coords = [i, j] → i < 2 → j < 2 →
    b.dims = [BitVec.ofNat 32 n, 1, 1, 1] → n < 2 ^ 32 → 4 ∣ n → 0 < n → b.state = 0x0101 →
    let f := bondFmt b
    let e := n / 4
    let got (i : Nat) : List Nat := elemsOfBytes f e (((data.find? (fun x => x.1 = i)).map (·.2)).getD [])
    converted m b 0 data = bytesOfElems f ((List.range n).map (fun k => (got (k / e)).getD (k % e) 0))) ∧
  (∀ (m : Mesh) (b : BondEntry) (a c n : Nat) (data : List (Nat × List Byte)) (want : BitVec 32),
    m.sizes = [a] → m.coords = [c] → c < a → b.dims = [BitVec.ofNat 32 n, 1, 1, 1] → n < 2 ^ 32 → a ∣ n → 0 < n →
    let f := bondFmt b
    let e := n / a
    let got (len i : Nat) : List Nat := elemsOfBytes f len (((data.find? (fun x => x.1 = i)).map (·.2)).getD [])
    let gives (len : Nat) (g : Nat → Nat) : Prop := converted m b want data = bytesOfElems f ((List.range len).map g)
    (b.state = 0 → want = 1 → gives e (fun k => (got n c).getD (c * e + k) 0)) ∧
    (b.state = 0 → want = 2 → gives n (fun k => if c = 0 then (got n c).getD k 0 else 0)) ∧
    (b.state = 1 → want = 0 → gives n (fun k => (got e (k / e)).getD (k % e) 0)) ∧
    (b.state = 1 → want = 2 → gives n (fun k => if k / e = c then (got e c).getD (k % e) 0 else 0)) ∧
    (b.state = 2 → want = 0 → gives n (fun k => reduceElems f ((List.range a).map (fun i => (got n i).getD k 0)))) ∧
    (b.state = 2 → want = 1 → gives e (fun k => reduceElems f ((List.range a).map (fun i => (got n i).getD (c * e + k) 0))))))

/-- (1) R294, R296, R297, R304, R305, R307, R370: a network command whose operands are in their ranges is accepted, and in reduced service completes
with `ST` 8; a bad target traps BAD_LA with the target, a bad landing address BAD_LA with the address. `NFENCE` is held until the thread's
commands and landings are completed, and, by the model's choice (log 7), until every earlier event is accepted. The order of MISALIGN and BAD_LA
at `NATOM` is the model's choice (log 38). (2) R298, R303, R307 to R309:
restart and cancel of parked commands; windows and buffers are opened at the lowest free number, queried, and revoked once nothing is in flight;
a take is answered with the oldest untaken message when it is complete, a free moves the consumer count past a record and the pads before it. The
model's choices: status -2 before -1 of one window, and the operand of `WQRY` mode 4 (log 40); -4 of `WOPEN` and `CBOPEN` in reduced service (log
48). -/
def Obligations.NetworkCommandsAndWindows : Prop :=
 (
  ∀ (s : State) (d a b c e : BitVec 6) (x : NetMod) (cc : BitVec 4) (op : AmoOp) (dbl ob : Bool), Running s → Ready s [.s a, .s b, .s c, .s e] →
    let tgt := rdS s.th a
    let dst := (targetOf tgt).1
    let len := (rdS s.th c).toNat % 2 ^ 32
    let seg := 1024 * 2 ^ x.seg.toNat
    let starts (i : Instr) (kind : BitVec 8) (n : NetCmd) : Prop :=
      present s.th (.s d) = true → NetRoom s n.dst n.cls → (s.phase ≠ 2 → ∃ t, exec i s = .next t ∧ accepted s t d kind n) ∧
        (s.phase = 2 → ∃ t, exec i s = .next t ∧ hasEnded t s.th.handle s.th.dseqNext 8 0)
    let refused (i : Instr) (v : Word) : Prop := exec i s = trapsWith s .badLa v
    let n := asksFor dst x d tgt (rdS s.th b) len
    let badLen (most : Nat) : Prop := len = 0 ∨ most < len
    let la := rdS s.th b
    let getLen : Prop := badLen (2 ^ 30) ∨ (laSpace la = 2 ∧ 16384 < len) ∨ (laSpace la = 1 ∧ (256 < len ∨ seg < len))
    let getLa : Prop := laMalformed la = true ∨ laSpace la = 3 ∨ (laSpace la ≠ 0 ∧ laDev la ≠ s.dev) ∨ (laSpace la = 1 ∧ laClass la ≠ 1) ∨ laCrosses la len false = true
    let sendBad : Prop := unnameable s tgt len x ∨ (targetOf tgt).2.2 ≠ 0 ∨ badLen (2 ^ 20) ∨ (x.dm = .uud ∧ seg < len)
    let w := if dbl then 8 else 4
    let reply := rdS s.th e
    let replyBad : Prop := e ≠ 0 ∧ (laMalformed reply = true ∨ laCrosses reply (atomPayload reply (List.replicate w 0)).length false = true ∨ laUnreachable s reply = true)
    let value := rdS s.th b
    let landBad : Prop := laMalformed tgt = true ∨ laSpace tgt = 0 ∨ laDev tgt = s.dev ∨ laCrosses tgt (putPayload tgt value).length false = true ∨ laUnreachable s tgt = true
    (unnameable s tgt len x ∨ badLen (2 ^ 30) → refused (.nput d a b c x) tgt) ∧
    (¬ (unnameable s tgt len x ∨ badLen (2 ^ 30)) → starts (.nput d a b c x) 0x20 n) ∧
    (unnameable s tgt len x ∨ getLen → refused (.nget d a b c x) tgt) ∧
    (¬ (unnameable s tgt len x ∨ getLen) → getLa → refused (.nget d a b c x) la) ∧
    (¬ (unnameable s tgt len x ∨ getLen) → ¬ getLa → starts (.nget d a b c x) 0x21 n) ∧
    ((targetOf tgt).2.2 % w ≠ 0 → exec (.natom d a b c e op dbl x) s = trapsWith s .misalign tgt) ∧
    ((targetOf tgt).2.2 % w = 0 → unnameable s tgt w x → refused (.natom d a b c e op dbl x) tgt) ∧
    ((targetOf tgt).2.2 % w = 0 → ¬ unnameable s tgt w x → replyBad → refused (.natom d a b c e op dbl x) reply) ∧
    ((targetOf tgt).2.2 % w = 0 → ¬ unnameable s tgt w x → ¬ replyBad → starts (.natom d a b c e op dbl x) 0x22
      { asksFor dst x d tgt 0 w with op := op, dbl := dbl, b := rdS s.th b, c := rdS s.th c, reply := if e = 0 then none else some reply, packets := 1 }) ∧
    (sendBad → refused (.nsend d a b c x) tgt) ∧ (¬ sendBad → starts (.nsend d a b c x) 0x23 n) ∧
    (landBad → refused (.nsendL d a b cc ob) tgt) ∧
    (¬ landBad → starts (.nsendL d a b cc ob) 0x23 { asksFor (laDev tgt) { cc := cc, ob := ob, e := 0, seg := 0, dm := .rud } d tgt value (putPayload tgt value).length with land := true, packets := 1 }) ∧
    (netOpen s s.th = true → exec .nfence s = .next { s with last := .held }) ∧
    (netOpen s s.th = false → outstanding s (senderOf s s.th) 0xF ≠ [] → exec .nfence s = .next { s with last := .held }) ∧
    (netOpen s s.th = false → outstanding s (senderOf s s.th) 0xF = [] → exec .nfence s = becomes s (advance s.th))) ∧
 (
  (∀ (s : State) (d a b : BitVec 6) (perm f : BitVec 3), Running s → (coreOf s s.th.core).outst < 256 → fenced s s.th 8 = false →
    let asks (i : Instr) (op : NetOp) : Prop := ∃ t, exec i s = .next t ∧ requests s t d (.netRequest (itsOrigin s) d s.th.asid op)
    let w : BitVec 16 := (rdS s.th a).truncate 16
    (Ready s [.s d, .s a, .s b] → asks (.wopen d a b perm) (.wopen (rdS s.th a) (rdS s.th b) perm) ∧ asks (.cbopen d a b) (.cbopen (rdS s.th a) (rdS s.th b))) ∧
    (Ready s [.s d, .s a] → asks (.wrevoke d a) (.wrevoke w) ∧ asks (.wqry d a f) (.wqry f (rdS s.th a)) ∧ asks (.cbpopTake d a) (.take w) ∧
      asks (.cbpopFree d a) (.free w) ∧ asks (.nfenceRs d a) (.restart w) ∧ asks (.nfenceCn d a) (.cancel w))) ∧
  (∀ (s : State) (o : Origin) (d : BitVec 6) (asid : BitVec 12) (op : NetOp),
    let gives (v : Word) (u : State) : Prop := netRequestStep o d asid op s = answerTo u o (.net 0) (.s d) v true
    let opens (kind : WinKind) (perm : BitVec 3) (base : Word) (len : Nat) : Prop :=
      (s.phase = 2 ∨ (∀ w : BitVec 16, w ≠ 0 → windowAt s w ≠ none) → gives (-4) s) ∧
      (s.phase ≠ 2 → ∀ w : BitVec 16, w ≠ 0 → windowAt s w = none → (∀ v : BitVec 16, v ≠ 0 → v < w → windowAt s v ≠ none) →
        gives (w.zeroExtend 64) (setWindow s w (some { kind := kind, world := o.world, asid := asid, perm := perm, base := base, len := len, prod := 0, cons := 0, inflight := 0, recs := [], takers := [], revoker := none })))
    (∀ base len perm, op = .wopen base len perm →
      let good : Prop := base.toNat % 256 = 0 ∧ 256 ≤ len.toNat ∧ len.toNat ≤ 2 ^ 36 ∧ len.toNat % 256 = 0 ∧ engOk s asid (permAccs perm) base.toNat len.toNat = true
      (¬ good → gives (-5) s) ∧ (good → opens .memory perm base len.toNat)) ∧
    (∀ base size, op = .cbopen base size →
      let good : Prop := base.toNat % 4096 = 0 ∧ (∃ i, 12 ≤ i ∧ i ≤ 30 ∧ size.toNat = 2 ^ i) ∧ engOk s asid [.r, .w] base.toNat size.toNat = true
      (¬ good → gives (-5) s) ∧ (good → opens .buffer 0 base size.toNat)) ∧
    (∀ w, op = .wrevoke w ∨ op = .take w ∨ op = .free w →
      (w = 0 → gives (-3) s) ∧ (w ≠ 0 → windowAt s w = none → gives (-1) s) ∧
      (∀ x, w ≠ 0 → windowAt s w = some x → (x.world ≠ o.world → gives (-2) s) ∧
        (x.world = o.world → (op = .wrevoke w → x.kind = .revoking → gives (-1) s) ∧ (op ≠ .wrevoke w → x.kind ≠ .buffer → gives (-1) s)))) ∧
    (∀ w x, w ≠ 0 → windowAt s w = some x → x.world = o.world →
      (op = .wrevoke w → x.kind ≠ .revoking → x.takers = [] → netRequestStep o d asid op s =
        pend (setWindow s w (some { x with kind := .revoking, takers := [], revoker := some (o, d) })) (.windowRevokeComplete o d w)) ∧
      (op = .take w → x.kind = .buffer → x.takers = [] → ∀ r, x.recs.find? (fun r => !r.pad && !r.taken) = some r →
        (r.placed ≠ r.len → ∃ u, netRequestStep o d asid op s = u ∧ windowAt u w = some { x with takers := [(o, d)] } ∧ u.mem = s.mem) ∧
        (r.placed = r.len → ∃ u, gives (word (r.start + 16 + 2 ^ 32 * r.len)) u ∧ u.mem = s.mem ∧
          windowAt u w = some { x with recs := x.recs.map (fun y => if y = r then { y with taken := true } else y) })) ∧
      (op = .free w → x.kind = .buffer →
        ((∀ r ∈ x.recs, r.pad = true) → gives (-6) s) ∧ (∀ r l, x.recs = r :: l → r.pad = false → r.taken = false → gives (-6) s) ∧
        (∀ r l, x.recs = r :: l → r.pad = false → r.taken = true → gives (word (r.start + 16)) (setWindow s w (some { x with recs := l, cons := x.cons + r.size }))) ∧
        (∀ p r l, x.recs = p :: r :: l → p.pad = true → r.pad = false → r.taken = true →
          gives (word (r.start + 16)) (setWindow s w (some { x with recs := l, cons := x.cons + (p.size + r.size) }))))) ∧
    (∀ a, let w : BitVec 16 := a.truncate 16
      (op = .wqry 4 a → gives s.nstale s) ∧
      (∀ f, op = .wqry f a → f.toNat < 3 → (w = 0 → windowAt s 0 = none → gives (-3) s) ∧
        (w ≠ 0 → windowAt s w = none → gives (if f = 0 then 0 else -1) s) ∧
        (∀ x, w ≠ 0 → windowAt s w = some x → (x.world ≠ o.world → gives (-2) s) ∧
          (x.world = o.world → (f = 1 → gives x.base s) ∧ (f = 2 → gives (word x.len) s) ∧
            (f = 0 → ∃ v, gives v s ∧ field v 0 16 = min 65535 x.inflight ∧ bits v 18 3 = x.perm ∧
              field v 16 2 = (match x.kind with | .memory => 1 | .buffer => 2 | .revoking => 3))))) ∧
      (op = .wqry 3 a → ∀ p, s.paths = [p] → p.dst = bits a 0 12 → p.cls = bits a 12 4 → p.entropy = bits a 16 8 →
        ∃ v, gives v s ∧ bits v 0 32 = p.acked ∧ bits v 32 32 = p.sent)) ∧
    (∀ q, op = .restart q ∨ op = .cancel q →
      ((∀ c, findCmd s o.by' q = some c → c.state ≠ .parked ∨ c.net = none) → gives 2 s) ∧
      (∀ c n, findCmd s o.by' q = some c → c.state = .parked → c.net = some n →
        (op = .restart q → ∃ u, gives 0 u ∧ .netSend o.by' q ∈ u.pending ∧ ∀ k, findCmd u o.by' q = some k → k.state = .running ∧ k.fault = none) ∧
        (op = .cancel q → ∃ u, gives 0 u ∧ hasEnded u o.by' q 1 (BitVec.ofNat 32 c.count))))) ∧
  (∀ (s : State) (o : Origin) (d : BitVec 6) (w : BitVec 16),
    (windowAt s w = none → exec (.windowRevokeComplete o d w) s = .next s) ∧
    (∀ x, windowAt s w = some x → x.kind = .revoking → x.revoker = some (o, d) →
      (x.inflight ≠ 0 → exec (.windowRevokeComplete o d w) s = .next (pend s (.windowRevokeComplete o d w))) ∧
      (x.inflight = 0 → exec (.windowRevokeComplete o d w) s = .next (answerTo (setWindow s w none) o (.net 0) (.s d) 0 true)))))

/-- (1) R296, R297, R299 to R302, R305, R306, R310, R313: the source of a packet is read piece by piece; then it leaves with its number, offset and
entropy, on the port of its entropy, behind the header of R299; its answers count once, and only under the generation of its tag; all answered,
or refused and no more to come, the command completes. A timeout gives `ST` 8, or that of a refusal before it. What is not answered is sent again. (2) R69, R191, R294, R298,
R300, R301, R303, R310: a packet that arrives is checked in order and refused with the first failure's `ST`; else a write is placed piece by
piece, a read answered with the bytes, an atomic performed, a message placed in a record of its buffer, a landing handed to the fabric. One that
was placed is acknowledged again; one out of its order is held, and released in its turn; one behind an abandoned packet is refused with `ST` 9.
The first packet under the next key makes it the current one, a reply's too; a reply under a key that is not accepted is dropped. An exchange of
the bond engines stands behind a header as well, as a message of class 14 (the model's choice, log 38). The model's choices beside these: what a
device that is no 9624 may not send is refused with 5 (log 38), as is a landing in memory space (log 12); packets that arrive outside full service
are dropped, and the replies of an `NGET` land in the order of its packets, one that cannot land parks the command and waits (log 39). -/
def Obligations.NetworkPackets : Prop :=
 (
  (∀ (s : State) (h : Handle) (q : BitVec 16) (c : Command) (n : NetCmd) (data : List Byte), findCmd s h q = some c → c.net = some n → c.fin = none →
    c.state = .running → n.status = 0 → n.sent < n.packets → n.land = false → cmdFree s c = true → behindParked s c n = false →
    (connOf s n.dst n.cls n.mode).broken = none →
    let i := n.sent
    let cs := localChunks c n i
    let open' : Prop := c.reads = none ∧ engineWaits s c cs = false ∧ engineBad s c cs = none
    let isRead : Prop := c.kind = 0x21 ∨ c.kind = 0x22
    (open' → ¬ isRead → lockedForEngine s c.world (.cmd h q) cs = false → ∃ t, netSendStep h q s = t ∧ SameThreads s t ∧ t.mem = s.mem ∧
      .netSend h q ∈ t.pending ∧ findCmd t h q = some { c with reads := some (enginePieces s c cs, List.replicate (packetLen n i) 0) }) ∧
    (∀ l got, c.reads = some (l, got) → l ≠ [] → ∃ t x r, netSendStep h q s = t ∧ SameThreads s t ∧ l.Perm (x :: r) ∧ .netSend h q ∈ t.pending ∧
      findCmd t h q = some { c with reads := some (r, patch got x.off (rdPiece s x).2) }) ∧
    (c.reads = some ([], data) ∨ (open' ∧ isRead ∧ data = []) → n.mode = .rud →
      (linkStep s n.dst n.cls = none → netSendStep h q s = pend s (.netSend h q)) ∧
      (∀ u, linkStep s n.dst n.cls = some u → ∃ t p, netSendStep h q s = t ∧ t.th = s.th ∧ t.rest = s.rest ∧
        (if n.dst = s.dev then arrival p ∈ t.pending
          else .packet (portFor s (netDie n.dst n.cls) p.entropy) (netBytes s p) p ∈ t.outbox ∧ p.key = sealKey u n.dst n.cls) ∧
        p.csn = n.csn + BitVec.ofNat 32 i ∧ p.off = i * n.seg ∧ p.msg = n.msg ∧
        p.msgLen = n.len ∧ p.dst = n.dst ∧ p.src = s.dev ∧ p.cls = n.cls ∧ p.tag = n.tag ∧ p.gen = n.gen ∧ p.entropy = BitVec.ofNat 8 (i % 2 ^ n.e) ∧
        p.win = bits n.target 36 16 ∧ p.winOff = bits n.target 0 36 ∧ p.ob = n.ob ∧ p.payload = data))) ∧
  (∀ (s : State) (die : Nat) (e : BitVec 8), die < 2 → linkUp s die = true → ∃ i, i < 8 ∧ portFor s die e = BitVec.ofNat 4 (8 * die + i) ∧ portUp s die i = true ∧
    ∀ j, j < 8 → (j + 8 - e.toNat % 8) % 8 < (i + 8 - e.toNat % 8) % 8 → portUp s die j = false) ∧
  (∀ p : NetPacket, let h := netHeader p
    let f (off n : Nat) := ofLe (slice h off n)
    h.length = 24 ∧ f 0 1 = 1 ∧ f 2 1 = p.cls.toNat ∧ f 3 1 = kindCode p.kind ∧ f 4 4 = p.csn.toNat ∧ f 8 4 = p.msg.toNat ∧ f 12 4 = p.msgLen % 2 ^ 32 ∧
      f 16 4 = p.off % 2 ^ 32 ∧ f 20 3 = p.tag.toNat + 4096 * p.gen.toNat ∧ f 23 1 = 0) ∧
  (∀ (s : State) (dst : BitVec 12) (m : BondMsg),
    (linkStep s dst 14 = none → bondSendStep dst m s = pend s (.bondSend dst m)) ∧
    (∀ u, linkStep s dst 14 = some u → ∃ t h, bondSendStep dst m s = t ∧ SameThreads s t ∧
      let k := connOf u dst 14 .rud
      let f (off n : Nat) := ofLe (slice h off n)
      .bond (portFor s (netDie dst 14) 0) h k.csn dst m ∈ t.outbox ∧ (k.csn, k.msg, .bond m) ∈ (connOf t dst 14 .rud).open' ∧
      (lomkin s dst = false → h = []) ∧
      (lomkin s dst = true → h.length = 24 ∧ f 0 4 = 1 + 14 * 2 ^ 16 + 6 * 2 ^ 24 ∧ f 4 4 = k.csn.toNat ∧ f 8 4 = k.msg.toNat ∧ f 16 8 = 0))) ∧
  (∀ (s : State) (p : NetPacket),
    let answered (dst : BitVec 12) (c : Command) (n : NetCmd) : Prop := answeredCmd s p dst = some (c, n) ∧ p.off ∉ n.got ∧ c.state = .running ∧ n.land = false
    let last (n : NetCmd) : Prop := n.packets = n.got.length + 1
    let notes (t : State) (n : NetCmd) : Prop := ∀ k, findCmd t p.by' p.seq = some k → k.fin = none ∧ ∃ m, k.net = some m ∧ m.got = n.got ++ [p.off]
    let isStale (i : Instr) : Prop := exec i s = .next { s with nstale := s.nstale + 1 }
    let command : Prop := p.cls ≠ 14 ∧ p.cls ≠ 15
    let sealed : Prop := keyOk s p = true ∧ noteKey s p = s
    let keeps (c : Command) (n : NetCmd) : Prop := ∃ t, exec (.netReadReply p) s = .next t ∧ SameThreads s t ∧ t.mem = s.mem ∧
      .netReadReply p ∈ t.pending ∧ ∀ k, findCmd t p.by' p.seq = some k → k.state = c.state ∧ k.fin = c.fin ∧ ∃ m, k.net = some m ∧ m.got = n.got
    (command → answeredCmd s p p.dst = none → isStale (.netAcknowledgement p)) ∧
    (keyOk s p = false → exec (.netReadReply p) s = .next s ∧ exec (.netAtomicReply p) s = .next s) ∧
    (keyOk s p = true → answeredCmd s p p.src = none → ∀ i ∈ [Instr.netReadReply p, .netAtomicReply p],
      exec i s = .next { noteKey s p with nstale := s.nstale + 1 }) ∧
    (∀ c n, command → answeredCmd s p p.dst = some (c, n) → p.off ∈ n.got → p.off ∈ n.heard → exec (.netAcknowledgement p) s = .next s) ∧
    (∀ c n, command → answered p.dst c n → c.kind = 0x21 ∨ c.kind = 0x22 → ∃ t, exec (.netAcknowledgement p) s = .next t ∧ SameThreads s t ∧ t.mem = s.mem ∧
      ∀ k, findCmd t p.by' p.seq = some k → k.fin = c.fin ∧ ∃ m, k.net = some m ∧ m.got = n.got ∧ p.off ∈ m.heard) ∧
    (∀ c n, command → answered p.dst c n → c.kind = 0x20 ∨ c.kind = 0x23 → n.status = 0 → ∃ t, exec (.netAcknowledgement p) s = .next t ∧ SameThreads s t ∧ t.mem = s.mem ∧
      (last n → hasEnded t p.by' p.seq 0 (BitVec.ofNat 32 (c.count + p.payload.length))) ∧ (n.got.length + 1 < n.packets → notes t n)) ∧
    (¬ command → ∃ t, exec (.netAcknowledgement p) s = .next t ∧ SameThreads s t ∧ ∀ e ∈ (connOf t p.dst p.cls .rud).open', e.1 ≠ p.csn) ∧
    (∀ c n, sealed → answered p.src c n → c.kind = 0x21 → n.status = 0 →
      let cs := localChunks c n (p.off / n.seg)
      let turn : Prop := ∀ j, j < p.off / n.seg → j * n.seg ∈ n.got
      (¬ turn ∨ engineWaits s c cs = true → keeps c n) ∧
      (turn → engineWaits s c cs = false → engineBad s c cs = none →
        (lockedForEngine s c.world (.cmd c.handle c.seq) cs = true → keeps c n) ∧
        (lockedForEngine s c.world (.cmd c.handle c.seq) cs = false → ∃ t, exec (.netReadReply p) s = .next t ∧ SameThreads s t ∧
          (∃ l ∈ t.copies ++ t.heldBack, l.payload = p.payload ∧ l.la = runLa n.place p.off) ∧
          (last n → hasEnded t p.by' p.seq 0 (BitVec.ofNat 32 (c.count + p.payload.length))) ∧ (n.got.length + 1 < n.packets → notes t n))) ∧
      (∀ f, turn → engineWaits s c cs = false → engineBad s c cs = some f → gone s c.handle = false →
        ∃ t, exec (.netReadReply p) s = .next t ∧ .netReadReply p ∈ t.pending ∧
          ∀ k, findCmd t p.by' p.seq = some k → k.state = .parked ∧ k.fault = some (0x1C, f.sub, f.val))) ∧
    (∀ c n, sealed → answeredCmd s p p.src = some (c, n) → p.off ∉ n.got → c.state = .parked → keeps c n) ∧
    (∀ c n, sealed → answered p.src c n → n.status = 0 → n.packets = 1 → n.got = [] →
      (n.reply = none → ∃ t, exec (.netAtomicReply p) s = .next t ∧ SameThreads s t ∧ hasEnded t p.by' p.seq 0 (if c.kind = 0x22 then 0 else BitVec.ofNat 32 c.count)) ∧
      (∀ la, n.reply = some la → laSpace la = 1 → ∃ t, exec (.netAtomicReply p) s = .next t ∧ SameThreads s t ∧
        ∃ l ∈ t.copies ++ t.heldBack, l.la = la ∧ l.payload = atomPayload la p.payload)) ∧
    (∀ c n st, p.src = s.dev → command → answered p.dst c n → n.status = 0 → st ≠ 0 → n.sent = n.got.length + 1 →
      ∃ t, exec (.netRefusal p (.status st)) s = .next t ∧ SameThreads s t ∧ t.mem = s.mem ∧ hasEnded t p.by' p.seq st (BitVec.ofNat 32 c.count)) ∧
    (p.src = s.dev → command → answeredCmd s p p.dst = none → ∀ why, isStale (.netRefusal p why)) ∧
    (p.src ≠ s.dev → ∀ why, ∃ t, exec (.netRefusal p why) s = .next t ∧ SameThreads s t ∧ t.mem = s.mem ∧
      ((rxOf s p).broken = none → (rxOf t p).broken = some p.csn) ∧
      ∀ q ∈ s.rxHeld, sameConn p q = true → .orderedPacketRelease q ∈ t.pending) ∧
    (∀ c n, p.src = s.dev → command → answeredCmd s p p.dst = some (c, n) → ∀ why ∈ [NetRefuse.retry, .notReady],
      ∃ t, exec (.netRefusal p why) s = .next t ∧ SameThreads s t ∧ .transportResend p ∈ t.pending) ∧
    (∀ c n, answered p.dst c n → p.src = s.dev → command → (connOf s p.dst p.cls .rud).open' = [] → p.mode = .rud →
      p.kind = .write ∨ p.kind = .readRequest ∨ p.kind = .atomic ∨ p.kind = .message →
      (linkStep s p.dst p.cls = none → exec (.transportResend p) s = .next (pend s (.transportResend p))) ∧
      (∀ u, linkStep s p.dst p.cls = some u → ∃ t, exec (.transportResend p) s = .next t ∧ SameThreads s t ∧
        let p' := { p with key := sealKey u p.dst p.cls }
        if p.dst = s.dev then arrival p ∈ t.pending else .packet (portFor s (netDie p.dst p.cls) p.entropy) (netBytes s p') p' ∈ t.outbox)) ∧
    (∀ c n, answeredCmd s p p.dst = some (c, n) → p.off ∈ n.got → command → p.kind = .write → exec (.transportResend p) s = .next s)) ∧
  (∀ (s : State) (h : Handle) (q : BitVec 16) (c : Command) (n : NetCmd), findCmd s h q = some c → c.net = some n →
    (c.fin = none → c.state = .running → streamStopped s n.dst n.cls = false → n.land = false → ∃ t, exec (.networkTimeout h q) s = .next t ∧ SameThreads s t ∧ t.mem = s.mem ∧
      hasEnded t h q (if n.status = 0 then 8 else n.status) (BitVec.ofNat 32 c.count)) ∧
    (c.state = .parked ∨ streamStopped s n.dst n.cls = true ∨ c.fin ≠ none → exec (.networkTimeout h q) s = .next s)) ∧
  (∀ (s : State) (sa : BitVec 10) (key : BitVec 256) (p : BitVec 4),
    (s.phase ≠ 2 → s.phase ≠ 3 → ∀ b, exec (.saKeyInstall sa b key) s = .next s) ∧
    (s.phase = 2 ∨ s.phase = 3 → ∃ t x, exec (.saKeyInstall sa false key) s = .next t ∧ SameThreads s t ∧ sget none t.secAssocs sa.toNat = some x ∧ x.cur = some key ∧ x.used = 0 ∧
      x.rxCur = some key) ∧
    (s.phase = 2 ∨ s.phase = 3 → ∃ t x, exec (.saKeyInstall sa true key) s = .next t ∧ SameThreads s t ∧ sget none t.secAssocs sa.toNat = some x ∧ x.next = some key ∧ x.rxNext = some key ∧
      ∀ y, sget none s.secAssocs sa.toNat = some y → x.cur = y.cur ∧ x.used = y.used ∧ x.rxCur = y.rxCur) ∧
    (∃ t, exec (.portDown p) s = .next t ∧ t = { s with portsDown := t.portsDown } ∧ ∀ i, i < 16 → t.portsDown.getLsbD i = (s.portsDown.getLsbD i || decide (i = p.toNat))) ∧
    (∃ t, exec (.portUp p) s = .next t ∧ t = { s with portsDown := t.portsDown } ∧ ∀ i, i < 16 → t.portsDown.getLsbD i = (s.portsDown.getLsbD i && decide (i ≠ p.toNat))))) ∧
 (
  ∀ (s : State) (p : NetPacket), p.src ≠ s.dev → p.mode ≠ .uud →
    let s0 := noteKey s p
    let va (x : Window) := x.base.toNat + p.winOff.toNat + p.off
    let bytes := match p.kind with
      | .readRequest => p.b.toNat
      | .atomic => if p.dbl then 8 else 4
      | _ => p.payload.length
    let held (l : List NetPacket) : Prop := ∃ q ∈ l, sameConn p q = true ∧ q.csn = p.csn
    let placingNow : Prop := ∃ q l g, Event.netPlace q l g ∈ s.pending ∧ sameConn p q = true ∧ q.csn = p.csn
    let refuses (i : Instr) (why : NetRefuse) : Prop :=
      ∃ t, exec i s = .next t ∧ SameThreads s t ∧ t.mem = s.mem ∧ .answerOut p (some why) ∈ t.pending
    let begins (t : State) (asid : BitVec 12) (a : Acc) (va n : Nat) : Prop :=
      .netPlace p ((chunks a va n 0).filterMap (pieceOf t [] asid)) (List.replicate n 0) ∈ t.pending
    let reply (u : State) (kind : NetKind) (data : List Byte) : NetPacket :=
      { p with src := s.dev, dst := p.src, kind := kind, ob := false, landing := none, payload := data, key := sealKey u p.src p.cls }
    let leaves (t : State) (r : NetPacket) : Prop := .packet (portFor s (netDie p.src p.cls) p.entropy) (netBytes s r) r ∈ t.outbox
    let k := rxOf s p
    (∀ y, sget none s.secAssocs (Config.secAssoc p.src p.cls).toNat = some y →
      (p.secure = true → p.key ≠ none → p.key = y.rxNext →
        sget none s0.secAssocs (Config.secAssoc p.src p.cls).toNat = some { y with rxCur := y.rxNext, rxNext := none }) ∧ (p.key ≠ y.rxNext → s0 = s)) ∧
    (∀ i, (i, p.kind) ∈ [(Instr.netWrite p, NetKind.write), (.netReadRequest p, .readRequest), (.netAtomic p, .atomic), (.netMessage p, .message), (.netLanding p, .landing)] →
      (s.phase ≠ 3 → exec i s = .next s0) ∧
      (s.phase = 3 → placedAlready k p.csn = true → exec i s = .next (pend s0 (.answerOut p none))) ∧
      (s.phase = 3 → placedAlready k p.csn = false → held s.rxHeld ∨ held s.rxLandings ∨ placingNow → exec i s = .next s0) ∧
      (s.phase = 3 → placedAlready k p.csn = false → ¬ held s.rxHeld → ¬ held s.rxLandings → ¬ placingNow →
        (lomkin s p.src = false → p.ob = true ∨ p.kind = .landing → refuses i (.status 5)) ∧
        (lomkin s p.src = true ∨ (p.ob = false ∧ p.kind ≠ .landing) →
        (ordered p = true → behindBroken k p.csn = true → refuses i (.status 9)) ∧
        (ordered p = false ∨ behindBroken k p.csn = false →
          (p.secure = false ∨ keyOk s p = false ∨ sget none s.jobs p.job.toNat = none → refuses i (.status 6)) ∧
          (∀ w, p.secure = true → keyOk s p = true → sget none s.jobs p.job.toNat = some w →
            (p.win = 0 → p.kind ≠ .landing → refuses i (.status 5)) ∧
            (p.win ≠ 0 → windowAt s p.win = none → refuses i (.status 5)) ∧
            (∀ x, p.win ≠ 0 → windowAt s p.win = some x →
              let serves : Prop := (x.kind = .memory ∧ (p.kind = .write ∨ p.kind = .readRequest ∨ p.kind = .atomic)) ∨ (x.kind = .buffer ∧ p.kind = .message)
              let permits : Prop := (p.kind = .readRequest → x.perm.getLsbD 0 = true) ∧ (p.kind = .write → x.perm.getLsbD 1 = true) ∧ (p.kind = .atomic → x.perm.getLsbD 2 = true)
              let inside : Prop := p.winOff.toNat + p.off + bytes ≤ x.len
              (¬ serves → refuses i (.status 5)) ∧ (serves → x.world ≠ w → refuses i (.status 6)) ∧ (serves → x.world = w → ¬ permits → refuses i (.status 6)) ∧
              (serves → x.world = w → permits → p.kind ≠ .message →
                (¬ inside → refuses i (.status 7)) ∧
                (inside → engLocked s x.world [(va x, bytes)] = true → refuses i .retry) ∧
                (inside → engLocked s x.world [(va x, bytes)] = false → ordered p = true → k.low ≠ p.csn →
                  (256 ≤ s.rxHeld.length → refuses i .notReady) ∧
                  (s.rxHeld.length < 256 → ∃ t, exec i s = .next t ∧ t = { s0 with rxHeld := s.rxHeld ++ [p], windows := t.windows } ∧
                    windowAt t p.win = some { x with inflight := x.inflight + 1 })) ∧
                (inside → engLocked s x.world [(va x, bytes)] = false → ordered p = false ∨ k.low = p.csn → k.above.length < 2 ^ 30 →
                  (p.kind = .write ∨ p.kind = .readRequest → ∃ t, exec i s = .next t ∧ SameThreads s t ∧ t.mem = s.mem ∧
                    windowAt t p.win = some { x with inflight := x.inflight + 1 } ∧ begins t x.asid (if p.kind = .write then .w else .r) (va x) bytes) ∧
                  (p.kind = .atomic → linkStep s0 p.src p.cls = none → exec i s = .next (pend s0 (.netAtomic p))) ∧
                  (∀ u, p.kind = .atomic → linkStep s0 p.src p.cls = some u →
                    let old := (engRead u x.asid (va x) bytes).2
                    ∃ t, exec i s = .next t ∧ SameThreads s t ∧ placedAlready (rxOf t p) p.csn = true ∧
                      t.mem = (engWrite (engRead u x.asid (va x) bytes).1 x.asid (va x)
                        (leBytes bytes (amoNew p.op (8 * bytes) (ofLe old) p.b.toNat p.c.toNat))).mem ∧ leaves t (reply u .atomicReply old)))) ∧
              (serves → x.world = w → permits → p.kind = .message → ordered p = false → s.locks = [] → (∀ r ∈ x.recs, isRecord p r = false) →
                let size := 16 + (p.msgLen + 15) / 16 * 16
                let free := x.len - (x.prod - x.cons)
                let tail := x.len - x.prod % x.len
                let reserved (l : List BufRec) (start prod : Nat) : Prop := ∃ t y r, exec i s = .next t ∧ SameThreads s t ∧ windowAt t p.win = some y ∧
                  y.recs = x.recs ++ l ++ [r] ∧ y.prod = prod ∧ y.inflight = x.inflight + 1 ∧ r.start = start ∧ r.len = p.msgLen ∧ r.size = size ∧ r.pad = false ∧ r.placed = 0 ∧
                  begins t x.asid .w (x.base.toNat + start + 16 + p.off) p.payload.length
                (x.len < size → refuses i (.status 7)) ∧
                (size ≤ x.len → ¬ (size ≤ tail ∧ size ≤ free) → free < tail + size → refuses i .notReady) ∧
                (size ≤ x.len → size ≤ tail → size ≤ free → reserved [] (x.prod % x.len) (x.prod + size)) ∧
                (size ≤ x.len → ¬ (size ≤ tail ∧ size ≤ free) → tail + size ≤ free →
                  ∃ g : BufRec, g.pad = true ∧ g.size = tail ∧ g.start = x.prod % x.len ∧ reserved [g] 0 (x.prod + tail + size)))) ∧
            (∀ l, p.win = 0 → windowAt s 0 = none → p.kind = .landing → p.landing = some l → ordered p = false → ∃ t, exec i s = .next t ∧ SameThreads s t ∧
              t.rxLandings = s.rxLandings ++ [p] ∧ (crcOk l = false → .checkFailure l ∈ t.pending) ∧
              (crcOk l = true → (l.o.world ≠ w → .landingRefusal l 3 ∈ t.pending) ∧
                (l.o.world = w → (laSpace l.la = 1 → .directoryResolve { l with hops := 0 } ∈ t.pending) ∧ (laSpace l.la = 2 → .slotLanding l ∈ t.pending) ∧
                  (laSpace l.la = 3 → .eventLanding l ∈ t.pending) ∧ (laSpace l.la = 0 → .landingRefusal l 5 ∈ t.pending))))))))) ∧
    (∀ x got, windowAt s p.win = some x →
      (∀ l, l ≠ [] → p.kind ≠ .readRequest → ∃ t z r, netPlaceStep p l got s = t ∧ SameThreads s t ∧ l.Perm (z :: r) ∧ t.mem = (wrPiece s z p.payload).mem ∧
        t.pending = .netPlace p r got :: s.pending) ∧
      (∀ l, l ≠ [] → p.kind = .readRequest → ∃ t z r, netPlaceStep p l got s = t ∧ SameThreads s t ∧ l.Perm (z :: r) ∧
        t.pending = .netPlace p r (patch got z.off (rdPiece s z).2) :: s.pending) ∧
      (p.kind = .write → k.above.length < 2 ^ 30 → ∃ t, netPlaceStep p [] got s = t ∧ SameThreads s t ∧ t.mem = s.mem ∧ placedAlready (rxOf t p) p.csn = true ∧
        windowAt t p.win = some { x with inflight := x.inflight - 1 } ∧ .answerOut p none ∈ t.pending) ∧
      (p.kind = .message → k.above.length < 2 ^ 30 → x.takers = [] → ∃ t y, netPlaceStep p [] got s = t ∧ SameThreads s t ∧ t.mem = s.mem ∧
        placedAlready (rxOf t p) p.csn = true ∧ windowAt t p.win = some y ∧ y.inflight = x.inflight - 1 ∧ .answerOut p none ∈ t.pending ∧
        y.recs = x.recs.map (fun r => if isRecord p r then { r with placed := r.placed + p.payload.length } else r)) ∧
      (∀ u, p.kind = .readRequest → k.above.length < 2 ^ 30 → linkStep s p.src p.cls = some u → ∃ t, netPlaceStep p [] got s = t ∧ SameThreads s t ∧
        placedAlready (rxOf t p) p.csn = true ∧ leaves t (reply u .readReply got))) ∧
    (∀ why, (linkStep s p.src p.cls = none → answerOutStep p why s = pend s (.answerOut p why)) ∧
      (∀ u, linkStep s p.src p.cls = some u → answerOutStep p why s = send u (.netAnswer (portFor s (netDie p.src p.cls) p.entropy) p why))) ∧
    (s.rxHeld = [p] → (behindBroken k p.csn = true → refuses (.orderedPacketRelease p) (.status 9)) ∧
      (behindBroken k p.csn = false → k.low ≠ p.csn → exec (.orderedPacketRelease p) s = .next s) ∧
      (∀ x, behindBroken k p.csn = false → k.low = p.csn → p.kind = .write → windowAt s p.win = some x →
        (engLocked s x.world [(va x, bytes)] = true → refuses (.orderedPacketRelease p) .retry) ∧
        (engLocked s x.world [(va x, bytes)] = false → ∃ t, exec (.orderedPacketRelease p) s = .next t ∧ SameThreads s t ∧ t.rxHeld = [] ∧ t.mem = s.mem ∧
          begins t x.asid .w (va x) bytes ∧ windowAt t p.win = some { x with inflight := x.inflight - 1 + 1 }))) ∧
    (∃ t, exec (.rudiPacket p) s = .next t ∧ SameThreads s t ∧ t.mem = s.mem ∧ t.elHead = s.elHead + 1))

/-- From every state whose memories and unit tables stand in canonical form, a step that answers a next state gives one whose memories and unit
tables do: equal memories stay equal data, whatever is written, erased, moved or scrubbed. -/
def Obligations.EveryStepKeepsTheTablesCanonical : Prop :=
  ∀ s t : State, Canonical s → step s = .next t → Canonical t

/-- (1) At reset the memories and unit tables stand in canonical form. (2) R297, R320, R358, R366, R368, R369: what holds at power-on. The spec
gives all of it but the ring pointers, which are 0, and the key slots, which are empty, by the model's choice (log 3). The
device is in phase 0 with no cause, its registers 0, its rings and its log empty; every channel is disabled with its defaults, `PMAX` 7, `WEIGHT`
1, `WDK` 30 and `PROGTHR` 24; no frame is owned, no command, session, key, bond, window or mesh is held, the network timeout is 2²⁸ and flow
control off. -/
def Obligations.ResetState : Prop :=
 (
  Canonical State.reset) ∧
 (
  let s := State.reset
  s.phase = 0 ∧ s.rcause = 0 ∧ s.dumpSt = 0 ∧ s.fcause = 0 ∧ s.dumpBase = 0 ∧ s.dumpLen = 0 ∧ s.elHead = 0 ∧ s.elTail = 0 ∧ s.elVec = 0 ∧ s.elEn = false ∧
  s.elLost = 0 ∧ s.mrqHead = 0 ∧ s.mrqTail = 0 ∧ s.mevHead = 0 ∧ s.mevTail = 0 ∧ s.netTimeout = 28 ∧ s.pfc = 0 ∧ s.nstale = 0 ∧
  (∀ c, (chanAt s c).en = false ∧ (chanAt s c).devl = false ∧ (chanAt s c).pmax = 7 ∧ (chanAt s c).wt = 1 ∧ (chanAt s c).wdk = 30 ∧ (chanAt s c).progthr = 24 ∧
    (chanAt s c).fifo = [] ∧ (chanAt s c).running = none) ∧
  (∀ f, ownerOf s f = { world := 0, st := 0, lg := false }) ∧ (∀ f, (funcAt s f).tdisp = .unlocked ∧ (funcAt s f).apbase = 0) ∧
  s.cmds = [] ∧ s.launches = [] ∧ s.locks = [] ∧ s.sessions = [] ∧ s.keySlots = [] ∧ s.bonds = [] ∧ s.windows = [] ∧ s.meshes = [] ∧ s.jobs = [] ∧ s.peers = [] ∧
  (∀ h, findThread s h = none))

end
end

