-- ==== Sys2Proof/Laws/State.lean ====
section
/-! SUPPORT. What each named update of the machine and of a thread leaves in each field, so that no proof unfolds a record
update. Every lemma holds by computation. -/

namespace Sys2Proof.Machine

open Sys2Proof

/-! ### The machine -/

@[simp] theorem setTh_th (s : State) (t : Thread) : (setTh s t).th = t := rfl
@[simp] theorem setTh_rest (s : State) (t : Thread) : (setTh s t).rest = s.rest := rfl
@[simp] theorem setTh_pending (s : State) (t : Thread) : (setTh s t).pending = s.pending := rfl
@[simp] theorem setTh_inputs (s : State) (t : Thread) : (setTh s t).inputs = s.inputs := rfl
@[simp] theorem setTh_outbox (s : State) (t : Thread) : (setTh s t).outbox = s.outbox := rfl
@[simp] theorem setTh_turn (s : State) (t : Thread) : (setTh s t).turn = s.turn := rfl
@[simp] theorem setTh_clock (s : State) (t : Thread) : (setTh s t).clock = s.clock := rfl
@[simp] theorem setTh_stamp (s : State) (t : Thread) : (setTh s t).stamp = s.stamp := rfl
@[simp] theorem setTh_last (s : State) (t : Thread) : (setTh s t).last = s.last := rfl
@[simp] theorem setTh_dev (s : State) (t : Thread) : (setTh s t).dev = s.dev := rfl
@[simp] theorem setTh_dir (s : State) (t : Thread) : (setTh s t).dir = s.dir := rfl
@[simp] theorem setTh_cores (s : State) (t : Thread) : (setTh s t).cores = s.cores := rfl
@[simp] theorem setTh_clusters (s : State) (t : Thread) : (setTh s t).clusters = s.clusters := rfl
@[simp] theorem setTh_units (s : State) (t : Thread) : (setTh s t).units = s.units := rfl
@[simp] theorem setTh_teams (s : State) (t : Thread) : (setTh s t).teams = s.teams := rfl
@[simp] theorem setTh_teamNext (s : State) (t : Thread) : (setTh s t).teamNext = s.teamNext := rfl
@[simp] theorem setTh_copies (s : State) (t : Thread) : (setTh s t).copies = s.copies := rfl
@[simp] theorem setTh_heldBack (s : State) (t : Thread) : (setTh s t).heldBack = s.heldBack := rfl
@[simp] theorem setTh_agentLocs (s : State) (t : Thread) : (setTh s t).agentLocs = s.agentLocs := rfl
@[simp] theorem setTh_cmds (s : State) (t : Thread) : (setTh s t).cmds = s.cmds := rfl
@[simp] theorem setTh_locks (s : State) (t : Thread) : (setTh s t).locks = s.locks := rfl
@[simp] theorem setTh_mem (s : State) (t : Thread) : (setTh s t).mem = s.mem := rfl
@[simp] theorem setTh_buffers (s : State) (t : Thread) : (setTh s t).buffers = s.buffers := rfl
@[simp] theorem setTh_asids (s : State) (t : Thread) : (setTh s t).asids = s.asids := rfl
@[simp] theorem setTh_owners (s : State) (t : Thread) : (setTh s t).owners = s.owners := rfl
@[simp] theorem setTh_keySlots (s : State) (t : Thread) : (setTh s t).keySlots = s.keySlots := rfl
@[simp] theorem setTh_pageFaults (s : State) (t : Thread) : (setTh s t).pageFaults = s.pageFaults := rfl
@[simp] theorem setTh_pageTag (s : State) (t : Thread) : (setTh s t).pageTag = s.pageTag := rfl
@[simp] theorem setTh_shootdowns (s : State) (t : Thread) : (setTh s t).shootdowns = s.shootdowns := rfl
@[simp] theorem setTh_ranges (s : State) (t : Thread) : (setTh s t).ranges = s.ranges := rfl
@[simp] theorem setTh_tables (s : State) (t : Thread) : (setTh s t).tables = s.tables := rfl
@[simp] theorem setTh_bonds (s : State) (t : Thread) : (setTh s t).bonds = s.bonds := rfl
@[simp] theorem setTh_meshes (s : State) (t : Thread) : (setTh s t).meshes = s.meshes := rfl
@[simp] theorem setTh_bondWaits (s : State) (t : Thread) : (setTh s t).bondWaits = s.bondWaits := rfl
@[simp] theorem setTh_announced (s : State) (t : Thread) : (setTh s t).announced = s.announced := rfl
@[simp] theorem setTh_psyncs (s : State) (t : Thread) : (setTh s t).psyncs = s.psyncs := rfl
@[simp] theorem setTh_psyncBack (s : State) (t : Thread) : (setTh s t).psyncBack = s.psyncBack := rfl
@[simp] theorem setTh_windows (s : State) (t : Thread) : (setTh s t).windows = s.windows := rfl
@[simp] theorem setTh_conns (s : State) (t : Thread) : (setTh s t).conns = s.conns := rfl
@[simp] theorem setTh_rxConns (s : State) (t : Thread) : (setTh s t).rxConns = s.rxConns := rfl
@[simp] theorem setTh_rxHeld (s : State) (t : Thread) : (setTh s t).rxHeld = s.rxHeld := rfl
@[simp] theorem setTh_rxLandings (s : State) (t : Thread) : (setTh s t).rxLandings = s.rxLandings := rfl
@[simp] theorem setTh_paths (s : State) (t : Thread) : (setTh s t).paths = s.paths := rfl
@[simp] theorem setTh_tagGens (s : State) (t : Thread) : (setTh s t).tagGens = s.tagGens := rfl
@[simp] theorem setTh_secAssocs (s : State) (t : Thread) : (setTh s t).secAssocs = s.secAssocs := rfl
@[simp] theorem setTh_jobs (s : State) (t : Thread) : (setTh s t).jobs = s.jobs := rfl
@[simp] theorem setTh_peers (s : State) (t : Thread) : (setTh s t).peers = s.peers := rfl
@[simp] theorem setTh_netTimeout (s : State) (t : Thread) : (setTh s t).netTimeout = s.netTimeout := rfl
@[simp] theorem setTh_pfc (s : State) (t : Thread) : (setTh s t).pfc = s.pfc := rfl
@[simp] theorem setTh_portsDown (s : State) (t : Thread) : (setTh s t).portsDown = s.portsDown := rfl
@[simp] theorem setTh_nstale (s : State) (t : Thread) : (setTh s t).nstale = s.nstale := rfl
@[simp] theorem setTh_gmem (s : State) (t : Thread) : (setTh s t).gmem = s.gmem := rfl
@[simp] theorem setTh_channels (s : State) (t : Thread) : (setTh s t).channels = s.channels := rfl
@[simp] theorem setTh_launches (s : State) (t : Thread) : (setTh s t).launches = s.launches := rfl
@[simp] theorem setTh_queue (s : State) (t : Thread) : (setTh s t).queue = s.queue := rfl
@[simp] theorem setTh_rrCur (s : State) (t : Thread) : (setTh s t).rrCur = s.rrCur := rfl
@[simp] theorem setTh_rrTurns (s : State) (t : Thread) : (setTh s t).rrTurns = s.rrTurns := rfl
@[simp] theorem setTh_rrWeight (s : State) (t : Thread) : (setTh s t).rrWeight = s.rrWeight := rfl
@[simp] theorem setTh_placedNext (s : State) (t : Thread) : (setTh s t).placedNext = s.placedNext := rfl
@[simp] theorem setTh_phase (s : State) (t : Thread) : (setTh s t).phase = s.phase := rfl
@[simp] theorem setTh_trained (s : State) (t : Thread) : (setTh s t).trained = s.trained := rfl
@[simp] theorem setTh_rcause (s : State) (t : Thread) : (setTh s t).rcause = s.rcause := rfl
@[simp] theorem setTh_dumpSt (s : State) (t : Thread) : (setTh s t).dumpSt = s.dumpSt := rfl
@[simp] theorem setTh_fcause (s : State) (t : Thread) : (setTh s t).fcause = s.fcause := rfl
@[simp] theorem setTh_capcl (s : State) (t : Thread) : (setTh s t).capcl = s.capcl := rfl
@[simp] theorem setTh_capst (s : State) (t : Thread) : (setTh s t).capst = s.capst := rfl
@[simp] theorem setTh_broken (s : State) (t : Thread) : (setTh s t).broken = s.broken := rfl
@[simp] theorem setTh_capport (s : State) (t : Thread) : (setTh s t).capport = s.capport := rfl
@[simp] theorem setTh_dumpBase (s : State) (t : Thread) : (setTh s t).dumpBase = s.dumpBase := rfl
@[simp] theorem setTh_dumpLen (s : State) (t : Thread) : (setTh s t).dumpLen = s.dumpLen := rfl
@[simp] theorem setTh_elHead (s : State) (t : Thread) : (setTh s t).elHead = s.elHead := rfl
@[simp] theorem setTh_elTail (s : State) (t : Thread) : (setTh s t).elTail = s.elTail := rfl
@[simp] theorem setTh_elVec (s : State) (t : Thread) : (setTh s t).elVec = s.elVec := rfl
@[simp] theorem setTh_elEn (s : State) (t : Thread) : (setTh s t).elEn = s.elEn := rfl
@[simp] theorem setTh_elLost (s : State) (t : Thread) : (setTh s t).elLost = s.elLost := rfl
@[simp] theorem setTh_errLog (s : State) (t : Thread) : (setTh s t).errLog = s.errLog := rfl
@[simp] theorem setTh_mrqHead (s : State) (t : Thread) : (setTh s t).mrqHead = s.mrqHead := rfl
@[simp] theorem setTh_mrqTail (s : State) (t : Thread) : (setTh s t).mrqTail = s.mrqTail := rfl
@[simp] theorem setTh_mevHead (s : State) (t : Thread) : (setTh s t).mevHead = s.mevHead := rfl
@[simp] theorem setTh_mevTail (s : State) (t : Thread) : (setTh s t).mevTail = s.mevTail := rfl
@[simp] theorem setTh_ringMem (s : State) (t : Thread) : (setTh s t).ringMem = s.ringMem := rfl
@[simp] theorem setTh_msixPending (s : State) (t : Thread) : (setTh s t).msixPending = s.msixPending := rfl
@[simp] theorem setTh_msixMem (s : State) (t : Thread) : (setTh s t).msixMem = s.msixMem := rfl
@[simp] theorem setTh_funcs (s : State) (t : Thread) : (setTh s t).funcs = s.funcs := rfl
@[simp] theorem setTh_sessions (s : State) (t : Thread) : (setTh s t).sessions = s.sessions := rfl
@[simp] theorem setTh_handshakes (s : State) (t : Thread) : (setTh s t).handshakes = s.handshakes := rfl
@[simp] theorem setTh_ideKeys (s : State) (t : Thread) : (setTh s t).ideKeys = s.ideKeys := rfl
@[simp] theorem setTh_measurements (s : State) (t : Thread) : (setTh s t).measurements = s.measurements := rfl
@[simp] theorem setTh_svn (s : State) (t : Thread) : (setTh s t).svn = s.svn := rfl
@[simp] theorem setTh_marked (s : State) (t : Thread) : (setTh s t).marked = s.marked := rfl
@[simp] theorem setTh_corrected (s : State) (t : Thread) : (setTh s t).corrected = s.corrected := rfl
@[simp] theorem setTh_upsets (s : State) (t : Thread) : (setTh s t).upsets = s.upsets := rfl
@[simp] theorem finish_th (s : State) : (finish s).th = s.th := rfl
@[simp] theorem finish_rest (s : State) : (finish s).rest = s.rest := rfl
@[simp] theorem finish_pending (s : State) : (finish s).pending = s.pending := rfl
@[simp] theorem finish_inputs (s : State) : (finish s).inputs = s.inputs := rfl
@[simp] theorem finish_outbox (s : State) : (finish s).outbox = s.outbox := rfl
@[simp] theorem finish_turn (s : State) : (finish s).turn = s.turn := rfl
@[simp] theorem finish_clock (s : State) : (finish s).clock = s.clock := rfl
@[simp] theorem finish_stamp (s : State) : (finish s).stamp = s.stamp := rfl
@[simp] theorem finish_last (s : State) : (finish s).last = .done := rfl
@[simp] theorem finish_dev (s : State) : (finish s).dev = s.dev := rfl
@[simp] theorem finish_dir (s : State) : (finish s).dir = s.dir := rfl
@[simp] theorem finish_cores (s : State) : (finish s).cores = s.cores := rfl
@[simp] theorem finish_clusters (s : State) : (finish s).clusters = s.clusters := rfl
@[simp] theorem finish_units (s : State) : (finish s).units = s.units := rfl
@[simp] theorem finish_teams (s : State) : (finish s).teams = s.teams := rfl
@[simp] theorem finish_teamNext (s : State) : (finish s).teamNext = s.teamNext := rfl
@[simp] theorem finish_copies (s : State) : (finish s).copies = s.copies := rfl
@[simp] theorem finish_heldBack (s : State) : (finish s).heldBack = s.heldBack := rfl
@[simp] theorem finish_agentLocs (s : State) : (finish s).agentLocs = s.agentLocs := rfl
@[simp] theorem finish_cmds (s : State) : (finish s).cmds = s.cmds := rfl
@[simp] theorem finish_locks (s : State) : (finish s).locks = s.locks := rfl
@[simp] theorem finish_mem (s : State) : (finish s).mem = s.mem := rfl
@[simp] theorem finish_buffers (s : State) : (finish s).buffers = s.buffers := rfl
@[simp] theorem finish_asids (s : State) : (finish s).asids = s.asids := rfl
@[simp] theorem finish_owners (s : State) : (finish s).owners = s.owners := rfl
@[simp] theorem finish_keySlots (s : State) : (finish s).keySlots = s.keySlots := rfl
@[simp] theorem finish_pageFaults (s : State) : (finish s).pageFaults = s.pageFaults := rfl
@[simp] theorem finish_pageTag (s : State) : (finish s).pageTag = s.pageTag := rfl
@[simp] theorem finish_shootdowns (s : State) : (finish s).shootdowns = s.shootdowns := rfl
@[simp] theorem finish_ranges (s : State) : (finish s).ranges = s.ranges := rfl
@[simp] theorem finish_tables (s : State) : (finish s).tables = s.tables := rfl
@[simp] theorem finish_bonds (s : State) : (finish s).bonds = s.bonds := rfl
@[simp] theorem finish_meshes (s : State) : (finish s).meshes = s.meshes := rfl
@[simp] theorem finish_bondWaits (s : State) : (finish s).bondWaits = s.bondWaits := rfl
@[simp] theorem finish_announced (s : State) : (finish s).announced = s.announced := rfl
@[simp] theorem finish_psyncs (s : State) : (finish s).psyncs = s.psyncs := rfl
@[simp] theorem finish_psyncBack (s : State) : (finish s).psyncBack = s.psyncBack := rfl
@[simp] theorem finish_windows (s : State) : (finish s).windows = s.windows := rfl
@[simp] theorem finish_conns (s : State) : (finish s).conns = s.conns := rfl
@[simp] theorem finish_rxConns (s : State) : (finish s).rxConns = s.rxConns := rfl
@[simp] theorem finish_rxHeld (s : State) : (finish s).rxHeld = s.rxHeld := rfl
@[simp] theorem finish_rxLandings (s : State) : (finish s).rxLandings = s.rxLandings := rfl
@[simp] theorem finish_paths (s : State) : (finish s).paths = s.paths := rfl
@[simp] theorem finish_tagGens (s : State) : (finish s).tagGens = s.tagGens := rfl
@[simp] theorem finish_secAssocs (s : State) : (finish s).secAssocs = s.secAssocs := rfl
@[simp] theorem finish_jobs (s : State) : (finish s).jobs = s.jobs := rfl
@[simp] theorem finish_peers (s : State) : (finish s).peers = s.peers := rfl
@[simp] theorem finish_netTimeout (s : State) : (finish s).netTimeout = s.netTimeout := rfl
@[simp] theorem finish_pfc (s : State) : (finish s).pfc = s.pfc := rfl
@[simp] theorem finish_portsDown (s : State) : (finish s).portsDown = s.portsDown := rfl
@[simp] theorem finish_nstale (s : State) : (finish s).nstale = s.nstale := rfl
@[simp] theorem finish_gmem (s : State) : (finish s).gmem = s.gmem := rfl
@[simp] theorem finish_channels (s : State) : (finish s).channels = s.channels := rfl
@[simp] theorem finish_launches (s : State) : (finish s).launches = s.launches := rfl
@[simp] theorem finish_queue (s : State) : (finish s).queue = s.queue := rfl
@[simp] theorem finish_rrCur (s : State) : (finish s).rrCur = s.rrCur := rfl
@[simp] theorem finish_rrTurns (s : State) : (finish s).rrTurns = s.rrTurns := rfl
@[simp] theorem finish_rrWeight (s : State) : (finish s).rrWeight = s.rrWeight := rfl
@[simp] theorem finish_placedNext (s : State) : (finish s).placedNext = s.placedNext := rfl
@[simp] theorem finish_phase (s : State) : (finish s).phase = s.phase := rfl
@[simp] theorem finish_trained (s : State) : (finish s).trained = s.trained := rfl
@[simp] theorem finish_rcause (s : State) : (finish s).rcause = s.rcause := rfl
@[simp] theorem finish_dumpSt (s : State) : (finish s).dumpSt = s.dumpSt := rfl
@[simp] theorem finish_fcause (s : State) : (finish s).fcause = s.fcause := rfl
@[simp] theorem finish_capcl (s : State) : (finish s).capcl = s.capcl := rfl
@[simp] theorem finish_capst (s : State) : (finish s).capst = s.capst := rfl
@[simp] theorem finish_broken (s : State) : (finish s).broken = s.broken := rfl
@[simp] theorem finish_capport (s : State) : (finish s).capport = s.capport := rfl
@[simp] theorem finish_dumpBase (s : State) : (finish s).dumpBase = s.dumpBase := rfl
@[simp] theorem finish_dumpLen (s : State) : (finish s).dumpLen = s.dumpLen := rfl
@[simp] theorem finish_elHead (s : State) : (finish s).elHead = s.elHead := rfl
@[simp] theorem finish_elTail (s : State) : (finish s).elTail = s.elTail := rfl
@[simp] theorem finish_elVec (s : State) : (finish s).elVec = s.elVec := rfl
@[simp] theorem finish_elEn (s : State) : (finish s).elEn = s.elEn := rfl
@[simp] theorem finish_elLost (s : State) : (finish s).elLost = s.elLost := rfl
@[simp] theorem finish_errLog (s : State) : (finish s).errLog = s.errLog := rfl
@[simp] theorem finish_mrqHead (s : State) : (finish s).mrqHead = s.mrqHead := rfl
@[simp] theorem finish_mrqTail (s : State) : (finish s).mrqTail = s.mrqTail := rfl
@[simp] theorem finish_mevHead (s : State) : (finish s).mevHead = s.mevHead := rfl
@[simp] theorem finish_mevTail (s : State) : (finish s).mevTail = s.mevTail := rfl
@[simp] theorem finish_ringMem (s : State) : (finish s).ringMem = s.ringMem := rfl
@[simp] theorem finish_msixPending (s : State) : (finish s).msixPending = s.msixPending := rfl
@[simp] theorem finish_msixMem (s : State) : (finish s).msixMem = s.msixMem := rfl
@[simp] theorem finish_funcs (s : State) : (finish s).funcs = s.funcs := rfl
@[simp] theorem finish_sessions (s : State) : (finish s).sessions = s.sessions := rfl
@[simp] theorem finish_handshakes (s : State) : (finish s).handshakes = s.handshakes := rfl
@[simp] theorem finish_ideKeys (s : State) : (finish s).ideKeys = s.ideKeys := rfl
@[simp] theorem finish_measurements (s : State) : (finish s).measurements = s.measurements := rfl
@[simp] theorem finish_svn (s : State) : (finish s).svn = s.svn := rfl
@[simp] theorem finish_marked (s : State) : (finish s).marked = s.marked := rfl
@[simp] theorem finish_corrected (s : State) : (finish s).corrected = s.corrected := rfl
@[simp] theorem finish_upsets (s : State) : (finish s).upsets = s.upsets := rfl
@[simp] theorem pend_th (s : State) (i : Event) : (pend s i).th = s.th := rfl
@[simp] theorem pend_rest (s : State) (i : Event) : (pend s i).rest = s.rest := rfl
@[simp] theorem pend_pending (s : State) (i : Event) : (pend s i).pending = s.pending ++ [i] := rfl
@[simp] theorem pend_inputs (s : State) (i : Event) : (pend s i).inputs = s.inputs := rfl
@[simp] theorem pend_outbox (s : State) (i : Event) : (pend s i).outbox = s.outbox := rfl
@[simp] theorem pend_turn (s : State) (i : Event) : (pend s i).turn = s.turn := rfl
@[simp] theorem pend_clock (s : State) (i : Event) : (pend s i).clock = s.clock := rfl
@[simp] theorem pend_stamp (s : State) (i : Event) : (pend s i).stamp = s.stamp := rfl
@[simp] theorem pend_last (s : State) (i : Event) : (pend s i).last = s.last := rfl
@[simp] theorem pend_dev (s : State) (i : Event) : (pend s i).dev = s.dev := rfl
@[simp] theorem pend_dir (s : State) (i : Event) : (pend s i).dir = s.dir := rfl
@[simp] theorem pend_cores (s : State) (i : Event) : (pend s i).cores = s.cores := rfl
@[simp] theorem pend_clusters (s : State) (i : Event) : (pend s i).clusters = s.clusters := rfl
@[simp] theorem pend_units (s : State) (i : Event) : (pend s i).units = s.units := rfl
@[simp] theorem pend_teams (s : State) (i : Event) : (pend s i).teams = s.teams := rfl
@[simp] theorem pend_teamNext (s : State) (i : Event) : (pend s i).teamNext = s.teamNext := rfl
@[simp] theorem pend_copies (s : State) (i : Event) : (pend s i).copies = s.copies := rfl
@[simp] theorem pend_heldBack (s : State) (i : Event) : (pend s i).heldBack = s.heldBack := rfl
@[simp] theorem pend_agentLocs (s : State) (i : Event) : (pend s i).agentLocs = s.agentLocs := rfl
@[simp] theorem pend_cmds (s : State) (i : Event) : (pend s i).cmds = s.cmds := rfl
@[simp] theorem pend_locks (s : State) (i : Event) : (pend s i).locks = s.locks := rfl
@[simp] theorem pend_mem (s : State) (i : Event) : (pend s i).mem = s.mem := rfl
@[simp] theorem pend_buffers (s : State) (i : Event) : (pend s i).buffers = s.buffers := rfl
@[simp] theorem pend_asids (s : State) (i : Event) : (pend s i).asids = s.asids := rfl
@[simp] theorem pend_owners (s : State) (i : Event) : (pend s i).owners = s.owners := rfl
@[simp] theorem pend_keySlots (s : State) (i : Event) : (pend s i).keySlots = s.keySlots := rfl
@[simp] theorem pend_pageFaults (s : State) (i : Event) : (pend s i).pageFaults = s.pageFaults := rfl
@[simp] theorem pend_pageTag (s : State) (i : Event) : (pend s i).pageTag = s.pageTag := rfl
@[simp] theorem pend_shootdowns (s : State) (i : Event) : (pend s i).shootdowns = s.shootdowns := rfl
@[simp] theorem pend_ranges (s : State) (i : Event) : (pend s i).ranges = s.ranges := rfl
@[simp] theorem pend_tables (s : State) (i : Event) : (pend s i).tables = s.tables := rfl
@[simp] theorem pend_bonds (s : State) (i : Event) : (pend s i).bonds = s.bonds := rfl
@[simp] theorem pend_meshes (s : State) (i : Event) : (pend s i).meshes = s.meshes := rfl
@[simp] theorem pend_bondWaits (s : State) (i : Event) : (pend s i).bondWaits = s.bondWaits := rfl
@[simp] theorem pend_announced (s : State) (i : Event) : (pend s i).announced = s.announced := rfl
@[simp] theorem pend_psyncs (s : State) (i : Event) : (pend s i).psyncs = s.psyncs := rfl
@[simp] theorem pend_psyncBack (s : State) (i : Event) : (pend s i).psyncBack = s.psyncBack := rfl
@[simp] theorem pend_windows (s : State) (i : Event) : (pend s i).windows = s.windows := rfl
@[simp] theorem pend_conns (s : State) (i : Event) : (pend s i).conns = s.conns := rfl
@[simp] theorem pend_rxConns (s : State) (i : Event) : (pend s i).rxConns = s.rxConns := rfl
@[simp] theorem pend_rxHeld (s : State) (i : Event) : (pend s i).rxHeld = s.rxHeld := rfl
@[simp] theorem pend_rxLandings (s : State) (i : Event) : (pend s i).rxLandings = s.rxLandings := rfl
@[simp] theorem pend_paths (s : State) (i : Event) : (pend s i).paths = s.paths := rfl
@[simp] theorem pend_tagGens (s : State) (i : Event) : (pend s i).tagGens = s.tagGens := rfl
@[simp] theorem pend_secAssocs (s : State) (i : Event) : (pend s i).secAssocs = s.secAssocs := rfl
@[simp] theorem pend_jobs (s : State) (i : Event) : (pend s i).jobs = s.jobs := rfl
@[simp] theorem pend_peers (s : State) (i : Event) : (pend s i).peers = s.peers := rfl
@[simp] theorem pend_netTimeout (s : State) (i : Event) : (pend s i).netTimeout = s.netTimeout := rfl
@[simp] theorem pend_pfc (s : State) (i : Event) : (pend s i).pfc = s.pfc := rfl
@[simp] theorem pend_portsDown (s : State) (i : Event) : (pend s i).portsDown = s.portsDown := rfl
@[simp] theorem pend_nstale (s : State) (i : Event) : (pend s i).nstale = s.nstale := rfl
@[simp] theorem pend_gmem (s : State) (i : Event) : (pend s i).gmem = s.gmem := rfl
@[simp] theorem pend_channels (s : State) (i : Event) : (pend s i).channels = s.channels := rfl
@[simp] theorem pend_launches (s : State) (i : Event) : (pend s i).launches = s.launches := rfl
@[simp] theorem pend_queue (s : State) (i : Event) : (pend s i).queue = s.queue := rfl
@[simp] theorem pend_rrCur (s : State) (i : Event) : (pend s i).rrCur = s.rrCur := rfl
@[simp] theorem pend_rrTurns (s : State) (i : Event) : (pend s i).rrTurns = s.rrTurns := rfl
@[simp] theorem pend_rrWeight (s : State) (i : Event) : (pend s i).rrWeight = s.rrWeight := rfl
@[simp] theorem pend_placedNext (s : State) (i : Event) : (pend s i).placedNext = s.placedNext := rfl
@[simp] theorem pend_phase (s : State) (i : Event) : (pend s i).phase = s.phase := rfl
@[simp] theorem pend_trained (s : State) (i : Event) : (pend s i).trained = s.trained := rfl
@[simp] theorem pend_rcause (s : State) (i : Event) : (pend s i).rcause = s.rcause := rfl
@[simp] theorem pend_dumpSt (s : State) (i : Event) : (pend s i).dumpSt = s.dumpSt := rfl
@[simp] theorem pend_fcause (s : State) (i : Event) : (pend s i).fcause = s.fcause := rfl
@[simp] theorem pend_capcl (s : State) (i : Event) : (pend s i).capcl = s.capcl := rfl
@[simp] theorem pend_capst (s : State) (i : Event) : (pend s i).capst = s.capst := rfl
@[simp] theorem pend_broken (s : State) (i : Event) : (pend s i).broken = s.broken := rfl
@[simp] theorem pend_capport (s : State) (i : Event) : (pend s i).capport = s.capport := rfl
@[simp] theorem pend_dumpBase (s : State) (i : Event) : (pend s i).dumpBase = s.dumpBase := rfl
@[simp] theorem pend_dumpLen (s : State) (i : Event) : (pend s i).dumpLen = s.dumpLen := rfl
@[simp] theorem pend_elHead (s : State) (i : Event) : (pend s i).elHead = s.elHead := rfl
@[simp] theorem pend_elTail (s : State) (i : Event) : (pend s i).elTail = s.elTail := rfl
@[simp] theorem pend_elVec (s : State) (i : Event) : (pend s i).elVec = s.elVec := rfl
@[simp] theorem pend_elEn (s : State) (i : Event) : (pend s i).elEn = s.elEn := rfl
@[simp] theorem pend_elLost (s : State) (i : Event) : (pend s i).elLost = s.elLost := rfl
@[simp] theorem pend_errLog (s : State) (i : Event) : (pend s i).errLog = s.errLog := rfl
@[simp] theorem pend_mrqHead (s : State) (i : Event) : (pend s i).mrqHead = s.mrqHead := rfl
@[simp] theorem pend_mrqTail (s : State) (i : Event) : (pend s i).mrqTail = s.mrqTail := rfl
@[simp] theorem pend_mevHead (s : State) (i : Event) : (pend s i).mevHead = s.mevHead := rfl
@[simp] theorem pend_mevTail (s : State) (i : Event) : (pend s i).mevTail = s.mevTail := rfl
@[simp] theorem pend_ringMem (s : State) (i : Event) : (pend s i).ringMem = s.ringMem := rfl
@[simp] theorem pend_msixPending (s : State) (i : Event) : (pend s i).msixPending = s.msixPending := rfl
@[simp] theorem pend_msixMem (s : State) (i : Event) : (pend s i).msixMem = s.msixMem := rfl
@[simp] theorem pend_funcs (s : State) (i : Event) : (pend s i).funcs = s.funcs := rfl
@[simp] theorem pend_sessions (s : State) (i : Event) : (pend s i).sessions = s.sessions := rfl
@[simp] theorem pend_handshakes (s : State) (i : Event) : (pend s i).handshakes = s.handshakes := rfl
@[simp] theorem pend_ideKeys (s : State) (i : Event) : (pend s i).ideKeys = s.ideKeys := rfl
@[simp] theorem pend_measurements (s : State) (i : Event) : (pend s i).measurements = s.measurements := rfl
@[simp] theorem pend_svn (s : State) (i : Event) : (pend s i).svn = s.svn := rfl
@[simp] theorem pend_marked (s : State) (i : Event) : (pend s i).marked = s.marked := rfl
@[simp] theorem pend_corrected (s : State) (i : Event) : (pend s i).corrected = s.corrected := rfl
@[simp] theorem pend_upsets (s : State) (i : Event) : (pend s i).upsets = s.upsets := rfl
@[simp] theorem pendFirst_th (s : State) (i : Event) : (pendFirst s i).th = s.th := rfl
@[simp] theorem pendFirst_rest (s : State) (i : Event) : (pendFirst s i).rest = s.rest := rfl
@[simp] theorem pendFirst_pending (s : State) (i : Event) : (pendFirst s i).pending = i :: s.pending := rfl
@[simp] theorem pendFirst_inputs (s : State) (i : Event) : (pendFirst s i).inputs = s.inputs := rfl
@[simp] theorem pendFirst_outbox (s : State) (i : Event) : (pendFirst s i).outbox = s.outbox := rfl
@[simp] theorem pendFirst_turn (s : State) (i : Event) : (pendFirst s i).turn = s.turn := rfl
@[simp] theorem pendFirst_clock (s : State) (i : Event) : (pendFirst s i).clock = s.clock := rfl
@[simp] theorem pendFirst_stamp (s : State) (i : Event) : (pendFirst s i).stamp = s.stamp := rfl
@[simp] theorem pendFirst_last (s : State) (i : Event) : (pendFirst s i).last = s.last := rfl
@[simp] theorem pendFirst_dev (s : State) (i : Event) : (pendFirst s i).dev = s.dev := rfl
@[simp] theorem pendFirst_dir (s : State) (i : Event) : (pendFirst s i).dir = s.dir := rfl
@[simp] theorem pendFirst_cores (s : State) (i : Event) : (pendFirst s i).cores = s.cores := rfl
@[simp] theorem pendFirst_clusters (s : State) (i : Event) : (pendFirst s i).clusters = s.clusters := rfl
@[simp] theorem pendFirst_units (s : State) (i : Event) : (pendFirst s i).units = s.units := rfl
@[simp] theorem pendFirst_teams (s : State) (i : Event) : (pendFirst s i).teams = s.teams := rfl
@[simp] theorem pendFirst_teamNext (s : State) (i : Event) : (pendFirst s i).teamNext = s.teamNext := rfl
@[simp] theorem pendFirst_copies (s : State) (i : Event) : (pendFirst s i).copies = s.copies := rfl
@[simp] theorem pendFirst_heldBack (s : State) (i : Event) : (pendFirst s i).heldBack = s.heldBack := rfl
@[simp] theorem pendFirst_agentLocs (s : State) (i : Event) : (pendFirst s i).agentLocs = s.agentLocs := rfl
@[simp] theorem pendFirst_cmds (s : State) (i : Event) : (pendFirst s i).cmds = s.cmds := rfl
@[simp] theorem pendFirst_locks (s : State) (i : Event) : (pendFirst s i).locks = s.locks := rfl
@[simp] theorem pendFirst_mem (s : State) (i : Event) : (pendFirst s i).mem = s.mem := rfl
@[simp] theorem pendFirst_buffers (s : State) (i : Event) : (pendFirst s i).buffers = s.buffers := rfl
@[simp] theorem pendFirst_asids (s : State) (i : Event) : (pendFirst s i).asids = s.asids := rfl
@[simp] theorem pendFirst_owners (s : State) (i : Event) : (pendFirst s i).owners = s.owners := rfl
@[simp] theorem pendFirst_keySlots (s : State) (i : Event) : (pendFirst s i).keySlots = s.keySlots := rfl
@[simp] theorem pendFirst_pageFaults (s : State) (i : Event) : (pendFirst s i).pageFaults = s.pageFaults := rfl
@[simp] theorem pendFirst_pageTag (s : State) (i : Event) : (pendFirst s i).pageTag = s.pageTag := rfl
@[simp] theorem pendFirst_shootdowns (s : State) (i : Event) : (pendFirst s i).shootdowns = s.shootdowns := rfl
@[simp] theorem pendFirst_ranges (s : State) (i : Event) : (pendFirst s i).ranges = s.ranges := rfl
@[simp] theorem pendFirst_tables (s : State) (i : Event) : (pendFirst s i).tables = s.tables := rfl
@[simp] theorem pendFirst_bonds (s : State) (i : Event) : (pendFirst s i).bonds = s.bonds := rfl
@[simp] theorem pendFirst_meshes (s : State) (i : Event) : (pendFirst s i).meshes = s.meshes := rfl
@[simp] theorem pendFirst_bondWaits (s : State) (i : Event) : (pendFirst s i).bondWaits = s.bondWaits := rfl
@[simp] theorem pendFirst_announced (s : State) (i : Event) : (pendFirst s i).announced = s.announced := rfl
@[simp] theorem pendFirst_psyncs (s : State) (i : Event) : (pendFirst s i).psyncs = s.psyncs := rfl
@[simp] theorem pendFirst_psyncBack (s : State) (i : Event) : (pendFirst s i).psyncBack = s.psyncBack := rfl
@[simp] theorem pendFirst_windows (s : State) (i : Event) : (pendFirst s i).windows = s.windows := rfl
@[simp] theorem pendFirst_conns (s : State) (i : Event) : (pendFirst s i).conns = s.conns := rfl
@[simp] theorem pendFirst_rxConns (s : State) (i : Event) : (pendFirst s i).rxConns = s.rxConns := rfl
@[simp] theorem pendFirst_rxHeld (s : State) (i : Event) : (pendFirst s i).rxHeld = s.rxHeld := rfl
@[simp] theorem pendFirst_rxLandings (s : State) (i : Event) : (pendFirst s i).rxLandings = s.rxLandings := rfl
@[simp] theorem pendFirst_paths (s : State) (i : Event) : (pendFirst s i).paths = s.paths := rfl
@[simp] theorem pendFirst_tagGens (s : State) (i : Event) : (pendFirst s i).tagGens = s.tagGens := rfl
@[simp] theorem pendFirst_secAssocs (s : State) (i : Event) : (pendFirst s i).secAssocs = s.secAssocs := rfl
@[simp] theorem pendFirst_jobs (s : State) (i : Event) : (pendFirst s i).jobs = s.jobs := rfl
@[simp] theorem pendFirst_peers (s : State) (i : Event) : (pendFirst s i).peers = s.peers := rfl
@[simp] theorem pendFirst_netTimeout (s : State) (i : Event) : (pendFirst s i).netTimeout = s.netTimeout := rfl
@[simp] theorem pendFirst_pfc (s : State) (i : Event) : (pendFirst s i).pfc = s.pfc := rfl
@[simp] theorem pendFirst_portsDown (s : State) (i : Event) : (pendFirst s i).portsDown = s.portsDown := rfl
@[simp] theorem pendFirst_nstale (s : State) (i : Event) : (pendFirst s i).nstale = s.nstale := rfl
@[simp] theorem pendFirst_gmem (s : State) (i : Event) : (pendFirst s i).gmem = s.gmem := rfl
@[simp] theorem pendFirst_channels (s : State) (i : Event) : (pendFirst s i).channels = s.channels := rfl
@[simp] theorem pendFirst_launches (s : State) (i : Event) : (pendFirst s i).launches = s.launches := rfl
@[simp] theorem pendFirst_queue (s : State) (i : Event) : (pendFirst s i).queue = s.queue := rfl
@[simp] theorem pendFirst_rrCur (s : State) (i : Event) : (pendFirst s i).rrCur = s.rrCur := rfl
@[simp] theorem pendFirst_rrTurns (s : State) (i : Event) : (pendFirst s i).rrTurns = s.rrTurns := rfl
@[simp] theorem pendFirst_rrWeight (s : State) (i : Event) : (pendFirst s i).rrWeight = s.rrWeight := rfl
@[simp] theorem pendFirst_placedNext (s : State) (i : Event) : (pendFirst s i).placedNext = s.placedNext := rfl
@[simp] theorem pendFirst_phase (s : State) (i : Event) : (pendFirst s i).phase = s.phase := rfl
@[simp] theorem pendFirst_trained (s : State) (i : Event) : (pendFirst s i).trained = s.trained := rfl
@[simp] theorem pendFirst_rcause (s : State) (i : Event) : (pendFirst s i).rcause = s.rcause := rfl
@[simp] theorem pendFirst_dumpSt (s : State) (i : Event) : (pendFirst s i).dumpSt = s.dumpSt := rfl
@[simp] theorem pendFirst_fcause (s : State) (i : Event) : (pendFirst s i).fcause = s.fcause := rfl
@[simp] theorem pendFirst_capcl (s : State) (i : Event) : (pendFirst s i).capcl = s.capcl := rfl
@[simp] theorem pendFirst_capst (s : State) (i : Event) : (pendFirst s i).capst = s.capst := rfl
@[simp] theorem pendFirst_broken (s : State) (i : Event) : (pendFirst s i).broken = s.broken := rfl
@[simp] theorem pendFirst_capport (s : State) (i : Event) : (pendFirst s i).capport = s.capport := rfl
@[simp] theorem pendFirst_dumpBase (s : State) (i : Event) : (pendFirst s i).dumpBase = s.dumpBase := rfl
@[simp] theorem pendFirst_dumpLen (s : State) (i : Event) : (pendFirst s i).dumpLen = s.dumpLen := rfl
@[simp] theorem pendFirst_elHead (s : State) (i : Event) : (pendFirst s i).elHead = s.elHead := rfl
@[simp] theorem pendFirst_elTail (s : State) (i : Event) : (pendFirst s i).elTail = s.elTail := rfl
@[simp] theorem pendFirst_elVec (s : State) (i : Event) : (pendFirst s i).elVec = s.elVec := rfl
@[simp] theorem pendFirst_elEn (s : State) (i : Event) : (pendFirst s i).elEn = s.elEn := rfl
@[simp] theorem pendFirst_elLost (s : State) (i : Event) : (pendFirst s i).elLost = s.elLost := rfl
@[simp] theorem pendFirst_errLog (s : State) (i : Event) : (pendFirst s i).errLog = s.errLog := rfl
@[simp] theorem pendFirst_mrqHead (s : State) (i : Event) : (pendFirst s i).mrqHead = s.mrqHead := rfl
@[simp] theorem pendFirst_mrqTail (s : State) (i : Event) : (pendFirst s i).mrqTail = s.mrqTail := rfl
@[simp] theorem pendFirst_mevHead (s : State) (i : Event) : (pendFirst s i).mevHead = s.mevHead := rfl
@[simp] theorem pendFirst_mevTail (s : State) (i : Event) : (pendFirst s i).mevTail = s.mevTail := rfl
@[simp] theorem pendFirst_ringMem (s : State) (i : Event) : (pendFirst s i).ringMem = s.ringMem := rfl
@[simp] theorem pendFirst_msixPending (s : State) (i : Event) : (pendFirst s i).msixPending = s.msixPending := rfl
@[simp] theorem pendFirst_msixMem (s : State) (i : Event) : (pendFirst s i).msixMem = s.msixMem := rfl
@[simp] theorem pendFirst_funcs (s : State) (i : Event) : (pendFirst s i).funcs = s.funcs := rfl
@[simp] theorem pendFirst_sessions (s : State) (i : Event) : (pendFirst s i).sessions = s.sessions := rfl
@[simp] theorem pendFirst_handshakes (s : State) (i : Event) : (pendFirst s i).handshakes = s.handshakes := rfl
@[simp] theorem pendFirst_ideKeys (s : State) (i : Event) : (pendFirst s i).ideKeys = s.ideKeys := rfl
@[simp] theorem pendFirst_measurements (s : State) (i : Event) : (pendFirst s i).measurements = s.measurements := rfl
@[simp] theorem pendFirst_svn (s : State) (i : Event) : (pendFirst s i).svn = s.svn := rfl
@[simp] theorem pendFirst_marked (s : State) (i : Event) : (pendFirst s i).marked = s.marked := rfl
@[simp] theorem pendFirst_corrected (s : State) (i : Event) : (pendFirst s i).corrected = s.corrected := rfl
@[simp] theorem pendFirst_upsets (s : State) (i : Event) : (pendFirst s i).upsets = s.upsets := rfl
@[simp] theorem send_th (s : State) (m : OutMsg) : (send s m).th = s.th := rfl
@[simp] theorem send_rest (s : State) (m : OutMsg) : (send s m).rest = s.rest := rfl
@[simp] theorem send_pending (s : State) (m : OutMsg) : (send s m).pending = s.pending := rfl
@[simp] theorem send_inputs (s : State) (m : OutMsg) : (send s m).inputs = s.inputs := rfl
@[simp] theorem send_outbox (s : State) (m : OutMsg) : (send s m).outbox = s.outbox ++ [m] := rfl
@[simp] theorem send_turn (s : State) (m : OutMsg) : (send s m).turn = s.turn := rfl
@[simp] theorem send_clock (s : State) (m : OutMsg) : (send s m).clock = s.clock := rfl
@[simp] theorem send_stamp (s : State) (m : OutMsg) : (send s m).stamp = s.stamp := rfl
@[simp] theorem send_last (s : State) (m : OutMsg) : (send s m).last = s.last := rfl
@[simp] theorem send_dev (s : State) (m : OutMsg) : (send s m).dev = s.dev := rfl
@[simp] theorem send_dir (s : State) (m : OutMsg) : (send s m).dir = s.dir := rfl
@[simp] theorem send_cores (s : State) (m : OutMsg) : (send s m).cores = s.cores := rfl
@[simp] theorem send_clusters (s : State) (m : OutMsg) : (send s m).clusters = s.clusters := rfl
@[simp] theorem send_units (s : State) (m : OutMsg) : (send s m).units = s.units := rfl
@[simp] theorem send_teams (s : State) (m : OutMsg) : (send s m).teams = s.teams := rfl
@[simp] theorem send_teamNext (s : State) (m : OutMsg) : (send s m).teamNext = s.teamNext := rfl
@[simp] theorem send_copies (s : State) (m : OutMsg) : (send s m).copies = s.copies := rfl
@[simp] theorem send_heldBack (s : State) (m : OutMsg) : (send s m).heldBack = s.heldBack := rfl
@[simp] theorem send_agentLocs (s : State) (m : OutMsg) : (send s m).agentLocs = s.agentLocs := rfl
@[simp] theorem send_cmds (s : State) (m : OutMsg) : (send s m).cmds = s.cmds := rfl
@[simp] theorem send_locks (s : State) (m : OutMsg) : (send s m).locks = s.locks := rfl
@[simp] theorem send_mem (s : State) (m : OutMsg) : (send s m).mem = s.mem := rfl
@[simp] theorem send_buffers (s : State) (m : OutMsg) : (send s m).buffers = s.buffers := rfl
@[simp] theorem send_asids (s : State) (m : OutMsg) : (send s m).asids = s.asids := rfl
@[simp] theorem send_owners (s : State) (m : OutMsg) : (send s m).owners = s.owners := rfl
@[simp] theorem send_keySlots (s : State) (m : OutMsg) : (send s m).keySlots = s.keySlots := rfl
@[simp] theorem send_pageFaults (s : State) (m : OutMsg) : (send s m).pageFaults = s.pageFaults := rfl
@[simp] theorem send_pageTag (s : State) (m : OutMsg) : (send s m).pageTag = s.pageTag := rfl
@[simp] theorem send_shootdowns (s : State) (m : OutMsg) : (send s m).shootdowns = s.shootdowns := rfl
@[simp] theorem send_ranges (s : State) (m : OutMsg) : (send s m).ranges = s.ranges := rfl
@[simp] theorem send_tables (s : State) (m : OutMsg) : (send s m).tables = s.tables := rfl
@[simp] theorem send_bonds (s : State) (m : OutMsg) : (send s m).bonds = s.bonds := rfl
@[simp] theorem send_meshes (s : State) (m : OutMsg) : (send s m).meshes = s.meshes := rfl
@[simp] theorem send_bondWaits (s : State) (m : OutMsg) : (send s m).bondWaits = s.bondWaits := rfl
@[simp] theorem send_announced (s : State) (m : OutMsg) : (send s m).announced = s.announced := rfl
@[simp] theorem send_psyncs (s : State) (m : OutMsg) : (send s m).psyncs = s.psyncs := rfl
@[simp] theorem send_psyncBack (s : State) (m : OutMsg) : (send s m).psyncBack = s.psyncBack := rfl
@[simp] theorem send_windows (s : State) (m : OutMsg) : (send s m).windows = s.windows := rfl
@[simp] theorem send_conns (s : State) (m : OutMsg) : (send s m).conns = s.conns := rfl
@[simp] theorem send_rxConns (s : State) (m : OutMsg) : (send s m).rxConns = s.rxConns := rfl
@[simp] theorem send_rxHeld (s : State) (m : OutMsg) : (send s m).rxHeld = s.rxHeld := rfl
@[simp] theorem send_rxLandings (s : State) (m : OutMsg) : (send s m).rxLandings = s.rxLandings := rfl
@[simp] theorem send_paths (s : State) (m : OutMsg) : (send s m).paths = s.paths := rfl
@[simp] theorem send_tagGens (s : State) (m : OutMsg) : (send s m).tagGens = s.tagGens := rfl
@[simp] theorem send_secAssocs (s : State) (m : OutMsg) : (send s m).secAssocs = s.secAssocs := rfl
@[simp] theorem send_jobs (s : State) (m : OutMsg) : (send s m).jobs = s.jobs := rfl
@[simp] theorem send_peers (s : State) (m : OutMsg) : (send s m).peers = s.peers := rfl
@[simp] theorem send_netTimeout (s : State) (m : OutMsg) : (send s m).netTimeout = s.netTimeout := rfl
@[simp] theorem send_pfc (s : State) (m : OutMsg) : (send s m).pfc = s.pfc := rfl
@[simp] theorem send_portsDown (s : State) (m : OutMsg) : (send s m).portsDown = s.portsDown := rfl
@[simp] theorem send_nstale (s : State) (m : OutMsg) : (send s m).nstale = s.nstale := rfl
@[simp] theorem send_gmem (s : State) (m : OutMsg) : (send s m).gmem = s.gmem := rfl
@[simp] theorem send_channels (s : State) (m : OutMsg) : (send s m).channels = s.channels := rfl
@[simp] theorem send_launches (s : State) (m : OutMsg) : (send s m).launches = s.launches := rfl
@[simp] theorem send_queue (s : State) (m : OutMsg) : (send s m).queue = s.queue := rfl
@[simp] theorem send_rrCur (s : State) (m : OutMsg) : (send s m).rrCur = s.rrCur := rfl
@[simp] theorem send_rrTurns (s : State) (m : OutMsg) : (send s m).rrTurns = s.rrTurns := rfl
@[simp] theorem send_rrWeight (s : State) (m : OutMsg) : (send s m).rrWeight = s.rrWeight := rfl
@[simp] theorem send_placedNext (s : State) (m : OutMsg) : (send s m).placedNext = s.placedNext := rfl
@[simp] theorem send_phase (s : State) (m : OutMsg) : (send s m).phase = s.phase := rfl
@[simp] theorem send_trained (s : State) (m : OutMsg) : (send s m).trained = s.trained := rfl
@[simp] theorem send_rcause (s : State) (m : OutMsg) : (send s m).rcause = s.rcause := rfl
@[simp] theorem send_dumpSt (s : State) (m : OutMsg) : (send s m).dumpSt = s.dumpSt := rfl
@[simp] theorem send_fcause (s : State) (m : OutMsg) : (send s m).fcause = s.fcause := rfl
@[simp] theorem send_capcl (s : State) (m : OutMsg) : (send s m).capcl = s.capcl := rfl
@[simp] theorem send_capst (s : State) (m : OutMsg) : (send s m).capst = s.capst := rfl
@[simp] theorem send_broken (s : State) (m : OutMsg) : (send s m).broken = s.broken := rfl
@[simp] theorem send_capport (s : State) (m : OutMsg) : (send s m).capport = s.capport := rfl
@[simp] theorem send_dumpBase (s : State) (m : OutMsg) : (send s m).dumpBase = s.dumpBase := rfl
@[simp] theorem send_dumpLen (s : State) (m : OutMsg) : (send s m).dumpLen = s.dumpLen := rfl
@[simp] theorem send_elHead (s : State) (m : OutMsg) : (send s m).elHead = s.elHead := rfl
@[simp] theorem send_elTail (s : State) (m : OutMsg) : (send s m).elTail = s.elTail := rfl
@[simp] theorem send_elVec (s : State) (m : OutMsg) : (send s m).elVec = s.elVec := rfl
@[simp] theorem send_elEn (s : State) (m : OutMsg) : (send s m).elEn = s.elEn := rfl
@[simp] theorem send_elLost (s : State) (m : OutMsg) : (send s m).elLost = s.elLost := rfl
@[simp] theorem send_errLog (s : State) (m : OutMsg) : (send s m).errLog = s.errLog := rfl
@[simp] theorem send_mrqHead (s : State) (m : OutMsg) : (send s m).mrqHead = s.mrqHead := rfl
@[simp] theorem send_mrqTail (s : State) (m : OutMsg) : (send s m).mrqTail = s.mrqTail := rfl
@[simp] theorem send_mevHead (s : State) (m : OutMsg) : (send s m).mevHead = s.mevHead := rfl
@[simp] theorem send_mevTail (s : State) (m : OutMsg) : (send s m).mevTail = s.mevTail := rfl
@[simp] theorem send_ringMem (s : State) (m : OutMsg) : (send s m).ringMem = s.ringMem := rfl
@[simp] theorem send_msixPending (s : State) (m : OutMsg) : (send s m).msixPending = s.msixPending := rfl
@[simp] theorem send_msixMem (s : State) (m : OutMsg) : (send s m).msixMem = s.msixMem := rfl
@[simp] theorem send_funcs (s : State) (m : OutMsg) : (send s m).funcs = s.funcs := rfl
@[simp] theorem send_sessions (s : State) (m : OutMsg) : (send s m).sessions = s.sessions := rfl
@[simp] theorem send_handshakes (s : State) (m : OutMsg) : (send s m).handshakes = s.handshakes := rfl
@[simp] theorem send_ideKeys (s : State) (m : OutMsg) : (send s m).ideKeys = s.ideKeys := rfl
@[simp] theorem send_measurements (s : State) (m : OutMsg) : (send s m).measurements = s.measurements := rfl
@[simp] theorem send_svn (s : State) (m : OutMsg) : (send s m).svn = s.svn := rfl
@[simp] theorem send_marked (s : State) (m : OutMsg) : (send s m).marked = s.marked := rfl
@[simp] theorem send_corrected (s : State) (m : OutMsg) : (send s m).corrected = s.corrected := rfl
@[simp] theorem send_upsets (s : State) (m : OutMsg) : (send s m).upsets = s.upsets := rfl
@[simp] theorem setCore_th (s : State) (c : BitVec 11) (k : CoreState) : (setCore s c k).th = s.th := rfl
@[simp] theorem setCore_rest (s : State) (c : BitVec 11) (k : CoreState) : (setCore s c k).rest = s.rest := rfl
@[simp] theorem setCore_pending (s : State) (c : BitVec 11) (k : CoreState) : (setCore s c k).pending = s.pending := rfl
@[simp] theorem setCore_inputs (s : State) (c : BitVec 11) (k : CoreState) : (setCore s c k).inputs = s.inputs := rfl
@[simp] theorem setCore_outbox (s : State) (c : BitVec 11) (k : CoreState) : (setCore s c k).outbox = s.outbox := rfl
@[simp] theorem setCore_turn (s : State) (c : BitVec 11) (k : CoreState) : (setCore s c k).turn = s.turn := rfl
@[simp] theorem setCore_clock (s : State) (c : BitVec 11) (k : CoreState) : (setCore s c k).clock = s.clock := rfl
@[simp] theorem setCore_stamp (s : State) (c : BitVec 11) (k : CoreState) : (setCore s c k).stamp = s.stamp := rfl
@[simp] theorem setCore_last (s : State) (c : BitVec 11) (k : CoreState) : (setCore s c k).last = s.last := rfl
@[simp] theorem setCore_dev (s : State) (c : BitVec 11) (k : CoreState) : (setCore s c k).dev = s.dev := rfl
@[simp] theorem setCore_dir (s : State) (c : BitVec 11) (k : CoreState) : (setCore s c k).dir = s.dir := rfl
@[simp] theorem setCore_cores (s : State) (c : BitVec 11) (k : CoreState) : (setCore s c k).cores = sset CoreState.init s.cores c.toNat k := rfl
@[simp] theorem setCore_clusters (s : State) (c : BitVec 11) (k : CoreState) : (setCore s c k).clusters = s.clusters := rfl
@[simp] theorem setCore_units (s : State) (c : BitVec 11) (k : CoreState) : (setCore s c k).units = s.units := rfl
@[simp] theorem setCore_teams (s : State) (c : BitVec 11) (k : CoreState) : (setCore s c k).teams = s.teams := rfl
@[simp] theorem setCore_teamNext (s : State) (c : BitVec 11) (k : CoreState) : (setCore s c k).teamNext = s.teamNext := rfl
@[simp] theorem setCore_copies (s : State) (c : BitVec 11) (k : CoreState) : (setCore s c k).copies = s.copies := rfl
@[simp] theorem setCore_heldBack (s : State) (c : BitVec 11) (k : CoreState) : (setCore s c k).heldBack = s.heldBack := rfl
@[simp] theorem setCore_agentLocs (s : State) (c : BitVec 11) (k : CoreState) : (setCore s c k).agentLocs = s.agentLocs := rfl
@[simp] theorem setCore_cmds (s : State) (c : BitVec 11) (k : CoreState) : (setCore s c k).cmds = s.cmds := rfl
@[simp] theorem setCore_locks (s : State) (c : BitVec 11) (k : CoreState) : (setCore s c k).locks = s.locks := rfl
@[simp] theorem setCore_mem (s : State) (c : BitVec 11) (k : CoreState) : (setCore s c k).mem = s.mem := rfl
@[simp] theorem setCore_buffers (s : State) (c : BitVec 11) (k : CoreState) : (setCore s c k).buffers = s.buffers := rfl
@[simp] theorem setCore_asids (s : State) (c : BitVec 11) (k : CoreState) : (setCore s c k).asids = s.asids := rfl
@[simp] theorem setCore_owners (s : State) (c : BitVec 11) (k : CoreState) : (setCore s c k).owners = s.owners := rfl
@[simp] theorem setCore_keySlots (s : State) (c : BitVec 11) (k : CoreState) : (setCore s c k).keySlots = s.keySlots := rfl
@[simp] theorem setCore_pageFaults (s : State) (c : BitVec 11) (k : CoreState) : (setCore s c k).pageFaults = s.pageFaults := rfl
@[simp] theorem setCore_pageTag (s : State) (c : BitVec 11) (k : CoreState) : (setCore s c k).pageTag = s.pageTag := rfl
@[simp] theorem setCore_shootdowns (s : State) (c : BitVec 11) (k : CoreState) : (setCore s c k).shootdowns = s.shootdowns := rfl
@[simp] theorem setCore_ranges (s : State) (c : BitVec 11) (k : CoreState) : (setCore s c k).ranges = s.ranges := rfl
@[simp] theorem setCore_tables (s : State) (c : BitVec 11) (k : CoreState) : (setCore s c k).tables = s.tables := rfl
@[simp] theorem setCore_bonds (s : State) (c : BitVec 11) (k : CoreState) : (setCore s c k).bonds = s.bonds := rfl
@[simp] theorem setCore_meshes (s : State) (c : BitVec 11) (k : CoreState) : (setCore s c k).meshes = s.meshes := rfl
@[simp] theorem setCore_bondWaits (s : State) (c : BitVec 11) (k : CoreState) : (setCore s c k).bondWaits = s.bondWaits := rfl
@[simp] theorem setCore_announced (s : State) (c : BitVec 11) (k : CoreState) : (setCore s c k).announced = s.announced := rfl
@[simp] theorem setCore_psyncs (s : State) (c : BitVec 11) (k : CoreState) : (setCore s c k).psyncs = s.psyncs := rfl
@[simp] theorem setCore_psyncBack (s : State) (c : BitVec 11) (k : CoreState) : (setCore s c k).psyncBack = s.psyncBack := rfl
@[simp] theorem setCore_windows (s : State) (c : BitVec 11) (k : CoreState) : (setCore s c k).windows = s.windows := rfl
@[simp] theorem setCore_conns (s : State) (c : BitVec 11) (k : CoreState) : (setCore s c k).conns = s.conns := rfl
@[simp] theorem setCore_rxConns (s : State) (c : BitVec 11) (k : CoreState) : (setCore s c k).rxConns = s.rxConns := rfl
@[simp] theorem setCore_rxHeld (s : State) (c : BitVec 11) (k : CoreState) : (setCore s c k).rxHeld = s.rxHeld := rfl
@[simp] theorem setCore_rxLandings (s : State) (c : BitVec 11) (k : CoreState) : (setCore s c k).rxLandings = s.rxLandings := rfl
@[simp] theorem setCore_paths (s : State) (c : BitVec 11) (k : CoreState) : (setCore s c k).paths = s.paths := rfl
@[simp] theorem setCore_tagGens (s : State) (c : BitVec 11) (k : CoreState) : (setCore s c k).tagGens = s.tagGens := rfl
@[simp] theorem setCore_secAssocs (s : State) (c : BitVec 11) (k : CoreState) : (setCore s c k).secAssocs = s.secAssocs := rfl
@[simp] theorem setCore_jobs (s : State) (c : BitVec 11) (k : CoreState) : (setCore s c k).jobs = s.jobs := rfl
@[simp] theorem setCore_peers (s : State) (c : BitVec 11) (k : CoreState) : (setCore s c k).peers = s.peers := rfl
@[simp] theorem setCore_netTimeout (s : State) (c : BitVec 11) (k : CoreState) : (setCore s c k).netTimeout = s.netTimeout := rfl
@[simp] theorem setCore_pfc (s : State) (c : BitVec 11) (k : CoreState) : (setCore s c k).pfc = s.pfc := rfl
@[simp] theorem setCore_portsDown (s : State) (c : BitVec 11) (k : CoreState) : (setCore s c k).portsDown = s.portsDown := rfl
@[simp] theorem setCore_nstale (s : State) (c : BitVec 11) (k : CoreState) : (setCore s c k).nstale = s.nstale := rfl
@[simp] theorem setCore_gmem (s : State) (c : BitVec 11) (k : CoreState) : (setCore s c k).gmem = s.gmem := rfl
@[simp] theorem setCore_channels (s : State) (c : BitVec 11) (k : CoreState) : (setCore s c k).channels = s.channels := rfl
@[simp] theorem setCore_launches (s : State) (c : BitVec 11) (k : CoreState) : (setCore s c k).launches = s.launches := rfl
@[simp] theorem setCore_queue (s : State) (c : BitVec 11) (k : CoreState) : (setCore s c k).queue = s.queue := rfl
@[simp] theorem setCore_rrCur (s : State) (c : BitVec 11) (k : CoreState) : (setCore s c k).rrCur = s.rrCur := rfl
@[simp] theorem setCore_rrTurns (s : State) (c : BitVec 11) (k : CoreState) : (setCore s c k).rrTurns = s.rrTurns := rfl
@[simp] theorem setCore_rrWeight (s : State) (c : BitVec 11) (k : CoreState) : (setCore s c k).rrWeight = s.rrWeight := rfl
@[simp] theorem setCore_placedNext (s : State) (c : BitVec 11) (k : CoreState) : (setCore s c k).placedNext = s.placedNext := rfl
@[simp] theorem setCore_phase (s : State) (c : BitVec 11) (k : CoreState) : (setCore s c k).phase = s.phase := rfl
@[simp] theorem setCore_trained (s : State) (c : BitVec 11) (k : CoreState) : (setCore s c k).trained = s.trained := rfl
@[simp] theorem setCore_rcause (s : State) (c : BitVec 11) (k : CoreState) : (setCore s c k).rcause = s.rcause := rfl
@[simp] theorem setCore_dumpSt (s : State) (c : BitVec 11) (k : CoreState) : (setCore s c k).dumpSt = s.dumpSt := rfl
@[simp] theorem setCore_fcause (s : State) (c : BitVec 11) (k : CoreState) : (setCore s c k).fcause = s.fcause := rfl
@[simp] theorem setCore_capcl (s : State) (c : BitVec 11) (k : CoreState) : (setCore s c k).capcl = s.capcl := rfl
@[simp] theorem setCore_capst (s : State) (c : BitVec 11) (k : CoreState) : (setCore s c k).capst = s.capst := rfl
@[simp] theorem setCore_broken (s : State) (c : BitVec 11) (k : CoreState) : (setCore s c k).broken = s.broken := rfl
@[simp] theorem setCore_capport (s : State) (c : BitVec 11) (k : CoreState) : (setCore s c k).capport = s.capport := rfl
@[simp] theorem setCore_dumpBase (s : State) (c : BitVec 11) (k : CoreState) : (setCore s c k).dumpBase = s.dumpBase := rfl
@[simp] theorem setCore_dumpLen (s : State) (c : BitVec 11) (k : CoreState) : (setCore s c k).dumpLen = s.dumpLen := rfl
@[simp] theorem setCore_elHead (s : State) (c : BitVec 11) (k : CoreState) : (setCore s c k).elHead = s.elHead := rfl
@[simp] theorem setCore_elTail (s : State) (c : BitVec 11) (k : CoreState) : (setCore s c k).elTail = s.elTail := rfl
@[simp] theorem setCore_elVec (s : State) (c : BitVec 11) (k : CoreState) : (setCore s c k).elVec = s.elVec := rfl
@[simp] theorem setCore_elEn (s : State) (c : BitVec 11) (k : CoreState) : (setCore s c k).elEn = s.elEn := rfl
@[simp] theorem setCore_elLost (s : State) (c : BitVec 11) (k : CoreState) : (setCore s c k).elLost = s.elLost := rfl
@[simp] theorem setCore_errLog (s : State) (c : BitVec 11) (k : CoreState) : (setCore s c k).errLog = s.errLog := rfl
@[simp] theorem setCore_mrqHead (s : State) (c : BitVec 11) (k : CoreState) : (setCore s c k).mrqHead = s.mrqHead := rfl
@[simp] theorem setCore_mrqTail (s : State) (c : BitVec 11) (k : CoreState) : (setCore s c k).mrqTail = s.mrqTail := rfl
@[simp] theorem setCore_mevHead (s : State) (c : BitVec 11) (k : CoreState) : (setCore s c k).mevHead = s.mevHead := rfl
@[simp] theorem setCore_mevTail (s : State) (c : BitVec 11) (k : CoreState) : (setCore s c k).mevTail = s.mevTail := rfl
@[simp] theorem setCore_ringMem (s : State) (c : BitVec 11) (k : CoreState) : (setCore s c k).ringMem = s.ringMem := rfl
@[simp] theorem setCore_msixPending (s : State) (c : BitVec 11) (k : CoreState) : (setCore s c k).msixPending = s.msixPending := rfl
@[simp] theorem setCore_msixMem (s : State) (c : BitVec 11) (k : CoreState) : (setCore s c k).msixMem = s.msixMem := rfl
@[simp] theorem setCore_funcs (s : State) (c : BitVec 11) (k : CoreState) : (setCore s c k).funcs = s.funcs := rfl
@[simp] theorem setCore_sessions (s : State) (c : BitVec 11) (k : CoreState) : (setCore s c k).sessions = s.sessions := rfl
@[simp] theorem setCore_handshakes (s : State) (c : BitVec 11) (k : CoreState) : (setCore s c k).handshakes = s.handshakes := rfl
@[simp] theorem setCore_ideKeys (s : State) (c : BitVec 11) (k : CoreState) : (setCore s c k).ideKeys = s.ideKeys := rfl
@[simp] theorem setCore_measurements (s : State) (c : BitVec 11) (k : CoreState) : (setCore s c k).measurements = s.measurements := rfl
@[simp] theorem setCore_svn (s : State) (c : BitVec 11) (k : CoreState) : (setCore s c k).svn = s.svn := rfl
@[simp] theorem setCore_marked (s : State) (c : BitVec 11) (k : CoreState) : (setCore s c k).marked = s.marked := rfl
@[simp] theorem setCore_corrected (s : State) (c : BitVec 11) (k : CoreState) : (setCore s c k).corrected = s.corrected := rfl
@[simp] theorem setCore_upsets (s : State) (c : BitVec 11) (k : CoreState) : (setCore s c k).upsets = s.upsets := rfl
@[simp] theorem setCluster_th (s : State) (c : BitVec 7) (k : ClusterState) : (setCluster s c k).th = s.th := rfl
@[simp] theorem setCluster_rest (s : State) (c : BitVec 7) (k : ClusterState) : (setCluster s c k).rest = s.rest := rfl
@[simp] theorem setCluster_pending (s : State) (c : BitVec 7) (k : ClusterState) : (setCluster s c k).pending = s.pending := rfl
@[simp] theorem setCluster_inputs (s : State) (c : BitVec 7) (k : ClusterState) : (setCluster s c k).inputs = s.inputs := rfl
@[simp] theorem setCluster_outbox (s : State) (c : BitVec 7) (k : ClusterState) : (setCluster s c k).outbox = s.outbox := rfl
@[simp] theorem setCluster_turn (s : State) (c : BitVec 7) (k : ClusterState) : (setCluster s c k).turn = s.turn := rfl
@[simp] theorem setCluster_clock (s : State) (c : BitVec 7) (k : ClusterState) : (setCluster s c k).clock = s.clock := rfl
@[simp] theorem setCluster_stamp (s : State) (c : BitVec 7) (k : ClusterState) : (setCluster s c k).stamp = s.stamp := rfl
@[simp] theorem setCluster_last (s : State) (c : BitVec 7) (k : ClusterState) : (setCluster s c k).last = s.last := rfl
@[simp] theorem setCluster_dev (s : State) (c : BitVec 7) (k : ClusterState) : (setCluster s c k).dev = s.dev := rfl
@[simp] theorem setCluster_dir (s : State) (c : BitVec 7) (k : ClusterState) : (setCluster s c k).dir = s.dir := rfl
@[simp] theorem setCluster_cores (s : State) (c : BitVec 7) (k : ClusterState) : (setCluster s c k).cores = s.cores := rfl
@[simp] theorem setCluster_clusters (s : State) (c : BitVec 7) (k : ClusterState) : (setCluster s c k).clusters = sset ClusterState.init s.clusters c.toNat k := rfl
@[simp] theorem setCluster_units (s : State) (c : BitVec 7) (k : ClusterState) : (setCluster s c k).units = s.units := rfl
@[simp] theorem setCluster_teams (s : State) (c : BitVec 7) (k : ClusterState) : (setCluster s c k).teams = s.teams := rfl
@[simp] theorem setCluster_teamNext (s : State) (c : BitVec 7) (k : ClusterState) : (setCluster s c k).teamNext = s.teamNext := rfl
@[simp] theorem setCluster_copies (s : State) (c : BitVec 7) (k : ClusterState) : (setCluster s c k).copies = s.copies := rfl
@[simp] theorem setCluster_heldBack (s : State) (c : BitVec 7) (k : ClusterState) : (setCluster s c k).heldBack = s.heldBack := rfl
@[simp] theorem setCluster_agentLocs (s : State) (c : BitVec 7) (k : ClusterState) : (setCluster s c k).agentLocs = s.agentLocs := rfl
@[simp] theorem setCluster_cmds (s : State) (c : BitVec 7) (k : ClusterState) : (setCluster s c k).cmds = s.cmds := rfl
@[simp] theorem setCluster_locks (s : State) (c : BitVec 7) (k : ClusterState) : (setCluster s c k).locks = s.locks := rfl
@[simp] theorem setCluster_mem (s : State) (c : BitVec 7) (k : ClusterState) : (setCluster s c k).mem = s.mem := rfl
@[simp] theorem setCluster_buffers (s : State) (c : BitVec 7) (k : ClusterState) : (setCluster s c k).buffers = s.buffers := rfl
@[simp] theorem setCluster_asids (s : State) (c : BitVec 7) (k : ClusterState) : (setCluster s c k).asids = s.asids := rfl
@[simp] theorem setCluster_owners (s : State) (c : BitVec 7) (k : ClusterState) : (setCluster s c k).owners = s.owners := rfl
@[simp] theorem setCluster_keySlots (s : State) (c : BitVec 7) (k : ClusterState) : (setCluster s c k).keySlots = s.keySlots := rfl
@[simp] theorem setCluster_pageFaults (s : State) (c : BitVec 7) (k : ClusterState) : (setCluster s c k).pageFaults = s.pageFaults := rfl
@[simp] theorem setCluster_pageTag (s : State) (c : BitVec 7) (k : ClusterState) : (setCluster s c k).pageTag = s.pageTag := rfl
@[simp] theorem setCluster_shootdowns (s : State) (c : BitVec 7) (k : ClusterState) : (setCluster s c k).shootdowns = s.shootdowns := rfl
@[simp] theorem setCluster_ranges (s : State) (c : BitVec 7) (k : ClusterState) : (setCluster s c k).ranges = s.ranges := rfl
@[simp] theorem setCluster_tables (s : State) (c : BitVec 7) (k : ClusterState) : (setCluster s c k).tables = s.tables := rfl
@[simp] theorem setCluster_bonds (s : State) (c : BitVec 7) (k : ClusterState) : (setCluster s c k).bonds = s.bonds := rfl
@[simp] theorem setCluster_meshes (s : State) (c : BitVec 7) (k : ClusterState) : (setCluster s c k).meshes = s.meshes := rfl
@[simp] theorem setCluster_bondWaits (s : State) (c : BitVec 7) (k : ClusterState) : (setCluster s c k).bondWaits = s.bondWaits := rfl
@[simp] theorem setCluster_announced (s : State) (c : BitVec 7) (k : ClusterState) : (setCluster s c k).announced = s.announced := rfl
@[simp] theorem setCluster_psyncs (s : State) (c : BitVec 7) (k : ClusterState) : (setCluster s c k).psyncs = s.psyncs := rfl
@[simp] theorem setCluster_psyncBack (s : State) (c : BitVec 7) (k : ClusterState) : (setCluster s c k).psyncBack = s.psyncBack := rfl
@[simp] theorem setCluster_windows (s : State) (c : BitVec 7) (k : ClusterState) : (setCluster s c k).windows = s.windows := rfl
@[simp] theorem setCluster_conns (s : State) (c : BitVec 7) (k : ClusterState) : (setCluster s c k).conns = s.conns := rfl
@[simp] theorem setCluster_rxConns (s : State) (c : BitVec 7) (k : ClusterState) : (setCluster s c k).rxConns = s.rxConns := rfl
@[simp] theorem setCluster_rxHeld (s : State) (c : BitVec 7) (k : ClusterState) : (setCluster s c k).rxHeld = s.rxHeld := rfl
@[simp] theorem setCluster_rxLandings (s : State) (c : BitVec 7) (k : ClusterState) : (setCluster s c k).rxLandings = s.rxLandings := rfl
@[simp] theorem setCluster_paths (s : State) (c : BitVec 7) (k : ClusterState) : (setCluster s c k).paths = s.paths := rfl
@[simp] theorem setCluster_tagGens (s : State) (c : BitVec 7) (k : ClusterState) : (setCluster s c k).tagGens = s.tagGens := rfl
@[simp] theorem setCluster_secAssocs (s : State) (c : BitVec 7) (k : ClusterState) : (setCluster s c k).secAssocs = s.secAssocs := rfl
@[simp] theorem setCluster_jobs (s : State) (c : BitVec 7) (k : ClusterState) : (setCluster s c k).jobs = s.jobs := rfl
@[simp] theorem setCluster_peers (s : State) (c : BitVec 7) (k : ClusterState) : (setCluster s c k).peers = s.peers := rfl
@[simp] theorem setCluster_netTimeout (s : State) (c : BitVec 7) (k : ClusterState) : (setCluster s c k).netTimeout = s.netTimeout := rfl
@[simp] theorem setCluster_pfc (s : State) (c : BitVec 7) (k : ClusterState) : (setCluster s c k).pfc = s.pfc := rfl
@[simp] theorem setCluster_portsDown (s : State) (c : BitVec 7) (k : ClusterState) : (setCluster s c k).portsDown = s.portsDown := rfl
@[simp] theorem setCluster_nstale (s : State) (c : BitVec 7) (k : ClusterState) : (setCluster s c k).nstale = s.nstale := rfl
@[simp] theorem setCluster_gmem (s : State) (c : BitVec 7) (k : ClusterState) : (setCluster s c k).gmem = s.gmem := rfl
@[simp] theorem setCluster_channels (s : State) (c : BitVec 7) (k : ClusterState) : (setCluster s c k).channels = s.channels := rfl
@[simp] theorem setCluster_launches (s : State) (c : BitVec 7) (k : ClusterState) : (setCluster s c k).launches = s.launches := rfl
@[simp] theorem setCluster_queue (s : State) (c : BitVec 7) (k : ClusterState) : (setCluster s c k).queue = s.queue := rfl
@[simp] theorem setCluster_rrCur (s : State) (c : BitVec 7) (k : ClusterState) : (setCluster s c k).rrCur = s.rrCur := rfl
@[simp] theorem setCluster_rrTurns (s : State) (c : BitVec 7) (k : ClusterState) : (setCluster s c k).rrTurns = s.rrTurns := rfl
@[simp] theorem setCluster_rrWeight (s : State) (c : BitVec 7) (k : ClusterState) : (setCluster s c k).rrWeight = s.rrWeight := rfl
@[simp] theorem setCluster_placedNext (s : State) (c : BitVec 7) (k : ClusterState) : (setCluster s c k).placedNext = s.placedNext := rfl
@[simp] theorem setCluster_phase (s : State) (c : BitVec 7) (k : ClusterState) : (setCluster s c k).phase = s.phase := rfl
@[simp] theorem setCluster_trained (s : State) (c : BitVec 7) (k : ClusterState) : (setCluster s c k).trained = s.trained := rfl
@[simp] theorem setCluster_rcause (s : State) (c : BitVec 7) (k : ClusterState) : (setCluster s c k).rcause = s.rcause := rfl
@[simp] theorem setCluster_dumpSt (s : State) (c : BitVec 7) (k : ClusterState) : (setCluster s c k).dumpSt = s.dumpSt := rfl
@[simp] theorem setCluster_fcause (s : State) (c : BitVec 7) (k : ClusterState) : (setCluster s c k).fcause = s.fcause := rfl
@[simp] theorem setCluster_capcl (s : State) (c : BitVec 7) (k : ClusterState) : (setCluster s c k).capcl = s.capcl := rfl
@[simp] theorem setCluster_capst (s : State) (c : BitVec 7) (k : ClusterState) : (setCluster s c k).capst = s.capst := rfl
@[simp] theorem setCluster_broken (s : State) (c : BitVec 7) (k : ClusterState) : (setCluster s c k).broken = s.broken := rfl
@[simp] theorem setCluster_capport (s : State) (c : BitVec 7) (k : ClusterState) : (setCluster s c k).capport = s.capport := rfl
@[simp] theorem setCluster_dumpBase (s : State) (c : BitVec 7) (k : ClusterState) : (setCluster s c k).dumpBase = s.dumpBase := rfl
@[simp] theorem setCluster_dumpLen (s : State) (c : BitVec 7) (k : ClusterState) : (setCluster s c k).dumpLen = s.dumpLen := rfl
@[simp] theorem setCluster_elHead (s : State) (c : BitVec 7) (k : ClusterState) : (setCluster s c k).elHead = s.elHead := rfl
@[simp] theorem setCluster_elTail (s : State) (c : BitVec 7) (k : ClusterState) : (setCluster s c k).elTail = s.elTail := rfl
@[simp] theorem setCluster_elVec (s : State) (c : BitVec 7) (k : ClusterState) : (setCluster s c k).elVec = s.elVec := rfl
@[simp] theorem setCluster_elEn (s : State) (c : BitVec 7) (k : ClusterState) : (setCluster s c k).elEn = s.elEn := rfl
@[simp] theorem setCluster_elLost (s : State) (c : BitVec 7) (k : ClusterState) : (setCluster s c k).elLost = s.elLost := rfl
@[simp] theorem setCluster_errLog (s : State) (c : BitVec 7) (k : ClusterState) : (setCluster s c k).errLog = s.errLog := rfl
@[simp] theorem setCluster_mrqHead (s : State) (c : BitVec 7) (k : ClusterState) : (setCluster s c k).mrqHead = s.mrqHead := rfl
@[simp] theorem setCluster_mrqTail (s : State) (c : BitVec 7) (k : ClusterState) : (setCluster s c k).mrqTail = s.mrqTail := rfl
@[simp] theorem setCluster_mevHead (s : State) (c : BitVec 7) (k : ClusterState) : (setCluster s c k).mevHead = s.mevHead := rfl
@[simp] theorem setCluster_mevTail (s : State) (c : BitVec 7) (k : ClusterState) : (setCluster s c k).mevTail = s.mevTail := rfl
@[simp] theorem setCluster_ringMem (s : State) (c : BitVec 7) (k : ClusterState) : (setCluster s c k).ringMem = s.ringMem := rfl
@[simp] theorem setCluster_msixPending (s : State) (c : BitVec 7) (k : ClusterState) : (setCluster s c k).msixPending = s.msixPending := rfl
@[simp] theorem setCluster_msixMem (s : State) (c : BitVec 7) (k : ClusterState) : (setCluster s c k).msixMem = s.msixMem := rfl
@[simp] theorem setCluster_funcs (s : State) (c : BitVec 7) (k : ClusterState) : (setCluster s c k).funcs = s.funcs := rfl
@[simp] theorem setCluster_sessions (s : State) (c : BitVec 7) (k : ClusterState) : (setCluster s c k).sessions = s.sessions := rfl
@[simp] theorem setCluster_handshakes (s : State) (c : BitVec 7) (k : ClusterState) : (setCluster s c k).handshakes = s.handshakes := rfl
@[simp] theorem setCluster_ideKeys (s : State) (c : BitVec 7) (k : ClusterState) : (setCluster s c k).ideKeys = s.ideKeys := rfl
@[simp] theorem setCluster_measurements (s : State) (c : BitVec 7) (k : ClusterState) : (setCluster s c k).measurements = s.measurements := rfl
@[simp] theorem setCluster_svn (s : State) (c : BitVec 7) (k : ClusterState) : (setCluster s c k).svn = s.svn := rfl
@[simp] theorem setCluster_marked (s : State) (c : BitVec 7) (k : ClusterState) : (setCluster s c k).marked = s.marked := rfl
@[simp] theorem setCluster_corrected (s : State) (c : BitVec 7) (k : ClusterState) : (setCluster s c k).corrected = s.corrected := rfl
@[simp] theorem setCluster_upsets (s : State) (c : BitVec 7) (k : ClusterState) : (setCluster s c k).upsets = s.upsets := rfl
@[simp] theorem setUnit_th (s : State) (u : BitVec 8) (k : UnitState) : (setUnit s u k).th = s.th := rfl
@[simp] theorem setUnit_rest (s : State) (u : BitVec 8) (k : UnitState) : (setUnit s u k).rest = s.rest := rfl
@[simp] theorem setUnit_pending (s : State) (u : BitVec 8) (k : UnitState) : (setUnit s u k).pending = s.pending := rfl
@[simp] theorem setUnit_inputs (s : State) (u : BitVec 8) (k : UnitState) : (setUnit s u k).inputs = s.inputs := rfl
@[simp] theorem setUnit_outbox (s : State) (u : BitVec 8) (k : UnitState) : (setUnit s u k).outbox = s.outbox := rfl
@[simp] theorem setUnit_turn (s : State) (u : BitVec 8) (k : UnitState) : (setUnit s u k).turn = s.turn := rfl
@[simp] theorem setUnit_clock (s : State) (u : BitVec 8) (k : UnitState) : (setUnit s u k).clock = s.clock := rfl
@[simp] theorem setUnit_stamp (s : State) (u : BitVec 8) (k : UnitState) : (setUnit s u k).stamp = s.stamp := rfl
@[simp] theorem setUnit_last (s : State) (u : BitVec 8) (k : UnitState) : (setUnit s u k).last = s.last := rfl
@[simp] theorem setUnit_dev (s : State) (u : BitVec 8) (k : UnitState) : (setUnit s u k).dev = s.dev := rfl
@[simp] theorem setUnit_dir (s : State) (u : BitVec 8) (k : UnitState) : (setUnit s u k).dir = s.dir := rfl
@[simp] theorem setUnit_cores (s : State) (u : BitVec 8) (k : UnitState) : (setUnit s u k).cores = s.cores := rfl
@[simp] theorem setUnit_clusters (s : State) (u : BitVec 8) (k : UnitState) : (setUnit s u k).clusters = s.clusters := rfl
@[simp] theorem setUnit_units (s : State) (u : BitVec 8) (k : UnitState) : (setUnit s u k).units = sset UnitState.init s.units u.toNat k := rfl
@[simp] theorem setUnit_teams (s : State) (u : BitVec 8) (k : UnitState) : (setUnit s u k).teams = s.teams := rfl
@[simp] theorem setUnit_teamNext (s : State) (u : BitVec 8) (k : UnitState) : (setUnit s u k).teamNext = s.teamNext := rfl
@[simp] theorem setUnit_copies (s : State) (u : BitVec 8) (k : UnitState) : (setUnit s u k).copies = s.copies := rfl
@[simp] theorem setUnit_heldBack (s : State) (u : BitVec 8) (k : UnitState) : (setUnit s u k).heldBack = s.heldBack := rfl
@[simp] theorem setUnit_agentLocs (s : State) (u : BitVec 8) (k : UnitState) : (setUnit s u k).agentLocs = s.agentLocs := rfl
@[simp] theorem setUnit_cmds (s : State) (u : BitVec 8) (k : UnitState) : (setUnit s u k).cmds = s.cmds := rfl
@[simp] theorem setUnit_locks (s : State) (u : BitVec 8) (k : UnitState) : (setUnit s u k).locks = s.locks := rfl
@[simp] theorem setUnit_mem (s : State) (u : BitVec 8) (k : UnitState) : (setUnit s u k).mem = s.mem := rfl
@[simp] theorem setUnit_buffers (s : State) (u : BitVec 8) (k : UnitState) : (setUnit s u k).buffers = s.buffers := rfl
@[simp] theorem setUnit_asids (s : State) (u : BitVec 8) (k : UnitState) : (setUnit s u k).asids = s.asids := rfl
@[simp] theorem setUnit_owners (s : State) (u : BitVec 8) (k : UnitState) : (setUnit s u k).owners = s.owners := rfl
@[simp] theorem setUnit_keySlots (s : State) (u : BitVec 8) (k : UnitState) : (setUnit s u k).keySlots = s.keySlots := rfl
@[simp] theorem setUnit_pageFaults (s : State) (u : BitVec 8) (k : UnitState) : (setUnit s u k).pageFaults = s.pageFaults := rfl
@[simp] theorem setUnit_pageTag (s : State) (u : BitVec 8) (k : UnitState) : (setUnit s u k).pageTag = s.pageTag := rfl
@[simp] theorem setUnit_shootdowns (s : State) (u : BitVec 8) (k : UnitState) : (setUnit s u k).shootdowns = s.shootdowns := rfl
@[simp] theorem setUnit_ranges (s : State) (u : BitVec 8) (k : UnitState) : (setUnit s u k).ranges = s.ranges := rfl
@[simp] theorem setUnit_tables (s : State) (u : BitVec 8) (k : UnitState) : (setUnit s u k).tables = s.tables := rfl
@[simp] theorem setUnit_bonds (s : State) (u : BitVec 8) (k : UnitState) : (setUnit s u k).bonds = s.bonds := rfl
@[simp] theorem setUnit_meshes (s : State) (u : BitVec 8) (k : UnitState) : (setUnit s u k).meshes = s.meshes := rfl
@[simp] theorem setUnit_bondWaits (s : State) (u : BitVec 8) (k : UnitState) : (setUnit s u k).bondWaits = s.bondWaits := rfl
@[simp] theorem setUnit_announced (s : State) (u : BitVec 8) (k : UnitState) : (setUnit s u k).announced = s.announced := rfl
@[simp] theorem setUnit_psyncs (s : State) (u : BitVec 8) (k : UnitState) : (setUnit s u k).psyncs = s.psyncs := rfl
@[simp] theorem setUnit_psyncBack (s : State) (u : BitVec 8) (k : UnitState) : (setUnit s u k).psyncBack = s.psyncBack := rfl
@[simp] theorem setUnit_windows (s : State) (u : BitVec 8) (k : UnitState) : (setUnit s u k).windows = s.windows := rfl
@[simp] theorem setUnit_conns (s : State) (u : BitVec 8) (k : UnitState) : (setUnit s u k).conns = s.conns := rfl
@[simp] theorem setUnit_rxConns (s : State) (u : BitVec 8) (k : UnitState) : (setUnit s u k).rxConns = s.rxConns := rfl
@[simp] theorem setUnit_rxHeld (s : State) (u : BitVec 8) (k : UnitState) : (setUnit s u k).rxHeld = s.rxHeld := rfl
@[simp] theorem setUnit_rxLandings (s : State) (u : BitVec 8) (k : UnitState) : (setUnit s u k).rxLandings = s.rxLandings := rfl
@[simp] theorem setUnit_paths (s : State) (u : BitVec 8) (k : UnitState) : (setUnit s u k).paths = s.paths := rfl
@[simp] theorem setUnit_tagGens (s : State) (u : BitVec 8) (k : UnitState) : (setUnit s u k).tagGens = s.tagGens := rfl
@[simp] theorem setUnit_secAssocs (s : State) (u : BitVec 8) (k : UnitState) : (setUnit s u k).secAssocs = s.secAssocs := rfl
@[simp] theorem setUnit_jobs (s : State) (u : BitVec 8) (k : UnitState) : (setUnit s u k).jobs = s.jobs := rfl
@[simp] theorem setUnit_peers (s : State) (u : BitVec 8) (k : UnitState) : (setUnit s u k).peers = s.peers := rfl
@[simp] theorem setUnit_netTimeout (s : State) (u : BitVec 8) (k : UnitState) : (setUnit s u k).netTimeout = s.netTimeout := rfl
@[simp] theorem setUnit_pfc (s : State) (u : BitVec 8) (k : UnitState) : (setUnit s u k).pfc = s.pfc := rfl
@[simp] theorem setUnit_portsDown (s : State) (u : BitVec 8) (k : UnitState) : (setUnit s u k).portsDown = s.portsDown := rfl
@[simp] theorem setUnit_nstale (s : State) (u : BitVec 8) (k : UnitState) : (setUnit s u k).nstale = s.nstale := rfl
@[simp] theorem setUnit_gmem (s : State) (u : BitVec 8) (k : UnitState) : (setUnit s u k).gmem = s.gmem := rfl
@[simp] theorem setUnit_channels (s : State) (u : BitVec 8) (k : UnitState) : (setUnit s u k).channels = s.channels := rfl
@[simp] theorem setUnit_launches (s : State) (u : BitVec 8) (k : UnitState) : (setUnit s u k).launches = s.launches := rfl
@[simp] theorem setUnit_queue (s : State) (u : BitVec 8) (k : UnitState) : (setUnit s u k).queue = s.queue := rfl
@[simp] theorem setUnit_rrCur (s : State) (u : BitVec 8) (k : UnitState) : (setUnit s u k).rrCur = s.rrCur := rfl
@[simp] theorem setUnit_rrTurns (s : State) (u : BitVec 8) (k : UnitState) : (setUnit s u k).rrTurns = s.rrTurns := rfl
@[simp] theorem setUnit_rrWeight (s : State) (u : BitVec 8) (k : UnitState) : (setUnit s u k).rrWeight = s.rrWeight := rfl
@[simp] theorem setUnit_placedNext (s : State) (u : BitVec 8) (k : UnitState) : (setUnit s u k).placedNext = s.placedNext := rfl
@[simp] theorem setUnit_phase (s : State) (u : BitVec 8) (k : UnitState) : (setUnit s u k).phase = s.phase := rfl
@[simp] theorem setUnit_trained (s : State) (u : BitVec 8) (k : UnitState) : (setUnit s u k).trained = s.trained := rfl
@[simp] theorem setUnit_rcause (s : State) (u : BitVec 8) (k : UnitState) : (setUnit s u k).rcause = s.rcause := rfl
@[simp] theorem setUnit_dumpSt (s : State) (u : BitVec 8) (k : UnitState) : (setUnit s u k).dumpSt = s.dumpSt := rfl
@[simp] theorem setUnit_fcause (s : State) (u : BitVec 8) (k : UnitState) : (setUnit s u k).fcause = s.fcause := rfl
@[simp] theorem setUnit_capcl (s : State) (u : BitVec 8) (k : UnitState) : (setUnit s u k).capcl = s.capcl := rfl
@[simp] theorem setUnit_capst (s : State) (u : BitVec 8) (k : UnitState) : (setUnit s u k).capst = s.capst := rfl
@[simp] theorem setUnit_broken (s : State) (u : BitVec 8) (k : UnitState) : (setUnit s u k).broken = s.broken := rfl
@[simp] theorem setUnit_capport (s : State) (u : BitVec 8) (k : UnitState) : (setUnit s u k).capport = s.capport := rfl
@[simp] theorem setUnit_dumpBase (s : State) (u : BitVec 8) (k : UnitState) : (setUnit s u k).dumpBase = s.dumpBase := rfl
@[simp] theorem setUnit_dumpLen (s : State) (u : BitVec 8) (k : UnitState) : (setUnit s u k).dumpLen = s.dumpLen := rfl
@[simp] theorem setUnit_elHead (s : State) (u : BitVec 8) (k : UnitState) : (setUnit s u k).elHead = s.elHead := rfl
@[simp] theorem setUnit_elTail (s : State) (u : BitVec 8) (k : UnitState) : (setUnit s u k).elTail = s.elTail := rfl
@[simp] theorem setUnit_elVec (s : State) (u : BitVec 8) (k : UnitState) : (setUnit s u k).elVec = s.elVec := rfl
@[simp] theorem setUnit_elEn (s : State) (u : BitVec 8) (k : UnitState) : (setUnit s u k).elEn = s.elEn := rfl
@[simp] theorem setUnit_elLost (s : State) (u : BitVec 8) (k : UnitState) : (setUnit s u k).elLost = s.elLost := rfl
@[simp] theorem setUnit_errLog (s : State) (u : BitVec 8) (k : UnitState) : (setUnit s u k).errLog = s.errLog := rfl
@[simp] theorem setUnit_mrqHead (s : State) (u : BitVec 8) (k : UnitState) : (setUnit s u k).mrqHead = s.mrqHead := rfl
@[simp] theorem setUnit_mrqTail (s : State) (u : BitVec 8) (k : UnitState) : (setUnit s u k).mrqTail = s.mrqTail := rfl
@[simp] theorem setUnit_mevHead (s : State) (u : BitVec 8) (k : UnitState) : (setUnit s u k).mevHead = s.mevHead := rfl
@[simp] theorem setUnit_mevTail (s : State) (u : BitVec 8) (k : UnitState) : (setUnit s u k).mevTail = s.mevTail := rfl
@[simp] theorem setUnit_ringMem (s : State) (u : BitVec 8) (k : UnitState) : (setUnit s u k).ringMem = s.ringMem := rfl
@[simp] theorem setUnit_msixPending (s : State) (u : BitVec 8) (k : UnitState) : (setUnit s u k).msixPending = s.msixPending := rfl
@[simp] theorem setUnit_msixMem (s : State) (u : BitVec 8) (k : UnitState) : (setUnit s u k).msixMem = s.msixMem := rfl
@[simp] theorem setUnit_funcs (s : State) (u : BitVec 8) (k : UnitState) : (setUnit s u k).funcs = s.funcs := rfl
@[simp] theorem setUnit_sessions (s : State) (u : BitVec 8) (k : UnitState) : (setUnit s u k).sessions = s.sessions := rfl
@[simp] theorem setUnit_handshakes (s : State) (u : BitVec 8) (k : UnitState) : (setUnit s u k).handshakes = s.handshakes := rfl
@[simp] theorem setUnit_ideKeys (s : State) (u : BitVec 8) (k : UnitState) : (setUnit s u k).ideKeys = s.ideKeys := rfl
@[simp] theorem setUnit_measurements (s : State) (u : BitVec 8) (k : UnitState) : (setUnit s u k).measurements = s.measurements := rfl
@[simp] theorem setUnit_svn (s : State) (u : BitVec 8) (k : UnitState) : (setUnit s u k).svn = s.svn := rfl
@[simp] theorem setUnit_marked (s : State) (u : BitVec 8) (k : UnitState) : (setUnit s u k).marked = s.marked := rfl
@[simp] theorem setUnit_corrected (s : State) (u : BitVec 8) (k : UnitState) : (setUnit s u k).corrected = s.corrected := rfl
@[simp] theorem setUnit_upsets (s : State) (u : BitVec 8) (k : UnitState) : (setUnit s u k).upsets = s.upsets := rfl
@[simp] theorem setDir_th (s : State) (i : BitVec 16) (e : DirEntry) : (setDir s i e).th = s.th := rfl
@[simp] theorem setDir_rest (s : State) (i : BitVec 16) (e : DirEntry) : (setDir s i e).rest = s.rest := rfl
@[simp] theorem setDir_pending (s : State) (i : BitVec 16) (e : DirEntry) : (setDir s i e).pending = s.pending := rfl
@[simp] theorem setDir_inputs (s : State) (i : BitVec 16) (e : DirEntry) : (setDir s i e).inputs = s.inputs := rfl
@[simp] theorem setDir_outbox (s : State) (i : BitVec 16) (e : DirEntry) : (setDir s i e).outbox = s.outbox := rfl
@[simp] theorem setDir_turn (s : State) (i : BitVec 16) (e : DirEntry) : (setDir s i e).turn = s.turn := rfl
@[simp] theorem setDir_clock (s : State) (i : BitVec 16) (e : DirEntry) : (setDir s i e).clock = s.clock := rfl
@[simp] theorem setDir_stamp (s : State) (i : BitVec 16) (e : DirEntry) : (setDir s i e).stamp = s.stamp := rfl
@[simp] theorem setDir_last (s : State) (i : BitVec 16) (e : DirEntry) : (setDir s i e).last = s.last := rfl
@[simp] theorem setDir_dev (s : State) (i : BitVec 16) (e : DirEntry) : (setDir s i e).dev = s.dev := rfl
@[simp] theorem setDir_dir (s : State) (i : BitVec 16) (e : DirEntry) : (setDir s i e).dir = sset DirEntry.init s.dir i.toNat e := rfl
@[simp] theorem setDir_cores (s : State) (i : BitVec 16) (e : DirEntry) : (setDir s i e).cores = s.cores := rfl
@[simp] theorem setDir_clusters (s : State) (i : BitVec 16) (e : DirEntry) : (setDir s i e).clusters = s.clusters := rfl
@[simp] theorem setDir_units (s : State) (i : BitVec 16) (e : DirEntry) : (setDir s i e).units = s.units := rfl
@[simp] theorem setDir_teams (s : State) (i : BitVec 16) (e : DirEntry) : (setDir s i e).teams = s.teams := rfl
@[simp] theorem setDir_teamNext (s : State) (i : BitVec 16) (e : DirEntry) : (setDir s i e).teamNext = s.teamNext := rfl
@[simp] theorem setDir_copies (s : State) (i : BitVec 16) (e : DirEntry) : (setDir s i e).copies = s.copies := rfl
@[simp] theorem setDir_heldBack (s : State) (i : BitVec 16) (e : DirEntry) : (setDir s i e).heldBack = s.heldBack := rfl
@[simp] theorem setDir_agentLocs (s : State) (i : BitVec 16) (e : DirEntry) : (setDir s i e).agentLocs = s.agentLocs := rfl
@[simp] theorem setDir_cmds (s : State) (i : BitVec 16) (e : DirEntry) : (setDir s i e).cmds = s.cmds := rfl
@[simp] theorem setDir_locks (s : State) (i : BitVec 16) (e : DirEntry) : (setDir s i e).locks = s.locks := rfl
@[simp] theorem setDir_mem (s : State) (i : BitVec 16) (e : DirEntry) : (setDir s i e).mem = s.mem := rfl
@[simp] theorem setDir_buffers (s : State) (i : BitVec 16) (e : DirEntry) : (setDir s i e).buffers = s.buffers := rfl
@[simp] theorem setDir_asids (s : State) (i : BitVec 16) (e : DirEntry) : (setDir s i e).asids = s.asids := rfl
@[simp] theorem setDir_owners (s : State) (i : BitVec 16) (e : DirEntry) : (setDir s i e).owners = s.owners := rfl
@[simp] theorem setDir_keySlots (s : State) (i : BitVec 16) (e : DirEntry) : (setDir s i e).keySlots = s.keySlots := rfl
@[simp] theorem setDir_pageFaults (s : State) (i : BitVec 16) (e : DirEntry) : (setDir s i e).pageFaults = s.pageFaults := rfl
@[simp] theorem setDir_pageTag (s : State) (i : BitVec 16) (e : DirEntry) : (setDir s i e).pageTag = s.pageTag := rfl
@[simp] theorem setDir_shootdowns (s : State) (i : BitVec 16) (e : DirEntry) : (setDir s i e).shootdowns = s.shootdowns := rfl
@[simp] theorem setDir_ranges (s : State) (i : BitVec 16) (e : DirEntry) : (setDir s i e).ranges = s.ranges := rfl
@[simp] theorem setDir_tables (s : State) (i : BitVec 16) (e : DirEntry) : (setDir s i e).tables = s.tables := rfl
@[simp] theorem setDir_bonds (s : State) (i : BitVec 16) (e : DirEntry) : (setDir s i e).bonds = s.bonds := rfl
@[simp] theorem setDir_meshes (s : State) (i : BitVec 16) (e : DirEntry) : (setDir s i e).meshes = s.meshes := rfl
@[simp] theorem setDir_bondWaits (s : State) (i : BitVec 16) (e : DirEntry) : (setDir s i e).bondWaits = s.bondWaits := rfl
@[simp] theorem setDir_announced (s : State) (i : BitVec 16) (e : DirEntry) : (setDir s i e).announced = s.announced := rfl
@[simp] theorem setDir_psyncs (s : State) (i : BitVec 16) (e : DirEntry) : (setDir s i e).psyncs = s.psyncs := rfl
@[simp] theorem setDir_psyncBack (s : State) (i : BitVec 16) (e : DirEntry) : (setDir s i e).psyncBack = s.psyncBack := rfl
@[simp] theorem setDir_windows (s : State) (i : BitVec 16) (e : DirEntry) : (setDir s i e).windows = s.windows := rfl
@[simp] theorem setDir_conns (s : State) (i : BitVec 16) (e : DirEntry) : (setDir s i e).conns = s.conns := rfl
@[simp] theorem setDir_rxConns (s : State) (i : BitVec 16) (e : DirEntry) : (setDir s i e).rxConns = s.rxConns := rfl
@[simp] theorem setDir_rxHeld (s : State) (i : BitVec 16) (e : DirEntry) : (setDir s i e).rxHeld = s.rxHeld := rfl
@[simp] theorem setDir_rxLandings (s : State) (i : BitVec 16) (e : DirEntry) : (setDir s i e).rxLandings = s.rxLandings := rfl
@[simp] theorem setDir_paths (s : State) (i : BitVec 16) (e : DirEntry) : (setDir s i e).paths = s.paths := rfl
@[simp] theorem setDir_tagGens (s : State) (i : BitVec 16) (e : DirEntry) : (setDir s i e).tagGens = s.tagGens := rfl
@[simp] theorem setDir_secAssocs (s : State) (i : BitVec 16) (e : DirEntry) : (setDir s i e).secAssocs = s.secAssocs := rfl
@[simp] theorem setDir_jobs (s : State) (i : BitVec 16) (e : DirEntry) : (setDir s i e).jobs = s.jobs := rfl
@[simp] theorem setDir_peers (s : State) (i : BitVec 16) (e : DirEntry) : (setDir s i e).peers = s.peers := rfl
@[simp] theorem setDir_netTimeout (s : State) (i : BitVec 16) (e : DirEntry) : (setDir s i e).netTimeout = s.netTimeout := rfl
@[simp] theorem setDir_pfc (s : State) (i : BitVec 16) (e : DirEntry) : (setDir s i e).pfc = s.pfc := rfl
@[simp] theorem setDir_portsDown (s : State) (i : BitVec 16) (e : DirEntry) : (setDir s i e).portsDown = s.portsDown := rfl
@[simp] theorem setDir_nstale (s : State) (i : BitVec 16) (e : DirEntry) : (setDir s i e).nstale = s.nstale := rfl
@[simp] theorem setDir_gmem (s : State) (i : BitVec 16) (e : DirEntry) : (setDir s i e).gmem = s.gmem := rfl
@[simp] theorem setDir_channels (s : State) (i : BitVec 16) (e : DirEntry) : (setDir s i e).channels = s.channels := rfl
@[simp] theorem setDir_launches (s : State) (i : BitVec 16) (e : DirEntry) : (setDir s i e).launches = s.launches := rfl
@[simp] theorem setDir_queue (s : State) (i : BitVec 16) (e : DirEntry) : (setDir s i e).queue = s.queue := rfl
@[simp] theorem setDir_rrCur (s : State) (i : BitVec 16) (e : DirEntry) : (setDir s i e).rrCur = s.rrCur := rfl
@[simp] theorem setDir_rrTurns (s : State) (i : BitVec 16) (e : DirEntry) : (setDir s i e).rrTurns = s.rrTurns := rfl
@[simp] theorem setDir_rrWeight (s : State) (i : BitVec 16) (e : DirEntry) : (setDir s i e).rrWeight = s.rrWeight := rfl
@[simp] theorem setDir_placedNext (s : State) (i : BitVec 16) (e : DirEntry) : (setDir s i e).placedNext = s.placedNext := rfl
@[simp] theorem setDir_phase (s : State) (i : BitVec 16) (e : DirEntry) : (setDir s i e).phase = s.phase := rfl
@[simp] theorem setDir_trained (s : State) (i : BitVec 16) (e : DirEntry) : (setDir s i e).trained = s.trained := rfl
@[simp] theorem setDir_rcause (s : State) (i : BitVec 16) (e : DirEntry) : (setDir s i e).rcause = s.rcause := rfl
@[simp] theorem setDir_dumpSt (s : State) (i : BitVec 16) (e : DirEntry) : (setDir s i e).dumpSt = s.dumpSt := rfl
@[simp] theorem setDir_fcause (s : State) (i : BitVec 16) (e : DirEntry) : (setDir s i e).fcause = s.fcause := rfl
@[simp] theorem setDir_capcl (s : State) (i : BitVec 16) (e : DirEntry) : (setDir s i e).capcl = s.capcl := rfl
@[simp] theorem setDir_capst (s : State) (i : BitVec 16) (e : DirEntry) : (setDir s i e).capst = s.capst := rfl
@[simp] theorem setDir_broken (s : State) (i : BitVec 16) (e : DirEntry) : (setDir s i e).broken = s.broken := rfl
@[simp] theorem setDir_capport (s : State) (i : BitVec 16) (e : DirEntry) : (setDir s i e).capport = s.capport := rfl
@[simp] theorem setDir_dumpBase (s : State) (i : BitVec 16) (e : DirEntry) : (setDir s i e).dumpBase = s.dumpBase := rfl
@[simp] theorem setDir_dumpLen (s : State) (i : BitVec 16) (e : DirEntry) : (setDir s i e).dumpLen = s.dumpLen := rfl
@[simp] theorem setDir_elHead (s : State) (i : BitVec 16) (e : DirEntry) : (setDir s i e).elHead = s.elHead := rfl
@[simp] theorem setDir_elTail (s : State) (i : BitVec 16) (e : DirEntry) : (setDir s i e).elTail = s.elTail := rfl
@[simp] theorem setDir_elVec (s : State) (i : BitVec 16) (e : DirEntry) : (setDir s i e).elVec = s.elVec := rfl
@[simp] theorem setDir_elEn (s : State) (i : BitVec 16) (e : DirEntry) : (setDir s i e).elEn = s.elEn := rfl
@[simp] theorem setDir_elLost (s : State) (i : BitVec 16) (e : DirEntry) : (setDir s i e).elLost = s.elLost := rfl
@[simp] theorem setDir_errLog (s : State) (i : BitVec 16) (e : DirEntry) : (setDir s i e).errLog = s.errLog := rfl
@[simp] theorem setDir_mrqHead (s : State) (i : BitVec 16) (e : DirEntry) : (setDir s i e).mrqHead = s.mrqHead := rfl
@[simp] theorem setDir_mrqTail (s : State) (i : BitVec 16) (e : DirEntry) : (setDir s i e).mrqTail = s.mrqTail := rfl
@[simp] theorem setDir_mevHead (s : State) (i : BitVec 16) (e : DirEntry) : (setDir s i e).mevHead = s.mevHead := rfl
@[simp] theorem setDir_mevTail (s : State) (i : BitVec 16) (e : DirEntry) : (setDir s i e).mevTail = s.mevTail := rfl
@[simp] theorem setDir_ringMem (s : State) (i : BitVec 16) (e : DirEntry) : (setDir s i e).ringMem = s.ringMem := rfl
@[simp] theorem setDir_msixPending (s : State) (i : BitVec 16) (e : DirEntry) : (setDir s i e).msixPending = s.msixPending := rfl
@[simp] theorem setDir_msixMem (s : State) (i : BitVec 16) (e : DirEntry) : (setDir s i e).msixMem = s.msixMem := rfl
@[simp] theorem setDir_funcs (s : State) (i : BitVec 16) (e : DirEntry) : (setDir s i e).funcs = s.funcs := rfl
@[simp] theorem setDir_sessions (s : State) (i : BitVec 16) (e : DirEntry) : (setDir s i e).sessions = s.sessions := rfl
@[simp] theorem setDir_handshakes (s : State) (i : BitVec 16) (e : DirEntry) : (setDir s i e).handshakes = s.handshakes := rfl
@[simp] theorem setDir_ideKeys (s : State) (i : BitVec 16) (e : DirEntry) : (setDir s i e).ideKeys = s.ideKeys := rfl
@[simp] theorem setDir_measurements (s : State) (i : BitVec 16) (e : DirEntry) : (setDir s i e).measurements = s.measurements := rfl
@[simp] theorem setDir_svn (s : State) (i : BitVec 16) (e : DirEntry) : (setDir s i e).svn = s.svn := rfl
@[simp] theorem setDir_marked (s : State) (i : BitVec 16) (e : DirEntry) : (setDir s i e).marked = s.marked := rfl
@[simp] theorem setDir_corrected (s : State) (i : BitVec 16) (e : DirEntry) : (setDir s i e).corrected = s.corrected := rfl
@[simp] theorem setDir_upsets (s : State) (i : BitVec 16) (e : DirEntry) : (setDir s i e).upsets = s.upsets := rfl
@[simp] theorem wrBytes_th (s : State) (a : Nat) (b : List Byte) : (wrBytes s a b).th = s.th := rfl
@[simp] theorem wrBytes_rest (s : State) (a : Nat) (b : List Byte) : (wrBytes s a b).rest = s.rest := rfl
@[simp] theorem wrBytes_pending (s : State) (a : Nat) (b : List Byte) : (wrBytes s a b).pending = s.pending := rfl
@[simp] theorem wrBytes_inputs (s : State) (a : Nat) (b : List Byte) : (wrBytes s a b).inputs = s.inputs := rfl
@[simp] theorem wrBytes_outbox (s : State) (a : Nat) (b : List Byte) : (wrBytes s a b).outbox = s.outbox := rfl
@[simp] theorem wrBytes_turn (s : State) (a : Nat) (b : List Byte) : (wrBytes s a b).turn = s.turn := rfl
@[simp] theorem wrBytes_clock (s : State) (a : Nat) (b : List Byte) : (wrBytes s a b).clock = s.clock := rfl
@[simp] theorem wrBytes_stamp (s : State) (a : Nat) (b : List Byte) : (wrBytes s a b).stamp = s.stamp := rfl
@[simp] theorem wrBytes_last (s : State) (a : Nat) (b : List Byte) : (wrBytes s a b).last = s.last := rfl
@[simp] theorem wrBytes_dev (s : State) (a : Nat) (b : List Byte) : (wrBytes s a b).dev = s.dev := rfl
@[simp] theorem wrBytes_dir (s : State) (a : Nat) (b : List Byte) : (wrBytes s a b).dir = s.dir := rfl
@[simp] theorem wrBytes_cores (s : State) (a : Nat) (b : List Byte) : (wrBytes s a b).cores = s.cores := rfl
@[simp] theorem wrBytes_clusters (s : State) (a : Nat) (b : List Byte) : (wrBytes s a b).clusters = s.clusters := rfl
@[simp] theorem wrBytes_units (s : State) (a : Nat) (b : List Byte) : (wrBytes s a b).units = s.units := rfl
@[simp] theorem wrBytes_teams (s : State) (a : Nat) (b : List Byte) : (wrBytes s a b).teams = s.teams := rfl
@[simp] theorem wrBytes_teamNext (s : State) (a : Nat) (b : List Byte) : (wrBytes s a b).teamNext = s.teamNext := rfl
@[simp] theorem wrBytes_copies (s : State) (a : Nat) (b : List Byte) : (wrBytes s a b).copies = s.copies := rfl
@[simp] theorem wrBytes_heldBack (s : State) (a : Nat) (b : List Byte) : (wrBytes s a b).heldBack = s.heldBack := rfl
@[simp] theorem wrBytes_agentLocs (s : State) (a : Nat) (b : List Byte) : (wrBytes s a b).agentLocs = s.agentLocs := rfl
@[simp] theorem wrBytes_cmds (s : State) (a : Nat) (b : List Byte) : (wrBytes s a b).cmds = s.cmds := rfl
@[simp] theorem wrBytes_locks (s : State) (a : Nat) (b : List Byte) : (wrBytes s a b).locks = s.locks := rfl
@[simp] theorem wrBytes_mem (s : State) (a : Nat) (b : List Byte) : (wrBytes s a b).mem = wrMem s.mem a b := rfl
@[simp] theorem wrBytes_buffers (s : State) (a : Nat) (b : List Byte) : (wrBytes s a b).buffers = s.buffers := rfl
@[simp] theorem wrBytes_asids (s : State) (a : Nat) (b : List Byte) : (wrBytes s a b).asids = s.asids := rfl
@[simp] theorem wrBytes_owners (s : State) (a : Nat) (b : List Byte) : (wrBytes s a b).owners = s.owners := rfl
@[simp] theorem wrBytes_keySlots (s : State) (a : Nat) (b : List Byte) : (wrBytes s a b).keySlots = s.keySlots := rfl
@[simp] theorem wrBytes_pageFaults (s : State) (a : Nat) (b : List Byte) : (wrBytes s a b).pageFaults = s.pageFaults := rfl
@[simp] theorem wrBytes_pageTag (s : State) (a : Nat) (b : List Byte) : (wrBytes s a b).pageTag = s.pageTag := rfl
@[simp] theorem wrBytes_shootdowns (s : State) (a : Nat) (b : List Byte) : (wrBytes s a b).shootdowns = s.shootdowns := rfl
@[simp] theorem wrBytes_ranges (s : State) (a : Nat) (b : List Byte) : (wrBytes s a b).ranges = s.ranges := rfl
@[simp] theorem wrBytes_tables (s : State) (a : Nat) (b : List Byte) : (wrBytes s a b).tables = s.tables := rfl
@[simp] theorem wrBytes_bonds (s : State) (a : Nat) (b : List Byte) : (wrBytes s a b).bonds = s.bonds := rfl
@[simp] theorem wrBytes_meshes (s : State) (a : Nat) (b : List Byte) : (wrBytes s a b).meshes = s.meshes := rfl
@[simp] theorem wrBytes_bondWaits (s : State) (a : Nat) (b : List Byte) : (wrBytes s a b).bondWaits = s.bondWaits := rfl
@[simp] theorem wrBytes_announced (s : State) (a : Nat) (b : List Byte) : (wrBytes s a b).announced = s.announced := rfl
@[simp] theorem wrBytes_psyncs (s : State) (a : Nat) (b : List Byte) : (wrBytes s a b).psyncs = s.psyncs := rfl
@[simp] theorem wrBytes_psyncBack (s : State) (a : Nat) (b : List Byte) : (wrBytes s a b).psyncBack = s.psyncBack := rfl
@[simp] theorem wrBytes_windows (s : State) (a : Nat) (b : List Byte) : (wrBytes s a b).windows = s.windows := rfl
@[simp] theorem wrBytes_conns (s : State) (a : Nat) (b : List Byte) : (wrBytes s a b).conns = s.conns := rfl
@[simp] theorem wrBytes_rxConns (s : State) (a : Nat) (b : List Byte) : (wrBytes s a b).rxConns = s.rxConns := rfl
@[simp] theorem wrBytes_rxHeld (s : State) (a : Nat) (b : List Byte) : (wrBytes s a b).rxHeld = s.rxHeld := rfl
@[simp] theorem wrBytes_rxLandings (s : State) (a : Nat) (b : List Byte) : (wrBytes s a b).rxLandings = s.rxLandings := rfl
@[simp] theorem wrBytes_paths (s : State) (a : Nat) (b : List Byte) : (wrBytes s a b).paths = s.paths := rfl
@[simp] theorem wrBytes_tagGens (s : State) (a : Nat) (b : List Byte) : (wrBytes s a b).tagGens = s.tagGens := rfl
@[simp] theorem wrBytes_secAssocs (s : State) (a : Nat) (b : List Byte) : (wrBytes s a b).secAssocs = s.secAssocs := rfl
@[simp] theorem wrBytes_jobs (s : State) (a : Nat) (b : List Byte) : (wrBytes s a b).jobs = s.jobs := rfl
@[simp] theorem wrBytes_peers (s : State) (a : Nat) (b : List Byte) : (wrBytes s a b).peers = s.peers := rfl
@[simp] theorem wrBytes_netTimeout (s : State) (a : Nat) (b : List Byte) : (wrBytes s a b).netTimeout = s.netTimeout := rfl
@[simp] theorem wrBytes_pfc (s : State) (a : Nat) (b : List Byte) : (wrBytes s a b).pfc = s.pfc := rfl
@[simp] theorem wrBytes_portsDown (s : State) (a : Nat) (b : List Byte) : (wrBytes s a b).portsDown = s.portsDown := rfl
@[simp] theorem wrBytes_nstale (s : State) (a : Nat) (b : List Byte) : (wrBytes s a b).nstale = s.nstale := rfl
@[simp] theorem wrBytes_gmem (s : State) (a : Nat) (b : List Byte) : (wrBytes s a b).gmem = s.gmem := rfl
@[simp] theorem wrBytes_channels (s : State) (a : Nat) (b : List Byte) : (wrBytes s a b).channels = s.channels := rfl
@[simp] theorem wrBytes_launches (s : State) (a : Nat) (b : List Byte) : (wrBytes s a b).launches = s.launches := rfl
@[simp] theorem wrBytes_queue (s : State) (a : Nat) (b : List Byte) : (wrBytes s a b).queue = s.queue := rfl
@[simp] theorem wrBytes_rrCur (s : State) (a : Nat) (b : List Byte) : (wrBytes s a b).rrCur = s.rrCur := rfl
@[simp] theorem wrBytes_rrTurns (s : State) (a : Nat) (b : List Byte) : (wrBytes s a b).rrTurns = s.rrTurns := rfl
@[simp] theorem wrBytes_rrWeight (s : State) (a : Nat) (b : List Byte) : (wrBytes s a b).rrWeight = s.rrWeight := rfl
@[simp] theorem wrBytes_placedNext (s : State) (a : Nat) (b : List Byte) : (wrBytes s a b).placedNext = s.placedNext := rfl
@[simp] theorem wrBytes_phase (s : State) (a : Nat) (b : List Byte) : (wrBytes s a b).phase = s.phase := rfl
@[simp] theorem wrBytes_trained (s : State) (a : Nat) (b : List Byte) : (wrBytes s a b).trained = s.trained := rfl
@[simp] theorem wrBytes_rcause (s : State) (a : Nat) (b : List Byte) : (wrBytes s a b).rcause = s.rcause := rfl
@[simp] theorem wrBytes_dumpSt (s : State) (a : Nat) (b : List Byte) : (wrBytes s a b).dumpSt = s.dumpSt := rfl
@[simp] theorem wrBytes_fcause (s : State) (a : Nat) (b : List Byte) : (wrBytes s a b).fcause = s.fcause := rfl
@[simp] theorem wrBytes_capcl (s : State) (a : Nat) (b : List Byte) : (wrBytes s a b).capcl = s.capcl := rfl
@[simp] theorem wrBytes_capst (s : State) (a : Nat) (b : List Byte) : (wrBytes s a b).capst = s.capst := rfl
@[simp] theorem wrBytes_broken (s : State) (a : Nat) (b : List Byte) : (wrBytes s a b).broken = s.broken := rfl
@[simp] theorem wrBytes_capport (s : State) (a : Nat) (b : List Byte) : (wrBytes s a b).capport = s.capport := rfl
@[simp] theorem wrBytes_dumpBase (s : State) (a : Nat) (b : List Byte) : (wrBytes s a b).dumpBase = s.dumpBase := rfl
@[simp] theorem wrBytes_dumpLen (s : State) (a : Nat) (b : List Byte) : (wrBytes s a b).dumpLen = s.dumpLen := rfl
@[simp] theorem wrBytes_elHead (s : State) (a : Nat) (b : List Byte) : (wrBytes s a b).elHead = s.elHead := rfl
@[simp] theorem wrBytes_elTail (s : State) (a : Nat) (b : List Byte) : (wrBytes s a b).elTail = s.elTail := rfl
@[simp] theorem wrBytes_elVec (s : State) (a : Nat) (b : List Byte) : (wrBytes s a b).elVec = s.elVec := rfl
@[simp] theorem wrBytes_elEn (s : State) (a : Nat) (b : List Byte) : (wrBytes s a b).elEn = s.elEn := rfl
@[simp] theorem wrBytes_elLost (s : State) (a : Nat) (b : List Byte) : (wrBytes s a b).elLost = s.elLost := rfl
@[simp] theorem wrBytes_errLog (s : State) (a : Nat) (b : List Byte) : (wrBytes s a b).errLog = s.errLog := rfl
@[simp] theorem wrBytes_mrqHead (s : State) (a : Nat) (b : List Byte) : (wrBytes s a b).mrqHead = s.mrqHead := rfl
@[simp] theorem wrBytes_mrqTail (s : State) (a : Nat) (b : List Byte) : (wrBytes s a b).mrqTail = s.mrqTail := rfl
@[simp] theorem wrBytes_mevHead (s : State) (a : Nat) (b : List Byte) : (wrBytes s a b).mevHead = s.mevHead := rfl
@[simp] theorem wrBytes_mevTail (s : State) (a : Nat) (b : List Byte) : (wrBytes s a b).mevTail = s.mevTail := rfl
@[simp] theorem wrBytes_ringMem (s : State) (a : Nat) (b : List Byte) : (wrBytes s a b).ringMem = s.ringMem := rfl
@[simp] theorem wrBytes_msixPending (s : State) (a : Nat) (b : List Byte) : (wrBytes s a b).msixPending = s.msixPending := rfl
@[simp] theorem wrBytes_msixMem (s : State) (a : Nat) (b : List Byte) : (wrBytes s a b).msixMem = s.msixMem := rfl
@[simp] theorem wrBytes_funcs (s : State) (a : Nat) (b : List Byte) : (wrBytes s a b).funcs = s.funcs := rfl
@[simp] theorem wrBytes_sessions (s : State) (a : Nat) (b : List Byte) : (wrBytes s a b).sessions = s.sessions := rfl
@[simp] theorem wrBytes_handshakes (s : State) (a : Nat) (b : List Byte) : (wrBytes s a b).handshakes = s.handshakes := rfl
@[simp] theorem wrBytes_ideKeys (s : State) (a : Nat) (b : List Byte) : (wrBytes s a b).ideKeys = s.ideKeys := rfl
@[simp] theorem wrBytes_measurements (s : State) (a : Nat) (b : List Byte) : (wrBytes s a b).measurements = s.measurements := rfl
@[simp] theorem wrBytes_svn (s : State) (a : Nat) (b : List Byte) : (wrBytes s a b).svn = s.svn := rfl
@[simp] theorem wrBytes_marked (s : State) (a : Nat) (b : List Byte) : (wrBytes s a b).marked = s.marked := rfl
@[simp] theorem wrBytes_corrected (s : State) (a : Nat) (b : List Byte) : (wrBytes s a b).corrected = s.corrected := rfl
@[simp] theorem wrBytes_upsets (s : State) (a : Nat) (b : List Byte) : (wrBytes s a b).upsets = s.upsets := rfl

/-! ### A thread -/

@[simp] theorem advance_handle (t : Thread) : (advance t).handle = t.handle := rfl
@[simp] theorem advance_world (t : Thread) : (advance t).world = t.world := rfl
@[simp] theorem advance_asid (t : Thread) : (advance t).asid = t.asid := rfl
@[simp] theorem advance_prio (t : Thread) : (advance t).prio = t.prio := rfl
@[simp] theorem advance_graph (t : Thread) : (advance t).graph = t.graph := rfl
@[simp] theorem advance_node (t : Thread) : (advance t).node = t.node := rfl
@[simp] theorem advance_team (t : Thread) : (advance t).team = t.team := rfl
@[simp] theorem advance_member (t : Thread) : (advance t).member = t.member := rfl
@[simp] theorem advance_core (t : Thread) : (advance t).core = t.core := rfl
@[simp] theorem advance_slot (t : Thread) : (advance t).slot = t.slot := rfl
@[simp] theorem advance_win (t : Thread) : (advance t).win = t.win := rfl
@[simp] theorem advance_status (t : Thread) : (advance t).status = t.status := rfl
@[simp] theorem advance_pc (t : Thread) : (advance t).pc = t.pc + 8 := rfl
@[simp] theorem advance_s (t : Thread) : (advance t).s = t.s := rfl
@[simp] theorem advance_m (t : Thread) : (advance t).m = t.m := rfl
@[simp] theorem advance_x (t : Thread) : (advance t).x = t.x := rfl
@[simp] theorem advance_v (t : Thread) : (advance t).v = t.v := rfl
@[simp] theorem advance_sc (t : Thread) : (advance t).sc = t.sc := rfl
@[simp] theorem advance_mc (t : Thread) : (advance t).mc = t.mc := rfl
@[simp] theorem advance_vc (t : Thread) : (advance t).vc = t.vc := rfl
@[simp] theorem advance_tstat (t : Thread) : (advance t).tstat = t.tstat := rfl
@[simp] theorem advance_actl (t : Thread) : (advance t).actl = t.actl := rfl
@[simp] theorem advance_tcause (t : Thread) : (advance t).tcause = t.tcause := rfl
@[simp] theorem advance_tval (t : Thread) : (advance t).tval = t.tval := rfl
@[simp] theorem advance_tepc (t : Thread) : (advance t).tepc = t.tepc := rfl
@[simp] theorem advance_tvec (t : Thread) : (advance t).tvec = t.tvec := rfl
@[simp] theorem advance_lfaultLo (t : Thread) : (advance t).lfaultLo = t.lfaultLo := rfl
@[simp] theorem advance_lfaultHi (t : Thread) : (advance t).lfaultHi = t.lfaultHi := rfl
@[simp] theorem advance_dseqNext (t : Thread) : (advance t).dseqNext = t.dseqNext := rfl
@[simp] theorem advance_muw (t : Thread) : (advance t).muw = t.muw := rfl
@[simp] theorem advance_bfmt (t : Thread) : (advance t).bfmt = t.bfmt := rfl
@[simp] theorem advance_cbk (t : Thread) : (advance t).cbk = t.cbk := rfl
@[simp] theorem advance_ring (t : Thread) : (advance t).ring = t.ring := rfl
@[simp] theorem advance_cord (t : Thread) : (advance t).cord = t.cord := rfl
@[simp] theorem advance_fetched (t : Thread) : (advance t).fetched = t.fetched := rfl
@[simp] theorem advance_runnable (t : Thread) : (advance t).runnable = t.runnable := rfl
@[simp] theorem advance_progress (t : Thread) : (advance t).progress = t.progress := rfl
@[simp] theorem advance_cause (t : Thread) : (advance t).cause = t.cause := rfl
@[simp] theorem advance_joinCell (t : Thread) : (advance t).joinCell = t.joinCell := rfl
@[simp] theorem advance_save (t : Thread) : (advance t).save = t.save := rfl
@[simp] theorem advance_woken (t : Thread) : (advance t).woken = t.woken := rfl
@[simp] theorem advance_waited (t : Thread) : (advance t).waited = t.waited := rfl
@[simp] theorem advance_awaited (t : Thread) : (advance t).awaited = t.awaited := rfl
@[simp] theorem advance_walked (t : Thread) : (advance t).walked = t.walked := rfl
@[simp] theorem advance_failed (t : Thread) : (advance t).failed = t.failed := rfl
@[simp] theorem advance_served (t : Thread) : (advance t).served = t.served := rfl
@[simp] theorem advance_fences (t : Thread) : (advance t).fences = t.fences := rfl
@[simp] theorem advance_prog (t : Thread) : (advance t).prog = t.prog := rfl
@[simp] theorem wrX_handle (t : Thread) (r : BitVec 3) (v : BitVec 10) : (wrX t r v).handle = t.handle := rfl
@[simp] theorem wrX_world (t : Thread) (r : BitVec 3) (v : BitVec 10) : (wrX t r v).world = t.world := rfl
@[simp] theorem wrX_asid (t : Thread) (r : BitVec 3) (v : BitVec 10) : (wrX t r v).asid = t.asid := rfl
@[simp] theorem wrX_prio (t : Thread) (r : BitVec 3) (v : BitVec 10) : (wrX t r v).prio = t.prio := rfl
@[simp] theorem wrX_graph (t : Thread) (r : BitVec 3) (v : BitVec 10) : (wrX t r v).graph = t.graph := rfl
@[simp] theorem wrX_node (t : Thread) (r : BitVec 3) (v : BitVec 10) : (wrX t r v).node = t.node := rfl
@[simp] theorem wrX_team (t : Thread) (r : BitVec 3) (v : BitVec 10) : (wrX t r v).team = t.team := rfl
@[simp] theorem wrX_member (t : Thread) (r : BitVec 3) (v : BitVec 10) : (wrX t r v).member = t.member := rfl
@[simp] theorem wrX_core (t : Thread) (r : BitVec 3) (v : BitVec 10) : (wrX t r v).core = t.core := rfl
@[simp] theorem wrX_slot (t : Thread) (r : BitVec 3) (v : BitVec 10) : (wrX t r v).slot = t.slot := rfl
@[simp] theorem wrX_win (t : Thread) (r : BitVec 3) (v : BitVec 10) : (wrX t r v).win = t.win := rfl
@[simp] theorem wrX_status (t : Thread) (r : BitVec 3) (v : BitVec 10) : (wrX t r v).status = t.status := rfl
@[simp] theorem wrX_pc (t : Thread) (r : BitVec 3) (v : BitVec 10) : (wrX t r v).pc = t.pc := rfl
@[simp] theorem wrX_s (t : Thread) (r : BitVec 3) (v : BitVec 10) : (wrX t r v).s = t.s := rfl
@[simp] theorem wrX_m (t : Thread) (r : BitVec 3) (v : BitVec 10) : (wrX t r v).m = t.m := rfl
@[simp] theorem wrX_v (t : Thread) (r : BitVec 3) (v : BitVec 10) : (wrX t r v).v = t.v := rfl
@[simp] theorem wrX_sc (t : Thread) (r : BitVec 3) (v : BitVec 10) : (wrX t r v).sc = t.sc := rfl
@[simp] theorem wrX_mc (t : Thread) (r : BitVec 3) (v : BitVec 10) : (wrX t r v).mc = t.mc := rfl
@[simp] theorem wrX_vc (t : Thread) (r : BitVec 3) (v : BitVec 10) : (wrX t r v).vc = t.vc := rfl
@[simp] theorem wrX_tstat (t : Thread) (r : BitVec 3) (v : BitVec 10) : (wrX t r v).tstat = t.tstat := rfl
@[simp] theorem wrX_actl (t : Thread) (r : BitVec 3) (v : BitVec 10) : (wrX t r v).actl = t.actl := rfl
@[simp] theorem wrX_tcause (t : Thread) (r : BitVec 3) (v : BitVec 10) : (wrX t r v).tcause = t.tcause := rfl
@[simp] theorem wrX_tval (t : Thread) (r : BitVec 3) (v : BitVec 10) : (wrX t r v).tval = t.tval := rfl
@[simp] theorem wrX_tepc (t : Thread) (r : BitVec 3) (v : BitVec 10) : (wrX t r v).tepc = t.tepc := rfl
@[simp] theorem wrX_tvec (t : Thread) (r : BitVec 3) (v : BitVec 10) : (wrX t r v).tvec = t.tvec := rfl
@[simp] theorem wrX_lfaultLo (t : Thread) (r : BitVec 3) (v : BitVec 10) : (wrX t r v).lfaultLo = t.lfaultLo := rfl
@[simp] theorem wrX_lfaultHi (t : Thread) (r : BitVec 3) (v : BitVec 10) : (wrX t r v).lfaultHi = t.lfaultHi := rfl
@[simp] theorem wrX_dseqNext (t : Thread) (r : BitVec 3) (v : BitVec 10) : (wrX t r v).dseqNext = t.dseqNext := rfl
@[simp] theorem wrX_muw (t : Thread) (r : BitVec 3) (v : BitVec 10) : (wrX t r v).muw = t.muw := rfl
@[simp] theorem wrX_bfmt (t : Thread) (r : BitVec 3) (v : BitVec 10) : (wrX t r v).bfmt = t.bfmt := rfl
@[simp] theorem wrX_cbk (t : Thread) (r : BitVec 3) (v : BitVec 10) : (wrX t r v).cbk = t.cbk := rfl
@[simp] theorem wrX_ring (t : Thread) (r : BitVec 3) (v : BitVec 10) : (wrX t r v).ring = t.ring := rfl
@[simp] theorem wrX_cord (t : Thread) (r : BitVec 3) (v : BitVec 10) : (wrX t r v).cord = t.cord := rfl
@[simp] theorem wrX_fetched (t : Thread) (r : BitVec 3) (v : BitVec 10) : (wrX t r v).fetched = t.fetched := rfl
@[simp] theorem wrX_runnable (t : Thread) (r : BitVec 3) (v : BitVec 10) : (wrX t r v).runnable = t.runnable := rfl
@[simp] theorem wrX_progress (t : Thread) (r : BitVec 3) (v : BitVec 10) : (wrX t r v).progress = t.progress := rfl
@[simp] theorem wrX_cause (t : Thread) (r : BitVec 3) (v : BitVec 10) : (wrX t r v).cause = t.cause := rfl
@[simp] theorem wrX_joinCell (t : Thread) (r : BitVec 3) (v : BitVec 10) : (wrX t r v).joinCell = t.joinCell := rfl
@[simp] theorem wrX_save (t : Thread) (r : BitVec 3) (v : BitVec 10) : (wrX t r v).save = t.save := rfl
@[simp] theorem wrX_woken (t : Thread) (r : BitVec 3) (v : BitVec 10) : (wrX t r v).woken = t.woken := rfl
@[simp] theorem wrX_waited (t : Thread) (r : BitVec 3) (v : BitVec 10) : (wrX t r v).waited = t.waited := rfl
@[simp] theorem wrX_awaited (t : Thread) (r : BitVec 3) (v : BitVec 10) : (wrX t r v).awaited = t.awaited := rfl
@[simp] theorem wrX_walked (t : Thread) (r : BitVec 3) (v : BitVec 10) : (wrX t r v).walked = t.walked := rfl
@[simp] theorem wrX_failed (t : Thread) (r : BitVec 3) (v : BitVec 10) : (wrX t r v).failed = t.failed := rfl
@[simp] theorem wrX_served (t : Thread) (r : BitVec 3) (v : BitVec 10) : (wrX t r v).served = t.served := rfl
@[simp] theorem wrX_fences (t : Thread) (r : BitVec 3) (v : BitVec 10) : (wrX t r v).fences = t.fences := rfl
@[simp] theorem wrX_prog (t : Thread) (r : BitVec 3) (v : BitVec 10) : (wrX t r v).prog = t.prog := rfl
@[simp] theorem wrV_handle (t : Thread) (r : BitVec 9) (v : Lanes) : (wrV t r v).handle = t.handle := rfl
@[simp] theorem wrV_world (t : Thread) (r : BitVec 9) (v : Lanes) : (wrV t r v).world = t.world := rfl
@[simp] theorem wrV_asid (t : Thread) (r : BitVec 9) (v : Lanes) : (wrV t r v).asid = t.asid := rfl
@[simp] theorem wrV_prio (t : Thread) (r : BitVec 9) (v : Lanes) : (wrV t r v).prio = t.prio := rfl
@[simp] theorem wrV_graph (t : Thread) (r : BitVec 9) (v : Lanes) : (wrV t r v).graph = t.graph := rfl
@[simp] theorem wrV_node (t : Thread) (r : BitVec 9) (v : Lanes) : (wrV t r v).node = t.node := rfl
@[simp] theorem wrV_team (t : Thread) (r : BitVec 9) (v : Lanes) : (wrV t r v).team = t.team := rfl
@[simp] theorem wrV_member (t : Thread) (r : BitVec 9) (v : Lanes) : (wrV t r v).member = t.member := rfl
@[simp] theorem wrV_core (t : Thread) (r : BitVec 9) (v : Lanes) : (wrV t r v).core = t.core := rfl
@[simp] theorem wrV_slot (t : Thread) (r : BitVec 9) (v : Lanes) : (wrV t r v).slot = t.slot := rfl
@[simp] theorem wrV_win (t : Thread) (r : BitVec 9) (v : Lanes) : (wrV t r v).win = t.win := rfl
@[simp] theorem wrV_status (t : Thread) (r : BitVec 9) (v : Lanes) : (wrV t r v).status = t.status := rfl
@[simp] theorem wrV_pc (t : Thread) (r : BitVec 9) (v : Lanes) : (wrV t r v).pc = t.pc := rfl
@[simp] theorem wrV_s (t : Thread) (r : BitVec 9) (v : Lanes) : (wrV t r v).s = t.s := rfl
@[simp] theorem wrV_m (t : Thread) (r : BitVec 9) (v : Lanes) : (wrV t r v).m = t.m := rfl
@[simp] theorem wrV_x (t : Thread) (r : BitVec 9) (v : Lanes) : (wrV t r v).x = t.x := rfl
@[simp] theorem wrV_sc (t : Thread) (r : BitVec 9) (v : Lanes) : (wrV t r v).sc = t.sc := rfl
@[simp] theorem wrV_mc (t : Thread) (r : BitVec 9) (v : Lanes) : (wrV t r v).mc = t.mc := rfl
@[simp] theorem wrV_vc (t : Thread) (r : BitVec 9) (v : Lanes) : (wrV t r v).vc = t.vc := rfl
@[simp] theorem wrV_tstat (t : Thread) (r : BitVec 9) (v : Lanes) : (wrV t r v).tstat = t.tstat := rfl
@[simp] theorem wrV_actl (t : Thread) (r : BitVec 9) (v : Lanes) : (wrV t r v).actl = t.actl := rfl
@[simp] theorem wrV_tcause (t : Thread) (r : BitVec 9) (v : Lanes) : (wrV t r v).tcause = t.tcause := rfl
@[simp] theorem wrV_tval (t : Thread) (r : BitVec 9) (v : Lanes) : (wrV t r v).tval = t.tval := rfl
@[simp] theorem wrV_tepc (t : Thread) (r : BitVec 9) (v : Lanes) : (wrV t r v).tepc = t.tepc := rfl
@[simp] theorem wrV_tvec (t : Thread) (r : BitVec 9) (v : Lanes) : (wrV t r v).tvec = t.tvec := rfl
@[simp] theorem wrV_lfaultLo (t : Thread) (r : BitVec 9) (v : Lanes) : (wrV t r v).lfaultLo = t.lfaultLo := rfl
@[simp] theorem wrV_lfaultHi (t : Thread) (r : BitVec 9) (v : Lanes) : (wrV t r v).lfaultHi = t.lfaultHi := rfl
@[simp] theorem wrV_dseqNext (t : Thread) (r : BitVec 9) (v : Lanes) : (wrV t r v).dseqNext = t.dseqNext := rfl
@[simp] theorem wrV_muw (t : Thread) (r : BitVec 9) (v : Lanes) : (wrV t r v).muw = t.muw := rfl
@[simp] theorem wrV_bfmt (t : Thread) (r : BitVec 9) (v : Lanes) : (wrV t r v).bfmt = t.bfmt := rfl
@[simp] theorem wrV_cbk (t : Thread) (r : BitVec 9) (v : Lanes) : (wrV t r v).cbk = t.cbk := rfl
@[simp] theorem wrV_ring (t : Thread) (r : BitVec 9) (v : Lanes) : (wrV t r v).ring = t.ring := rfl
@[simp] theorem wrV_cord (t : Thread) (r : BitVec 9) (v : Lanes) : (wrV t r v).cord = t.cord := rfl
@[simp] theorem wrV_fetched (t : Thread) (r : BitVec 9) (v : Lanes) : (wrV t r v).fetched = t.fetched := rfl
@[simp] theorem wrV_runnable (t : Thread) (r : BitVec 9) (v : Lanes) : (wrV t r v).runnable = t.runnable := rfl
@[simp] theorem wrV_progress (t : Thread) (r : BitVec 9) (v : Lanes) : (wrV t r v).progress = t.progress := rfl
@[simp] theorem wrV_cause (t : Thread) (r : BitVec 9) (v : Lanes) : (wrV t r v).cause = t.cause := rfl
@[simp] theorem wrV_joinCell (t : Thread) (r : BitVec 9) (v : Lanes) : (wrV t r v).joinCell = t.joinCell := rfl
@[simp] theorem wrV_save (t : Thread) (r : BitVec 9) (v : Lanes) : (wrV t r v).save = t.save := rfl
@[simp] theorem wrV_woken (t : Thread) (r : BitVec 9) (v : Lanes) : (wrV t r v).woken = t.woken := rfl
@[simp] theorem wrV_waited (t : Thread) (r : BitVec 9) (v : Lanes) : (wrV t r v).waited = t.waited := rfl
@[simp] theorem wrV_awaited (t : Thread) (r : BitVec 9) (v : Lanes) : (wrV t r v).awaited = t.awaited := rfl
@[simp] theorem wrV_walked (t : Thread) (r : BitVec 9) (v : Lanes) : (wrV t r v).walked = t.walked := rfl
@[simp] theorem wrV_failed (t : Thread) (r : BitVec 9) (v : Lanes) : (wrV t r v).failed = t.failed := rfl
@[simp] theorem wrV_served (t : Thread) (r : BitVec 9) (v : Lanes) : (wrV t r v).served = t.served := rfl
@[simp] theorem wrV_fences (t : Thread) (r : BitVec 9) (v : Lanes) : (wrV t r v).fences = t.fences := rfl
@[simp] theorem wrV_prog (t : Thread) (r : BitVec 9) (v : Lanes) : (wrV t r v).prog = t.prog := rfl
@[simp] theorem wrBfmt_handle (t : Thread) (b : BitVec 4) (f : BitVec 8) : (wrBfmt t b f).handle = t.handle := rfl
@[simp] theorem wrBfmt_world (t : Thread) (b : BitVec 4) (f : BitVec 8) : (wrBfmt t b f).world = t.world := rfl
@[simp] theorem wrBfmt_asid (t : Thread) (b : BitVec 4) (f : BitVec 8) : (wrBfmt t b f).asid = t.asid := rfl
@[simp] theorem wrBfmt_prio (t : Thread) (b : BitVec 4) (f : BitVec 8) : (wrBfmt t b f).prio = t.prio := rfl
@[simp] theorem wrBfmt_graph (t : Thread) (b : BitVec 4) (f : BitVec 8) : (wrBfmt t b f).graph = t.graph := rfl
@[simp] theorem wrBfmt_node (t : Thread) (b : BitVec 4) (f : BitVec 8) : (wrBfmt t b f).node = t.node := rfl
@[simp] theorem wrBfmt_team (t : Thread) (b : BitVec 4) (f : BitVec 8) : (wrBfmt t b f).team = t.team := rfl
@[simp] theorem wrBfmt_member (t : Thread) (b : BitVec 4) (f : BitVec 8) : (wrBfmt t b f).member = t.member := rfl
@[simp] theorem wrBfmt_core (t : Thread) (b : BitVec 4) (f : BitVec 8) : (wrBfmt t b f).core = t.core := rfl
@[simp] theorem wrBfmt_slot (t : Thread) (b : BitVec 4) (f : BitVec 8) : (wrBfmt t b f).slot = t.slot := rfl
@[simp] theorem wrBfmt_win (t : Thread) (b : BitVec 4) (f : BitVec 8) : (wrBfmt t b f).win = t.win := rfl
@[simp] theorem wrBfmt_status (t : Thread) (b : BitVec 4) (f : BitVec 8) : (wrBfmt t b f).status = t.status := rfl
@[simp] theorem wrBfmt_pc (t : Thread) (b : BitVec 4) (f : BitVec 8) : (wrBfmt t b f).pc = t.pc := rfl
@[simp] theorem wrBfmt_s (t : Thread) (b : BitVec 4) (f : BitVec 8) : (wrBfmt t b f).s = t.s := rfl
@[simp] theorem wrBfmt_m (t : Thread) (b : BitVec 4) (f : BitVec 8) : (wrBfmt t b f).m = t.m := rfl
@[simp] theorem wrBfmt_x (t : Thread) (b : BitVec 4) (f : BitVec 8) : (wrBfmt t b f).x = t.x := rfl
@[simp] theorem wrBfmt_v (t : Thread) (b : BitVec 4) (f : BitVec 8) : (wrBfmt t b f).v = t.v := rfl
@[simp] theorem wrBfmt_sc (t : Thread) (b : BitVec 4) (f : BitVec 8) : (wrBfmt t b f).sc = t.sc := rfl
@[simp] theorem wrBfmt_mc (t : Thread) (b : BitVec 4) (f : BitVec 8) : (wrBfmt t b f).mc = t.mc := rfl
@[simp] theorem wrBfmt_vc (t : Thread) (b : BitVec 4) (f : BitVec 8) : (wrBfmt t b f).vc = t.vc := rfl
@[simp] theorem wrBfmt_tstat (t : Thread) (b : BitVec 4) (f : BitVec 8) : (wrBfmt t b f).tstat = t.tstat := rfl
@[simp] theorem wrBfmt_actl (t : Thread) (b : BitVec 4) (f : BitVec 8) : (wrBfmt t b f).actl = t.actl := rfl
@[simp] theorem wrBfmt_tcause (t : Thread) (b : BitVec 4) (f : BitVec 8) : (wrBfmt t b f).tcause = t.tcause := rfl
@[simp] theorem wrBfmt_tval (t : Thread) (b : BitVec 4) (f : BitVec 8) : (wrBfmt t b f).tval = t.tval := rfl
@[simp] theorem wrBfmt_tepc (t : Thread) (b : BitVec 4) (f : BitVec 8) : (wrBfmt t b f).tepc = t.tepc := rfl
@[simp] theorem wrBfmt_tvec (t : Thread) (b : BitVec 4) (f : BitVec 8) : (wrBfmt t b f).tvec = t.tvec := rfl
@[simp] theorem wrBfmt_lfaultLo (t : Thread) (b : BitVec 4) (f : BitVec 8) : (wrBfmt t b f).lfaultLo = t.lfaultLo := rfl
@[simp] theorem wrBfmt_lfaultHi (t : Thread) (b : BitVec 4) (f : BitVec 8) : (wrBfmt t b f).lfaultHi = t.lfaultHi := rfl
@[simp] theorem wrBfmt_dseqNext (t : Thread) (b : BitVec 4) (f : BitVec 8) : (wrBfmt t b f).dseqNext = t.dseqNext := rfl
@[simp] theorem wrBfmt_muw (t : Thread) (b : BitVec 4) (f : BitVec 8) : (wrBfmt t b f).muw = t.muw := rfl
@[simp] theorem wrBfmt_cbk (t : Thread) (b : BitVec 4) (f : BitVec 8) : (wrBfmt t b f).cbk = t.cbk := rfl
@[simp] theorem wrBfmt_ring (t : Thread) (b : BitVec 4) (f : BitVec 8) : (wrBfmt t b f).ring = t.ring := rfl
@[simp] theorem wrBfmt_cord (t : Thread) (b : BitVec 4) (f : BitVec 8) : (wrBfmt t b f).cord = t.cord := rfl
@[simp] theorem wrBfmt_fetched (t : Thread) (b : BitVec 4) (f : BitVec 8) : (wrBfmt t b f).fetched = t.fetched := rfl
@[simp] theorem wrBfmt_runnable (t : Thread) (b : BitVec 4) (f : BitVec 8) : (wrBfmt t b f).runnable = t.runnable := rfl
@[simp] theorem wrBfmt_progress (t : Thread) (b : BitVec 4) (f : BitVec 8) : (wrBfmt t b f).progress = t.progress := rfl
@[simp] theorem wrBfmt_cause (t : Thread) (b : BitVec 4) (f : BitVec 8) : (wrBfmt t b f).cause = t.cause := rfl
@[simp] theorem wrBfmt_joinCell (t : Thread) (b : BitVec 4) (f : BitVec 8) : (wrBfmt t b f).joinCell = t.joinCell := rfl
@[simp] theorem wrBfmt_save (t : Thread) (b : BitVec 4) (f : BitVec 8) : (wrBfmt t b f).save = t.save := rfl
@[simp] theorem wrBfmt_woken (t : Thread) (b : BitVec 4) (f : BitVec 8) : (wrBfmt t b f).woken = t.woken := rfl
@[simp] theorem wrBfmt_waited (t : Thread) (b : BitVec 4) (f : BitVec 8) : (wrBfmt t b f).waited = t.waited := rfl
@[simp] theorem wrBfmt_awaited (t : Thread) (b : BitVec 4) (f : BitVec 8) : (wrBfmt t b f).awaited = t.awaited := rfl
@[simp] theorem wrBfmt_walked (t : Thread) (b : BitVec 4) (f : BitVec 8) : (wrBfmt t b f).walked = t.walked := rfl
@[simp] theorem wrBfmt_failed (t : Thread) (b : BitVec 4) (f : BitVec 8) : (wrBfmt t b f).failed = t.failed := rfl
@[simp] theorem wrBfmt_served (t : Thread) (b : BitVec 4) (f : BitVec 8) : (wrBfmt t b f).served = t.served := rfl
@[simp] theorem wrBfmt_fences (t : Thread) (b : BitVec 4) (f : BitVec 8) : (wrBfmt t b f).fences = t.fences := rfl
@[simp] theorem wrBfmt_prog (t : Thread) (b : BitVec 4) (f : BitVec 8) : (wrBfmt t b f).prog = t.prog := rfl
@[simp] theorem wrCbk_handle (t : Thread) (b : BitVec 4) (v : BitVec 256) : (wrCbk t b v).handle = t.handle := rfl
@[simp] theorem wrCbk_world (t : Thread) (b : BitVec 4) (v : BitVec 256) : (wrCbk t b v).world = t.world := rfl
@[simp] theorem wrCbk_asid (t : Thread) (b : BitVec 4) (v : BitVec 256) : (wrCbk t b v).asid = t.asid := rfl
@[simp] theorem wrCbk_prio (t : Thread) (b : BitVec 4) (v : BitVec 256) : (wrCbk t b v).prio = t.prio := rfl
@[simp] theorem wrCbk_graph (t : Thread) (b : BitVec 4) (v : BitVec 256) : (wrCbk t b v).graph = t.graph := rfl
@[simp] theorem wrCbk_node (t : Thread) (b : BitVec 4) (v : BitVec 256) : (wrCbk t b v).node = t.node := rfl
@[simp] theorem wrCbk_team (t : Thread) (b : BitVec 4) (v : BitVec 256) : (wrCbk t b v).team = t.team := rfl
@[simp] theorem wrCbk_member (t : Thread) (b : BitVec 4) (v : BitVec 256) : (wrCbk t b v).member = t.member := rfl
@[simp] theorem wrCbk_core (t : Thread) (b : BitVec 4) (v : BitVec 256) : (wrCbk t b v).core = t.core := rfl
@[simp] theorem wrCbk_slot (t : Thread) (b : BitVec 4) (v : BitVec 256) : (wrCbk t b v).slot = t.slot := rfl
@[simp] theorem wrCbk_win (t : Thread) (b : BitVec 4) (v : BitVec 256) : (wrCbk t b v).win = t.win := rfl
@[simp] theorem wrCbk_status (t : Thread) (b : BitVec 4) (v : BitVec 256) : (wrCbk t b v).status = t.status := rfl
@[simp] theorem wrCbk_pc (t : Thread) (b : BitVec 4) (v : BitVec 256) : (wrCbk t b v).pc = t.pc := rfl
@[simp] theorem wrCbk_s (t : Thread) (b : BitVec 4) (v : BitVec 256) : (wrCbk t b v).s = t.s := rfl
@[simp] theorem wrCbk_m (t : Thread) (b : BitVec 4) (v : BitVec 256) : (wrCbk t b v).m = t.m := rfl
@[simp] theorem wrCbk_x (t : Thread) (b : BitVec 4) (v : BitVec 256) : (wrCbk t b v).x = t.x := rfl
@[simp] theorem wrCbk_v (t : Thread) (b : BitVec 4) (v : BitVec 256) : (wrCbk t b v).v = t.v := rfl
@[simp] theorem wrCbk_sc (t : Thread) (b : BitVec 4) (v : BitVec 256) : (wrCbk t b v).sc = t.sc := rfl
@[simp] theorem wrCbk_mc (t : Thread) (b : BitVec 4) (v : BitVec 256) : (wrCbk t b v).mc = t.mc := rfl
@[simp] theorem wrCbk_vc (t : Thread) (b : BitVec 4) (v : BitVec 256) : (wrCbk t b v).vc = t.vc := rfl
@[simp] theorem wrCbk_tstat (t : Thread) (b : BitVec 4) (v : BitVec 256) : (wrCbk t b v).tstat = t.tstat := rfl
@[simp] theorem wrCbk_actl (t : Thread) (b : BitVec 4) (v : BitVec 256) : (wrCbk t b v).actl = t.actl := rfl
@[simp] theorem wrCbk_tcause (t : Thread) (b : BitVec 4) (v : BitVec 256) : (wrCbk t b v).tcause = t.tcause := rfl
@[simp] theorem wrCbk_tval (t : Thread) (b : BitVec 4) (v : BitVec 256) : (wrCbk t b v).tval = t.tval := rfl
@[simp] theorem wrCbk_tepc (t : Thread) (b : BitVec 4) (v : BitVec 256) : (wrCbk t b v).tepc = t.tepc := rfl
@[simp] theorem wrCbk_tvec (t : Thread) (b : BitVec 4) (v : BitVec 256) : (wrCbk t b v).tvec = t.tvec := rfl
@[simp] theorem wrCbk_lfaultLo (t : Thread) (b : BitVec 4) (v : BitVec 256) : (wrCbk t b v).lfaultLo = t.lfaultLo := rfl
@[simp] theorem wrCbk_lfaultHi (t : Thread) (b : BitVec 4) (v : BitVec 256) : (wrCbk t b v).lfaultHi = t.lfaultHi := rfl
@[simp] theorem wrCbk_dseqNext (t : Thread) (b : BitVec 4) (v : BitVec 256) : (wrCbk t b v).dseqNext = t.dseqNext := rfl
@[simp] theorem wrCbk_muw (t : Thread) (b : BitVec 4) (v : BitVec 256) : (wrCbk t b v).muw = t.muw := rfl
@[simp] theorem wrCbk_bfmt (t : Thread) (b : BitVec 4) (v : BitVec 256) : (wrCbk t b v).bfmt = t.bfmt := rfl
@[simp] theorem wrCbk_ring (t : Thread) (b : BitVec 4) (v : BitVec 256) : (wrCbk t b v).ring = t.ring := rfl
@[simp] theorem wrCbk_cord (t : Thread) (b : BitVec 4) (v : BitVec 256) : (wrCbk t b v).cord = t.cord := rfl
@[simp] theorem wrCbk_fetched (t : Thread) (b : BitVec 4) (v : BitVec 256) : (wrCbk t b v).fetched = t.fetched := rfl
@[simp] theorem wrCbk_runnable (t : Thread) (b : BitVec 4) (v : BitVec 256) : (wrCbk t b v).runnable = t.runnable := rfl
@[simp] theorem wrCbk_progress (t : Thread) (b : BitVec 4) (v : BitVec 256) : (wrCbk t b v).progress = t.progress := rfl
@[simp] theorem wrCbk_cause (t : Thread) (b : BitVec 4) (v : BitVec 256) : (wrCbk t b v).cause = t.cause := rfl
@[simp] theorem wrCbk_joinCell (t : Thread) (b : BitVec 4) (v : BitVec 256) : (wrCbk t b v).joinCell = t.joinCell := rfl
@[simp] theorem wrCbk_save (t : Thread) (b : BitVec 4) (v : BitVec 256) : (wrCbk t b v).save = t.save := rfl
@[simp] theorem wrCbk_woken (t : Thread) (b : BitVec 4) (v : BitVec 256) : (wrCbk t b v).woken = t.woken := rfl
@[simp] theorem wrCbk_waited (t : Thread) (b : BitVec 4) (v : BitVec 256) : (wrCbk t b v).waited = t.waited := rfl
@[simp] theorem wrCbk_awaited (t : Thread) (b : BitVec 4) (v : BitVec 256) : (wrCbk t b v).awaited = t.awaited := rfl
@[simp] theorem wrCbk_walked (t : Thread) (b : BitVec 4) (v : BitVec 256) : (wrCbk t b v).walked = t.walked := rfl
@[simp] theorem wrCbk_failed (t : Thread) (b : BitVec 4) (v : BitVec 256) : (wrCbk t b v).failed = t.failed := rfl
@[simp] theorem wrCbk_served (t : Thread) (b : BitVec 4) (v : BitVec 256) : (wrCbk t b v).served = t.served := rfl
@[simp] theorem wrCbk_fences (t : Thread) (b : BitVec 4) (v : BitVec 256) : (wrCbk t b v).fences = t.fences := rfl
@[simp] theorem wrCbk_prog (t : Thread) (b : BitVec 4) (v : BitVec 256) : (wrCbk t b v).prog = t.prog := rfl
@[simp] theorem wrS_handle (t : Thread) (r : BitVec 6) (v : Word) : (wrS t r v).handle = t.handle := by unfold wrS; split <;> rfl
@[simp] theorem wrS_world (t : Thread) (r : BitVec 6) (v : Word) : (wrS t r v).world = t.world := by unfold wrS; split <;> rfl
@[simp] theorem wrS_asid (t : Thread) (r : BitVec 6) (v : Word) : (wrS t r v).asid = t.asid := by unfold wrS; split <;> rfl
@[simp] theorem wrS_prio (t : Thread) (r : BitVec 6) (v : Word) : (wrS t r v).prio = t.prio := by unfold wrS; split <;> rfl
@[simp] theorem wrS_graph (t : Thread) (r : BitVec 6) (v : Word) : (wrS t r v).graph = t.graph := by unfold wrS; split <;> rfl
@[simp] theorem wrS_node (t : Thread) (r : BitVec 6) (v : Word) : (wrS t r v).node = t.node := by unfold wrS; split <;> rfl
@[simp] theorem wrS_team (t : Thread) (r : BitVec 6) (v : Word) : (wrS t r v).team = t.team := by unfold wrS; split <;> rfl
@[simp] theorem wrS_member (t : Thread) (r : BitVec 6) (v : Word) : (wrS t r v).member = t.member := by unfold wrS; split <;> rfl
@[simp] theorem wrS_core (t : Thread) (r : BitVec 6) (v : Word) : (wrS t r v).core = t.core := by unfold wrS; split <;> rfl
@[simp] theorem wrS_slot (t : Thread) (r : BitVec 6) (v : Word) : (wrS t r v).slot = t.slot := by unfold wrS; split <;> rfl
@[simp] theorem wrS_win (t : Thread) (r : BitVec 6) (v : Word) : (wrS t r v).win = t.win := by unfold wrS; split <;> rfl
@[simp] theorem wrS_status (t : Thread) (r : BitVec 6) (v : Word) : (wrS t r v).status = t.status := by unfold wrS; split <;> rfl
@[simp] theorem wrS_pc (t : Thread) (r : BitVec 6) (v : Word) : (wrS t r v).pc = t.pc := by unfold wrS; split <;> rfl
@[simp] theorem wrS_m (t : Thread) (r : BitVec 6) (v : Word) : (wrS t r v).m = t.m := by unfold wrS; split <;> rfl
@[simp] theorem wrS_x (t : Thread) (r : BitVec 6) (v : Word) : (wrS t r v).x = t.x := by unfold wrS; split <;> rfl
@[simp] theorem wrS_v (t : Thread) (r : BitVec 6) (v : Word) : (wrS t r v).v = t.v := by unfold wrS; split <;> rfl
@[simp] theorem wrS_sc (t : Thread) (r : BitVec 6) (v : Word) : (wrS t r v).sc = t.sc := by unfold wrS; split <;> rfl
@[simp] theorem wrS_mc (t : Thread) (r : BitVec 6) (v : Word) : (wrS t r v).mc = t.mc := by unfold wrS; split <;> rfl
@[simp] theorem wrS_vc (t : Thread) (r : BitVec 6) (v : Word) : (wrS t r v).vc = t.vc := by unfold wrS; split <;> rfl
@[simp] theorem wrS_tstat (t : Thread) (r : BitVec 6) (v : Word) : (wrS t r v).tstat = t.tstat := by unfold wrS; split <;> rfl
@[simp] theorem wrS_actl (t : Thread) (r : BitVec 6) (v : Word) : (wrS t r v).actl = t.actl := by unfold wrS; split <;> rfl
@[simp] theorem wrS_tcause (t : Thread) (r : BitVec 6) (v : Word) : (wrS t r v).tcause = t.tcause := by unfold wrS; split <;> rfl
@[simp] theorem wrS_tval (t : Thread) (r : BitVec 6) (v : Word) : (wrS t r v).tval = t.tval := by unfold wrS; split <;> rfl
@[simp] theorem wrS_tepc (t : Thread) (r : BitVec 6) (v : Word) : (wrS t r v).tepc = t.tepc := by unfold wrS; split <;> rfl
@[simp] theorem wrS_tvec (t : Thread) (r : BitVec 6) (v : Word) : (wrS t r v).tvec = t.tvec := by unfold wrS; split <;> rfl
@[simp] theorem wrS_lfaultLo (t : Thread) (r : BitVec 6) (v : Word) : (wrS t r v).lfaultLo = t.lfaultLo := by unfold wrS; split <;> rfl
@[simp] theorem wrS_lfaultHi (t : Thread) (r : BitVec 6) (v : Word) : (wrS t r v).lfaultHi = t.lfaultHi := by unfold wrS; split <;> rfl
@[simp] theorem wrS_dseqNext (t : Thread) (r : BitVec 6) (v : Word) : (wrS t r v).dseqNext = t.dseqNext := by unfold wrS; split <;> rfl
@[simp] theorem wrS_muw (t : Thread) (r : BitVec 6) (v : Word) : (wrS t r v).muw = t.muw := by unfold wrS; split <;> rfl
@[simp] theorem wrS_bfmt (t : Thread) (r : BitVec 6) (v : Word) : (wrS t r v).bfmt = t.bfmt := by unfold wrS; split <;> rfl
@[simp] theorem wrS_cbk (t : Thread) (r : BitVec 6) (v : Word) : (wrS t r v).cbk = t.cbk := by unfold wrS; split <;> rfl
@[simp] theorem wrS_ring (t : Thread) (r : BitVec 6) (v : Word) : (wrS t r v).ring = t.ring := by unfold wrS; split <;> rfl
@[simp] theorem wrS_cord (t : Thread) (r : BitVec 6) (v : Word) : (wrS t r v).cord = t.cord := by unfold wrS; split <;> rfl
@[simp] theorem wrS_fetched (t : Thread) (r : BitVec 6) (v : Word) : (wrS t r v).fetched = t.fetched := by unfold wrS; split <;> rfl
@[simp] theorem wrS_runnable (t : Thread) (r : BitVec 6) (v : Word) : (wrS t r v).runnable = t.runnable := by unfold wrS; split <;> rfl
@[simp] theorem wrS_progress (t : Thread) (r : BitVec 6) (v : Word) : (wrS t r v).progress = t.progress := by unfold wrS; split <;> rfl
@[simp] theorem wrS_cause (t : Thread) (r : BitVec 6) (v : Word) : (wrS t r v).cause = t.cause := by unfold wrS; split <;> rfl
@[simp] theorem wrS_joinCell (t : Thread) (r : BitVec 6) (v : Word) : (wrS t r v).joinCell = t.joinCell := by unfold wrS; split <;> rfl
@[simp] theorem wrS_save (t : Thread) (r : BitVec 6) (v : Word) : (wrS t r v).save = t.save := by unfold wrS; split <;> rfl
@[simp] theorem wrS_woken (t : Thread) (r : BitVec 6) (v : Word) : (wrS t r v).woken = t.woken := by unfold wrS; split <;> rfl
@[simp] theorem wrS_waited (t : Thread) (r : BitVec 6) (v : Word) : (wrS t r v).waited = t.waited := by unfold wrS; split <;> rfl
@[simp] theorem wrS_awaited (t : Thread) (r : BitVec 6) (v : Word) : (wrS t r v).awaited = t.awaited := by unfold wrS; split <;> rfl
@[simp] theorem wrS_walked (t : Thread) (r : BitVec 6) (v : Word) : (wrS t r v).walked = t.walked := by unfold wrS; split <;> rfl
@[simp] theorem wrS_failed (t : Thread) (r : BitVec 6) (v : Word) : (wrS t r v).failed = t.failed := by unfold wrS; split <;> rfl
@[simp] theorem wrS_served (t : Thread) (r : BitVec 6) (v : Word) : (wrS t r v).served = t.served := by unfold wrS; split <;> rfl
@[simp] theorem wrS_fences (t : Thread) (r : BitVec 6) (v : Word) : (wrS t r v).fences = t.fences := by unfold wrS; split <;> rfl
@[simp] theorem wrS_prog (t : Thread) (r : BitVec 6) (v : Word) : (wrS t r v).prog = t.prog := by unfold wrS; split <;> rfl
@[simp] theorem wrM_handle (t : Thread) (r : BitVec 4) (v : Word) : (wrM t r v).handle = t.handle := by unfold wrM; split <;> rfl
@[simp] theorem wrM_world (t : Thread) (r : BitVec 4) (v : Word) : (wrM t r v).world = t.world := by unfold wrM; split <;> rfl
@[simp] theorem wrM_asid (t : Thread) (r : BitVec 4) (v : Word) : (wrM t r v).asid = t.asid := by unfold wrM; split <;> rfl
@[simp] theorem wrM_prio (t : Thread) (r : BitVec 4) (v : Word) : (wrM t r v).prio = t.prio := by unfold wrM; split <;> rfl
@[simp] theorem wrM_graph (t : Thread) (r : BitVec 4) (v : Word) : (wrM t r v).graph = t.graph := by unfold wrM; split <;> rfl
@[simp] theorem wrM_node (t : Thread) (r : BitVec 4) (v : Word) : (wrM t r v).node = t.node := by unfold wrM; split <;> rfl
@[simp] theorem wrM_team (t : Thread) (r : BitVec 4) (v : Word) : (wrM t r v).team = t.team := by unfold wrM; split <;> rfl
@[simp] theorem wrM_member (t : Thread) (r : BitVec 4) (v : Word) : (wrM t r v).member = t.member := by unfold wrM; split <;> rfl
@[simp] theorem wrM_core (t : Thread) (r : BitVec 4) (v : Word) : (wrM t r v).core = t.core := by unfold wrM; split <;> rfl
@[simp] theorem wrM_slot (t : Thread) (r : BitVec 4) (v : Word) : (wrM t r v).slot = t.slot := by unfold wrM; split <;> rfl
@[simp] theorem wrM_win (t : Thread) (r : BitVec 4) (v : Word) : (wrM t r v).win = t.win := by unfold wrM; split <;> rfl
@[simp] theorem wrM_status (t : Thread) (r : BitVec 4) (v : Word) : (wrM t r v).status = t.status := by unfold wrM; split <;> rfl
@[simp] theorem wrM_pc (t : Thread) (r : BitVec 4) (v : Word) : (wrM t r v).pc = t.pc := by unfold wrM; split <;> rfl
@[simp] theorem wrM_s (t : Thread) (r : BitVec 4) (v : Word) : (wrM t r v).s = t.s := by unfold wrM; split <;> rfl
@[simp] theorem wrM_x (t : Thread) (r : BitVec 4) (v : Word) : (wrM t r v).x = t.x := by unfold wrM; split <;> rfl
@[simp] theorem wrM_v (t : Thread) (r : BitVec 4) (v : Word) : (wrM t r v).v = t.v := by unfold wrM; split <;> rfl
@[simp] theorem wrM_sc (t : Thread) (r : BitVec 4) (v : Word) : (wrM t r v).sc = t.sc := by unfold wrM; split <;> rfl
@[simp] theorem wrM_mc (t : Thread) (r : BitVec 4) (v : Word) : (wrM t r v).mc = t.mc := by unfold wrM; split <;> rfl
@[simp] theorem wrM_vc (t : Thread) (r : BitVec 4) (v : Word) : (wrM t r v).vc = t.vc := by unfold wrM; split <;> rfl
@[simp] theorem wrM_tstat (t : Thread) (r : BitVec 4) (v : Word) : (wrM t r v).tstat = t.tstat := by unfold wrM; split <;> rfl
@[simp] theorem wrM_actl (t : Thread) (r : BitVec 4) (v : Word) : (wrM t r v).actl = t.actl := by unfold wrM; split <;> rfl
@[simp] theorem wrM_tcause (t : Thread) (r : BitVec 4) (v : Word) : (wrM t r v).tcause = t.tcause := by unfold wrM; split <;> rfl
@[simp] theorem wrM_tval (t : Thread) (r : BitVec 4) (v : Word) : (wrM t r v).tval = t.tval := by unfold wrM; split <;> rfl
@[simp] theorem wrM_tepc (t : Thread) (r : BitVec 4) (v : Word) : (wrM t r v).tepc = t.tepc := by unfold wrM; split <;> rfl
@[simp] theorem wrM_tvec (t : Thread) (r : BitVec 4) (v : Word) : (wrM t r v).tvec = t.tvec := by unfold wrM; split <;> rfl
@[simp] theorem wrM_lfaultLo (t : Thread) (r : BitVec 4) (v : Word) : (wrM t r v).lfaultLo = t.lfaultLo := by unfold wrM; split <;> rfl
@[simp] theorem wrM_lfaultHi (t : Thread) (r : BitVec 4) (v : Word) : (wrM t r v).lfaultHi = t.lfaultHi := by unfold wrM; split <;> rfl
@[simp] theorem wrM_dseqNext (t : Thread) (r : BitVec 4) (v : Word) : (wrM t r v).dseqNext = t.dseqNext := by unfold wrM; split <;> rfl
@[simp] theorem wrM_muw (t : Thread) (r : BitVec 4) (v : Word) : (wrM t r v).muw = t.muw := by unfold wrM; split <;> rfl
@[simp] theorem wrM_bfmt (t : Thread) (r : BitVec 4) (v : Word) : (wrM t r v).bfmt = t.bfmt := by unfold wrM; split <;> rfl
@[simp] theorem wrM_cbk (t : Thread) (r : BitVec 4) (v : Word) : (wrM t r v).cbk = t.cbk := by unfold wrM; split <;> rfl
@[simp] theorem wrM_ring (t : Thread) (r : BitVec 4) (v : Word) : (wrM t r v).ring = t.ring := by unfold wrM; split <;> rfl
@[simp] theorem wrM_cord (t : Thread) (r : BitVec 4) (v : Word) : (wrM t r v).cord = t.cord := by unfold wrM; split <;> rfl
@[simp] theorem wrM_fetched (t : Thread) (r : BitVec 4) (v : Word) : (wrM t r v).fetched = t.fetched := by unfold wrM; split <;> rfl
@[simp] theorem wrM_runnable (t : Thread) (r : BitVec 4) (v : Word) : (wrM t r v).runnable = t.runnable := by unfold wrM; split <;> rfl
@[simp] theorem wrM_progress (t : Thread) (r : BitVec 4) (v : Word) : (wrM t r v).progress = t.progress := by unfold wrM; split <;> rfl
@[simp] theorem wrM_cause (t : Thread) (r : BitVec 4) (v : Word) : (wrM t r v).cause = t.cause := by unfold wrM; split <;> rfl
@[simp] theorem wrM_joinCell (t : Thread) (r : BitVec 4) (v : Word) : (wrM t r v).joinCell = t.joinCell := by unfold wrM; split <;> rfl
@[simp] theorem wrM_save (t : Thread) (r : BitVec 4) (v : Word) : (wrM t r v).save = t.save := by unfold wrM; split <;> rfl
@[simp] theorem wrM_woken (t : Thread) (r : BitVec 4) (v : Word) : (wrM t r v).woken = t.woken := by unfold wrM; split <;> rfl
@[simp] theorem wrM_waited (t : Thread) (r : BitVec 4) (v : Word) : (wrM t r v).waited = t.waited := by unfold wrM; split <;> rfl
@[simp] theorem wrM_awaited (t : Thread) (r : BitVec 4) (v : Word) : (wrM t r v).awaited = t.awaited := by unfold wrM; split <;> rfl
@[simp] theorem wrM_walked (t : Thread) (r : BitVec 4) (v : Word) : (wrM t r v).walked = t.walked := by unfold wrM; split <;> rfl
@[simp] theorem wrM_failed (t : Thread) (r : BitVec 4) (v : Word) : (wrM t r v).failed = t.failed := by unfold wrM; split <;> rfl
@[simp] theorem wrM_served (t : Thread) (r : BitVec 4) (v : Word) : (wrM t r v).served = t.served := by unfold wrM; split <;> rfl
@[simp] theorem wrM_fences (t : Thread) (r : BitVec 4) (v : Word) : (wrM t r v).fences = t.fences := by unfold wrM; split <;> rfl
@[simp] theorem wrM_prog (t : Thread) (r : BitVec 4) (v : Word) : (wrM t r v).prog = t.prog := by unfold wrM; split <;> rfl
@[simp] theorem setCount_handle (t : Thread) (r : Reg) (c : BitVec 7) : (setCount t r c).handle = t.handle := by unfold setCount; split <;> (try rfl); cases r <;> rfl
@[simp] theorem setCount_world (t : Thread) (r : Reg) (c : BitVec 7) : (setCount t r c).world = t.world := by unfold setCount; split <;> (try rfl); cases r <;> rfl
@[simp] theorem setCount_asid (t : Thread) (r : Reg) (c : BitVec 7) : (setCount t r c).asid = t.asid := by unfold setCount; split <;> (try rfl); cases r <;> rfl
@[simp] theorem setCount_prio (t : Thread) (r : Reg) (c : BitVec 7) : (setCount t r c).prio = t.prio := by unfold setCount; split <;> (try rfl); cases r <;> rfl
@[simp] theorem setCount_graph (t : Thread) (r : Reg) (c : BitVec 7) : (setCount t r c).graph = t.graph := by unfold setCount; split <;> (try rfl); cases r <;> rfl
@[simp] theorem setCount_node (t : Thread) (r : Reg) (c : BitVec 7) : (setCount t r c).node = t.node := by unfold setCount; split <;> (try rfl); cases r <;> rfl
@[simp] theorem setCount_team (t : Thread) (r : Reg) (c : BitVec 7) : (setCount t r c).team = t.team := by unfold setCount; split <;> (try rfl); cases r <;> rfl
@[simp] theorem setCount_member (t : Thread) (r : Reg) (c : BitVec 7) : (setCount t r c).member = t.member := by unfold setCount; split <;> (try rfl); cases r <;> rfl
@[simp] theorem setCount_core (t : Thread) (r : Reg) (c : BitVec 7) : (setCount t r c).core = t.core := by unfold setCount; split <;> (try rfl); cases r <;> rfl
@[simp] theorem setCount_slot (t : Thread) (r : Reg) (c : BitVec 7) : (setCount t r c).slot = t.slot := by unfold setCount; split <;> (try rfl); cases r <;> rfl
@[simp] theorem setCount_win (t : Thread) (r : Reg) (c : BitVec 7) : (setCount t r c).win = t.win := by unfold setCount; split <;> (try rfl); cases r <;> rfl
@[simp] theorem setCount_status (t : Thread) (r : Reg) (c : BitVec 7) : (setCount t r c).status = t.status := by unfold setCount; split <;> (try rfl); cases r <;> rfl
@[simp] theorem setCount_pc (t : Thread) (r : Reg) (c : BitVec 7) : (setCount t r c).pc = t.pc := by unfold setCount; split <;> (try rfl); cases r <;> rfl
@[simp] theorem setCount_s (t : Thread) (r : Reg) (c : BitVec 7) : (setCount t r c).s = t.s := by unfold setCount; split <;> (try rfl); cases r <;> rfl
@[simp] theorem setCount_m (t : Thread) (r : Reg) (c : BitVec 7) : (setCount t r c).m = t.m := by unfold setCount; split <;> (try rfl); cases r <;> rfl
@[simp] theorem setCount_x (t : Thread) (r : Reg) (c : BitVec 7) : (setCount t r c).x = t.x := by unfold setCount; split <;> (try rfl); cases r <;> rfl
@[simp] theorem setCount_v (t : Thread) (r : Reg) (c : BitVec 7) : (setCount t r c).v = t.v := by unfold setCount; split <;> (try rfl); cases r <;> rfl
@[simp] theorem setCount_tstat (t : Thread) (r : Reg) (c : BitVec 7) : (setCount t r c).tstat = t.tstat := by unfold setCount; split <;> (try rfl); cases r <;> rfl
@[simp] theorem setCount_actl (t : Thread) (r : Reg) (c : BitVec 7) : (setCount t r c).actl = t.actl := by unfold setCount; split <;> (try rfl); cases r <;> rfl
@[simp] theorem setCount_tcause (t : Thread) (r : Reg) (c : BitVec 7) : (setCount t r c).tcause = t.tcause := by unfold setCount; split <;> (try rfl); cases r <;> rfl
@[simp] theorem setCount_tval (t : Thread) (r : Reg) (c : BitVec 7) : (setCount t r c).tval = t.tval := by unfold setCount; split <;> (try rfl); cases r <;> rfl
@[simp] theorem setCount_tepc (t : Thread) (r : Reg) (c : BitVec 7) : (setCount t r c).tepc = t.tepc := by unfold setCount; split <;> (try rfl); cases r <;> rfl
@[simp] theorem setCount_tvec (t : Thread) (r : Reg) (c : BitVec 7) : (setCount t r c).tvec = t.tvec := by unfold setCount; split <;> (try rfl); cases r <;> rfl
@[simp] theorem setCount_lfaultLo (t : Thread) (r : Reg) (c : BitVec 7) : (setCount t r c).lfaultLo = t.lfaultLo := by unfold setCount; split <;> (try rfl); cases r <;> rfl
@[simp] theorem setCount_lfaultHi (t : Thread) (r : Reg) (c : BitVec 7) : (setCount t r c).lfaultHi = t.lfaultHi := by unfold setCount; split <;> (try rfl); cases r <;> rfl
@[simp] theorem setCount_dseqNext (t : Thread) (r : Reg) (c : BitVec 7) : (setCount t r c).dseqNext = t.dseqNext := by unfold setCount; split <;> (try rfl); cases r <;> rfl
@[simp] theorem setCount_muw (t : Thread) (r : Reg) (c : BitVec 7) : (setCount t r c).muw = t.muw := by unfold setCount; split <;> (try rfl); cases r <;> rfl
@[simp] theorem setCount_bfmt (t : Thread) (r : Reg) (c : BitVec 7) : (setCount t r c).bfmt = t.bfmt := by unfold setCount; split <;> (try rfl); cases r <;> rfl
@[simp] theorem setCount_cbk (t : Thread) (r : Reg) (c : BitVec 7) : (setCount t r c).cbk = t.cbk := by unfold setCount; split <;> (try rfl); cases r <;> rfl
@[simp] theorem setCount_ring (t : Thread) (r : Reg) (c : BitVec 7) : (setCount t r c).ring = t.ring := by unfold setCount; split <;> (try rfl); cases r <;> rfl
@[simp] theorem setCount_cord (t : Thread) (r : Reg) (c : BitVec 7) : (setCount t r c).cord = t.cord := by unfold setCount; split <;> (try rfl); cases r <;> rfl
@[simp] theorem setCount_fetched (t : Thread) (r : Reg) (c : BitVec 7) : (setCount t r c).fetched = t.fetched := by unfold setCount; split <;> (try rfl); cases r <;> rfl
@[simp] theorem setCount_runnable (t : Thread) (r : Reg) (c : BitVec 7) : (setCount t r c).runnable = t.runnable := by unfold setCount; split <;> (try rfl); cases r <;> rfl
@[simp] theorem setCount_progress (t : Thread) (r : Reg) (c : BitVec 7) : (setCount t r c).progress = t.progress := by unfold setCount; split <;> (try rfl); cases r <;> rfl
@[simp] theorem setCount_cause (t : Thread) (r : Reg) (c : BitVec 7) : (setCount t r c).cause = t.cause := by unfold setCount; split <;> (try rfl); cases r <;> rfl
@[simp] theorem setCount_joinCell (t : Thread) (r : Reg) (c : BitVec 7) : (setCount t r c).joinCell = t.joinCell := by unfold setCount; split <;> (try rfl); cases r <;> rfl
@[simp] theorem setCount_save (t : Thread) (r : Reg) (c : BitVec 7) : (setCount t r c).save = t.save := by unfold setCount; split <;> (try rfl); cases r <;> rfl
@[simp] theorem setCount_woken (t : Thread) (r : Reg) (c : BitVec 7) : (setCount t r c).woken = t.woken := by unfold setCount; split <;> (try rfl); cases r <;> rfl
@[simp] theorem setCount_waited (t : Thread) (r : Reg) (c : BitVec 7) : (setCount t r c).waited = t.waited := by unfold setCount; split <;> (try rfl); cases r <;> rfl
@[simp] theorem setCount_awaited (t : Thread) (r : Reg) (c : BitVec 7) : (setCount t r c).awaited = t.awaited := by unfold setCount; split <;> (try rfl); cases r <;> rfl
@[simp] theorem setCount_walked (t : Thread) (r : Reg) (c : BitVec 7) : (setCount t r c).walked = t.walked := by unfold setCount; split <;> (try rfl); cases r <;> rfl
@[simp] theorem setCount_failed (t : Thread) (r : Reg) (c : BitVec 7) : (setCount t r c).failed = t.failed := by unfold setCount; split <;> (try rfl); cases r <;> rfl
@[simp] theorem setCount_served (t : Thread) (r : Reg) (c : BitVec 7) : (setCount t r c).served = t.served := by unfold setCount; split <;> (try rfl); cases r <;> rfl
@[simp] theorem setCount_fences (t : Thread) (r : Reg) (c : BitVec 7) : (setCount t r c).fences = t.fences := by unfold setCount; split <;> (try rfl); cases r <;> rfl
@[simp] theorem setCount_prog (t : Thread) (r : Reg) (c : BitVec 7) : (setCount t r c).prog = t.prog := by unfold setCount; split <;> (try rfl); cases r <;> rfl

end Sys2Proof.Machine
end

