-- ==== Sys2Proof/Laws/Memory.lean ====
section
/-! SUPPORT. Tables and memory: a read after a write, and the canonical form, which every memory operation keeps. -/

namespace Sys2Proof.Machine

open Sys2Proof

/-! ### Tables -/

/-- Every key of a table lies above `k`. -/
def above {α : Type} (k : Nat) (m : Sparse α) : Prop := ∀ e ∈ m, k < e.1

theorem srising_tail {α : Type} {k : Nat} {v : α} {m : Sparse α} (h : srising ((k, v) :: m) = true) : srising m = true := by
  cases m with
  | nil => rfl
  | cons e r => obtain ⟨k', v'⟩ := e; simp only [srising, Bool.and_eq_true] at h; exact h.2

theorem srising_above {α : Type} {k : Nat} {v : α} {m : Sparse α} (h : srising ((k, v) :: m) = true) : above k m := by
  induction m generalizing k v with
  | nil => intro e he; cases he
  | cons e r ih =>
    obtain ⟨k', v'⟩ := e
    simp only [srising, Bool.and_eq_true, decide_eq_true_eq] at h
    intro e he
    rcases List.mem_cons.mp he with rfl | he
    · exact h.1
    · exact Nat.lt_trans h.1 (ih h.2 e he)

theorem srising_cons {α : Type} {k : Nat} {v : α} {m : Sparse α} (h : srising m = true) (ha : above k m) :
    srising ((k, v) :: m) = true := by
  cases m with
  | nil => rfl
  | cons e r =>
    obtain ⟨k', v'⟩ := e
    simp only [srising, Bool.and_eq_true, decide_eq_true_eq]
    exact ⟨ha (k', v') (List.mem_cons_self ..), h⟩

/-- An unlisted key reads as the default. -/
theorem sget_of_above {α : Type} {d : α} {k : Nat} {m : Sparse α} (h : ∀ e ∈ m, e.1 ≠ k) : sget d m k = d := by
  induction m with
  | nil => rfl
  | cons e r ih =>
    obtain ⟨k', v'⟩ := e
    simp only [sget]
    rw [if_neg (h (k', v') (List.mem_cons_self ..))]
    exact ih (fun e he => h e (List.mem_cons_of_mem _ he))

theorem mem_sdel {α : Type} {m : Sparse α} {k : Nat} {e : Nat × α} (h : e ∈ sdel m k) : e ∈ m := by
  induction m with
  | nil => exact h
  | cons x r ih =>
    obtain ⟨k', v'⟩ := x
    simp only [sdel] at h
    split at h
    · exact List.mem_cons_of_mem _ (ih h)
    · rcases List.mem_cons.mp h with rfl | h
      · exact List.mem_cons_self ..
      · exact List.mem_cons_of_mem _ (ih h)

theorem mem_sput {α : Type} {m : Sparse α} {k : Nat} {v : α} {e : Nat × α} (h : e ∈ sput m k v) : e = (k, v) ∨ e ∈ m := by
  induction m with
  | nil => exact .inl (by simpa [sput] using h)
  | cons x r ih =>
    obtain ⟨k', v'⟩ := x
    simp only [sput] at h
    split at h
    · rcases List.mem_cons.mp h with rfl | h
      · exact .inl rfl
      · exact .inr (List.mem_cons_of_mem _ h)
    · split at h
      · rcases List.mem_cons.mp h with rfl | h
        · exact .inl rfl
        · exact .inr h
      · rcases List.mem_cons.mp h with rfl | h
        · exact .inr (List.mem_cons_self ..)
        · rcases ih h with h | h
          · exact .inl h
          · exact .inr (List.mem_cons_of_mem _ h)

theorem sdel_rising {α : Type} {m : Sparse α} {k : Nat} (h : srising m = true) : srising (sdel m k) = true := by
  induction m with
  | nil => exact h
  | cons x r ih =>
    obtain ⟨k', v'⟩ := x
    simp only [sdel]
    split
    · exact ih (srising_tail h)
    · exact srising_cons (ih (srising_tail h)) (fun e he => srising_above h e (mem_sdel he))

theorem sput_rising {α : Type} {m : Sparse α} {k : Nat} {v : α} (h : srising m = true) : srising (sput m k v) = true := by
  induction m with
  | nil => rfl
  | cons x r ih =>
    obtain ⟨k', v'⟩ := x
    simp only [sput]
    split
    · rename_i hk; subst hk
      exact srising_cons (srising_tail h) (srising_above h)
    · split
      · rename_i hk
        exact srising_cons h (fun e he => by
          rcases List.mem_cons.mp he with rfl | he
          · exact hk
          · exact Nat.lt_trans hk (srising_above h e he))
      · rename_i h1 h2
        refine srising_cons (ih (srising_tail h)) (fun e he => ?_)
        rcases mem_sput he with rfl | he
        · show k' < k; omega
        · exact srising_above h e he

/-- A write keeps the canonical form of a table. -/
theorem sset_wf {α : Type} [DecidableEq α] {d : α} {m : Sparse α} {k : Nat} {v : α} (h : swf d m = true) :
    swf d (sset d m k v) = true := by
  simp only [swf, Bool.and_eq_true, List.all_eq_true] at h ⊢
  unfold sset
  split
  · exact ⟨sdel_rising h.1, fun e he => h.2 e (mem_sdel he)⟩
  · rename_i hv
    refine ⟨sput_rising h.1, fun e he => ?_⟩
    rcases mem_sput he with rfl | he
    · simpa using hv
    · exact h.2 e he

theorem sget_sdel_same {α : Type} {d : α} {m : Sparse α} {k : Nat} : sget d (sdel m k) k = d := by
  induction m with
  | nil => rfl
  | cons x r ih =>
    obtain ⟨k', v'⟩ := x
    simp only [sdel]
    split
    · exact ih
    · rename_i hk
      simp only [sget, if_neg hk]
      exact ih

theorem sget_sdel_other {α : Type} {d : α} {m : Sparse α} {k j : Nat} (hj : j ≠ k) : sget d (sdel m k) j = sget d m j := by
  induction m with
  | nil => rfl
  | cons x r ih =>
    obtain ⟨k', v'⟩ := x
    simp only [sdel]
    split
    · rename_i hk; subst hk
      simp only [sget, if_neg (Ne.symm hj)]
      exact ih
    · simp only [sget]
      split
      · rfl
      · exact ih

theorem sget_sput_same {α : Type} {d : α} {m : Sparse α} {k : Nat} {v : α} : sget d (sput m k v) k = v := by
  induction m with
  | nil => simp [sput, sget]
  | cons x r ih =>
    obtain ⟨k', v'⟩ := x
    simp only [sput]
    split
    · simp [sget]
    · split
      · simp [sget]
      · rename_i hk _
        simp only [sget, if_neg hk]
        exact ih

theorem sget_sput_other {α : Type} {d : α} {m : Sparse α} {k j : Nat} {v : α} (hj : j ≠ k) :
    sget d (sput m k v) j = sget d m j := by
  induction m with
  | nil => simp [sput, sget, Ne.symm hj]
  | cons x r ih =>
    obtain ⟨k', v'⟩ := x
    simp only [sput]
    split
    · rename_i hk; subst hk
      simp only [sget, if_neg (Ne.symm hj)]
    · split
      · simp [sget, Ne.symm hj]
      · simp only [sget]
        split
        · rfl
        · exact ih

/-- A read after a write of the same key. -/
theorem sget_sset_same {α : Type} [DecidableEq α] {d : α} {m : Sparse α} {k : Nat} {v : α} :
    sget d (sset d m k v) k = v := by
  unfold sset
  split
  · rename_i hv; rw [sget_sdel_same, hv]
  · exact sget_sput_same

/-- A read after a write of another key. -/
theorem sget_sset_other {α : Type} [DecidableEq α] {d : α} {m : Sparse α} {k j : Nat} {v : α} (hj : j ≠ k) :
    sget d (sset d m k v) j = sget d m j := by
  unfold sset
  split
  · exact sget_sdel_other hj
  · exact sget_sput_other hj

/-- Leaving entries out keeps the canonical form. -/
theorem filter_wf {α : Type} [DecidableEq α] {d : α} {m : Sparse α} (p : Nat × α → Bool) (h : swf d m = true) :
    swf d (m.filter p) = true := by
  induction m with
  | nil => rfl
  | cons x r ih =>
    obtain ⟨k, v⟩ := x
    simp only [swf, Bool.and_eq_true, List.all_eq_true] at h
    have hr : swf d (r.filter p) = true := ih (by
      simp only [swf, Bool.and_eq_true, List.all_eq_true]
      exact ⟨srising_tail h.1, fun e he => h.2 e (List.mem_cons_of_mem _ he)⟩)
    simp only [List.filter]
    split
    · simp only [swf, Bool.and_eq_true, List.all_eq_true] at hr ⊢
      refine ⟨srising_cons hr.1 (fun e he => srising_above h.1 e (List.mem_filter.mp he).1), fun e he => ?_⟩
      rcases List.mem_cons.mp he with rfl | he
      · exact h.2 _ (List.mem_cons_self ..)
      · exact hr.2 e he
    · exact hr

/-! ### Memory -/

theorem wrByte_wf {m : Memory} (a : Nat) (b : Byte) (h : Memory.wf m = true) : Memory.wf (wrByte m a b) = true := sset_wf h

/-- Every write of bytes keeps the canonical form. -/
theorem wrMem_wf (b : List Byte) {m : Memory} (a : Nat) (h : Memory.wf m = true) : Memory.wf (wrMem m a b) = true := by
  induction b generalizing m a with
  | nil => exact h
  | cons x r ih => exact ih (a + 1) (wrByte_wf a x h)

/-- So does leaving frames or tables out. -/
theorem memFilter_wf {m : Memory} (p : Nat × Byte → Bool) (h : Memory.wf m = true) : Memory.wf (m.filter p) = true :=
  filter_wf p h

theorem wrBytes_wf {s : State} (a : Nat) (b : List Byte) (h : Memory.wf s.mem = true) : Memory.wf (wrBytes s a b).mem = true :=
  wrMem_wf b a h

/-! ### The channel buffers (R223) -/

theorem dropLine_wf {s : State} (x : BufLine) (h : Memory.wf s.mem = true) : Memory.wf (dropLine s x).mem = true := by
  unfold dropLine
  split
  · exact h
  · exact wrBytes_wf _ _ h

theorem dropLines_wf {s : State} (l : List BufLine) (h : Memory.wf s.mem = true) : Memory.wf (l.foldl dropLine s).mem = true := by
  induction l generalizing s with
  | nil => exact h
  | cons x r ih => exact ih (dropLine_wf x h)

theorem fillLine_wf {s : State} (l : Nat) (k : Option (BitVec 13)) (h : Memory.wf s.mem = true) :
    Memory.wf (fillLine s l k).1.mem = true := by
  unfold fillLine
  split
  · exact h
  · exact wrBytes_wf _ _ h

theorem touchLine_wf {s : State} (a : Nat) (k : Option (BitVec 13)) (w : Bool) (h : Memory.wf s.mem = true) :
    Memory.wf (touchLine s a k w).mem = true := by
  unfold touchLine
  split
  · exact h
  · simp only
    split
    · split
      · exact h
      · exact fillLine_wf _ _ (dropLine_wf _ h)
    · exact fillLine_wf _ _ (dropLines_wf _ h)

theorem wrPiece_wf {s : State} (p : Piece) (d : List Byte) (h : Memory.wf s.mem = true) : Memory.wf (wrPiece s p d).mem = true :=
  wrBytes_wf _ _ (touchLine_wf _ _ _ h)

/-- Neither does an entry of the error log (R374). -/
@[simp] theorem logError_mem (s : State) (k : BitVec 16) (w : World) (d : BitVec 32) (a q : Word) : (logError s k w d a q).mem = s.mem := by
  simp only [logError, apply_ite State.mem]
  exact ite_self _

/-- Correcting symbol errors writes no memory (R373). -/
theorem correction_mem (s : State) (a b : Nat) : (correction s a b).mem = s.mem := by
  simp only [correction, apply_ite State.mem, logError_mem]
  exact ite_self _

theorem correctRead_mem (s : State) (a n : Nat) : (correctRead s a n).mem = s.mem := by
  unfold correctRead
  generalize s.upsets.filter _ = l
  induction l generalizing s with
  | nil => rfl
  | cons x r ih => rw [List.foldl_cons, ih, correction_mem]

theorem rdPiece_wf {s : State} (p : Piece) (h : Memory.wf s.mem = true) : Memory.wf (rdPiece s p).1.mem = true := by
  simpa [rdPiece, correctRead_mem] using touchLine_wf p.addr p.key false h

/-- The memory at power-on is canonical. -/
theorem reset_mem_wf : Memory.wf State.reset.mem = true := rfl

theorem sget_wrMem_outside (b : List Byte) (m : Memory) (a x : Nat) (hx : x < a ∨ a + b.length ≤ x) :
    sget 0 (wrMem m a b) x = sget 0 m x := by
  induction b generalizing m a with
  | nil => rfl
  | cons y r ih =>
    simp only [List.length_cons] at hx
    rw [wrMem, ih _ _ (by omega)]
    exact sget_sset_other (by omega)

theorem sget_wrMem_inside (b : List Byte) (m : Memory) (a i : Nat) (hi : i < b.length) :
    sget 0 (wrMem m a b) (a + i) = b.getD i 0 := by
  induction b generalizing m a i with
  | nil => simp at hi
  | cons y r ih =>
    rw [wrMem]
    cases i with
    | zero =>
      rw [sget_wrMem_outside _ _ _ _ (by omega)]
      simpa [wrByte] using sget_sset_same (d := (0 : Byte))
    | succ i =>
      have := ih (wrByte m a y) (a + 1) i (by simpa using hi)
      rw [show a + (i + 1) = a + 1 + i from by omega, this]
      simp

/-- A byte written reads as it was written. -/
theorem rdByte_wrBytes_inside {s : State} (a i : Nat) (b : List Byte) (hi : i < b.length) :
    rdByte (wrBytes s a b) (a + i) = b.getD i 0 := sget_wrMem_inside b s.mem a i hi

/-- A byte not written reads as before. -/
theorem rdByte_wrBytes_outside {s : State} (a x : Nat) (b : List Byte) (hx : x < a ∨ a + b.length ≤ x) :
    rdByte (wrBytes s a b) x = rdByte s x := sget_wrMem_outside b s.mem a x hx

end Sys2Proof.Machine
end

