-- ==== Sys2Proof/Laws/Plan.lean ====
section
/-! SUPPORT. How a bundle of one instruction ends: everything that `conclude` can answer (R29, R33, R90). -/

namespace Sys2Proof.Machine

open Sys2Proof

theorem outside_eq_none {s : State} {l : List (BitVec 8)} (h : InWindow s l) : outside s.th l = none := by
  simp only [outside, List.find?_eq_none, List.mem_map, decide_eq_true_eq, not_le]
  rintro _ ⟨v, hv, rfl⟩
  exact h v hv

theorem all_present {s : State} {l : List Reg} (h : Ready s l) : l.all (present s.th) = true := by
  simpa [List.all_eq_true, Ready] using h

/-- Where nothing stands against it, a bundle takes effect. -/
theorem conclude_done {slot : Slot} {p : Plan} {s : State} (hw : InWindow s p.specs) (hr : Ready s p.needs)
    (hb : p.bad = none) (hl : Ready s p.late) (hh : p.hold = false) : conclude slot p s = .next (finish p.next) := by
  simp [conclude, outside_eq_none hw, all_present hr, all_present hl, hb, hh]

/-- A check that fails traps. -/
theorem conclude_trap {slot : Slot} {p : Plan} {s : State} {c : Cause} {v : Word} (hw : InWindow s p.specs)
    (hr : Ready s p.needs) (hb : p.bad = some (.trap c v)) : conclude slot p s = trapsWith s c v := by
  simp [conclude, outside_eq_none hw, all_present hr, hb, trapsWith]

/-- A bundle whose checks wait asks for its walks, and has not taken effect. -/
theorem conclude_wait {slot : Slot} {p : Plan} {s : State} {l : List Nat} (hw : InWindow s p.specs)
    (hr : Ready s p.needs) (hb : p.bad = some (.wait l)) : conclude slot p s = .next (waitChecks l s) := by
  simp [conclude, outside_eq_none hw, all_present hr, hb]

/-- A register that is empty holds the bundle before its checks; that it is awaited is all that is noted. -/
theorem conclude_stall {slot : Slot} {p : Plan} {s : State} {r : Reg} (hw : InWindow s p.specs) (hm : r ∈ p.needs)
    (hr : present s.th r = false) : conclude slot p s = .next { awaitFirst (p.late ++ p.needs) s with last := .stalled } := by
  have : p.needs.all (present s.th) = false := by
    rw [List.all_eq_false]
    exact ⟨r, hm, by simp [hr]⟩
  simp [conclude, outside_eq_none hw, this]

/-- One that is empty after the checks have passed holds it too. -/
theorem conclude_stall_late {slot : Slot} {p : Plan} {s : State} {r : Reg} (hw : InWindow s p.specs) (hn : Ready s p.needs)
    (hb : p.bad = none) (hm : r ∈ p.late) (hr : present s.th r = false) :
    conclude slot p s = .next { awaitFirst (p.late ++ p.needs) s with last := .stalled } := by
  have : p.late.all (present s.th) = false := by
    rw [List.all_eq_false]
    exact ⟨r, hm, by simp [hr]⟩
  simp [conclude, outside_eq_none hw, all_present hn, hb, this]

/-- A bundle never stops the machine. -/
theorem conclude_next (slot : Slot) (p : Plan) (s : State) : ∃ t, conclude slot p s = .next t := by
  unfold conclude
  split
  · exact ⟨_, rfl⟩
  · split
    · split
      · exact ⟨_, rfl⟩
      · exact ⟨_, rfl⟩
      · exact ⟨_, rfl⟩
      · split
        · split <;> exact ⟨_, rfl⟩
        · exact ⟨_, rfl⟩
    · exact ⟨_, rfl⟩

/-- All that the end of a bundle can be. -/
theorem conclude_cases {slot : Slot} {p : Plan} {s t : State} (h : conclude slot p s = .next t) :
    (∃ i, outside s.th p.specs = some i ∧ t = { trapFocus s .illegal (windowVal slot i) s.th.pc with last := .window }) ∨
    (∃ c v, p.bad = some (.trap c v) ∧ t = { trapFocus (missOf s c v) c v s.th.pc with last := .trapped }) ∨
    (∃ va c, p.bad = some (.suspend va c) ∧ t = { suspendFor s va c with last := .trapped }) ∨
    (∃ l, p.bad = some (.wait l) ∧ t = waitChecks l s) ∨
    t = { s with last := .held } ∨ t = { awaitFirst (p.late ++ p.needs) s with last := .stalled } ∨
    (outside s.th p.specs = none ∧ Ready s p.needs ∧ Ready s p.late ∧ p.bad = none ∧ p.hold = false ∧ t = finish p.next) := by
  unfold conclude at h
  split at h
  · rename_i i hi
    exact .inl ⟨i, hi, by simpa using h.symm⟩
  · rename_i ho
    split at h
    · rename_i hp
      split at h
      · rename_i c v hb
        exact .inr (.inl ⟨c, v, hb, by simpa using h.symm⟩)
      · rename_i va c hb
        exact .inr (.inr (.inl ⟨va, c, hb, by simpa using h.symm⟩))
      · rename_i l hb
        exact .inr (.inr (.inr (.inl ⟨l, hb, by simpa using h.symm⟩)))
      · rename_i hb
        split at h
        · rename_i hl
          split at h
          · exact .inr (.inr (.inr (.inr (.inl (by simpa using h.symm)))))
          · rename_i hh
            exact .inr (.inr (.inr (.inr (.inr (.inr ⟨ho, by simpa [Ready, List.all_eq_true] using hp,
              by simpa [Ready, List.all_eq_true] using hl, hb, by simpa using hh, by simpa using h.symm⟩)))))
        · exact .inr (.inr (.inr (.inr (.inr (.inl (by simpa using h.symm))))))
    · exact .inr (.inr (.inr (.inr (.inr (.inl (by simpa using h.symm))))))

end Sys2Proof.Machine
end

