-- ==== Sys2Proof/Tests/Slice0.lean ====
section
/-! SUPPORT. Tests: words written out from the encodings of the spec, terms that the checks of well-formedness refuse, single
steps, and for each statement a state and operands that meet its hypotheses. -/

namespace Sys2Proof.Tests

open Sys2Proof Sys2Proof.Machine

set_option maxRecDepth 100000
set_option Elab.async false

/-- A machine in phase 3 whose one thread, in slot 0 of core 0, is about to fetch a `NOP`. -/
def m0 : State := State.reset.withFetchWord 32 0x80000000

/-- The machine with another thread in focus. -/
def on (f : Thread → Thread) : State := setTh m0 (f m0.th)

/-- The machine whose thread holds a value in a scalar register. -/
def withS (r : BitVec 6) (v : Word) : State := on (fun t => wrS t r v)

theorem running_iff {s : State} : Running s ↔ s.th.prog = none ∧ s.th.status = .ready := ⟨fun h => ⟨h.1, h.2⟩, fun h => ⟨h.1, h.2⟩⟩
theorem focused_iff {s : State} {h : Handle} : Focused s h ↔ isLive s.th = true ∧ s.th.handle = h := Iff.rfl
theorem ready_iff {s : State} {l : List Reg} : Ready s l ↔ l.all (present s.th) = true := by simp [Ready]
theorem inWindow_iff {s : State} {l : List (BitVec 8)} :
    InWindow s l ↔ l.all (fun v => decide ((specIndex s.th v).toNat < winSize s.th)) = true := by simp [InWindow]
theorem maySend_iff {s : State} {k : BitVec 4} : MaySend s k ↔ (!requestsFull s s.th && !fenced s s.th k) = true := by simp [MaySend]
theorem agree_iff {s : State} {r : FmtRule} {l : List (BitVec 8)} : FormatsAgree s r l ↔ fmtsOk r (l.map (fun v => (vop s.th v).fmt)) = true := Iff.rfl

/-- A leaf of the device, readable, writable and executable, with a frame of 64 KiB. -/
def leafTo (frame : BitVec 29) : Word := (0#1 ++ (5 : BitVec 12) ++ frame ++ 0#22).cast (by decide) ||| 0x1F

/-- The machine with pages of ASID 0 in the TLBs of core 0 and cluster 0: at 0x500000 the second frame of HBM, at 0x600000 die SRAM. -/
def mMem : State :=
  let e (p : Nat) (f : BitVec 29) : TlbEntry := { asid := 0, page := p, big := false, leaf := leafTo f }
  let s := setCore m0 0 { coreOf m0 0 with tlb := [e 0x50 1, e 0x60 0x1E000000] ++ (coreOf m0 0).tlb }
  setCluster s 0 { clusterAt s 0 with tlb := [e 0x50 1, e 0x60 0x1E000000, e 0x40 0] }

/-- The same with a value in a scalar register. -/
def memS (r : BitVec 6) (v : Word) : State := setTh mMem (wrS mMem.th r v)

/-- The bundle of an instruction alone. -/
def bundleOf (i : Instr) : BitVec 64 := (encode i).getD 0

/-! ### Words of the spec -/

/-- Worked encodings of R107, R108, R110, R111 to R113 (file 07). -/
theorem test_decode_scalar :
    decodeBundle 0x000000009038A083 = .pair (.srai 7 5 3) .nopA ∧ decodeBundle 0x00000000924102D8 = .pair (.bfxu 8 8 11 24) .nopA ∧
    decodeBundle 0x0000000004100147 = .long (.movih 7 0x4005) ∧ decodeBundle 0x0000000902000004 = .long (.movi 4 0x480000) := by decide

/-- Worked encodings of R28, R112, R113, and of the programs of files 12 and 16. -/
theorem test_decode_control :
    decodeBundle 0x00000000A0090003 = .pair (.bcond .eq 9 0 3) .nopA ∧ decodeBundle 0x00000000A05A73FF = .pair (.bcond .ne 26 28 0x3FF) .nopA ∧
    decodeBundle 0x00000000A09017E5 = .pair (.bcond .lt 16 5 0x3E5) .nopA ∧ decodeBundle 0x00000000A5FFFFFC = .pair (.jal 0x1FFFFFC) .nopA ∧
    decodeBundle 0x00000000A2000002 = .pair (.j 2) .nopA ∧ decodeBundle 0x00000000A607E000 = .pair (.jalr 0 63 0) .nopA := by decide

/-- Worked encodings of R116, R118 to R127. -/
theorem test_decode_thread :
    decodeBundle 0x00000000B4120001 = .pair (.waitp (.s 9) true) .nopA ∧ decodeBundle 0x00000000B4000100 = .pair (.waitp (.v 0) false) .nopA ∧
    decodeBundle 0x00000000B0280103 = .pair (.vempty 20 3) .nopA ∧ decodeBundle 0x00000000A8D32006 = .pair (.preempt 26 25) .nopA ∧
    decodeBundle 0x00000000A8016005 = .pair (.migrate 11) .nopA ∧ decodeBundle 0x00000000AA280001 = .pair (.gettid 5 1) .nopA ∧
    decodeBundle 0x00000000AAD37000 = .pair (.gettidQ 26 27) .nopA ∧ decodeBundle 0x000000060800F144 = .long (.fork 4 5 15 false 6) := by decide

/-- Worked encodings of R95, R131 and of the program of file 12. -/
theorem test_decode_system :
    decodeBundle 0x00000000AC180003 = .pair (.rdsr 3 3) .nopA ∧ decodeBundle 0x00000000ACF80065 = .pair (.rdsr 31 0x65) .nopA ∧
    decodeBundle 0x00000000AE008063 = .pair (.wrsr 4 0x63) .nopA ∧ decodeBundle 0x00000000B6000001 = .pair (.trap 1) .nopA ∧
    decodeBundle 0x00000000A8000010 = .pair .tret .nopA := by decide

/-- Worked encodings of R160 to R168. -/
theorem test_decode_memory :
    decodeBundle 0x00000000C0189000 = .pair (.ld 3 4 .w 0) .nopA ∧ decodeBundle 0x00000000C4489000 = .pair (.st 9 4 .w 0) .nopA ∧
    decodeBundle 0x00000000CE40A030 = .pair (.ldAq 8 5 .w) .nopA ∧ decodeBundle 0x00000000CE70C05A = .pair (.stRl 14 6 .d) .nopA ∧
    decodeBundle 0x00000000C6305004 = .pair (.ldl 6 2 .w 4) .nopA ∧ decodeBundle 0x00000000D440C001 = .pair (.put 8 6 true) .nopA ∧
    decodeBundle 0x000000100B006109 = .long (.amo 9 4 6 0 .add false 0) ∧ decodeBundle 0x00000000B8000424 = .pair (.fence false .sy 2 4) .nopA ∧
    decodeBundle 0x00000000B8000333 = .pair (.fence false .dv 3 3) .nopA := by decide

/-- Worked encodings of R169 and file 16. -/
theorem test_decode_matrix :
    decodeBundle 0x00000000BC2A8080 = .pair (.issue 5 20 .e1) .nopA ∧ decodeBundle 0x00000000BC1A8000 = .pair (.issue 3 20 .e0) .nopA ∧
    decodeBundle 0x00000000BA580002 = .pair (.accz 11) .nopA ∧ decodeBundle 0x00000000BA522000 = .pair (.claim 10 17) .nopA ∧
    decodeBundle 0x0000000014000B28 = .long (.mload 0x28 11 0 false) ∧ decodeBundle 0x000000001602CC1E = .long (.accrd 30 12 11) := by decide

/-- Worked encodings of the programs of files 12 and 18. -/
theorem test_decode_vector :
    decodeBundle 0x7C04000880000000 = .pair .nop (.vrot 1 0 2 0) ∧ decodeBundle 0x8808000480000000 = .pair .nop (.vdot4 2 0 1 0) ∧
    decodeBundle 0x9418080080000000 = .pair .nop (.vext 6 2 0) ∧ decodeBundle 0x943C501880000000 = .pair .nop (.vext 15 20 6) ∧
    decodeBundle 0x9C000000B0000103 = .pair (.vempty 0 3) (.setbf 0 0) ∧ decodeBundle 0x9800000080000000 = .pair .nop (.viota 0 0 0) := by decide

/-- Worked encodings of files 14 and 18. -/
theorem test_decode_engines :
    decodeBundle 0x00013FBF6134C2CA = .long (.sload 10 11 12 13 127 127 2) ∧ decodeBundle 0x000000002200020A = .long (.tdesc 10 2) ∧
    decodeBundle 0x000000072434A20C = .long (.texpand 12 2 10 13 14) ∧ decodeBundle 0x00000000262CA20C = .long (.tback 12 2 10 11 false) ∧
    decodeBundle 0x000000002A00A214 = .long (.trdn 20 2 10) ∧ decodeBundle 0x000000202000420A = .long (.tbind 10 2 4 true) ∧
    decodeBundle 0x000000A02C000211 = .long (.tstat 17 2 5) ∧ decodeBundle 0x000000402000021A = .long (.tbindUnbind 26 2) := by decide

/-- Worked encodings of files 19 to 23. -/
theorem test_decode_system_engines :
    decodeBundle 0x000000003400510A = .long (.pload 10 4 5) ∧ decodeBundle 0x00000000361C510C = .long (.pconv 12 4 5 7) ∧
    decodeBundle 0x000000003900010D = .long (.pqry 13 4 1) ∧ decodeBundle 0x000000013D00018B = .long (.psync 11 6 3) ∧
    decodeBundle 0x0000080040185109 = .long (.nput 9 4 5 6 { cc := 0, ob := false, e := 2, seg := 0, dm := .rud }) ∧
    decodeBundle 0x00800200460081CA = .long (.nsendL 10 7 8 0 true) ∧ decodeBundle 0x000000014A00510A = .long (.wopen 10 4 5 2) ∧
    decodeBundle 0x000000004C000290 = .long (.wrevoke 16 10) ∧ decodeBundle 0x0000000048000000 = .long .nfence ∧
    decodeBundle 0x000000014F000390 = .long (.wqry 16 14 3) ∧ decodeBundle 0x000000001800510A = .long (.launch 10 4 5) ∧
    decodeBundle 0x00000000A8508292 = .pair (.tlbw 10 4 5) .nopA ∧ decodeBundle 0x00000000A8508293 = .pair (.tlbi 10 4 5) .nopA := by decide

/-- R35: what stands in erased memory is no instruction. -/
theorem test_decode_erased : decodeC 0xFFFFFFFF ≠ .ok .nop ∧ decodeTableWord 64 0 = none ∧ decodeTableWord 32 0xFFFFFFFF = none := by decide

/-! ### Terms that the checks refuse -/

theorem test_wf_refuses_fields_past_the_register : wf (.bfxu 1 2 63 1) = false ∧ wf (.bfx 1 2 32 32) = false ∧ wf (.bfi 1 2 0 63) = true ∧
    wf (.bfi 1 2 1 63) = false := by decide
theorem test_wf_refuses_unsigned_doubles : wf (.ldu 1 2 .d 0) = false ∧ wf (.lduAq 1 2 .d) = false ∧ wf (.ldu 1 2 .w 0) = true := by decide
theorem test_wf_refuses_long_runs : wf (.vlds 0 1 2 0 7 false) = false ∧ wf (.vsts 0 1 2 0 7 false) = false ∧ wf (.vldg 0 1 2 0 7 false) = false ∧
    wf (.vstg 0 1 2 0 7 false) = false ∧ wf (.vlds 0 1 2 0 6 false) = true := by decide
theorem test_wf_refuses_lanes_past_63 : wf (.vputl 0 1 false false 2 49) = false ∧ wf (.vputl 0 1 false false 2 48) = true := by decide
theorem test_wf_refuses_atomics : wf (.amo 1 2 3 0 .fadd true 0) = false ∧ wf (.amo 1 2 3 4 .add false 0) = false ∧ wf (.amo 1 2 3 4 .cas true 0) = true := by decide
theorem test_wf_refuses_blocks_past_s63 : wf (.issue 1 63 .e0) = false ∧ wf (.issue 0 63 .e0) = true := by decide
theorem test_wf_refuses_empty_masks : wf (.swait 0) = false ∧ wf (.psync 1 2 0) = false := by decide
theorem test_wf_refuses_queries : wf (.pqry 1 2 7) = false ∧ wf (.tstat 1 0 7) = false ∧ wf (.wqry 1 2 5) = false ∧ wf (.wqry 1 2 4) = true := by decide
theorem test_wf_refuses_network_fields :
    wf (.nput 1 2 3 4 { cc := 14, ob := false, e := 0, seg := 0, dm := .rud }) = false ∧
    wf (.nput 1 2 3 4 { cc := 0, ob := false, e := 9, seg := 0, dm := .rud }) = false ∧
    wf (.nget 1 2 3 4 { cc := 0, ob := false, e := 0, seg := 0, dm := .uud }) = false ∧
    wf (.nsend 1 2 3 4 { cc := 0, ob := false, e := 1, seg := 0, dm := .rod }) = false ∧
    wf (.natom 1 2 3 0 4 .swap false { cc := 0, ob := false, e := 1, seg := 0, dm := .rud }) = false ∧ wf (.nsendL 1 2 3 14 false) = false := by decide
theorem test_wf_refuses_conflict_rows : wf (.unassigned 0 0) = false ∧ wf (.unassigned 1 0x100000000) = false ∧ wf (.unassigned 3 0x100000000) = true := by decide

/-! ### Single steps -/

/-- What the step from the word's state leaves in a field of the thread in focus. -/
def after (w : Nat) (f : Thread → Bool) : Bool :=
  match step (State.reset.withFetchWord 32 w) with
  | .next t => f t.th
  | _ => false

/-- R106: −1 as a sum. The word is major 0x02, sd 1, sa 0, imm13 all ones. -/
theorem test_step_addi : after 0x84081FFF (fun t => t.s[1] = BitVec.allOnes 64 && t.pc = 0x400008) = true := by decide

/-- Hypotheses of `Obligations.EncodingIsABijection`. -/
theorem witness_EncodedWordsDecode : wf (.srai 7 5 3) = true ∧ encodeC (.srai 7 5 3) = some 0x9038A083 ∧ wf (.vrot 1 0 2 0) = true ∧
    encodeA (.vrot 1 0 2 0) = some 0x7C040008 ∧ wf (.movi 4 0x480000) = true ∧ (encodeL (.movi 4 0x480000)).isSome = true ∧
    decodeC 0x9038A083 = .ok (.srai 7 5 3) ∧ decodeA 0x7C040008 = .ok (.vrot 1 0 2 0) := by decide

/-- Hypotheses of `Obligations.BundlesRoundTrip`. -/
theorem witness_BundlesRoundTrip : wf (.srai 7 5 3) = true ∧ hasWord (.srai 7 5 3) = true ∧ wf (.movi 4 0x480000) = true ∧ hasWord (.movi 4 0x480000) = true := by decide

/-! ### Bundles -/

/-- Hypotheses of `Obligations.StepRunsDecodedInstruction`. -/
theorem witness_Issues : Issues m0 := by
  constructor <;> decide

/-- Hypotheses of `Obligations.StepRunsDecodedInstruction`. -/
theorem witness_StepRunsDecodedInstruction : Issues m0 ∧ wf .nop = true ∧ holdsAlone (theBundle m0) .nop ∧
    (∃ t, exec .nop (afterFetch m0) = .next t ∧ waits t.last = false) :=
  ⟨witness_Issues, by decide, .inr (.inl (by decide)), ⟨_, rfl, by decide⟩⟩

/-- `ADD S6, S2, S3 || SETBF #0, #INT32`. -/
def mPair : State := placeBundle State.reset 0x9C00000082304180
/-- `WRSR BFMT0, S0 || SETBF #0, #INT32`: two writes of one register. -/
def mConflict : State := placeBundle State.reset 0x9C000000AE000010
/-- `RDSR S3, #5`, of a register that is not there, before an A-slot word of all ones. -/
def mFirst : State := placeBundle State.reset 0xFFFFFFFFAC180005
/-- Erased memory. -/
def mErased : State := placeBundle State.reset 0

theorem issues_pair : Issues mPair := by
  constructor <;> decide
theorem issues_conflict : Issues mConflict := by
  constructor <;> decide
theorem issues_erased : Issues mErased := by
  constructor <;> decide
theorem issues_first : Issues mFirst := by
  constructor <;> decide

/-- Hypotheses of `Obligations.StepRunsBothInstructions`. -/
theorem witness_StepRunsBothInstructions : Issues mPair ∧ decodeBundle (theBundle mPair) = .pair (.add 6 2 3) (.setbf 0 0) ∧
    (isNopA (.setbf 0 0) = false ∧ isNopC (.add 6 2 3) = false ∧ formBad (afterFetch mPair) (.add 6 2 3) = false ∧ formBad (afterFetch mPair) (.setbf 0 0) = false) ∧
    conflict (afterFetch mPair).th (.add 6 2 3) (.setbf 0 0) = false ∧
    (∃ x, exec (.add 6 2 3) (afterFetch mPair) = .next x ∧ x.last = .done) ∧
    (∃ y, exec (.setbf 0 0) (clearFlags (afterFetch mPair)) = .next y ∧ y.last = .done) :=
  ⟨issues_pair, by decide, by decide, by decide, ⟨_, rfl, by decide⟩, ⟨_, rfl, by decide⟩⟩

/-- Hypotheses of `Obligations.BundlesThatTrap`. -/
theorem witness_WriteConflictTraps : Issues mConflict ∧ decodeBundle (theBundle mConflict) = .pair (.wrsr 0 0x10) (.setbf 0 0) ∧
    isNopA (.setbf 0 0) = false ∧ formBad (afterFetch mConflict) (.wrsr 0 0x10) = false ∧ formBad (afterFetch mConflict) (.setbf 0 0) = false ∧
    conflict (afterFetch mConflict).th (.wrsr 0 0x10) (.setbf 0 0) = true :=
  ⟨issues_conflict, by decide⟩

/-- Hypotheses of `Obligations.BundlesThatTrap`. -/
theorem witness_UndecodableBundleTraps : (Issues mErased ∧ ∃ r, decodeBundle (theBundle mErased) = .illegal 3 0 r) ∧ Issues mFirst ∧
    (∃ d r, decodeBundle (theBundle mFirst) = .illegal 2 d r) ∧ decodeC (word0 (theBundle mFirst)) = .ok (.rdsr 3 5) ∧
    formBad (afterFetch mFirst) (.rdsr 3 5) = true :=
  ⟨⟨issues_erased, _, rfl⟩, issues_first, ⟨_, _, rfl⟩, by decide⟩

/-- Hypotheses of `Obligations.TheDeviceComesUpAndStops`. -/
theorem witness_FatalPhaseStandsStill : ({ m0 with phase := 4 } : State).phase = 4 ∧ ({ m0 with phase := 4 } : State).inputs = [] ∧
    ({ m0 with inputs := [.trainingComplete] } : State).inputs = [.trainingComplete] ∧ reachesFatal .trainingComplete = false := by decide

/-! ### Scalar instructions -/

/-- Hypotheses of `Obligations.ScalarResults`. -/
theorem witness_ScalarResults : scalarEffect m0.th (.add 6 2 3) = some (6, [2, 3], rdS m0.th 2 + rdS m0.th 3) ∧ Ready m0 (scalarNeeds 6 [2, 3]) :=
  ⟨rfl, ready_iff.mpr (by decide)⟩

/-- Hypotheses of `Obligations.ScalarResults`. -/
theorem witness_DivisionResults : divisionEffect (withS 2 7).th (.rem 6 2 3) = some (6, [2, 3], 7) ∧ Ready (withS 2 7) (scalarNeeds 6 [2, 3]) := by
  simp only [ready_iff]
  decide +kernel

/-- Hypotheses of `Obligations.ScalarResults`. -/
theorem witness_BitfieldResults : (0 : BitVec 6).toNat + (63 : BitVec 6).toNat < 64 ∧ Ready m0 [.s 1, .s 2] := by
  simp only [ready_iff]
  decide +kernel

/-- Hypotheses of `Obligations.ScalarFrame`. -/
theorem witness_EmptyOperandStalls : isScalarForm (on (fun t => setCount t (.s 2) 1)).th (.clz 6 2) 6 [2] ∧ (.s 2 : Reg) ∈ scalarNeeds 6 [2] ∧
    present (on (fun t => setCount t (.s 2) 1)).th (.s 2) = false :=
  ⟨.inl ⟨_, rfl⟩, by decide, by decide⟩

/-- Hypotheses of `Obligations.ScalarFrame`. -/
theorem witness_ScalarFrame : isScalarForm m0.th (.bfi 6 2 3 4) 6 [2] ∧ ∃ t, exec (.bfi 6 2 3 4) m0 = .next t :=
  ⟨.inr (.inr ⟨2, 3, 4, .inr (.inr rfl), rfl⟩), _, rfl⟩

/-- Hypotheses of `Obligations.ScalarFrame`. -/
theorem witness_IndexRegistersAndNop : present m0.th (.s 63) = true := by decide

/-- Hypotheses of `Obligations.BranchesAndJumps`. -/
theorem witness_BranchGoesByItsCondition : Ready m0 [.s 1, .s 2] := ready_iff.mpr (by decide)

/-- Hypotheses of `Obligations.BranchesAndJumps`. -/
theorem witness_JumpsLinkTheNextBundle : Ready m0 [.s 63, .s 0] := ready_iff.mpr (by decide)

/-- Hypotheses of `Obligations.BranchesAndJumps`. -/
theorem witness_IndirectJumpChecksAlignment : Ready m0 [.s 63, .s 5] ∧ (rdS m0.th 5 + (8 : BitVec 13).signExtend 64).toNat % 8 = 0 ∧
    (rdS m0.th 5 + (8191 : BitVec 13).signExtend 64).toNat % 8 ≠ 0 := by
  simp only [ready_iff]
  decide +kernel

/-! ### Presence -/

/-- Hypotheses of `Obligations.PresenceInstructions`. -/
theorem witness_PresenceInstructionsSetTheCount : (63 : BitVec 6) ≠ 0 ∧ (15 : BitVec 4) ≠ 0 ∧ InWindow m0 [247] := by
  simp only [inWindow_iff]
  decide +kernel

/-- Hypotheses of `Obligations.PresenceInstructions`. -/
theorem witness_PresenceOfFixedRegistersTraps : Instr.fill (.m 0) ∈ [.empty 0 5, .emptyMask 0 5, .fill (.s 0), .fill (.m 0)] := by decide

/-- Hypotheses of `Obligations.PresenceInstructions`. -/
theorem witness_CountsAreKept : (Reg.v 511) ≠ .s 0 ∧ (Reg.v 511) ≠ .m 0 ∧ (Reg.s 1) ≠ .v 511 := by decide

/-- Hypotheses of `Obligations.WaitSleepsUntilPresent`. -/
theorem witness_WaitSleepsUntilPresent : InWindow m0 (pregSpecs (.v 247)) ∧ present m0.th (pregReg m0.th (.v 247)) = true ∧
    InWindow (on (fun t => setCount t (.v 20) 64)) (pregSpecs (.v 20)) ∧
    present (on (fun t => setCount t (.v 20) 64)).th (pregReg (on (fun t => setCount t (.v 20) 64)).th (.v 20)) = false := by
  simp only [inWindow_iff]
  decide +kernel

/-! ### Special registers and traps -/

/-- Hypotheses of `Obligations.SpecialRegisters`. -/
theorem witness_SpecialRegistersRead : specialThere m0.th 0x5F ∧ ¬ specialThere m0.th 0x68 ∧ ¬ specialThere m0.th 5 ∧ present m0.th (.s 3) = true := by
  refine ⟨?_, ?_, ?_, by decide⟩ <;> unfold specialThere <;> decide

/-- Hypotheses of `Obligations.SpecialRegisters`. -/
theorem witness_SpecialRegistersWritten : present (withS 4 8).th (.s 4) = true ∧ (rdS (withS 4 8).th 4).toNat < 2 ^ 7 ∧
    (rdS m0.th 4).toNat < 2 ∧ (15 : BitVec 4).toNat < m0.th.win.toNat ∧ (fmtOf ((rdS m0.th 4).truncate 8)).isSome = true ∧
    (rdS (withS 4 8).th 4).toNat % 8 = 0 ∧ (rdS (withS 4 8).th 4).toNat ≤ 8 := by decide

/-- Hypotheses of `Obligations.SpecialRegisters`. -/
theorem witness_WritingTepcAbandonsTheWait : present (on (fun t => { t with waited := some (.evw 7) })).th (.s 4) = true ∧
    (on (fun t => { t with waited := some (.evw 7) })).th.waited = some (.evw 7) := by decide

/-- Hypotheses of `Obligations.SpecialRegisters`. -/
theorem witness_SpecialRegistersRefuse : (0x60 : BitVec 12).toNat ∉ [3, 4, 0x62, 0x63, 0x67] ∧ ¬ (0x10 ≤ (0x60 : BitVec 12).toNat ∧ (0x60 : BitVec 12).toNat < 0x60) ∧
    2 ^ 7 ≤ (rdS (withS 4 128).th 4).toNat ∧ (rdS (withS 4 9).th 4).toNat % 8 ≠ 0 ∧ 8 < (rdS (withS 4 9).th 4).toNat ∧ rdS m0.th 4 = 0 ∧
    fmtOf ((rdS (withS 4 255).th 4).truncate 8) = none ∧ (rdS (withS 4 255).th 4).toNat < 256 := by decide

/-- The machine whose thread has a handler. -/
def handled : State := on (fun t => { t with tvec := 0x400000 })
/-- The machine whose thread is in a handler that interrupted a wait. -/
def inHandler (w : Option Wait) (woken : Bool) : State :=
  on (fun t => { t with tvec := 0x400000, tstat := 0x40, tepc := 0x400008, tcause := if w.isSome then 0x200 else 0, waited := w, woken := woken })

/-- Hypotheses of `Obligations.TrapEntry`. -/
theorem witness_TrapEntryAsSpecified : handled.th.tstat.getLsbD 6 = false ∧ handled.th.tvec ≠ 0 ∧ m0.th.tvec = 0 ∧
    (inHandler none false).th.tstat.getLsbD 6 = true := by decide

/-- Hypotheses of `Obligations.TrapEntry`. -/
theorem witness_TrapInstructionsEnterTheHandler : handled.th.prog = none ∧ handled.th.tstat.getLsbD 6 = false ∧ handled.th.tvec ≠ 0 := by decide

/-- Hypotheses of `Obligations.TrapReturn`. -/
theorem witness_TrapReturnRestores : m0.th.tstat.getLsbD 6 = false ∧ (inHandler none false).th.tstat.getLsbD 6 = true ∧
    (inHandler none false).th.tepc.toNat % 8 = 0 ∧ bits (inHandler none false).th.tcause 9 3 = 0 ∧
    (on (fun t => { t with tstat := 0x40, tepc := 4 })).th.tepc.toNat % 8 ≠ 0 := by decide

/-- The same with another bundle at 0x400000, where the wait stood. -/
def waitedAt (b : BitVec 64) (w : Wait) (woken : Bool) : State :=
  let s := placeBundle State.reset b
  setTh s { s.th with tvec := 0x400000, tstat := 0x40, tepc := 0x400008, tcause := 0x200, waited := some w, woken := woken }

/-- Hypotheses of `Obligations.TrapReturn`. -/
theorem witness_TrapReturnEntersTheWaitAgain :
    let s := waitedAt 0xB4120001 (.waitp (.s 9) true) false
    s.th.tstat.getLsbD 6 = true ∧ s.th.tepc.toNat % 8 = 0 ∧ bits s.th.tcause 9 3 ≠ 0 ∧ fetchBad s s.th (s.th.tepc - 8) = none ∧
    slotC (fetchBundle s s.th (s.th.tepc - 8)).2 = some (.waitp (.s 9) true) ∧ present s.th (pregReg s.th (.s 9)) = true ∧
    (let u := waitedAt 0xA8000010 .teambar false; slotC (fetchBundle u u.th (u.th.tepc - 8)).2 = some .tret) ∧
    (let u := waitedAt 0 (.waitp (.s 9) true) false; slotC (fetchBundle u u.th (u.th.tepc - 8)).2 = none) := by decide

/-- Hypotheses of `Obligations.TrapReturn`. -/
theorem witness_TrapReturnEntersOtherWaits :
    (let u := waitedAt (bundleOf (.sleep 3)) .sleep false; slotC (fetchBundle u u.th (u.th.tepc - 8)).2 = some (.sleep 3) ∧ u.th.waited = some .sleep) ∧
    (let u := waitedAt (bundleOf (.evw 3)) (.evw 7) true; slotC (fetchBundle u u.th (u.th.tepc - 8)).2 = some (.evw 3) ∧ u.th.woken = true) ∧
    (let u := waitedAt (bundleOf .teambar) .teambar false; slotC (fetchBundle u u.th (u.th.tepc - 8)).2 = some .teambar ∧ u.th.woken = false) := by decide

/-! ### The life of a thread -/

/-- Another thread, saved and runnable, of handle 0x010001. -/
def other : Thread := { m0.th with handle := 0x010001, status := .away none, runnable := true, slot := 1 }
/-- The machine with that thread in the resume queue of cluster 0. -/
def crowded : State := setCluster { m0 with rest := [other] } 0 { clusterAt m0 0 with queue := [0x010001] }

/-- Hypotheses of `Obligations.LeavingTheSlot`. -/
theorem witness_LeavingTheSlot : present m0.th (.s 3) = true ∧ rdS m0.th 3 = 0 ∧ rdS (withS 3 5).th 3 ≠ 0 ∧
    (0x010001 ∈ (clusterAt crowded (clusterOf crowded.th.core)).queue ∧ findThread crowded 0x010001 = some other ∧ other.runnable = true ∧ crowded.th.prio ≤ other.prio) ∧
    (clusterAt m0 (clusterOf m0.th.core)).queue = [] ∧
    (rdS (withS 3 5).th 3).truncate 11 ≠ m0.th.core ∧ clusterPresent m0 (clusterOf 5) = true ∧
    clusterPresent { m0 with capcl := 1 } (clusterOf 2047) = false := by decide

/-- Hypotheses of `Obligations.LeavingTheSlot`. -/
theorem witness_SleepEndsInTime : isLive (on (fun t => { t with status := .sleeping .sleep })).th = true ∧ isLive m0.th = true := by decide

/-- Hypotheses of `Obligations.RequestsToTheDispatcher`. -/
theorem witness_RequestsToTheDispatcher : Running m0 ∧ Ready m0 [.s 1, .s 2] ∧ (coreOf m0 m0.th.core).outst < 256 ∧
    (rdS m0.th 2).truncate 24 = m0.th.handle ∧ (rdS (withS 2 9).th 2).truncate 24 ≠ m0.th.handle := by
  simp only [running_iff, ready_iff]
  decide +kernel

/-- The other thread resident beside the first. -/
def pairOf : State := { m0 with rest := [{ other with status := .ready }], dir := [(1, { state := 1, gen := 1, world := 0, core := 0, slot := 1, image := 0 })] }

/-- Hypotheses of `Obligations.RequestsToTheDispatcher`. -/
theorem witness_DirectoryAnswers : (dirOf m0 (hIndex 0x010001)).state = 0 ∧ findThread pairOf 0x010001 = some { other with status := .ready } ∧
    findThread pairOf (senderOf pairOf pairOf.th).by' = some pairOf.th ∧ (dirOf pairOf (hIndex 0x010001)).state = 1 ∧
    (dirOf pairOf (hIndex 0x010001)).gen = hGen 0x010001 ∧ other.save = none := by decide

/-- The thread in a team of two, with the other one. -/
def teamed (arrived : List Handle) : State :=
  let s := { setTh m0 { m0.th with team := 1, member := some 0 } with teamNext := 2 }
  setTeam s 1 (some { graph := 0, node := 0, home := 0, members := [0, 0x010001], left := [], arrived := arrived, alive := 2, placed := 0, acted := 0 })

/-- The machine whose thread has begun its exit. -/
def departing (s : State) : State := setTh s { s.th with status := .exiting false }
/-- The last thread of its team has begun its exit. -/
def lastOf : State := setTeam (departing (teamed [])) 1 ((teamAt (teamed []) 1).map (fun m => { m with left := [0x010001], alive := 1 }))

/-- Hypotheses of `Obligations.ExitWaitsAndFrees`. -/
theorem witness_ExitCompletes : (departing m0).th.prog = none ∧ (departing m0).th.status = .exiting false ∧
    unanswered { departing m0 with copies := [packet (senderOf m0 m0.th) 0 []] } (senderOf m0 m0.th) = true ∧
    (∀ s ∈ [departing m0, departing (teamed []), departing (teamed [0x010001]), lastOf],
      ¬ (unanswered s (senderOf s s.th) = true ∨ requestsOpen s s.th.handle = true)) ∧
    teamAt (departing m0) (departing m0).th.team = none ∧ (teamAt (departing (teamed [])) 1).map (·.alive) = some 2 ∧
    (teamAt (departing (teamed [0x010001])) 1).map (·.arrived) = some [0x010001] ∧ (teamAt lastOf lastOf.th.team).map (·.alive) = some 1 ∧
    lastOf.th.team < lastOf.teamNext ∧ gRd lastOf (nodeAt lastOf 0 0 + 50) 2 + 1 ≠ nodeTeams lastOf 0 0 ∧
    (let s := { departing m0 with launches := [{ (default : Launch) with graph := 0, aborting := some (4, 0) }] }
     teamAt s s.th.team = none ∧ (launchOf s s.th.graph).map (·.aborting) = some (some (4, 0)) ∧ s.rest = []) := by decide +kernel

/-- Hypotheses of `Obligations.BarriersAndEventLines`. -/
theorem witness_BarrierHoldsUntilAllArrive : Running m0 ∧ m0.th.member = none ∧ (teamed []).th.member = some 0 ∧ (teamAt (teamed []) 1).isSome = true ∧
    (teamed []).th.waited = none ∧ outstanding (teamed []) (senderOf (teamed []) (teamed []).th) 0xF = [] ∧
    (teamAt (teamed [0x010001]) 1).map (·.arrived) = some [0x010001] ∧
    (∀ u ∈ [{ other with status := .sleeping .teambar, runnable := false }, { other with status := .sleeping .sleep, waited := some .teambar, runnable := false },
        { other with status := .away (some .teambar), runnable := false }],
      let s := { teamed [0x010001] with rest := [u] }
      [0, 0x010001].all (fun h => decide (h ∈ ([0x010001] : List Handle) ∨ h = s.th.handle)) = true ∧ findThread s 0x010001 = some u ∧
      (0x010001 : Handle) ≠ s.th.handle ∧ u.woken = false ∧ outstanding s (senderOf s s.th) 0xF = []) := by
  simp only [running_iff]
  decide +kernel

/-- Hypotheses of `Obligations.BarriersAndEventLines`. -/
theorem witness_EventLines : present m0.th (.s 3) = true ∧ sget 0 (clusterAt m0 0).events 0 = 0 ∧
    0 < sget 0 (clusterAt (setCluster m0 0 { clusterAt m0 0 with events := [(7, 65535)] }) 0).events 7 := by decide

/-- An event landing at line 7 of cluster 0, and at one of cluster 127. -/
def signal (c : BitVec 7) : Packet := packet (senderOf m0 m0.th) (word (3 * 2 ^ 62 + 5 * 2 ^ 48 + c.toNat * 2 ^ 41 + 7 * 2 ^ 33)) []

/-- Hypotheses of `Obligations.BarriersAndEventLines`. -/
theorem witness_EventLandingSignals : crcOk (signal 0) = true ∧ clusterPresent m0 (laCluster (signal 0).la) = true ∧ laLine (signal 0).la = 7 ∧
    (clusterAt m0 0).waiters = [] ∧ clusterPresent { m0 with capcl := 1 } (laCluster (signal 127).la) = false ∧
    (let s := setCluster (on (fun t => { t with status := .sleeping (.evw 7) })) 0 { clusterAt m0 0 with waiters := [(7, 0)] }
     (clusterAt s 0).waiters = [(laLine (signal 0).la, s.th.handle)] ∧ isLive s.th = true ∧ s.th.waited = none ∧
     s.th.status = .sleeping (.evw (laLine (signal 0).la))) :=
  ⟨by simp [crcOk, signal, packet], by decide, by decide, by decide, by decide, by decide⟩

/-- Hypotheses of `Obligations.TeamsForkAndJoin`. -/
theorem witness_TeamHandlesRead : present m0.th (.s 5) = true ∧ m0.th.member = none ∧ (teamed []).th.member ≠ none ∧
    ∃ m, teamAt (teamed []) (teamed []).th.team = some m ∧ m.members.length ≤ (2 : BitVec 4).toNat ∧ m.members[(1 : BitVec 4).toNat]? = some 0x010001 :=
  ⟨by decide, by decide, by decide, _, rfl, by decide, by decide⟩

/-- Hypotheses of `Obligations.TeamsForkAndJoin`. -/
theorem witness_ForkDividesTheRange : Running (memS 5 0x600040) ∧ Ready (memS 5 0x600040) [.s 4, .s 5, .s 16, .s 17, .s 18, .s 19] ∧
    outstanding (memS 5 0x600040) (senderOf (memS 5 0x600040) (memS 5 0x600040).th) 0xF = [] ∧
    cellBad (memS 5 0x600040) (memS 5 0x600040).th (rdS (memS 5 0x600040).th 5) = none ∧
    cellAddr (memS 5 0x600040) (memS 5 0x600040).th (rdS (memS 5 0x600040).th 5) = some 0x1E0000000040 := by
  simp only [running_iff, ready_iff]
  decide +kernel

/-- Hypotheses of `Obligations.TeamsForkAndJoin`. -/
theorem witness_JoinCountsDown : (let s := memS 5 0x600040; Running s ∧ present s.th (.s 5) = true ∧ outstanding s (senderOf s s.th) 0xF = [] ∧
    cellBad s s.th (rdS s.th 5) = none ∧ cellAddr s s.th (rdS s.th 5) = some 0x1E0000000040 ∧ ofLe (rdBytes s 0x1E0000000040 4) = 0 ∧
    (let t := wrBytes s 0x1E0000000040 [1, 0, 0, 0, 0, 0, 0, 0, 4]; ofLe (rdBytes t 0x1E0000000040 4) = 1 ∧ ofLe (rdBytes t 0x1E0000000048 8) % 8 ≠ 0) ∧
    (let t := wrBytes s 0x1E0000000040 [1]; ofLe (rdBytes t 0x1E0000000040 4) = 1 ∧ ofLe (rdBytes t 0x1E0000000048 8) % 8 = 0) ∧ 1 < ofLe (rdBytes (wrBytes s 0x1E0000000040 [2]) 0x1E0000000040 4)) := by
  simp only [running_iff]
  decide +kernel

/-! ### Memory -/

/-- Hypotheses of `Obligations.ScalarMemoryAccesses`. -/
theorem witness_LoadsSendOneRead : let s := memS 4 0x500008; Running s ∧ loadForm (.ld 3 4 .d 0) = some (3, 4, .d, 0, true, false) ∧
    Ready s [.s 3, .s 4] ∧ MaySend s 1 ∧ accessBad s s.th [(0x500008, 8)] (chunks .r 0x500008 8 0) = none := by
  simp only [running_iff, ready_iff, maySend_iff]
  decide +kernel

/-- Hypotheses of `Obligations.ScalarMemoryAccesses`. -/
theorem witness_StoresSendOneWrite : let s := memS 4 0x500007; Running s ∧ storeForm (.st 9 4 .b 0x7FF) = some (9, 4, .b, BitVec.allOnes 64, false) ∧
    Ready s [.s 9, .s 4] ∧ MaySend s 2 ∧ accessBad s s.th [(0x500006, 1)] (chunks .w 0x500006 1 0) = none := by
  simp only [running_iff, ready_iff, maySend_iff]
  decide +kernel

/-- One range lock of world 0 over the granule at 0x500100. -/
def oneLock : Lock := { die := 0, world := 0, lo := 0x500100, hi := 0x500200, dst := true, by' := 7, owner := .cmd 7 0, frames := [] }

/-- Hypotheses of `Obligations.ScalarMemoryAccesses`. -/
theorem witness_AccessChecksInOrder : (rdS (memS 4 0x500007).th 4).toNat % sizeOf' .d ≠ 0 ∧
    seek mMem (tlbsOf mMem mMem.th) 0 (2 ^ 56) .r = .device ∧ seek mMem (tlbsOf mMem mMem.th) 0 0x700000 .r = .unmapped ∧
    seek m0 (tlbsOf m0 m0.th) 0 0x400000 .w = .denied ∧ seek mMem (tlbsOf mMem mMem.th) 0 0x500100 .w = .ok 0x10100 none ∧
    ({ mMem with locks := [oneLock] } : State).locks = [oneLock] ∧ oneLock.dst = true ∧ oneLock.world = mMem.th.world ∧
    oneLock.lo < 0x500100 + sizeOf' .d ∧ 0x500100 < oneLock.hi ∧ missesFull mMem (clusterOf mMem.th.core) = false ∧
    (let s := { mMem with pending := (List.range 32).map (fun i => .tlbMissWalk 0 0 (word (65536 * i))) }
     missWaits s (tlbsOf s s.th) (clusterOf s.th.core) s.th.asid [0x700000] = true ∧ 0x700000 / 65536 ∉ s.th.walked) := by decide

theorem sget_listed {α : Type} {d : α} {m : Sparse α} {k : Nat} : sget d m k = d ∨ (k, sget d m k) ∈ m := by
  induction m with
  | nil => exact .inl rfl
  | cons e r ih =>
    obtain ⟨j, v⟩ := e
    by_cases h : j = k
    · subst h; simp [sget]
    · simp only [sget, if_neg h]; exact ih.imp_right (List.mem_cons_of_mem _)

/-- Where no line has a key, an access without one changes no byte by itself. -/
theorem sameKey_of {s : State} {p : Piece} (h : p.key = none ∧ ∀ e ∈ s.buffers, ∀ x ∈ e.2, x.key = none) : sameKey s p := by
  refine .inr (.inr ⟨h.1, fun x hx => ?_⟩)
  unfold bufferSet at hx
  split at hx
  · rename_i m n _
    rcases sget_listed (d := []) (m := s.buffers) (k := m * 128 + n % 128) with h0 | h0
    · simp [h0] at hx
    · exact h.2 _ h0 x hx
  · simp at hx

/-- A piece of 4 bytes in the second frame of HBM, and a read of it. -/
def piece4 : Piece := { addr := 0x10008, va := 0x500008, len := 4, off := 0, key := none }
def read4 : ReadReq := { o := itsOrigin mMem, pieces := [piece4], got := List.replicate 4 0, reply := .scalar 3 true, acq := false }

/-- Hypotheses of `Obligations.RequestsAtTheirHome`. -/
theorem witness_ReadAnswersWithMemory : read4.pieces = [piece4] ∧ read4.got.length = piece4.len ∧ read4.o.seq.getLsbD 31 = false ∧
    assigned mMem piece4.addr = true ∧ sameKey mMem piece4 := ⟨rfl, by decide, by decide, by decide, sameKey_of (by decide)⟩

def write4 : WriteReq := { o := itsOrigin mMem, pieces := [piece4], data := [1, 2, 3, 4], rel := false }
def piece8 : Piece := { addr := 0x1E0000000040, va := 0x600040, len := 8, off := 4, key := none }

/-- Hypotheses of `Obligations.RequestsAtTheirHome`. -/
theorem witness_WriteStoresItsBytes : write4.pieces = [piece4] ∧ write4.o.seq.getLsbD 31 = false ∧ piece4.off + piece4.len ≤ write4.data.length ∧
    assigned mMem piece4.addr = true ∧ sameKey mMem piece4 := ⟨rfl, by decide, by decide, by decide, sameKey_of (by decide)⟩

/-- Hypotheses of `Obligations.RequestsAtTheirHome`. -/
theorem witness_PiecesArePerformedOneByOne : 2 ≤ [piece4, piece8].length ∧ ∀ p ∈ [piece4, piece8], assigned mMem p.addr = true ∧ sameKey mMem p := by
  refine ⟨by decide, ?_⟩
  intro p h
  simp only [List.mem_cons, List.not_mem_nil, or_false] at h
  rcases h with rfl | rfl
  · exact ⟨by decide, sameKey_of (by decide)⟩
  · exact ⟨by decide, sameKey_of (by decide)⟩

/-- Hypotheses of `Obligations.RequestsAtTheirHome`. -/
theorem witness_UnassignedAddressesStop : assigned mMem 0x1FFFFFFFFFF8 = false ∧ assigned mMem (192 * 10 ^ 12) = false := by decide

/-- Hypotheses of `Obligations.AtomicsActAtTheirHome`. -/
theorem witness_AtomicsActAtTheirHome : (let s := memS 4 0x500010; Running s ∧ Ready s [.s 9, .s 4, .s 6, .s 0] ∧ MaySend s 3 ∧
      accessBad s s.th [(0x500010, 8)] (chunks .w 0x500010 8 0) = none) ∧
    (let r : AmoReq := { o := itsOrigin mMem, addr := 0x10010, va := 0x500010, key := none, dbl := true, op := .maxu, b := 0, c := 0, d := 9, acq := false, rel := false }
     r.o.seq.getLsbD 31 = false ∧ assigned mMem r.addr = true ∧ (r.op = .fadd → r.dbl = false) ∧ sameKey mMem { addr := r.addr, va := 0, len := 8, off := 0, key := r.key }) :=
  ⟨⟨⟨by decide, by decide⟩, ready_iff.mpr (by decide), maySend_iff.mpr (by decide), by decide⟩, by decide, by decide, by decide, sameKey_of (by decide)⟩

/-- Hypotheses of `Obligations.AtomicsActAtTheirHome`, where the word is misaligned, and where the destination is empty. -/
theorem witness_AtomicsAreCheckedFirst : (let s := memS 4 0x500011; Ready s [.s 4, .s 6, .s 0] ∧ (rdS s.th 4).toNat % 4 ≠ 0) ∧
    (let s := memS 4 0x500010
     let t := setTh s (setCount s.th (.s 9) 1)
     Ready t [.s 4, .s 6, .s 0] ∧ present t.th (.s 9) = false ∧ accessBad t t.th [(0x500010, 8)] (chunks .w 0x500010 8 0) = none) := by
  simp only [ready_iff]
  decide +kernel

/-- Hypotheses of `Obligations.VectorAccesses`. -/
theorem witness_VectorAccessesMoveARegister : let s := memS 4 0x500004; Running s ∧ InWindow s [247] ∧ Ready s [.v (spec s.th 247), .s 4] ∧
    MaySend s 1 ∧ MaySend s 2 ∧ accessBad s s.th [(0x500004, 4)] (chunks .r 0x500004 256 0) = none ∧
    accessBad s s.th [(0x500004, 4)] (chunks .w 0x500004 256 0) = none := by
  simp only [running_iff, ready_iff, inWindow_iff, maySend_iff]
  decide +kernel

/-- Only lane 63 is active in `M1`. -/
def lane63 : State := let s := memS 4 0x500000; setTh s (wrM s.th 1 0x8000000000000000)

/-- Hypotheses of `Obligations.VectorAccesses`. -/
theorem witness_GroupedAccessesTouchActiveLanes : Running lane63 ∧
    groupForm lane63.th (.vlds 0 4 5 1 6 true) = some (0, [0], [.v (spec lane63.th 0), .s 4, .s 5, .m 1], 1, 6, true, true,
      fun j => rdS lane63.th 4 + word j * rdS lane63.th 5) ∧
    InWindow lane63 [0] ∧ Ready lane63 [.v (spec lane63.th 0), .s 4, .s 5, .m 1] ∧ MaySend lane63 1 ∧ rdM lane63.th 1 ≠ 0 ∧ lane63.locks = [] ∧
    missWaits lane63 (tlbsOf lane63 lane63.th) (clusterOf lane63.th.core) lane63.th.asid
      (((List.range 64).filter (fun l => (rdM lane63.th 1).getLsbD l)).map (laneAddr 6 (fun j => rdS lane63.th 4 + word j * rdS lane63.th 5))) = false ∧
    (rdS lane63.th 4 + word (63 / 64) * rdS lane63.th 5).toNat % 4 = 0 ∧
    goesTo lane63 .r (0x500000 + 252) 4 252 { addr := 0x100FC, va := 0x5000FC, len := 4, off := 252, key := none } ∧ rdM lane63.th 2 = 0 :=
  ⟨⟨by decide, by decide⟩, rfl, inWindow_iff.mpr (by decide), ready_iff.mpr (by decide), maySend_iff.mpr (by decide), by decide, by decide, by decide, by decide,
    ⟨by decide, by decide, by decide, by decide⟩, by decide⟩

/-- The landing address of `S9` of the thread itself, in `S6`, beside an address in `S4`. -/
def lands : State := let s := memS 4 0x500000; setTh s (wrS s.th 6 (regLa 5 0 (.s 9)))

/-- Hypotheses of `Obligations.LoadsThatLand`. -/
theorem witness_LandingLoadsSendOneRead : Running lands ∧ landLoadForm (.ldl 6 4 .w 4) = some (6, 4, .w, 4, false) ∧ Ready lands [.s 6, .s 4] ∧
    MaySend lands 5 ∧ laSpace (rdS lands.th 6) = 1 ∧ laMalformed (rdS lands.th 6) = false ∧ laUnreachable lands (rdS lands.th 6) = false ∧
    laCrosses (rdS lands.th 6) 8 false = false ∧ accessBad lands lands.th [(0x500004, 4)] (chunks .r 0x500004 4 0) = none := by
  simp only [running_iff, ready_iff, maySend_iff]
  decide +kernel

/-- Landing addresses: memory at 0x500080, slot 4 of unit 0, line 7 of cluster 0, a register of device 6, and one of no class. -/
def landingPlaces : List Word := [0x500080, 0x8005001000000000, (signal 0).la, regLa 6 0 (.s 9)]
def noPlace : Word := 0x4005000000000001 ||| 0x0000000000FF0000 <<< 4
/-- The thread with one of them in `S6`, 4 bytes of memory in `S4`; device 6 takes landings. -/
def landsAt (la : Word) : State :=
  let s := { memS 4 0x500000 with peers := [(6, some { lomkin := true, netCc := false, rxCc := false })] }
  setTh s (wrS s.th 6 la)

/-- Hypotheses of `Obligations.LoadsThatLand`, in every space and at another device. -/
theorem witness_LandingLoadsReachEverySpace :
    (∀ i < 4, let la := landingPlaces.getD i 0
      let s := landsAt la
      rdS s.th 6 = la ∧ laMalformed la = false ∧ laUnreachable s la = false ∧ laCrosses la (if laSpace la = 1 then 8 else 4) false = false ∧
      accessBad s s.th ((0x500000, 4) :: if laSpace la = 0 then [(laVa la, 4)] else [])
        (chunks .r 0x500000 4 0 ++ if laSpace la = 0 then chunks .w (laVa la) 4 0 else []) = none) ∧
    landingPlaces.map laSpace = [0, 2, 3, 1] ∧ laDev (regLa 6 0 (.s 9)) ≠ m0.dev ∧ laMalformed noPlace = true ∧ laSpace noPlace = 1 ∧
    laUnreachable m0 (regLa 9 0 (.s 9)) = true ∧ accessBad (landsAt noPlace) (landsAt noPlace).th [(0x500000, 4)] (chunks .r 0x500000 4 0) = none := by
  decide +kernel

/-- Hypotheses of `Obligations.LoadsThatLand`, at the home. -/
theorem witness_TheHomeLandsWhatItReads : (let r : ReadReq := { read4 with reply := .land (regLa 5 0 (.s 9)) true [] }
    r.pieces = [piece4] ∧ r.reply = .land (regLa 5 0 (.s 9)) true [] ∧ r.got.length = piece4.len ∧ piece4.off = 0 ∧ 0 < piece4.len ∧ piece4.len ≤ 8 ∧
    assigned mMem piece4.addr = true) ∧ sameKey mMem piece4 := ⟨by decide, sameKey_of (by decide)⟩

/-- Hypotheses of `Obligations.LandingInstructions`. -/
theorem witness_LandingInstructionsSendOneLanding : Running lands ∧ wf (.put 6 4 true) = true ∧
    landingForm lands.th (.put 6 4 true) = some ([], [.s 6, .s 4], rdS lands.th 6, putPayload (rdS lands.th 6) (rdS lands.th 4), none, false, true) ∧
    Ready lands [.s 6, .s 4] ∧ MaySend lands 4 ∧ laSpace (rdS lands.th 6) = 1 ∧ laMalformed (rdS lands.th 6) = false ∧
    laCrosses (rdS lands.th 6) (putPayload (rdS lands.th 6) (rdS lands.th 4)).length false = false ∧ laDev (rdS lands.th 6) = lands.dev ∧
    laMalformed noPlace = true :=
  ⟨⟨by decide, by decide⟩, by decide, rfl, ready_iff.mpr (by decide), maySend_iff.mpr (by decide), by decide, by decide, by decide, by decide, by decide⟩

/-- Hypotheses of `Obligations.LandingInstructions`, in every space and at another device, of `PUT`, and of `LAMK` with the lanes 0 and 63. -/
theorem witness_LandingInstructionsReachEverySpace :
    (∀ i < 4, let la := landingPlaces.getD i 0
      let s := landsAt la
      let n := (putPayload la (rdS s.th 4)).length
      rdS s.th 6 = la ∧ laCrosses la n false = false ∧ laUnreachable s la = false ∧
      accessBad s s.th (if laSpace la = 0 then [(laVa la, min n 8)] else []) (if laSpace la = 0 then chunks .w (laVa la) n 0 else []) = none ∧
      heldBy (s.copies ++ s.heldBack) (packet (itsOrigin s) la []) = false) ∧
    laVa 0x500084 % min (putPayload 0x500084 0).length 8 ≠ 0 ∧ laSpace 0x500084 = 0 ∧
    (let s := landsAt 0x500100
     let t := setTh s (wrM s.th 1 0x8000000000000001)
     (landingForm t.th (.lamk 0 6 false 1)).isSome = true ∧ laSpace 0x500100 = 0 ∧ laCrosses 0x500100 256 true = false ∧
     accessBad t t.th [(laVa 0x500100, 8)] (chunks .w (laVa 0x500100) 256 0) = none) ∧ (landsAt 0x500080).locks = [] := by decide +kernel

/-- The same, with a store that is not performed, and a fence that holds the events of a set behind it. -/
def fencing (set : BitVec 4) : State :=
  let s := { lands with pending := [.writeRequest { write4 with o := { senderOf lands lands.th with n := 7 } }] }
  setTh s { s.th with fences := [(set, [7])] }

/-- Hypotheses of `Obligations.FencesHoldLaterEvents`. -/
theorem witness_FencesHoldLaterEvents : outstanding m0 (senderOf m0 m0.th) 0xF = [] ∧
    outstanding { mMem with pending := [.writeRequest write4] } (senderOf mMem mMem.th) 2 ≠ [] ∧
    (∀ set ∈ [1, 2, 3, 5, (4 : BitVec 4)], fenced (fencing set) (fencing set).th set = true) ∧ Ready (fencing 0xF) [.s 3, .s 4, .s 6, .s 0] := by
  simp only [ready_iff]
  decide

/-- Hypotheses of `Obligations.FencesHoldLaterEvents`. -/
theorem witness_TheHeldAccesses : let s := fencing 0xF
    accessBad s s.th [(0x500000, 8)] (chunks .r 0x500000 8 0) = none ∧ accessBad s s.th [(0x500000, 4)] (chunks .w 0x500000 4 0) = none ∧
    accessBad s s.th [(0x500000, 4)] (chunks .r 0x500000 4 0) = none ∧ rdS s.th 4 = 0x500000 := by decide

/-- Hypotheses of `Obligations.FencesHoldLaterEvents`. -/
theorem witness_TheHeldForms : loadForm (.ld 3 4 .d 0) = some (3, 4, .d, 0, true, false) ∧ storeForm (.st 3 4 .w 0) = some (3, 4, .w, 0, false) ∧
    landLoadForm (.ldl 6 4 .w 0) = some (6, 4, .w, 0, false) := ⟨rfl, rfl, rfl⟩

/-- Hypotheses of `Obligations.FencesHoldLaterEvents`. -/
theorem witness_TheHeldLandings : let s := fencing 0xF
    laSpace (rdS s.th 6) = 1 ∧ laMalformed (rdS s.th 6) = false ∧ laDev (rdS s.th 6) = s.dev ∧ laCrosses (rdS s.th 6) 8 false = false ∧
    wf (.put 6 4 true) = true ∧ (putPayload (rdS s.th 6) (rdS s.th 4)).length = 8 ∧
    (landingForm s.th (.put 6 4 true)).map (·.2.1) = some [.s 6, .s 4] := by decide

/-- Hypotheses of `Obligations.LoadsThatLand`. -/
theorem witness_SlotLoadsSendTheirRegisters : let s := withS 11 0x4044; Running s ∧ (specIndex s.th 40).toNat + (0 : BitVec 3).toNat < winSize s.th ∧
    present s.th (.v 40) = true ∧ present s.th (.s 11) = true ∧ mloadBad (rdS s.th 11) 1 = false ∧ MaySend s 4 ∧ (coreOf s s.th.core).outst + 0 + 1 ≤ 256 := by
  simp only [running_iff, maySend_iff]
  decide +kernel

/-! ### Vectors -/

/-- The thread with one format in every bank. -/
def banks (f : BitVec 8) : State := on (fun t => { t with bfmt := Vector.replicate 16 f })

/-- Hypotheses of `Obligations.VectorResults`. -/
theorem witness_VectorResults : (∃ f, vform m0 (.vfma 247 248 0 1) = some f ∧ f.d = 247 ∧ f.srcs = [248, 0] ∧ f.more = [] ∧ f.rule = .either) ∧
    InWindow m0 [247, 248, 0] ∧ Ready m0 [.v (spec m0.th 247), .v (spec m0.th 248), .v (spec m0.th 0), .m 1] ∧ FormatsAgree m0 .either [248, 0, 247] :=
  ⟨⟨_, rfl, rfl, rfl, rfl, rfl⟩, inWindow_iff.mpr (by decide), ready_iff.mpr (by decide), agree_iff.mpr (by decide)⟩

/-- Hypotheses of `Obligations.VectorResults`. -/
theorem witness_VectorResultsOfIntegers : (∃ f, vform (banks 0) (.vsrai 1 2 255 0) = some f ∧ f.rule = .ofClass .int) ∧
    FormatsAgree (banks 0) (.ofClass .int) [2, 1] ∧ (∃ f, vform (banks 0) (.vand 1 2 3 0) = some f ∧ f.rule = .widths) ∧
    FormatsAgree (banks 0) .widths [2, 3, 1] := ⟨⟨_, rfl, rfl⟩, agree_iff.mpr (by decide), ⟨_, rfl, rfl⟩, agree_iff.mpr (by decide)⟩

/-- Hypotheses of `Obligations.VectorResults`. -/
theorem witness_UnaryVectorResults : unaryForm (.vrsq 3 4 2) = some (3, 4, 2, .ofClass .float, numRsqrt) ∧ InWindow m0 [3, 4] ∧
    Ready m0 [.v (spec m0.th 3), .v (spec m0.th 4), .m 2] ∧ FormatsAgree m0 (.ofClass .float) [4, 3] :=
  ⟨rfl, inWindow_iff.mpr (by decide), ready_iff.mpr (by decide), agree_iff.mpr (by decide)⟩

/-- A window of 32 registers, and index register `X0` that names one beyond it. -/
def narrow : State := on (fun t => { t with win := 1, x := t.x.set 0 32 })

/-- Hypotheses of `Obligations.VectorResults`. -/
theorem witness_VectorChecks : ¬ FormatsAgree m0 (.ofClass .int) [4, 3] ∧ Ready m0 [.v (spec m0.th 3), .v (spec m0.th 4), .m 0] ∧ ¬ InWindow narrow [248] ∧
    ¬ InWindow narrow [32] := by
  refine ⟨?_, ready_iff.mpr (by decide), ?_, ?_⟩
  · unfold FormatsAgree; decide
  · intro h; exact absurd (h 248 (by decide)) (by decide)
  · intro h; exact absurd (h 32 (by decide)) (by decide)

/-- Hypotheses of `Obligations.DotProductsAndReductions`. -/
theorem witness_DotProductOfFour : InWindow (banks 0) [2, 0, 1] ∧ Ready (banks 0) [.v (spec (banks 0).th 2), .v (spec (banks 0).th 0), .v (spec (banks 0).th 1), .m 0] ∧
    FormatsAgree (banks 0) .either [0, 1, 2] := by
  simp only [ready_iff, inWindow_iff, agree_iff]
  decide +kernel

/-- Hypotheses of `Obligations.ComparesAndSelects`. -/
theorem witness_ComparesWriteMasks : InWindow m0 [0, 1] ∧ Ready m0 [.m 1, .v (spec m0.th 0), .v (spec m0.th 1), .s 2, .m 1] ∧ FormatsAgree m0 .either [0, 1] := by
  simp only [ready_iff, inWindow_iff, agree_iff]
  decide +kernel

/-- Hypotheses of `Obligations.ComparesAndSelects`. -/
theorem witness_SelectsAndMaskLogic : InWindow m0 [2, 0, 1] ∧ Ready m0 [.v (spec m0.th 2), .v (spec m0.th 0), .v (spec m0.th 1), .m 3] ∧
    FormatsAgree m0 .either [0, 1, 2] ∧ Ready m0 [.m 0, .m 15, .m 1] := by
  simp only [ready_iff, inWindow_iff, agree_iff]
  decide +kernel

/-- Hypotheses of `Obligations.PermutesAndLanes`. -/
theorem witness_PermutesMoveLanes : (∃ f, permuteForm m0.th (.vzip 2 0 true 1) = some (2, 0, [], 1, f)) ∧ InWindow m0 [2, 0] ∧
    Ready m0 [.v (spec m0.th 2), .v (spec m0.th 0), .m 1] := ⟨⟨_, rfl⟩, inWindow_iff.mpr (by decide), ready_iff.mpr (by decide)⟩

/-- Hypotheses of `Obligations.PermutesAndLanes`. -/
theorem witness_LanesInsertedAndExtracted : InWindow m0 [20] ∧ FormatsAgree m0 .either [20] ∧ Ready m0 [.v (spec m0.th 20), .s 15, .s 15, .m 0] := by
  simp only [ready_iff, inWindow_iff, agree_iff]
  decide +kernel

/-- Hypotheses of `Obligations.DotProductsAndReductions`. -/
theorem witness_ReductionsFollowTheTree : InWindow m0 [1, 2] ∧ Ready m0 [.v (spec m0.th 1), .v (spec m0.th 2), .m 0] ∧ FormatsAgree m0 .either [2, 1] ∧
    2048 = 2 ^ 6 * widthAt m0 1 ∧ 2048 = 2 ^ 7 * widthAt (banks 2) 1 := by
  simp only [ready_iff, inWindow_iff, agree_iff]
  decide +kernel

/-- Hypotheses of `Obligations.MovesAndRounding`. -/
theorem witness_MovesConvertPairedElements : (∃ v, moveForm m0 (.vmov 1 2 0 .rto true 0) = some (1, 2, 0, 0, true, v)) ∧ InWindow m0 [1, 2] ∧
    Ready m0 [.v (spec m0.th 1), .v (spec m0.th 2), .m 0] ∧ partFits (widthAt m0 2) (widthAt m0 1) 0 ∧ ¬ partFits (widthAt m0 2) (widthAt m0 1) 7 ∧
    (∃ v, moveForm (banks 13) (.vmov 1 2 0 .rtz false 0) = some (1, 2, 0, 0, false, v)) := by
  refine ⟨⟨_, rfl⟩, inWindow_iff.mpr (by decide), ready_iff.mpr (by decide), ?_, ?_, ?_⟩
  · unfold partFits; decide
  · unfold partFits; decide
  · exact ⟨_, rfl⟩

/-- Hypotheses of `Obligations.BankTagsAndCodebooks`. -/
theorem witness_BankTagsAndCodebooks : (15 : BitVec 4).toNat < m0.th.win.toNat ∧ (fmtOf 0).isSome = true ∧ fmtOf 255 = none ∧ InWindow m0 [247] ∧
    present m0.th (.v (spec m0.th 247)) = true ∧ narrow.th.win.toNat ≤ (1 : BitVec 4).toNat := by
  simp only [inWindow_iff]
  decide +kernel

/-- Hypotheses of `Obligations.MovesAndRounding`. -/
theorem witness_RoundingKeepsWhatIsRepresentable : fmtClass .fp32 = .float ∧ 0x3F800000 < 2 ^ fmtUsed .fp32 ∧
    numIsNan (decodeFloat .fp32 0x3F800000) = false ∧ decodeFloat .fp32 0x80000000 = .zero true := by decide

/-! ### Ports and commands -/

/-- The command block of the worked MMA of file 16 in `S20` to `S22`; it has `Q` in place of `LC`. -/
def withBlock (w0 w1 w2 : Word) : State := on (fun t => wrS (wrS (wrS t 20 w0) 21 w1) 22 w2)
def mmaBlock : State := withBlock 0x0000000000510501 0 0x0000000000202001

/-- Hypotheses of `Obligations.IssueQueuesACommand`. -/
theorem witness_IssueQueuesACommand : Running mmaBlock ∧ wf (.issue 2 20 .e0) = true ∧
    (∀ i ≤ (2 : BitVec 4).toNat, present mmaBlock.th (.s (20 + BitVec.ofNat 6 i)) = true) ∧
    issueBad mmaBlock 2 20 .e0 (block mmaBlock.th 20 2) = none ∧ issueHeld mmaBlock mmaBlock.th .e0 0x510501 = false ∧
    cmdLength .e0 (nthWord (block mmaBlock.th 20 3) 0) ≠ some ((3 : BitVec 4).toNat + 1) ∧
    (let s := { mmaBlock with cmds := List.replicate 16 { (default : Command) with port := .e0, kind := 3 } }
     issueHeld s s.th .e0 0x510501 = true ∧ issueBad s 2 20 .e0 (block s.th 20 2) = none) := by
  simp only [running_iff]
  decide +kernel

/-- The thread with one entry of its ring. -/
def ringed (e : RingEntry) : State := on (fun t => { t with dseqNext := e.seq + 1, ring := [(e.seq.toNat % 64, e)] })
def entry (st : BitVec 3) : RingEntry := { RingEntry.free with seq := 0x8005, port := 1, q := true, state := st, kind := 1 }

/-- Hypotheses of `Obligations.CompletionsAreRead`. -/
theorem witness_CompletionsAreRead : present m0.th (.s 3) = true ∧
    ((ringed (entry 4)).th.ring.map (·.2)).filter (fun e => e.state = 4 ∧ e.port = portNum .e1) ≠ [] ∧
    (m0.th.ring.map (·.2)).filter (fun e => e.state = 4 ∧ e.port = portNum .e1) = [] ∧
    ((rdS (ringed (entry 1)).th 3).truncate 16 - (entry 1).seq).toNat < 2 ^ 15 ∧ (entry 1).state = 1 := by decide

/-- A command of the thread in focus. -/
def cmd (p : Port) (k : BitVec 8) (ws : List Word) (st : CmdState) : Command :=
  { (default : Command) with handle := 0, seq := 0x8005, port := p, kind := k, words := ws, core := 0, world := 0, asid := 0, weight := 1, state := st
                             waits := [], accz := none, fin := none, net := none, fault := none }

/-- Hypotheses of `Obligations.CompletionsAreRead`. -/
theorem witness_CommandsComplete :
    (let c := { cmd .e1 1 [] .running with fin := some (0, 256) }
     let s := { ringed (entry 1) with cmds := [c] }
     findCmd s 0 0x8005 = some c ∧ c.fin = some (0, 256) ∧ c.acks = 0 ∧ behindEnded s c = false ∧ c.refused = false ∧
     findThread s 0 = some s.th ∧ s.th.status = .ready ∧ (ringAt s.th 0x8005).state ≠ 0 ∧ (ringAt s.th 0x8005).seq = 0x8005 ∧ (ringAt s.th 0x8005).q = true ∧
     completionWaits s c = false) ∧
    (let c := { cmd .e1 1 [0x200, 0, 0, 0x700000] .running with fin := some (0, 256) }
     completionWaits { m0 with cmds := [c], pending := (List.range 32).map (fun i => .tlbMissWalk 0 0 (word (65536 * i))) } c = true) ∧
    { cmd .e1 1 [] .running with fin := some (0, 256), acks := 3 }.acks ≠ 0 := by decide

/-- The thread Ready, with a handler. -/
def interruptible (f : Thread → Thread) : State := on (fun t => f { t with tvec := 0x400000 })

/-- Hypotheses of `Obligations.TrapsAtABoundary`. -/
theorem witness_TrapsAtABoundary :
    (let s := { interruptible (fun t => { t with dseqNext := 0x8006, ring := [(5, entry 2)] }) with
                cmds := [{ cmd .e1 1 [] .parked with fault := some (0x1B, 2, 0x500000) }] }
     Interruptible s 0 ∧ lateFault s.th = some (entry 2) ∧ (findCmd s 0 (entry 2).seq).bind (·.fault) = some (0x1B, 2, 0x500000)) ∧
    (let s := interruptible (fun t => { t with lfaultHi := 0x100 })
     Interruptible s 0 ∧ lateFault s.th = none ∧ field s.th.lfaultHi 8 8 ≠ 0) ∧
    (let s := { interruptible (fun t => { t with progress := true }) with launches := [{ (default : Launch) with graph := 0, wdk := 30 }] }
     Interruptible s 0 ∧ lateFault s.th = none ∧ field s.th.lfaultHi 8 8 = 0 ∧ s.th.progress = true ∧ (launchOf s 0).isSome = true) :=
  ⟨⟨by constructor <;> decide, by decide, by decide⟩, ⟨by constructor <;> decide, by decide, by decide⟩,
    ⟨by constructor <;> decide, by decide, by decide, by decide, by decide⟩⟩

/-- Hypotheses of `Obligations.TrapsAtABoundary`. -/
theorem witness_ProgressIsRecorded : ∃ u ∈ allThreads m0, inSlot u = true ∧ u.graph = 0 := ⟨m0.th, by decide, by decide, by decide⟩

/-! ### The matrix unit -/

/-- The thread's claims in unit 0: slots 4 to 7 in BF16, tile 0. -/
def claimed (s : State) : State :=
  let x : OpSlot := { OpSlot.init with owner := some 0, lastWorld := some 0, fmt := 0x02, data := [(0, 0x80), (1, 0x3F)] }
  let u := { UnitState.init with slots := [(4, x), (5, x), (6, x), (7, x)], tiles := [(0, { Tile.init with owner := some 0 })] }
  let s := setUnit s 0 u
  setCore s 0 { coreOf s 0 with tileOwner := some 0 }

/-- Hypotheses of `Obligations.MatrixRequests`. -/
theorem witness_MatrixRequests : Running (withS 4 0x0204) ∧ (coreOf m0 m0.th.core).outst < 256 ∧ Ready (withS 4 0x0204) [.s 3, .s 4] ∧
    field (rdS (withS 4 0x0204).th 4) 6 2 = 0 ∧ (rdS (withS 4 0x0204).th 4).toNat < 2 ^ 16 ∧ m0.phase ≠ 2 ∧ claimFmtOk (fmtOf 0x02) false = true ∧
    claimFmtOk (fmtOf 0x00) false = false ∧ field (0x40 : Word) 6 2 ≠ 0 ∧ queueUsed m0 m0.th.core .e0 < 16 ∧ InWindow m0 [30] ∧
    (coreOf (claimed m0) 0).tileOwner = some (claimed m0).th.handle ∧ (coreOf m0 0).tileOwner ≠ some m0.th.handle := by
  simp only [running_iff, ready_iff, inWindow_iff]
  decide +kernel

/-- Hypotheses of `Obligations.SlotsAndTilesChangeHands`. -/
theorem witness_ClaimsTakeTheirSlot : unitCmds m0 0 = [] ∧ slotBusy m0 0 4 = false ∧ slotBusy (claimed m0) 0 4 = false ∧
    (slotAt (claimed m0) 0 4).owner = some 0 ∧ (slotAt m0 0 63).owner = none ∧ (slotAt m0 0 63).lastWorld ≠ some 0 := by decide

/-- Hypotheses of `Obligations.SlotsAndTilesChangeHands`. -/
theorem witness_TilesAndSlotsChangeHands : unitPresent m0 0 = true ∧ unitCmds (claimed m0) 0 = [] ∧ (slotAt (claimed m0) 0 4).owner = some 0 ∧
    (tileAt (claimed m0) 0 0).owner = some 0 ∧ (0x44 : Word).getLsbD 6 = true ∧
    (let c := { cmd .e0 0 [] .queued with accz := some 11 }; matrixQueue { m0 with cmds := [c] } 0 = [c] ∧ c.accz = some 11) := by decide

/-- The claims, and one command in the queue of core 0. -/
def commanded (c : Command) : State := { claimed m0 with cmds := [c] }
def mmaCmd (st : CmdState) : Command := cmd .e0 1 [0x0000000000510501, 0, 0x0000000000202001] st

/-- Hypotheses of `Obligations.MatrixCommands`. -/
theorem witness_HeadOfTheMatrixQueue : headCmd (commanded (mmaCmd .queued)) 0 = some (mmaCmd .queued, true) ∧ headRow 0 (mmaCmd .queued).kind.toNat = some (.mma 0) ∧
    mmaHeadBad (commanded (mmaCmd .queued)) (mmaCmd .queued) = none ∧
    (let c := cmd .e0 3 [3, 0x1003F800000, 0] .queued
     headCmd (commanded c) 0 = some (c, true) ∧ headRow 0 c.kind.toNat = some (.mzero 0) ∧ (tileAt (commanded c) 0 0).owner = some c.handle ∧
     field (nthWord c.words 0) 10 54 = 0 ∧ (tileAt { m0 with cmds := [c] } 0 0).owner ≠ some c.handle ∧ findCmd (commanded c) c.handle c.seq = some c) ∧
    field (0x13F800000 : Word) 33 31 = 0 ∧
    (let c := mmaCmd .queued
     let s := { m0 with cmds := [c] }
     headCmd s 0 = some (c, true) ∧ (tileAt s 0 0).owner ≠ some c.handle ∧ findCmd s c.handle c.seq = some c ∧ c.kind = 1 ∧
     field (nthWord c.words 0) 26 38 = 0 ∧ (levelWords c 2).all (fun z => decide (field z 28 36 = 0)) = true) := by decide

/-- Hypotheses of `Obligations.KStepsAccumulate`. -/
theorem witness_KStepsAccumulate : let s := commanded (mmaCmd .running)
    UnitCanonical s 0 ∧ (∃ k, nextTurn s 0 = some (mmaCmd .running, k)) ∧ findCmd s 0 0x8005 = some (mmaCmd .running) ∧
    kStepBad s (mmaCmd .running) 4 5 = none ∧ (kStepBad s (mmaCmd .running) 8 5).isSome = true ∧
    (field (nthWord (mmaCmd .running).words 0) 14 6 : Int) + nestSum (nestPoint (mmaCmd .running)) (mmaStrides (mmaCmd .running)).1 = 4 ∧
    nextVec (mmaCmd .running) 2 ≠ none := by
  refine ⟨?_, ⟨_, rfl⟩, by decide, by decide, by decide, by decide, by decide⟩
  unfold UnitCanonical; decide

/-- DRAIN of 128 elements of row 0 to memory at 0x500000: kind 2, `L` 1, RNE, `DF` FP32. -/
def drainCmd : Command := cmd .e0 2 [0x00000000FE020402, 0x500000, 0, 0] .queued

/-- Hypotheses of `Obligations.MatrixCommands`. -/
theorem witness_DrainSendsItsRuns : let s := { claimed mMem with cmds := [drainCmd] }
    headCmd s 0 = some (drainCmd, true) ∧ findCmd s 0 0x8005 = some drainCmd ∧ drainHeadBad s drainCmd = none ∧
    fmtOf (bits (nthWord drainCmd.words 0) 17 8) = some .fp32 ∧ Machine.rndOf (field (nthWord drainCmd.words 0) 13 3) = some .rne ∧
    dstBad s drainCmd 0x500000 0 (runBytes .fp32 128) (containerBytes .fp32) = none ∧ s.locks = [] ∧ nextVec drainCmd 3 = none ∧
    engineWaits s drainCmd (dstChunks 0x500000 0 (runBytes .fp32 128)) = false := by decide

/-- Hypotheses of `Obligations.MatrixCommands`. -/
theorem witness_ParkedCommandsGoOnOrEnd :
    (let c := { cmd .e0 4 [4, 0x8004] .queued with seq := 0x8005 }
     let d := { mmaCmd .parked with seq := 0x8004, fault := some (0x1A, 18, 4), vec := 1 }
     let s := { claimed m0 with cmds := [d, c] }
     findCmd s 0 0x8005 = some c ∧ c.fin = none ∧ c.state ≠ .parked ∧ namedParked s c = some d ∧ namedParked { s with cmds := [c] } c = none ∧
     (findThread s 0).map isAway = some false ∧ cmdFree s c = true ∧
     cmdFree { fencing 0xF with cmds := [{ c with waits := [7] }] } { c with waits := [7] } = false) := by decide

/-- Hypotheses of `Obligations.MatrixRequests`. -/
theorem witness_SnapshotsReadTheTile : snapshotWaits (claimed m0) (itsOrigin m0) 0 = false := by decide

/-! ### Copy engines and memory cores -/

/-- COPY of 128 FP32 elements from 0x500000 to 0x500400: kind 1, `L` 1, `SF` and `DF` FP32, `RUN` 127. -/
def copyCmd (st : CmdState) : Command := cmd .e1 1 [0x000000FE02020401, 0x500000, 0x500400, 0, 0] st
def copying (st : CmdState) : State := { mMem with cmds := [copyCmd st] }

/-- Hypotheses of `Obligations.CopiesConvertAndLand`. -/
theorem witness_CopiesAreAccepted : findCmd (copying .queued) 0 0x8005 = some (copyCmd .queued) ∧ copyFieldsBad (copyCmd .queued) = none ∧
    queuedBefore (copying .queued) (copyCmd .queued) = false ∧ cmdFree (copying .queued) (copyCmd .queued) = true ∧
    (copying .queued).locks = [] ∧ (copyLocks (copyCmd .queued)).length = 2 ∧ accessesInside (copying .queued) oneLock = false ∧
    (let s := { copying .queued with locks := [{ oneLock with lo := 0x500400, hi := 0x500500 }] }
     ∃ a ∈ copyLocks (copyCmd .queued), ∃ b ∈ s.locks, a.world = b.world ∧ a.lo < b.hi ∧ b.lo < a.hi ∧ b.dst = true) := by decide

/-- Hypotheses of `Obligations.CopiesConvertAndLand`. -/
theorem witness_CopyRunsConvertAndLand :
    (∀ r ∈ [none, some ([piece4], List.replicate 512 0), some ([], List.replicate 512 (1 : Byte))], ∀ n ∈ [0, 1],
      let c := { copyCmd .running with reads := r, acks := n }
      let s := { copying .running with cmds := [c] }
      findCmd s 0 0x8005 = some c ∧ c.fin = none ∧ c.port = .e1 ∧ c.net = none ∧ copyFieldsBad c = none ∧ firstFault (copyFmtBad (copySpec c)) = none ∧
      (copySpec c).sf = some .fp32 ∧ (copySpec c).df = some .fp32 ∧
      copyRunBad s c (copySpec c) (copySrc (copySpec c) (nestPoint c)) (copyAdv (copySpec c) (nestPoint c)) .fp32 .fp32 = none ∧
      engineWaits s c (srcChunks (copySpec c) (copySrc (copySpec c) (nestPoint c)) .fp32 ++
        dstChunks (copySpec c).dst (copyAdv (copySpec c) (nestPoint c)) (runBytes .fp32 (copySpec c).n)) = false ∧
      nextVec c 4 = none) ∧ sameKey (copying .running) piece4 :=
  ⟨by decide +kernel, sameKey_of (by decide)⟩

/-- MCRUN on memory core 5 at 0x400000. -/
def runCmd (st : CmdState) : Command := cmd .e1 5 [5, 5, 0x400000, 0, 7] st

/-- The thread in focus is a memory-core program. -/
def program (st : Status) : State :=
  setTh mMem { mMem.th with status := st, prog := some { seq := 0x8005, mc := 5, pc0 := 0x400000, streams := [], ended := none } }

/-- Hypotheses of `Obligations.ExitWaitsAndFrees`. -/
theorem witness_ExitBegins : (let c := cmd .e1 1 [] .parked
      let s := { m0 with cmds := [c] }
      Running s ∧ s.cmds = [c] ∧ c.handle = s.th.handle ∧ c.accz = none ∧ c.state = .parked) ∧ (program .ready).th.prog.isSome = true := by
  simp only [running_iff]
  decide +kernel

/-- Hypotheses of `Obligations.MemoryCoreProgramsAndStreams`. -/
theorem witness_ProgramsRunAndEnd :
    (let s := { m0 with cmds := [runCmd .queued] }
     findCmd s 0 0x8005 = some (runCmd .queued) ∧ queuedBefore s (runCmd .queued) = false ∧ cmdFree s (runCmd .queued) = true ∧
     mcrunBad s (runCmd .queued) = none ∧ progsOn s 5 = 0 ∧ 4 ≤ progsOn { s with rest := List.replicate 4 (program .ready).th } 5) ∧
    (program (.exiting false)).th.prog.isSome = true ∧ (program (.exiting false)).th.status = .exiting false ∧
    unanswered (program (.exiting false)) (senderOf (program (.exiting false)) (program (.exiting false)).th) = false ∧
    (program (.exiting false)).cmds = [] := by decide

/-- The program with a slot address in `S10`, memory in `S11`, a row's stride in `S12` and its advance in `S13`. -/
def streaming : State :=
  let s := program .ready
  setTh s (wrS (wrS (wrS (wrS s.th 10 0x8005000C00000000) 11 0x500000) 12 128) 13 128)

/-- Hypotheses of `Obligations.MemoryCoreProgramsAndStreams`. -/
theorem witness_StreamsSendTheirRows : m0.th.prog = none ∧ streaming.th.prog.isSome = true ∧ (streamsOpen streaming streaming.th).length < 16 ∧
    streaming.th.fences = [] ∧ Ready streaming [.s 10, .s 11, .s 12, .s 13] ∧
    accessBad streaming streaming.th ((List.range 2).flatMap (fun i => laAlign (runLa (rdS streaming.th 10) (i * (rdS streaming.th 13).toInt)) 128))
      ((List.range 2).flatMap (fun i => chunks .r (rdS streaming.th 11 + word i * rdS streaming.th 12).toNat 128 0)) = none ∧
    rowsLaBad streaming (rdS streaming.th 10) (rdS streaming.th 13) 2 128 = none ∧
    (let s := on (fun t => { t with prog := some { seq := 0, mc := 0, pc0 := 0, streams := [(15, [7])], ended := none } })
     let t := { s with pending := [.readRequest { (default : ReadReq) with o := { senderOf s s.th with n := 7 } }] }
     ∃ e ∈ streamsOpen t t.th, (0x8000 : BitVec 16).getLsbD e.1.toNat = true) := by
  simp only [ready_iff]
  decide +kernel

/-! ### Landings -/

/-- A landing of 8 bytes in `S9` of the thread in focus. -/
def toS9 : Packet := packet (itsOrigin m0) (regLa 5 0 (.s 9)) [1, 2, 3, 4, 5, 6, 7, 8]

theorem crc_toS9 : crcOk toS9 = true := by simp [crcOk, toS9, packet]

/-- Hypotheses of `Obligations.LandingsMeetTheirThread`. -/
theorem witness_LandingsMeetTheirThread : inSlot m0.th = true ∧ m0.th.core = 0 ∧ m0.th.handle = laHandle toS9.la ∧ crcOk toS9 = true ∧
    refusedWith m0.th toS9 = none ∧ refusedWith m0.th { toS9 with cond := true } = some 4 ∧
    refusedWith m0.th { toS9 with o := { toS9.o with world := 9 } } = some 3 ∧ inSlot (on (fun t => { t with status := .saving none })).th = true ∧
    (coreOf m0 0).mortar.length < 64 ∧ 64 ≤ (coreOf (setCore m0 0 { coreOf m0 0 with mortar := List.replicate 64 toS9 }) 0).mortar.length :=
  ⟨by decide, by decide, by decide, crc_toS9, by decide, by decide, by decide, by decide, by decide, by decide⟩

/-- The thread is away, in the directory with the given state. -/
def gone (st : BitVec 2) (w : Option Wait) (g : BitVec 8) : State :=
  { setTh m0 (setCount { m0.th with status := .away w, runnable := false } (.s 9) 1) with
    dir := [(0, { state := st, gen := g, world := 0, core := 0, slot := 0, image := 0 })] }

/-- Hypotheses of `Obligations.LandingsMeetTheirThread`. -/
theorem witness_LandingsFollowTheirThread : residentAt (gone 2 none 0) 0 (laHandle toS9.la) = none ∧
    (coreOf (gone 2 none 0) 0).fwd.find? (fun x => x.1 = 0) = none ∧
    (coreOf (setCore (gone 2 none 0) 0 { coreOf m0 0 with fwd := [(0, some 5)] }) 0).fwd.find? (fun x => x.1 = 0) = some (0, some 5) ∧
    (dirOf m0 (hIndex (laHandle toS9.la))).state = 0 ∧ (dirOf (gone 2 none 1) 0).state ≠ 0 ∧ (dirOf (gone 2 none 1) 0).gen ≠ hGen 0 ∧
    (dirOf (gone 1 none 0) 0).state = 1 ∧ (dirOf (gone 1 none 0) 0).gen = hGen 0 ∧ (dirOf (gone 1 none 0) 0).world = toS9.o.world ∧
    (let s := gone 2 (some (.waitp (.s 9) true)) 0
     isLive s.th = true ∧ s.th.handle = laHandle toS9.la ∧ s.th.status = .away (some (.waitp (.s 9) true)) ∧ s.th.world = toS9.o.world ∧
     refusedWith s.th toS9 = none ∧ count s.th (laReg toS9.la) = 1 ∧ s.th.runnable = false ∧ recordedReg s.th = some (.s 9) ∧
     present (setCount s.th (.s 9) 0) (.s 9) = true ∧ (dirOf s 0).image = 0) ∧
    recordedReg (gone 2 none 0).th = none ∧ recordedReg { (gone 2 none 0).th with awaited := [.s 9] } = some (.s 9) := by decide

/-- Its check code does not hold. Hypotheses of `Obligations.LandingsMeetTheirThread`. -/
theorem witness_CorruptLanding : crcOk { toS9 with crc := crcOf toS9.la toS9.lmask toS9.payload + 1 } = false := by
  simp only [crcOk, decide_eq_false_iff_not]
  exact fun h => absurd h (by bv_omega)

/-- A landing of one row in slot 4 of unit 0. -/
def toSlot : Packet := packet (itsOrigin m0) 0x8005001000000000 (List.replicate 8 7)
def toMem : Packet := { packet (itsOrigin m0) 0x500008 [1, 2, 3, 4] with pieces := [piece4] }

/-- Hypotheses of `Obligations.LandingsStoreAndAreAnswered`. -/
theorem witness_LandingsStoreTheirBytes : (crcOk toSlot = true ∧ crcOk toMem = true) ∧
    (toSlot.pieces = [] ∧ laUnit toSlot.la = 0 ∧ laSlot toSlot.la = 4 ∧ clusterPresent m0 0 = true ∧
      (slotAt (claimed m0) 0 4).owner ≠ none ∧ (slotAt (claimed m0) 0 4).world = toSlot.o.world ∧ (slotAt m0 0 4).owner = none ∧
      slotPieces toSlot ≠ [] ∧ (∀ z ∈ slotPieces toSlot, z.off + z.len ≤ toSlot.payload.length) ∧
      toMem.pieces = [piece4] ∧ assigned mMem piece4.addr = true ∧ piece4.off + piece4.len ≤ toMem.payload.length) ∧ sameKey mMem piece4 :=
  ⟨⟨by simp [crcOk, toSlot, packet], by simp [crcOk, toMem, packet]⟩, by decide, sameKey_of (by decide)⟩

/-- A masked landing in that slot, of lane 1 alone, and of none. -/
def maskedTo (m : Word) : Packet :=
  let p := { packet (itsOrigin m0) 0x8005001000000000 (List.replicate 256 7) with hasMask := true, lmask := m }
  { p with crc := crcOf p.la p.lmask p.payload }

/-- Hypotheses of `Obligations.LandingsStoreAndAreAnswered`: lanes that are selected, none, and a slot given up between the pieces. -/
theorem witness_MaskedLandingsInSlots : (crcOk (maskedTo 2) = true ∧ crcOk (maskedTo 0) = true) ∧ slotPieces (maskedTo 2) ≠ [] ∧
    (∀ z ∈ slotPieces (maskedTo 2), 4 ≤ z.off ∧ z.off + z.len ≤ 8) ∧ slotPieces (maskedTo 0) = [] ∧
    (let p := { toSlot with pieces := slotPieces toSlot }; p.pieces ≠ [] ∧ (slotAt m0 (laUnit p.la) (laSlot p.la)).owner = none) :=
  ⟨⟨by simp [crcOk, maskedTo, packet], by simp [crcOk, maskedTo, packet]⟩, by decide +kernel⟩

/-- The thread has sent that landing, and its copy stands. -/
def sent (k : Nat) : State := { m0 with copies := [{ toS9 with tries := k }] }

/-- Hypotheses of `Obligations.LandingsStoreAndAreAnswered`. -/
theorem witness_AnswersReachTheSender : toS9.o.dev = (sent 1).dev ∧ toS9.o.seq.getLsbD 31 = false ∧ (sent 1).copies = [] ++ { toS9 with tries := 1 } :: [] ∧
    samePacket toS9 { toS9 with tries := 1 } = true ∧ isLive (sent 1).th = true ∧ (sent 1).th.handle = toS9.o.by' ∧
    (sent 4).copies = [] ++ { toS9 with tries := 4 } :: [] ∧ laSpace toS9.la = 1 ∧ laDev toS9.la = (sent 1).dev ∧ isAway (sent 1).th = false := by
  decide

/-! ### Saving, resuming, launching and placing -/

/-- The reserve of die 0, in its SRAM, full of roots of address spaces. -/
def fullReserve (s : State) : State :=
  { s with phase := 2, asids := (List.range 128).map (fun i => (i, some { world := 0, root := word (sramBase + 0x3800000 + 65536 * i) })) }

/-- Hypotheses of `Obligations.SavesAndContinuations`. -/
theorem witness_SavesAreReported :
    (∀ st ∈ [Status.ready, .sleeping (.evw 3), .stalled], let s := on (fun t => { t with save := some .preempt, status := st })
      Focused s 0 ∧ s.th.save = some .preempt ∧ s.th.status = st ∧ (imagePlace s s.th).isSome = true ∧ imagePlace (fullReserve s) s.th = none) ∧
    (let s := on (fun t => { t with save := some (.migrate 5), status := .saving (some (.evw 7)) })
     Focused s 0 ∧ s.th.status = .saving (some (.evw 7)) ∧ draining s s.th = false ∧ mortarOf s s.th = [] ∧ unanswered s (senderOf s s.th) = false ∧
     s.launches = [] ∧ draining { s with copies := [toS9] } s.th = true ∧ (dirOf s 0).image = 0 ∧ (∀ e ∈ s.buffers, ∀ x ∈ e.2, x.key = none) ∧
     (let t := setDir s 0 { dirOf s 0 with image := 0x8400000000 }; (dirOf t 0).image ≠ 0 ∧ recordPlace t 0 + 64 ≤ (dirOf t 0).image.toNat % 2 ^ 45)) := by
  simp only [focused_iff]
  decide +kernel

/-- Hypotheses of `Obligations.SavesAndContinuations`. -/
theorem witness_ContinuationsResume :
    (let s := on (fun t => { t with status := .away (some .sleep), runnable := true })
     Focused s 0 ∧ s.th.status = .away (some .sleep) ∧ s.th.runnable = true ∧ 7 ∈ idleSlots s 2047 ∧ s.th.win.toNat ≤ freeBanks s 2047) ∧
    (let s := on (fun t => { t with status := .restoring (some (.waitp (.s 3) true)) })
     s.th.status = .restoring (some (.waitp (.s 3) true)) ∧ mortarOf s s.th = [] ∧ s.launches = []) := by
  simp only [focused_iff]
  decide +kernel

/-- Graph 0 of world 0 in graph memory: one node of one team of `n` threads of window 16 at 0x400000, in the given mode. -/
def graphed (n mode : Byte) (s : State) : State :=
  let node := leBytes 8 0x400000 ++ leBytes 8 0 ++ [1, 0, n, 16, 3, mode, 0, 0, 0, 0]
  { s with gmem := wrMem (wrMem [] 0 [1, 0, 0, 0, 0, 0, 0, 0, 1]) 0x4000 node, asids := [(0, some { world := 0, root := 0 })] }

theorem launchable_iff {s : State} {g : BitVec 8} : Launchable s g ↔ graphOk s g = true ∧ nodeBad s g = none ∧
    (∀ i < nodeCount s g, 1 ≤ nodeTeams s g i ∧ nodeMode s g i ≠ 2) ∧ ∃ i < nodeCount s g, firstCount s g i = 0 :=
  ⟨fun h => ⟨h.1, h.2, h.3, h.4⟩, fun h => ⟨h.1, h.2.1, h.2.2.1, h.2.2.2⟩⟩

/-- A channel that is enabled for the device, with a trigger in its queue. -/
def triggered (l : List Word) (s : State) : State := setChan s 15 { Channel.init with en := true, devl := true, fifo := l }

/-- Hypotheses of `Obligations.LaunchesAndGraphs`. -/
theorem witness_TriggersLaunchGraphs :
    (let k := chanAt (triggered [] m0) 15; k.en = true ∧ k.fifo.length < 16 ∧ (funcAt m0 k.func).tdisp ≠ .locked ∧ (funcAt m0 k.func).tdisp ≠ .error ∧ m0.phase = 3) ∧
    (chanAt m0 0).en = false ∧ Running (withS 4 15) ∧ Ready (withS 4 15) [.s 3, .s 4, .s 5] ∧ (rdS (withS 4 15).th 4).truncate 4 = (15 : BitVec 4) ∧
    (chanAt m0 15).devl = false ∧ (chanAt (triggered [] m0) 15).devl = true ∧ (chanAt (triggered [] m0) 15).world = m0.th.world ∧
    outstanding (withS 4 15) (senderOf (withS 4 15) (withS 4 15).th) 0xF = [] ∧
    (let s := triggered [0] m0; (chanAt s 15).running = none ∧ (chanAt s 15).fifo = [0] ∧ launchOf s 0 = none ∧ graphOk s 0 = false) ∧
    (let s := triggered [0] (graphed 1 1 m0); graphOk s 0 = true ∧ graphWorld s 0 = (chanAt s 15).world ∧ (0 : Word).toNat < 2 ^ 8 ∧
      worldLeaving s (chanAt s 15).world = false) ∧
    graphWorld (setChan (graphed 1 1 m0) 15 { Channel.init with world := 9 }) 0 ≠ (chanAt (setChan (graphed 1 1 m0) 15 { Channel.init with world := 9 }) 15).world :=
  ⟨by decide +kernel, by decide +kernel, ⟨by decide +kernel, by decide +kernel⟩, ready_iff.mpr (by decide +kernel), by decide +kernel, by decide +kernel, by decide +kernel, by decide +kernel, by decide +kernel, by decide +kernel,
    by decide +kernel, by decide +kernel⟩

/-- Hypotheses of `Obligations.LaunchesAndGraphs`: a world that is being destroyed, a channel that is disabled, a concurrent node with room and
without. -/
theorem witness_TriggersThatWaitOrAbort :
    (let s := { triggered [0] (graphed 1 1 m0) with funcs := [(0, { Func.init with leaving := some .error })] }
     graphOk s 0 = true ∧ worldLeaving s (chanAt s 15).world = true) ∧
    (let s := setChan (graphed 1 1 m0) 15 { Channel.init with en := false, fifo := [0] }; (chanAt s 15).running = none ∧ (chanAt s 15).fifo = [0] ∧ s.phase = 3) ∧
    (let s := { triggered [0] (graphed 1 2 m0) with capcl := 1 }
     graphOk s 0 = true ∧ nodeBad s 0 = none ∧ nodeCount s 0 = 1 ∧ firstCount s 0 0 = 0 ∧ nodeMode s 0 0 = 2 ∧ nodeTeams s 0 0 = 1 ∧
     clusterFor s (nodeDie s 0 0) (nodeThreads s 0 0) (nodeWindow s 0 0) = some 0 ∧ nodeThreads s 0 0 ≤ freeIndices s) ∧
    (let s := { triggered [0] (graphed 1 2 m0) with capcl := 0, th := { m0.th with graph := 9 } }
     clusterFor s (nodeDie s 0 0) (nodeThreads s 0 0) (nodeWindow s 0 0) = none ∧ ∀ u ∈ allThreads s, isLive u = true → u.graph ≠ 0) := by decide +kernel

/-- GRUN of graph 0, or DEPDEC of node 0 of graph 0, in the queue. -/
def e2 (k : BitVec 8) : Command := cmd .e2 k [0, 0, 0] .queued

/-- Hypotheses of `Obligations.LaunchesAndGraphs`. -/
theorem witness_GraphsAreLaunchable : Launchable (triggered [0] (graphed 1 1 m0)) 0 ∧ Launchable { graphed 1 1 m0 with cmds := [e2 1] } 0 := by
  simp only [launchable_iff]
  decide +kernel

/-- Hypotheses of `Obligations.LaunchesAndGraphs`. -/
theorem witness_GraphCommandsAct : (let s := { graphed 1 1 m0 with cmds := [e2 1] }
     findCmd s 0 0x8005 = some (e2 1) ∧ cmdFree s (e2 1) = true ∧ graphWorld s 0 = (e2 1).world ∧ launchOf s 0 = none ∧
     nthWord (e2 1).words 1 = 0 ∧ s.phase = 3 ∧ worldLeaving s (e2 1).world = false) ∧ graphOk m0 0 = false ∧
    (let s := graphed 1 1 m0
     let t := { s with gmem := wrMem s.gmem 13 [0x10] }
     graphOk t 0 = true ∧ graphWorld t 0 = 0 ∧ launchOf t 0 = none ∧ t.phase = 3 ∧ 4096 ≤ gRd t (graphAt 0 + 12) 4) ∧
    (let s := { graphed 1 1 m0 with cmds := [e2 2], launches := [{ (default : Launch) with graph := 0, patch := none }] }
     (launchOf s 0).isSome = true ∧ graphWorld s 0 = (e2 2).world ∧ 0 < nodeCount s 0 ∧ nodeCounter s 0 0 = 0 ∧
     1 < nodeCounter { s with gmem := wrMem s.gmem 0x4030 [2] } 0 0 ∧
     (let t := { s with gmem := wrMem (wrMem s.gmem 0x4030 [1]) 16 [1] }
      nodeCounter t 0 0 = 1 ∧ 1 ≤ nodeTeams t 0 0 ∧ nodeMode t 0 0 ≠ 2 ∧ gRd t (graphAt 0 + 16) 4 ≠ 0)) := by decide +kernel

/-- The machine with one cluster, and a team of graph 0 that waits. -/
def waiting (n mode : Byte) : State :=
  { graphed n mode m0 with capcl := 1, queue := [{ graph := 0, node := 0, team := 0 }]
                           launches := [{ (default : Launch) with graph := 0, pmax := 7, aborting := none }, { (default : Launch) with graph := 1, pmax := 0 }] }
/-- The thread in focus is a team of priority 0 of graph 0. -/
def occupied (n mode : Byte) (p : Byte) : State :=
  let m : Team := { graph := p.zeroExtend 8, node := 0, home := 0, members := [0], left := [], arrived := [], alive := 1, placed := 0, acted := 0 }
  setTeam (setTh (waiting n mode) { (waiting n mode).th with team := 1, member := some 0 }) 1 (some m)

theorem distinct_occupied : HandlesDistinct (occupied 16 1 0) ∧ HandlesDistinct (occupied 16 1 1) := by
  unfold HandlesDistinct; decide +kernel

/-- Hypotheses of `Obligations.TeamsArePlacedWhole`. -/
theorem witness_TeamsArePlacedWhole :
    (let s := setCluster { setTh m0 { m0.th with status := .away none, runnable := true } with capcl := 1 } 0 { clusterAt m0 0 with queue := [0] }
     (nextResume s).isSome = true ∧ Focused s 0 ∧ s.th.status = .away none) ∧
    (let s := waiting 2 1
     nextResume s = none ∧ (nextTeam s).isSome = true ∧ (launchOf s 0).isSome = true ∧ nodeThreads s 0 0 ≤ freeIndices s ∧ nodeThreads s 0 0 ≤ 16 ∧
     clusterFor s (nodeDie s 0 0) (nodeThreads s 0 0) (nodeWindow s 0 0) = some 0) ∧
    (let s := occupied 16 1 0
     HandlesDistinct s ∧ s.phase = 3 ∧ clusterFor s (nodeDie s 0 0) (nodeThreads s 0 0) (nodeWindow s 0 0) = none ∧
     nodeMode s 0 0 = 1 ∧ reliefFor s = some 1) ∧
    (let s := occupied 16 1 1
     HandlesDistinct s ∧ waitPrio s { graph := 0, node := 0, team := 0 } = 3 ∧
     teamStuck s { graph := 0, node := 0, team := 0 } = true ∧
     victim s 3 (helpedClusters s { graph := 0, node := 0, team := 0 }) = some 1 ∧ ∀ u ∈ allThreads s, leaving u = false) :=
  ⟨⟨by decide +kernel, ⟨by decide +kernel, by decide +kernel⟩, by decide +kernel⟩, by decide +kernel, ⟨distinct_occupied.1, by decide +kernel, by decide +kernel, by decide +kernel, by decide +kernel⟩,
    distinct_occupied.2, by decide +kernel, by decide +kernel, by decide +kernel, by decide +kernel⟩

/-- An access under no key, and no line of a buffer under one. Hypotheses of `Obligations.TeamsArePlacedWhole`. -/
theorem witness_PlacedWithoutKeys : (∀ e ∈ (waiting 2 1).buffers, ∀ x ∈ e.2, x.key = none) ∧
    ∀ c x, pieceOf { waiting 2 1 with asids := [] } [] 0 c = some x → x.key = none := by
  refine ⟨by decide +kernel, fun c x h => ?_⟩
  unfold pieceOf seek at h
  split at h
  · rename_i hs
    split at hs
    · exact absurd hs (by simp)
    · simp [walk, sget] at hs
  · exact absurd h (by simp)

/-! ### Translation and pages -/

/-- Address space 0 of world 0, its tables in reserved HBM: page 0x50 at the second frame, 0x51 absent to be allocated, 0x52 with the host; the
32 MiB page 1 absent to be allocated. -/
def paged : State :=
  let a := 0x8300000000
  let f (x : Nat) : List Byte := leBytes 8 (1 + (5 * 2 ^ 45 + x) / 4096 * 2 ^ 18)
  let s := wrBytes (wrBytes (wrBytes m0 a (f (a + 0x10000))) (a + 0x10000) (f (a + 0x11000))) (a + 0x11000) (f (a + 0x12000) ++ leBytes 8 6)
  { wrBytes s (a + 0x12000 + 8 * 0x50) (leBytes 8 (leafTo 1).toNat ++ leBytes 8 6 ++ leBytes 8 10) with
    asids := [(0, some { world := 0, root := word (5 * 2 ^ 45 + a) })], owners := [(1, { world := 0, st := 1, lg := false })] }

/-- No byte is listed in an interval. -/
def clearAt (m : Memory) (a n : Nat) : Bool := m.all (fun c => decide (c.1 < a ∨ a + n ≤ c.1))

theorem upFrom_add (k n m : Nat) : upFrom k (n + m) = upFrom k n ++ upFrom (k + n) m := by
  induction n generalizing k with
  | zero => simp [upFrom]
  | succ n ih => rw [Nat.add_right_comm]; simp [upFrom, ih, Nat.add_assoc, Nat.add_comm 1 n]

theorem mem_upFrom {k n i : Nat} (h : i ∈ upFrom k n) : k ≤ i ∧ i < k + n := by
  induction n generalizing k with
  | zero => simp [upFrom] at h
  | succ n ih =>
    rcases List.mem_cons.mp h with rfl | h
    · omega
    · have := ih h; omega

theorem rdMem_clear {m : Memory} {a n b c : Nat} (h : clearAt m b c = true) (h1 : b ≤ a) (h2 : a + n ≤ b + c) :
    rdMem m a n = List.replicate n 0 := by
  induction n generalizing a with
  | zero => rfl
  | succ n ih =>
    rw [rdMem, ih (by omega) (by omega), List.replicate_succ]
    congr 1
    refine sget_of_above fun e he hk => ?_
    have := List.all_eq_true.mp h e he
    simp only [decide_eq_true_eq] at this
    omega

theorem entries_first {β : Type} {s : State} {a k n : Nat} {f : Nat × Nat × Word → Option β} (h : clearAt s.mem (a + 8 * k) (8 * n) = true)
    (hf : ∀ i x, f (i, x, 0) = none) : (tableEntries s a (k + n)).filterMap f = (tableEntries s a k).filterMap f := by
  simp only [tableEntries, upFrom_add, List.map_append, Nat.zero_add, List.filterMap_append]
  refine List.append_right_eq_self.mpr (List.filterMap_eq_nil_iff.mpr fun e he => ?_)
  obtain ⟨i, hi, rfl⟩ := List.mem_map.mp he
  have := mem_upFrom hi
  rw [rdBytes, rdMem_clear h (by omega) (by omega)]
  exact hf ..

theorem tablesBelow_first {s : State} (va a k n span : Nat) (h : clearAt s.mem (a + 8 * k) (8 * n) = true) :
    tablesBelow s va a (k + n) span = tablesBelow s va a k span :=
  entries_first h fun _ _ => if_neg (by show ¬ tableOk 0 = true; decide)

/-- The entries of address space 0 of a machine with the tables of `paged`, read from the part of each table that is written. -/
theorem asidEntries_first {s : State} {asid : BitVec 12} {r a b c : Nat} (h0 : clearAt s.mem (r + 8) 65528 = true)
    (h1 : tablesBelow s 0 r 1 (2 ^ 43) = [(0, a)]) (h2 : clearAt s.mem (a + 8) 4088 = true) (h3 : tablesBelow s 0 a 1 (2 ^ 34) = [(0, b)])
    (h4 : clearAt s.mem (b + 16) 4080 = true) (h5 : tablesBelow s 0 b 2 (2 ^ 25) = [(0, c)]) (h6 : clearAt s.mem (c + 8 * 0x53) (8 * 429) = true) :
    asidEntries s asid r =
      (tableEntries s b 2).filterMap (fun e => if bit e.2.2 1 && (bit e.2.2 0 || field e.2.2 2 3 ≠ 0) then
        some { asid := asid, va := 0 + e.1 * 2 ^ 25, big := true, addr := e.2.1, entry := e.2.2 } else none) ++
      (tableEntries s c 0x53).filterMap (fun e => if bit e.2.2 1 && (bit e.2.2 0 || field e.2.2 2 3 ≠ 0) then
        some { asid := asid, va := 0 + e.1 * 2 ^ 16, big := false, addr := e.2.1, entry := e.2.2 } else none) := by
  rw [asidEntries, show 8192 = 1 + 8191 from rfl, tablesBelow_first 0 r 1 8191 _ h0, h1]
  simp only [List.flatMap_cons, List.flatMap_nil, List.append_nil, show 512 = 1 + 511 from rfl, tablesBelow_first 0 a 1 511 _ h2, h3]
  rw [show 1 + 511 = 2 + 510 from rfl, tablesBelow_first 0 b 2 510 _ h4, h5]
  simp only [List.flatMap_cons, List.flatMap_nil, List.append_nil]
  have h : ¬ (bit (0 : Word) 1 && (bit (0 : Word) 0 || field (0 : Word) 2 3 ≠ 0)) = true := by decide
  rw [entries_first h4 (fun _ _ => if_neg h), show 2 + 510 = 0x53 + 429 from rfl, entries_first h6 (fun _ _ => if_neg h)]

theorem paged_entries : allEntries paged =
    [{ asid := 0, va := 0x2000000, big := true, addr := 0x8300011008, entry := 6 }, { asid := 0, va := 0x500000, big := false, addr := 0x8300012280, entry := leafTo 1 },
     { asid := 0, va := 0x510000, big := false, addr := 0x8300012288, entry := 6 }, { asid := 0, va := 0x520000, big := false, addr := 0x8300012290, entry := 10 }] := by
  have h : allEntries paged = asidEntries paged 0 0x8300000000 ++ [] := rfl
  rw [h, asidEntries_first (a := 0x8300010000) (b := 0x8300011000) (c := 0x8300012000) (by decide +kernel) (by decide +kernel) (by decide +kernel)
    (by decide +kernel) (by decide +kernel) (by decide +kernel) (by decide +kernel)]
  decide +kernel

/-- R339, R340: an unmapped entry of level 3 has `L` 1; one of zeros is malformed. -/
theorem test_unmapped_entry : absentEntry (absentWord 0) true = .unmapped false ∧ absentEntry 0 true = .unmapped true := by decide

/-- Hypotheses of `Obligations.TranslationAndPages`. -/
theorem witness_walks : walk paged 0 0x500000 = .leaf false (leafTo 1) ∧ walk paged 0 0x510000 = .absent ∧ walk paged 0 0x520000 = .absent ∧
    walk paged 0 0x4000000 = .unmapped false ∧ walk paged 0 0x530000 = .unmapped true ∧ walk paged 0 0x2000000 = .absent := by decide +kernel

/-- A launch of graph 0 by channel 15 waits for its patch list at an address; the bytes of a list stand at 0x500000. -/
def patching (b : List Byte) (list : Word) : State :=
  let s := { graphed 1 1 (engWrite paged 0 0x500000 b) with asids := paged.asids }
  setChan { s with launches := [{ (default : Launch) with graph := 0, chan := some 15, patch := some list }] } 15 { Channel.init with running := some 0 }
/-- One entry: the priority of a node becomes 5. -/
def onePatch (node : Nat) : List Byte := leBytes 8 1 ++ leBytes 4 node ++ [2, 0, 0, 0] ++ leBytes 8 5

/-- Hypotheses of `Obligations.LaunchesAndGraphs`: a list that waits for a page or a lock, one of no address space, one too long, one that names no node, and one in
order. -/
theorem witness_PatchListsAreRead :
    (let s := patching (onePatch 0) 0x500000
     (chanAt s 15).running = some 0 ∧ (launchOf s 0).map (fun l => (l.chan, l.patch, l.aborting)) = some (some 15, some 0x500000, none) ∧ graphAsid s 0 = 0 ∧
     (readList (patching [] 0x510000) 0 0x510000 8).2 = .page 0x510000 ∧ (readList (patching [] 0x530000) 0 0x530000 8).2 = .bad ∧
     (readList { s with locks := [{ oneLock with lo := 0x500000 }] } 0 0x500000 8).2 = .locked ∧ (readList s 0 0x500000 8).2 = .bytes (leBytes 8 1) ∧
     (readList (patching (leBytes 8 4097) 0x500000) 0 0x500000 8).2 = .bytes (leBytes 8 4097) ∧
     (readList (readList s 0 0x500000 8).1 0 0x500008 16).2 = .bytes ((onePatch 0).drop 8) ∧ patchOk (nodeCount s 0) (patchEntry ((onePatch 0).drop 8)) = true ∧
     patchOk (nodeCount s 0) (patchEntry ((onePatch 9).drop 8)) = false ∧ Launchable (patchNode s 0 (patchEntry ((onePatch 0).drop 8))) 0) := by
  simp only [launchable_iff]
  decide +kernel

/-- Hypotheses of `Obligations.TranslationAndPages`. -/
theorem witness_TlbsAreFilledAndInvalidated :
    (let s := on (fun t => wrS (wrS { t with world := 0 } 4 0x500000) 5 (leafTo 1))
     Running s ∧ Ready s [.s 3, .s 4, .s 5] ∧ tagBad (rdS s.th 4) = false ∧ leafOk false (rdS s.th 5) = true ∧ pageBig s 0 0x500000 = false ∧
     outstanding s (senderOf s s.th) 0xF = []) ∧ tagBad 0x1000 = true ∧ leafOk false 0 = false ∧ .core 0 ∈ holders m0 0x400000 0 ∧
    fillPort paged 0 false (leafTo 1) = true ∧ leafAddr false (leafTo 1) 0 / 2 ^ 45 = paged.dev.toNat ∧
    agentBusy m0 (.core 0) 0x400000 0 = false ∧
    agentBusy { m0 with pending := [.tlbMissWalk 0 0 0x400000] } (.cluster 0) 0x400000 0 = true ∧ m0.shootdowns = [] ∧
    (let d : Shootdown := { left := [(.cluster 0, 0x400000, 0), (.core 0, 0x400000, 0)], job := .tlbi (itsOrigin m0) 3 }
     (Agent.cluster (clusterOf 0), (0x400000 : Word), (0 : BitVec 2)) ∈ d.left) := by
  simp only [running_iff, ready_iff]
  decide +kernel

/-- Hypotheses of `Obligations.TranslationAndPages`. -/
theorem witness_NobodyHolds : NobodyHolds State.reset 0x500000 0 := by
  intro g
  cases g <;> exact ⟨rfl, rfl⟩

/-- The thread waits for a page. -/
def faulted (page : Nat) : State :=
  { setTh paged { paged.th with status := .away none, runnable := false } with
    pageFaults := [{ asid := 0, page := page, threads := [(0, 0x0A, 0x500000)], tag := none, launches := [], gruns := [] }] }

/-- Hypotheses of `Obligations.TranslationAndPages`. -/
theorem witness_PagesAreServedAndMoved :
    (let s := faulted 0x50
     (s.pageFaults.find? (fun f => f.asid = 0 ∧ f.page = 0x50)).isSome = true ∧ isLive s.th = true ∧ s.th.status = .away none ∧ s.th.runnable = false) ∧
    (let s := { faulted 0x200 with capst := 0, capcl := 0xFFFF }
     walk s 0 0x2000000 = .absent ∧ (entryOf s 0 0x2000000).isSome = true ∧ freeRun s (leafFrames true) = some 0x1E000000) ∧
    (ownerOf paged 0).st ≠ 1 ∧ (ownerOf paged 1).st = 1 ∧ firmwareRuns paged = true ∧ firmwareRuns { paged with phase := 1 } = false ∧
    paged.shootdowns = [] ∧ (∀ e ∈ paged.buffers, ∀ x ∈ e.2, x.key = none) ∧ destFree paged 2 1 = true ∧
    frameListed paged 1 = true ∧ frameListed paged 0x1FFFFFFF = false ∧ frameTags paged [5] = [] ∧ paged.phase = 3 ∧ (dirOf (faulted 0x50) 0).image = 0 ∧
    (allEntries paged).filter (fun x => mapsFrame paged x 1) = [{ asid := 0, va := 0x500000, big := false, addr := 0x8300012280, entry := leafTo 1 }] ∧
    isPinned paged 0 0x500000 65536 = false ∧
    (let s := setCluster paged 0 { clusterAt paged 0 with tlb := [{ asid := 0, page := 0x50, big := false, leaf := leafTo 1 }] }
     holders s (pageTagWord 0 0x500000) 0 ≠ [] ∧ frameTags s [1] ≠ []) := by
  rw [paged_entries]; decide +kernel

/-- Bytes of a request of the ring, lowest first from byte 8 on. -/
def request (b : List Byte) : BitVec 512 := BitVec.ofNat 512 (2 ^ 64 * ofLe b)

theorem zero_iff {e : BitVec 512} {l : List (Nat × Nat)} : otherwiseZero e l ↔
    (List.range 64).all (fun i => decide (i < 8) || l.any (fun r => decide (r.1 ≤ i ∧ i < r.1 + r.2)) || decide (byteField e i 1 = 0)) = true := by
  simp only [otherwiseZero, List.all_eq_true, List.mem_range, Bool.or_eq_true, decide_eq_true_eq, List.any_eq_true]
  constructor
  · intro h i hi
    by_cases h8 : i < 8
    · exact .inl (.inl h8)
    · by_cases hr : ∃ r ∈ l, r.1 ≤ i ∧ i < r.1 + r.2
      · exact .inl (.inr hr)
      · exact .inr (h i (by omega) hi (fun r hm hn => hr ⟨r, hm, hn⟩))
  · intro h i h8 hi hn
    rcases h i hi with (h | ⟨r, hr, h⟩) | h
    · omega
    · exact absurd h (hn r hr)
    · exact h

/-- The range of ten pages from 0x500000 of address space 0, absent of kind 1. -/
def rangeReq (len : Nat) : BitVec 512 := request (leBytes 8 0 ++ leBytes 8 0x600000 ++ leBytes 8 len ++ leBytes 8 0x1C ++ [0, 1])

/-- Hypotheses of `Obligations.SystemSoftwareSetsTables`. -/
theorem witness_AddressSpacesAreSet : paged.phase = 3 ∧
    (let e := request (leBytes 4 4095 ++ [1, 0, 0, 0] ++ leBytes 8 (5 * 2 ^ 45 + 0x8300000000))
     otherwiseZero e [(8, 5), (16, 8)] ∧ byteField e 8 2 = 4095 ∧ byteField e 12 1 = 1 ∧ byteField e 16 8 % 65536 = 0 ∧
     byteField e 16 8 / 2 ^ 45 = paged.dev.toNat ∧ reserved paged (byteField e 16 8 % 2 ^ 45) = true ∧
     (hbmDie paged (byteField e 16 8 % 2 ^ 45)).isSome = true ∧ (hbmDie paged (byteField e 16 8 % 2 ^ 45 + 65535)).isSome = true ∧ paged.launches = []) ∧
    paged.pageFaults = [] ∧ paged.shootdowns = [] ∧
    otherwiseZero (rangeReq 65536) [(8, 2), (16, 26)] ∧ byteField (rangeReq 65536) 16 8 = 0x600000 ∧ byteField (rangeReq 65536) 24 8 = 65536 ∧
    byteField (rangeReq 65536) 41 1 = 1 ∧ word (byteField (rangeReq 65536) 32 8) &&& ~~~0x1FFF3F = 0 ∧ sget none paged.asids 0 ≠ none ∧
    isPinned paged 0 0x600000 65536 = false ∧ (pageEntry paged 0 0x600000 false).isSome = true ∧
    (let e := request (leBytes 4 9)
     let s := { paged with pageFaults := [{ asid := 0, page := 0x52, threads := [], tag := some (9, 3), launches := [], gruns := [] }] }
     otherwiseZero e [(8, 5)] ∧ byteField e 8 4 = 9 ∧ byteField e 12 1 = 0 ∧ (entryOf s 0 (0x52 * 65536)).isSome = true ∧
     (s.pageFaults.find? (fun f => f.tag.map (·.1) = some 9)).isSome = true) := by
  simp only [zero_iff]
  decide +kernel

/-- Hypotheses of `Obligations.SystemSoftwareSetsTables`. -/
theorem witness_RangesAreMapped :
    (∀ x ∈ allEntries paged, x.asid.toNat = 0 → x.va + 65536 * leafFrames x.big ≤ 0x600000 ∨ 0x600000 + 65536 ≤ x.va) ∧
    otherwiseZero (request (leBytes 8 0 ++ leBytes 8 0x500000 ++ leBytes 8 65536)) [(8, 2), (16, 16)] ∧
    (allEntries paged).filter (fun x => x.asid = 0 ∧ x.va = 0x500000) ≠ [] ∧
    (∀ x ∈ allEntries paged, x.asid.toNat = 0 → x.big = true →
      x.va + 2 ^ 25 ≤ 0x500000 ∨ 0x500000 + 65536 ≤ x.va ∨ (0x500000 ≤ x.va ∧ x.va + 2 ^ 25 ≤ 0x500000 + 65536)) := by
  simp only [zero_iff, paged_entries]
  decide +kernel

/-- Hypotheses of `Obligations.SystemSoftwareSetsTables`. -/
theorem witness_DeviceTablesAreSet : State.reset.phase ≠ 2 ∧ State.reset.phase ≠ 3 ∧ m0.phase = 3 ∧
    (let e := request [9, 0, 0, 1, 0, 0, 0, 1, 0, 0, 0]
     otherwiseZero e [(8, 11), (24, 8)] ∧ byteField e 10 1 + 1 ≤ 4 ∧ byteField e 11 1 = 1 ∧ byteField e 15 1 = 1 ∧
     ([0, 5] ++ List.replicate 4094 (0 : BitVec 12)).length = 4096 ∧
     ([0, 5] ++ List.replicate 4094 (0 : BitVec 12)).getD (linearOf [2] [1]) 0 = m0.dev) ∧
    (let e := request [7, 0, 0, 0, 2, 0, 1]
     otherwiseZero e [(8, 7)] ∧ byteField e 8 4 < 2 ^ 24 ∧ byteField e 14 1 = 1 ∧ jobLive m0 7 = false ∧ m0.jobs.length < 4096) ∧
    (let e := request [255, 15, 7]; otherwiseZero e [(8, 3)] ∧ byteField e 8 2 < 4096 ∧ byteField e 10 1 < 8 ∧ m0.conns = [] ∧ m0.rxConns = []) ∧
    (let e := request [34, 0, 1]; otherwiseZero e [(8, 1), (10, 2)] ∧ 20 ≤ byteField e 8 1 ∧ byteField e 8 1 ≤ 34 ∧ m0.cmds = []) ∧
    (let e := request [63, 0, 1]; otherwiseZero e [(8, 1), (10, 2)] ∧ byteField e 8 1 < 64 ∧ byteField e 10 2 ≠ 0 ∧ (funcAt m0 63).tdisp = .unlocked) ∧
    (∀ st ∈ [Tdisp.locked, .run, .error], let s := { m0 with funcs := sset Func.init m0.funcs 63 { Func.init with tdisp := st } }
      (funcAt s 63).tdisp = st ∧ (funcAt s 63).leaving = none ∧ s.launches = []) ∧
    (let e := request [15, 63]; otherwiseZero e [(8, 2)] ∧ byteField e 8 1 < 16 ∧ byteField e 9 1 < 64 ∧ (chanAt m0 15).running = none ∧
      (chanAt m0 15).fifo = [] ∧ (funcAt m0 (chanAt m0 15).func).tdisp = .unlocked) ∧
    (let e := request [63, 0, 0, 4, 0, 4]; otherwiseZero e [(8, 1), (10, 4)] ∧ byteField e 10 2 + byteField e 12 2 ≤ 2048 ∧
      ∀ x : BitVec 6, (funcAt m0 x).vecCount = 0 ∧ (funcAt m0 x).vecFirst = 0) ∧
    (let e := request [255, 31, 2, 0]; otherwiseZero e [(8, 4), (16, 8)] ∧ byteField e 8 2 < 8192 ∧ sget none m0.keySlots (byteField e 8 2) = none ∧
      (∀ x : BitVec 6, (funcAt m0 x).tdisp = .unlocked) ∧
      (let s := { m0 with keySlots := [(8191, some (2, 0))] }; sget none s.keySlots (byteField e 8 2) = some (2, 0) ∧ keyNamed s 2 8191 = false)) := by
  simp only [zero_iff]
  decide +kernel

/-! ### The host, trust, resets and bring-up -/

/-- The machine with function 0 in an interface state. -/
def inFunc (s : State) (f : Func → Func) : State := { s with funcs := sset Func.init s.funcs 0 (f (funcAt s 0)) }
def lockedFunc (st : Tdisp) : State := inFunc m0 (fun x => { x with tdisp := st, world := 3, ide := true })

/-- Hypotheses of `Obligations.HostReachesItsWorld`. -/
theorem witness_HostReachesItsWorld : State.reset.phase = 0 ∧ { m0 with phase := 4 }.phase = 4 ∧ m0.phase = 3 ∧ showsGraphs paged 0 = false ∧ (∀ e ∈ paged.buffers, ∀ x ∈ e.2, x.key = none) ∧
    (∀ i, i < 8 → hostReaches paged 0 (apertureAt paged 0 0x10000 + i) = true) ∧ hostWaits paged 0 0x10000 8 = false ∧
    (∀ i, i < 8 → hostReaches paged 0 (apertureAt paged 0 0x20000 + i) = false) ∧
    hostWaits { paged with locks := [{ (default : Lock) with frames := [1] }] } 0 0x10000 8 = true ∧
    (let s := inFunc m0 (fun x => { x with apbase := 1 })
     showsGraphs s 0 = true ∧ graphsMet s 0x700000 8 = [] ∧ graphsMet { s with gmem := wrMem s.gmem 0x700000 (hostGraphBytes s 0x700000 [1, 2]) } 0x700000 2 = []) ∧
    (let s := inFunc { graphed 1 1 m0 with launches := [{ (default : Launch) with graph := 0 }] } (fun x => { x with apbase := 1 })
     graphsMet s 0x4000 8 = [0] ∧ graphWorld s 0 = (funcAt s 0).world ∧ launchOf s 0 ≠ none) ∧
    (let s := inFunc (graphed 1 1 m0) (fun x => { x with apbase := 1, world := 7 }); 0 ∈ graphsMet s 0x4000 8 ∧ graphWorld s 0 ≠ (funcAt s 0).world) := by
  decide +kernel

/-- A legal CHCTL: enabled, `PMAX` 7, `WEIGHT` 1, `WDK` 30, `PROGTHR` 24. -/
def goodChctl : Word := 1 + 7 * 4 + 1 * 2 ^ 5 + 30 * 2 ^ 9 + 24 * 2 ^ 15

/-- Hypotheses of `Obligations.HostReachesItsWorld`. -/
theorem witness_RegistersOfTheHost : (funcAt (lockedFunc .error) 0).tdisp = .error ∧ (funcAt m0 0).tdisp = .unlocked ∧
    bits (0x1000000001 : Word) 1 35 = 0 ∧ bits (0x1000000001 : Word) 45 19 = 0 ∧ bits (2 : Word) 1 35 ≠ 0 ∧ (funcAt (lockedFunc .run) 0).tdisp = .run ∧
    (0x10048 : BitVec 26).toNat = 0x10000 + 64 * (1 : BitVec 4).toNat + 8 ∧ (chanAt m0 1).func = 0 ∧ (chanAt (setChan m0 1 { Channel.init with func := 2 }) 1).func ≠ 0 ∧
    (let v := goodChctl
     bits v 48 16 = 0 ∧ field v 5 4 = 1 ∧ field v 9 6 = 30 ∧ field v 15 6 = 24 ∧ v.getLsbD 0 = true ∧ (goodChctl - 1).getLsbD 0 = false ∧
     v.getLsbD 1 = (chanAt m0 1).devl ∧ bits v 32 16 = (chanAt m0 1).world ∧ bits (v + 0x500000000) 32 16 ≠ (chanAt m0 1).world) ∧
    (funcAt (lockedFunc .run) 0).leaving = none ∧ (funcAt (inFunc (lockedFunc .run) (fun x => { x with leaving := some .error })) 0).leaving ≠ none ∧
    (0x10048 : BitVec 26).toNat / 64 = 0x400 + (1 : BitVec 4).toNat ∧
    (let s := { setChan m0 1 { Channel.init with en := true, running := some 0 } with launches := [{ (default : Launch) with graph := 0, aborting := none }] }
     (chanAt s 1).running = some 0 ∧ (launchOf s 0).isSome = true ∧ launchThreads s 0 ≠ []) := by decide +kernel

/-- Hypotheses of `Obligations.InterfacesAndAttestation`. -/
theorem witness_InterfacesAreLocked : State.reset.phase ≠ 2 ∧ State.reset.phase ≠ 3 ∧ m0.phase = 3 ∧
    (let s := { inFunc m0 (fun x => { x with ide := true }) with sessions := [(0, 5)] }
     (funcAt s 0).tdisp = .unlocked ∧ (0, 5) ∈ s.sessions ∧ (funcAt s 0).ide = true ∧ ∀ c, (chanAt s c).func = 0 → (chanAt s c).fifo = [] ∧ (chanAt s c).running = none) ∧
    (0, 5) ∉ m0.sessions ∧ (funcAt (lockedFunc .locked) 0).tdisp = .locked ∧ (funcAt (lockedFunc .run) 0).tdisp = .run ∧ (funcAt (lockedFunc .error) 0).tdisp = .error ∧
    (funcAt (lockedFunc .run) 0).leaving = none ∧
    (let s := inFunc (lockedFunc .run) (fun x => { x with leaving := some .unlocked, world := 9 })
     (funcAt s 0).leaving ≠ none ∧ worldLives s 9 = false ∧ worldLives (inFunc s (fun x => { x with world := 0 })) 0 = true) := by
  decide +kernel

/-- Hypotheses of `Obligations.InterfacesAndAttestation`. -/
theorem witness_AttestationAnswers : State.reset.phase ≠ 2 ∧ State.reset.phase ≠ 3 ∧ m0.phase = 3 ∧ (¬ ∃ g, (g, (5 : BitVec 6)) ∈ m0.sessions ∨ (g, 5) ∈ m0.handshakes) ∧
    (let s := { m0 with sessions := (List.range 64).map (fun j => (0, BitVec.ofNat 6 j)) }; ∀ j, (0, j) ∈ s.sessions) ∧
    (0, 5) ∈ { m0 with handshakes := [(0, 5)] }.handshakes ∧ (0, 5) ∉ m0.handshakes ∧
    (let s := { lockedFunc .run with sessions := [(0, 5)], keySlots := [(9, some (3, 0))] }
     (0, 5) ∈ s.sessions ∧ worldProtected s (funcAt s 0).world = true ∧ sget none s.keySlots 8 = none ∧ sget none s.keySlots 9 ≠ none) ∧
    worldProtected m0 0 = false ∧ (0, 5) ∉ m0.sessions := by
  refine ⟨by decide +kernel, by decide +kernel, by decide +kernel, ?_, by decide +kernel⟩
  rintro ⟨g, h | h⟩ <;> exact nomatch h

/-- Hypotheses of `Obligations.ResetsLeaveNothingRunning`. -/
theorem witness_ResetsLeaveNothingRunning :
    (let s := { graphed 1 1 (lockedFunc .run) with launches := [{ (default : Launch) with graph := 0, world := 3 }], keySlots := [(9, some (3, 0))], owners := [(1, { world := 3, st := 1, lg := false })] }
     launchOf s 0 ≠ none ∧ (∃ u ∈ allThreads s, isLive u = true) ∧ (funcAt s 0).tdisp ≠ .unlocked ∧ swf Owner.init s.owners = true) ∧
    (let s := { lockedFunc .run with keySlots := [(9, some (4, 0))] }
     sget none s.keySlots 9 = some (4, 0) ∧ ∀ x, (funcAt s x).world = 4 → (funcAt s x).tdisp = .unlocked) ∧
    ∀ x, (funcAt m0 x).tdisp = .unlocked := by decide +kernel

/-- The image header in the staging region of a device that has just been powered on. -/
def staged (b : List Byte) : State := { State.reset with mem := wrMem [] (stagingBase State.reset) b }

/-- What the checks of the signatures say is open (log 6); the other hypotheses are met. Hypotheses of `Obligations.TheDeviceComesUpAndStops`. -/
theorem witness_TheDeviceComesUp : State.reset.phase = 0 ∧ stagedCells State.reset = [] ∧
    (let s := staged (leBytes 4 0x4C4D4B00); stagedCells s ≠ [] ∧ ofLe (rdBytes s (stagingBase s) 4) ≠ 0x4C4D4B01) ∧
    (let s := staged (leBytes 4 0x4C4D4B01 ++ leBytes 4 4096 ++ leBytes 4 1 ++ leBytes 4 8)
     stagedCells s ≠ [] ∧ ofLe (rdBytes s (stagingBase s) 4) = 0x4C4D4B01 ∧ ofLe (rdBytes s (stagingBase s + 4) 4) = 4096 ∧ ofLe (rdBytes s (stagingBase s + 12) 4) = 8) ∧
    m0.phase = 3 ∧ { m0 with phase := 4 }.phase = 4 ∧ swf Owner.init m0.owners = true ∧
    (let s := { setChan { m0 with phase := 2, trained := true } 1 { Channel.init with fifo := [0] } with capcl := BitVec.allOnes 128, capst := BitVec.allOnes 24 }
     s.phase = 2 ∧ s.trained = true ∧ s.launches = [] ∧ (chanAt s 1).fifo ≠ [] ∧ s.tables = [] ∧ s.asids = [] ∧ (∀ x ∈ s.dir, x.2.image = 0) ∧ swf (0 : Byte) s.mem = true) ∧
    (∃ x, (funcAt (lockedFunc .run) x).tdisp ≠ .unlocked) ∧ m0.bondWaits = [] ∧ (∀ x, (funcAt m0 x).tdisp = .unlocked) ∧
    { m0 with phase := 2, trained := true, launches := [default] }.launches ≠ [] := by decide +kernel

/-- Hypotheses of `Obligations.TheDeviceComesUpAndStops`. -/
theorem witness_FatalErrorsStopTheDevice : { m0 with phase := 4 }.phase = 4 ∧ m0.phase ≠ 4 ∧ m0.marked = [] ∧ { m0 with marked := [7] }.marked = [7] ∧
    sget 0 m0.corrected 7 + 1 = 1 ∧ 1 < sget 0 { m0 with corrected := [(7, 3)] }.corrected 7 + 1 ∧ 16 ≤ sget 0 { m0 with corrected := [(7, 15)] }.corrected 7 + 1 := by
  decide +kernel

/-- Hypotheses of `Obligations.TheDeviceComesUpAndStops`: a read of a word of HBM in which a bit is wrong. -/
theorem witness_ReadsAreCorrected : let s := { mMem with upsets := [(0x1000A, 7)] }
    read4.pieces = [piece4] ∧ read4.reply = .scalar 3 true ∧ read4.got.length = piece4.len ∧ piece4.off = 0 ∧ 0 < piece4.len ∧ piece4.len ≤ 8 ∧
    read4.o.seq.getLsbD 31 = false ∧ assigned s piece4.addr = true ∧ s.marked = [] ∧ s.upsets = [(0x1000A, 7)] ∧ piece4.addr / 16 ≤ 0x1000A / 16 ∧
    0x1000A < piece4.addr + piece4.len ∧ s.phase ≠ 4 := by decide +kernel

/-! ### The tree engine -/

/-- A tree in the page at 0x500000 of `paged`: its descriptor at 0x508000, four blocks of one record; node 0 has the child 1, whose prior is BF16 0.5. -/
def theTree : Tree :=
  { desc := 0x508000, world := 0, asid := 0, base := 0x500000, cap := 4, bs := 1, two := true, cpuct := 0x3F800000, lambda := 0x3F800000, fpv := 0, root := 0
    bump := 2, free := 0xFFFFFFFF, lazy := 0xFFFFFFFF, nfree := 0, nlazy := 0, bnext := 0, reserved := 0 }
def rootNode : Node := { n := 1, w := 0, vl := 0, flags := 9, p := 0, count := 1, first := 1, parent := 0xFFFFFFFF, action := 0, batch := 0xFFFFFFFF }
def childNode : Node := { n := 0, w := 0, vl := 0, flags := 0, p := 0x3F00, count := 0, first := 0xFFFFFFFF, parent := 0, action := 0, batch := 0xFFFFFFFF }
/-- The tree bound as tree 0 of cluster 0, its root and its child as given. -/
def treed (x : Tree) (r c : Node) : State := setTree (wrNode (wrNode paged x 0 r) x 1 c) 0 0 (some x)
def theReq (op : TreeOp) : TreeReq := { o := itsOrigin paged, d := 3, cluster := 0, t := 0, asid := 0, op := op, begun := false }

theorem actsOn_iff {s : State} {r : TreeReq} {x : Tree} : ActsOn s r x ↔ treeAt s r.cluster r.t = some x ∧ x.world = r.o.world ∧
    treeBehind s r = false ∧ engLocked s x.world (treeTouches s x r.op) = false :=
  ⟨fun h => ⟨h.1, h.2, h.3, h.4⟩, fun h => ⟨h.1, h.2.1, h.2.2.1, h.2.2.2⟩⟩

/-- A machine whose thread may ask for an expansion that traps when the pool is exhausted. -/
def trapping (x : Tree) : State :=
  let s := treed x rootNode childNode
  setTh s (wrS (wrS { s.th with actl := 1 } 4 1) 6 1)

/-- Hypotheses of `Obligations.TreesAreBoundAndAsked`. -/
theorem witness_TreeInstructionsAskTheEngine : Running m0 ∧ (coreOf m0 0).outst < 256 ∧ fenced m0 m0.th 8 = false ∧ Ready m0 [.s 3, .s 4, .s 5, .s 6] ∧ InWindow m0 [9] ∧
    Ready m0 [.v (spec m0.th 9), .s 4] ∧ m0.th.actl.getLsbD 0 = false ∧
    (let s := trapping theTree
     Running s ∧ Ready s [.s 3, .s 4, .s 5, .s 6] ∧ fenced s s.th 8 = false ∧ s.th.actl.getLsbD 0 = true ∧ treeAt s 0 0 = some theTree ∧
     (rdS s.th 4).toNat < theTree.cap * theTree.bs ∧ field (rdS s.th 6) 0 9 = 1 ∧ (rdNode s theTree 1).flags % 4 = 0 ∧
     theTree.cap + theTree.nfree.toNat - theTree.bump.toNat - theTree.reserved = 2 ∧ s.pending = [] ∧ outstanding s (senderOf s s.th) 7 = [] ∧ s.locks = []) ∧
    (let x := { theTree with bump := 4 }
     treeAt (trapping x) 0 0 = some x ∧ x.cap + x.nfree.toNat - x.bump.toNat - x.reserved = 0 ∧ (rdNode (trapping x) x 1).flags % 4 = 0) ∧
    (let s := { trapping theTree with pending := [.treeAction (theReq .unbind)] }
     s.pending = [.treeAction (theReq .unbind)] ∧ (theReq .unbind).cluster = 0 ∧ (theReq .unbind).t = 0 ∧ (theReq .unbind).o.by' = s.th.handle) := by
  simp only [running_iff, ready_iff, inWindow_iff]
  decide +kernel

/-- The statuses that an expansion is told at once. Hypotheses of `Obligations.TreesAreBoundAndAsked`. -/
theorem witness_ExpansionsAreTold : treeAt m0 0 0 = none ∧ (let x := { theTree with world := 9 }; treeAt (trapping x) 0 0 = some x ∧ x.world ≠ (trapping x).th.world) ∧
    (let s := trapping theTree
     let leaf (v : Word) := setTh s (wrS s.th 4 v)
     let count (v : Word) := setTh s (wrS s.th 6 v)
     theTree.cap * theTree.bs ≤ (rdS (leaf 9).th 4).toNat ∧ treeAt (leaf 9) 0 0 = some theTree ∧ theTree.bs < field (rdS (count 2).th 6) 0 9 ∧
     (rdNode (leaf 0) theTree 0).flags % 4 ≠ 0 ∧ (rdS (leaf 0).th 4).toNat = 0 ∧ field (rdS (count 0).th 6) 0 9 = 0) ∧
    (let s := { trapping theTree with locks := [{ oneLock with lo := 0x500000, hi := 0x500100 }] }
     treeAt s 0 0 = some theTree ∧ engLocked s theTree.world [(theTree.base.toNat + 32, 32)] = true) := by decide +kernel

/-- The descriptor of the tree in memory, marked as bound or not. -/
def described (mark : Byte) : State := engWrite paged 0 0x508000 (leBytes 8 0x500000 ++ leBytes 4 4 ++ leBytes 2 1 ++ [1, 0] ++ leBytes 4 0x3F800000 ++
  leBytes 4 0x3F800000 ++ leBytes 4 0 ++ leBytes 4 0 ++ leBytes 4 2 ++ leBytes 4 0xFFFFFFFF ++ leBytes 4 0xFFFFFFFF ++ leBytes 4 0 ++ leBytes 4 0 ++ leBytes 2 0 ++ [mark])

/-- Hypotheses of `Obligations.TreesAreBoundAndAsked`. -/
theorem witness_TreesAreBoundAndRead : treeBehind paged (theReq .unbind) = false ∧ treeBehind paged (theReq (.told 5)) = false ∧ treeAt paged 0 0 = none ∧
    (let s := treed { theTree with world := 9 } rootNode childNode; treeAt s 0 0 = some { theTree with world := 9 } ∧ (9 : World) ≠ (theReq .unbind).o.world) ∧
    treeBehind { paged with pending := [.treeAction { theReq .unbind with o := { itsOrigin paged with n := 0 } }] } { theReq .unbind with o := { itsOrigin paged with n := 1 } } = true ∧
    (∀ init ∈ [true, false], engLocked (described 0) 0 (bindTouches (described 0) (theReq (.bind 0x508000 init)) 0x508000 init) = false) ∧
    engLocked paged 0 (bindTouches paged (theReq (.bind 0x508000 true)) 0x508000 true) = false ∧ engOk (described 0) 0 [.r, .w] 0x508000 64 = true ∧
    engOk (described 0) 0 [.r, .w] 0x518000 64 = false ∧ ofLe (slice (engRead (described 1) 0 0x508000 64).2 54 1) % 2 = 1 ∧
    (let b := (engRead (described 0) 0 0x508000 64).2
     goodDescriptor b ∧ engOk (described 0) 0 [.r, .w] (ofLe (slice b 0 8)) (32 * (ofLe (slice b 8 4) * ofLe (slice b 12 2))) = true ∧
     ofLe (slice b 12 2) = 1 ∧ ofLe (slice b 54 1) % 2 = 0) ∧ ¬ goodDescriptor (engRead paged 0 0x508000 64).2 ∧
    (let s := treed theTree rootNode childNode
     (∀ op ∈ [TreeOp.unbind, .read 1 9, .read 4 9, .stat 5], ActsOn s (theReq op) theTree) ∧ (theReq .unbind).o.dev = s.dev) := by
  simp only [goodDescriptor, actsOn_iff]
  decide +kernel

/-- Hypotheses of `Obligations.TreesAreSearchedAndGrow`. -/
theorem witness_DescentsChooseTheBestChild :
    (∀ r ∈ [rootNode, { rootNode with flags := 10 }, { rootNode with count := 0 }, { rootNode with flags := 12 }, { rootNode with flags := 8 }, { rootNode with first := 9 }],
      ActsOn (treed theTree r childNode) (theReq (.desc none)) theTree) ∧
    (rdNode (treed theTree rootNode childNode) theTree 0) = rootNode ∧ rootNode.flags / 2 % 2 = 0 ∧ rootNode.flags % 2 = 1 ∧ 0 < rootNode.count ∧
    rootNode.first + rootNode.count ≤ theTree.cap * theTree.bs ∧ theTree.cap * theTree.bs < 9 + rootNode.count ∧
    (let x := { theTree with root := 4 }; ActsOn (treed x rootNode childNode) (theReq (.desc none)) x ∧ x.cap * x.bs ≤ 4) := by
  simp only [actsOn_iff]
  decide +kernel

/-- The operations on the tree, each of which may act. Hypotheses of `Obligations.TreesAreSearchedAndGrow`. -/
theorem witness_TreesGrowAndShrink :
    (let s := treed theTree rootNode childNode
     (∀ op ∈ [TreeOp.expand 1 0x508000 1 false, .expand 1 0x508000 0 false, .expand 0 0x508000 1 false, .expand 1 0x508000 2 false, .expand 9 0x508000 1 false, .expand 1 0x508004 1 false,
        .back 1 0x3F800000 true 0 0, .back 0 0x3F800000 true 0 0, .back 9 0 true 0 0, .back 0xFFFFFFFF 0 true 0 0, .back 1 0 true 65536 0, .reroot 1, .reroot 9, .reroot 2, .free 2 0, .free 0 0], ActsOn s (theReq op) theTree) ∧
     (rdNode s theTree 1).flags % 4 = 0 ∧ (rdNode s theTree 0).flags % 4 ≠ 0 ∧ theTree.cap + theTree.nfree.toNat - theTree.bump.toNat - theTree.reserved ≠ 0 ∧
     engOk s 0 [.r] 0x508000 8 = true ∧ theTree.nfree = 0 ∧ (rdNode s theTree 0).parent = 0xFFFFFFFF ∧ (rdNode s theTree 1).parent ≠ 0xFFFFFFFF ∧
     (rdNode s theTree 0).vl = 0 ∧ (rdNode s theTree 1).parent = theTree.root.toNat ∧ (rdNode s theTree 2).parent = 0 ∧ (rdNode s theTree 0).count = 1 ∧ (rdNode s theTree 0).first = 1 ∧
     theTree.lazy.toNat = 0xFFFFFFFF) ∧
    (let x := { theTree with bump := 4 }; ActsOn (treed x rootNode childNode) (theReq (.expand 1 0x508000 1 false)) x ∧ x.cap + x.nfree.toNat - x.bump.toNat - x.reserved = 0) ∧
    (let x := { theTree with free := 2, nfree := 1, bump := 3 }; ActsOn (treed x rootNode childNode) (theReq (.expand 1 0x508000 1 false)) x ∧ x.nfree ≠ 0 ∧ x.free.toNat < x.cap) ∧
    (let r := { rootNode with vl := 1 }; ActsOn (treed theTree r childNode) (theReq (.reroot 1)) theTree ∧ (rdNode (treed theTree r childNode) theTree 0).vl ≠ 0) ∧
    (let x := { theTree with lazy := 1, nlazy := 1 }
     ActsOn (treed x rootNode childNode) (theReq (.free 2 0)) x ∧ x.lazy.toNat < x.cap ∧ x.bs = 1 ∧ x.cap ≤ 2 ^ 24) ∧
    (let x := { theTree with lazy := 4, nlazy := 1 }; ActsOn (treed x rootNode childNode) (theReq (.free 2 0)) x ∧ x.cap ≤ x.lazy.toNat) := by
  simp only [actsOn_iff]
  decide +kernel

/-- Hypotheses of `Obligations.TreesAreSearchedAndGrow`: a root with a second child that has children of its own, a root whose children lie past the pool, and a
block to be reclaimed whose node has children. -/
theorem witness_SiblingsAndTheirChildren :
    (let c : Node := { childNode with flags := 1, count := 1, first := 3 }
     let s := setTree (wrNode (wrNode paged theTree 0 { rootNode with count := 2 }) theTree 2 c) 0 0 (some theTree)
     ActsOn s (theReq (.reroot 1)) theTree ∧ rdNode s theTree 0 = { rootNode with count := 2 } ∧ (rdNode s theTree 1).parent = theTree.root.toNat ∧
     rdNode s theTree 2 = c ∧ 2 < theTree.cap * theTree.bs) ∧
    (let s := treed theTree { rootNode with count := 9 } childNode
     ActsOn s (theReq (.reroot 1)) theTree ∧ (rdNode s theTree 0).count = 9 ∧ theTree.cap * theTree.bs < 1 + 9) ∧
    (let x := { theTree with lazy := 1, nlazy := 1 }
     ∀ n ∈ [3, 9], ActsOn (treed x rootNode { childNode with flags := 1, count := 1, first := n }) (theReq (.free 2 0)) x ∧
       (rdNode (treed x rootNode { childNode with flags := 1, count := 1, first := n }) x 1).first = n) := by
  simp only [actsOn_iff]
  decide +kernel

/-! ### The bond engine -/

/-- A mesh of two devices, of which this is the first. -/
def theMesh : Mesh := { sizes := [2], coords := [0], map := [5, 6] }
/-- A tensor of 64 elements in FP32, sharded along its one axis, its buffers in the page at 0x500000. -/
def theBond : BondEntry :=
  { base := 0x500000, scr := 0x500100, tag := 7, seq := 0, dims := [64, 1, 1, 1], ndim := 1, fmt := 0x01, busy := false, failed := false, announced := false
    reason := 0, world := 0, asid := 0, fco := 0, state := 1 }
/-- A machine with that mesh and that tensor as entry 4. -/
def bonded (f : BondEntry → BondEntry) : State := { paged with meshes := [(0, some theMesh)], bonds := [(4, some (f theBond))] }
/-- The announcement of a member, and the wait of this device for its group. -/
def announcing (src : Nat) (key : BondKey) : Announcement :=
  { key := key, src := src, world := 0, fmt := 0x01, ndim := 1, dims := [64, 1, 1, 1], cur := 1, want := 0, extra := 0, status := 0 }
def waitOf (src : Nat) (key : BondKey) : BondWait :=
  { ann := announcing src key, group := [0, 1], asid := 0, die := 0, entry := 4, dstEntry := none, waiters := [(0, 3, 0x400000)], dests := [], drained := [], decision := none, mine := none, result := none, leaving := false }

theorem valid_states : ValidState theMesh theBond 0 ∧ ValidState theMesh theBond 1 ∧ ¬ ValidState theMesh theBond 3 := by
  refine ⟨⟨?_, by decide +kernel, by decide +kernel⟩, ⟨?_, by decide +kernel, by decide +kernel⟩, fun h => ?_⟩
  · intro i hi; interval_cases i <;> decide +kernel
  · intro i hi; interval_cases i <;> decide +kernel
  · exact absurd (h.1 0 (by decide)).1 (by decide)

/-- A descriptor of that tensor at 0x508000. -/
def bondDescribed (fmt : Byte) : State :=
  engWrite { bonded id with bonds := [] } 0 0x508000 (leBytes 8 0x500000 ++ leBytes 8 0x500100 ++ leBytes 4 7 ++ leBytes 4 64 ++ leBytes 4 1 ++ leBytes 4 1 ++ leBytes 4 1 ++ [1, fmt] ++ leBytes 2 0 ++ leBytes 4 1)

/-- Hypotheses of `Obligations.BondsAreKeptAndAgreed`. -/
theorem witness_BondEntriesAreKept : Running m0 ∧ (coreOf m0 0).outst < 256 ∧ fenced m0 m0.th 8 = false ∧ Ready m0 [.s 3, .s 4, .s 5] ∧ { m0 with phase := 2 }.phase = 2 ∧ (bonded id).phase ≠ 2 ∧
    bondAt (bonded id) 5 = none ∧ bondAt (bonded id) 4 = some theBond ∧ theBond.world = (itsOrigin m0).world ∧ theBond.busy = false ∧
    bondAt (bonded (fun b => { b with busy := true })) 4 = some { theBond with busy := true } ∧ bondAt (bonded (fun b => { b with world := 9 })) 4 = some { theBond with world := 9 } ∧
    meshOf m0 0 = none ∧ meshOf (bonded id) 0 = some theMesh ∧ (bonded id).bondWaits = [] ∧
    (let w := { waitOf 1 (.tensor 0 7 0) with entry := 4 }
     let s := { bonded id with bondWaits := [w] }
     s.bondWaits = [w] ∧ w.decision = none ∧ { w with entry := 5, dstEntry := some 4 }.dstEntry = some 4 ∧ w.leaving = false ∧ coordinator w.group ≠ w.ann.src ∧ s.announced = [] ∧
     coordinator (waitOf 0 (.tensor 0 7 0)).group = (waitOf 0 (.tensor 0 7 0)).ann.src) ∧
    theMesh.coords.length = theMesh.sizes.length ∧ theMesh.sizes.length ≤ 4 ∧ (∀ i, i < theMesh.sizes.length → theMesh.coords.getD i 0 < theMesh.sizes.getD i 0 ∧ theMesh.sizes.getD i 0 ≤ 256) ∧
    linearOf theMesh.sizes theMesh.coords < 4096 ∧
    (let b := (engRead (bondDescribed 1) 0 0x508000 64).2
     let f (off n : Nat) := ofLe (slice b off n)
     engOk (bondDescribed 1) 0 [.r] 0x508000 64 = true ∧ f 38 2 = 0 ∧ f 44 20 = 0 ∧ f 36 1 = 1 ∧ f 37 1 = 1 ∧ f 20 4 = 64 ∧ f 40 4 = 1 ∧ bondBytes theBond = 256 ∧
     engOk (bondDescribed 1) 0 [.r, .w] 0x500000 256 = true ∧ engOk (bondDescribed 1) 0 [.r, .w] 0x500100 256 = true ∧ bondAt (bondDescribed 1) 4 = none ∧
     meshOf (bondDescribed 1) 0 = some theMesh ∧ engLocked (bondDescribed 1) 0 [(0x508000, 64)] = false ∧
     engLocked { bondDescribed 1 with locks := [{ oneLock with lo := 0x508000, hi := 0x508040 }] } 0 [(0x508000, 64)] = true ∧ fmtOf 0xFF = none ∧ engOk (bondDescribed 1) 0 [.r] 0x518000 64 = false) := by
  simp only [running_iff, ready_iff]
  decide +kernel

/-- Hypotheses of `Obligations.BondsAreKeptAndAgreed`. -/
theorem witness_GroupsAgreeOrFault :
    (∀ own ∈ [announcing 0 (.tensor 0 7 0), announcing 0 (.sync 0 1 0)],
      let s := { bonded id with announced := [own] }
      let n := { own with src := 1 }
      s.phase = 3 ∧ meshOf s n.world = some theMesh ∧ coordinator (groupOf theMesh n) = ownCoord theMesh ∧ s.announced = [own] ∧ own.src = ownCoord theMesh ∧ n.src ≠ own.src ∧
      groupOf theMesh own = [own.src, n.src] ∧ own.world = n.world ∧ own.status = 0) ∧
    (let m := { theMesh with coords := [1] }; coordinator (groupOf m (announcing 1 (.tensor 0 7 0))) ≠ ownCoord m) ∧
    (let s := { bonded id with announced := [announcing 1 (.tensor 0 7 0)], bondWaits := [waitOf 0 (.tensor 0 7 0)] }
     (∃ a ∈ s.announced, a.key = (announcing 1 (.tensor 0 7 0)).key ∧ a.src = 1 ∧ a.world = 0) ∧ (1 : Nat) ≠ ownCoord theMesh ∧ (0 : Nat) = ownCoord theMesh ∧
     s.bondWaits = [waitOf 0 (.tensor 0 7 0)] ∧ (waitOf 0 (.tensor 0 7 0)).decision = none ∧ bondAt s 4 = some theBond) ∧
    (∀ k ∈ [BondKey.tensor 0 7 0, .sync 0 1 0],
      let s := { bonded id with bondWaits := [waitOf 0 k] }
      s.bondWaits.find? (fun w => w.ann.key = k && w.decision.isNone) = some (waitOf 0 k) ∧ (findThread s 0).map (·.status) = some .ready ∧ (waitOf 0 k).dstEntry = none ∧
      (waitOf 0 k).waiters ≠ [] ∧ ∀ v ∈ s.bondWaits, v.ann = (waitOf 0 k).ann → v = waitOf 0 k) := by decide +kernel

/-- A member that does not answer. Hypotheses of `Obligations.BondsAreKeptAndAgreed`. -/
theorem witness_UnreachableMember :
    (let own := announcing 0 (.tensor 0 7 0)
     let c : Conn := { dst := 6, cls := 14, mode := .rud, csn := 1, msg := 1, broken := none, open' := [(0, 0, .bond (.announce own))], jobs := [], late := [] }
     let s := { bonded id with announced := [own], conns := [c] }
     meshOf s own.world = some theMesh ∧ s.announced = [own] ∧ own.src = ownCoord theMesh ∧ groupOf theMesh own = [own.src, 1] ∧
     deviceAt theMesh own.src ≠ deviceAt theMesh 1 ∧ streamStopped s (deviceAt theMesh 1) 14 = false ∧ (connOf s (deviceAt theMesh 1) 14 .rud).open' ≠ []) ∧
    (let w := waitOf 1 (.tensor 0 7 0)
     let m := { theMesh with coords := [1], map := [6, 5] }
     let c : Conn := { dst := 6, cls := 14, mode := .rud, csn := 1, msg := 1, broken := none, open' := [(0, 0, .bond (.announce w.ann))], jobs := [], late := [] }
     let s := { bonded id with meshes := [(0, some m)], bondWaits := [w], conns := [c] }
     w ∈ s.bondWaits ∧ w.decision = none ∧ meshOf s w.ann.world = some m ∧ coordinator w.group ≠ w.ann.src ∧ deviceAt m (coordinator w.group) = 6 ∧
     streamStopped s 6 14 = false ∧ (connOf s 6 14 .rud).open' ≠ []) ∧
    (bits (announcing 0 (.tensor 0 7 0)).extra 32 32 ≠ bits ({ announcing 1 (.tensor 0 7 0) with extra := 0x500000000 } : Announcement).extra 32 32) := by
  decide +kernel

theorem stands {s : State} {p : BondWait → Bool} {w : BondWait} (h : s.bondWaits = [w]) (hp : p w = true)
    (hw : w.waiters = [(s.th.handle, 3, s.th.pc)]) : StandsOn s p w := by
  rw [StandsOn, h, List.find?_cons_of_pos]
  simp [hp, hw]

/-- The thread in focus asks for entry 4 with a state in `S5`, the destination entry in `S6`. -/
def demanding (f : BondEntry → BondEntry) (want : Word) : State := setTh (bonded f) (wrS (wrS (wrS (bonded f).th 4 4) 5 want) 6 4)

/-- Hypotheses of `Obligations.BondDemandsAndConversions`. -/
theorem witness_DemandsWaitForTheirGroup :
    (let s := demanding id 0
     Running s ∧ Ready s [.s 3, .s 4, .s 5, .s 6] ∧ (coreOf s 0).outst < 256 ∧ fenced s s.th 8 = false ∧ outstanding s (senderOf s s.th) 7 = [] ∧ NewDemand s ∧ s.phase ≠ 2 ∧
     bondAt s ((rdS s.th 4).truncate 12) = some theBond ∧ theBond.busy = false ∧ theBond.world = s.th.world ∧ meshOf s s.th.world = some theMesh ∧
     theBond.state ≠ (rdS s.th 5).truncate 32 ∧ theMesh.sizes.length ≤ 4 ∧ (rdS s.th 6).truncate 12 = (rdS s.th 4).truncate 12) ∧
    NewDemand { m0 with phase := 2 } ∧ (bondAt m0 4 = none ∧ meshOf m0 m0.th.world = none ∧
    (demanding id 1).th.s[5].truncate 32 = theBond.state ∧ bondAt (demanding (fun b => { b with busy := true }) 0) 4 = some { theBond with busy := true } ∧
    bondAt (demanding (fun b => { b with failed := true }) 0) 4 = some { theBond with failed := true } ∧ bondAt (demanding (fun b => { b with world := 9 }) 0) 4 = some { theBond with world := 9 } ∧
    (let s := { demanding (fun b => { b with world := 9 }) 0 with meshes := [(9, some theMesh)] }; meshOf s 9 = some theMesh ∧
      1 < (groupOf theMesh { announcing 0 (.tensor 9 7 0) with world := 9 }).length)) ∧
    (∃ i, theMesh.sizes.length ≤ i ∧ i < 4 ∧ (2 : BitVec 4).getLsbD i = true) ∧ (∀ i, theMesh.sizes.length ≤ i → i < 4 → (1 : BitVec 4).getLsbD i = false) ∧
    (∀ d ∈ [none, some none, some (some (5, 1))], let w := { waitOf 0 (.tensor 0 7 0) with waiters := [(m0.th.handle, 3, m0.th.pc)], decision := d }
      StandsOn { demanding id 0 with bondWaits := [w] } (fun w => w.entry = 4 && w.dstEntry = none && w.ann.want = 0) w ∧
      StandsOn { demanding id 0 with bondWaits := [{ w with dstEntry := some 4 }] } (fun w => w.entry = 4 && w.dstEntry = some 4 && w.ann.want = 0) { w with dstEntry := some 4 }) ∧
    (∀ d ∈ [none, some none, some (some (5, 1))], let w := { waitOf 0 (.sync 0 1 0) with waiters := [(m0.th.handle, 3, m0.th.pc)], decision := d }
      StandsOn { demanding id 0 with bondWaits := [w] } (waitsSync 0 1) w) := by
  refine ⟨?_, fun w hw => (nomatch hw), ?_, ?_, ?_, ?_, ?_⟩
  · simp only [running_iff, ready_iff, NewDemand]; decide +kernel
  · decide +kernel
  · exact ⟨1, by decide⟩
  · intro i h1 h4
    have h : 1 ≤ i := h1
    interval_cases i <;> decide
  · exact fun _ _ => ⟨stands rfl rfl rfl, stands rfl rfl rfl⟩
  · exact fun _ _ => stands rfl rfl rfl

/-- Hypotheses of `Obligations.BondDemandsAndConversions`. -/
theorem witness_ConversionsMapElements :
    (∀ e ∈ [none, some (6 : BitVec 12)],
      let w := { waitOf 0 (.tensor 0 7 0) with decision := some none, mine := some (List.replicate 128 1), dstEntry := e }
      let s := { bonded id with bonds := [(4, some theBond), (6, some { theBond with base := 0x500200, scr := 0x500300 })], bondWaits := [w] }
      s.bondWaits.find? (fun w => w.ann.key = .tensor 0 7 0 && w.decision = some none && w.result.isNone) = some w ∧ bondAt s w.entry = some theBond ∧
      meshOf s w.ann.world = some theMesh ∧ (bondAt s 6).isSome = true ∧ (6 : BitVec 12) ≠ w.entry ∧
      ∀ i ∈ w.group, ∃ e ∈ (w.ann.src, List.replicate 128 (1 : Byte)) :: [(1, List.replicate 128 (2 : Byte))].filter (fun e => e.1 ≠ w.ann.src), e.1 = i) ∧
    (let w := { waitOf 0 (.tensor 0 7 0) with decision := some none }
     let s := { bonded id with bondWaits := [w] }
     s.bondWaits = [w] ∧ w.mine = none ∧ bondAt s w.entry = some theBond ∧ meshOf s theBond.world = some theMesh ∧ s.locks = [] ∧ s.pending = [] ∧ s.cmds = [] ∧ s.copies = [] ∧ s.heldBack = []) ∧
    (let m := { theMesh with sizes := [2, 2], coords := [1, 0] }; m.sizes = [2, 2] ∧ m.coords = [1, 0] ∧ 4 ∣ 64 ∧ ({ theBond with state := 0x0101 } : BondEntry).state = 0x0101) ∧
    theMesh.sizes = [2] ∧ theMesh.coords = [0] ∧ theBond.dims = [BitVec.ofNat 32 64, 1, 1, 1] ∧ 2 ∣ 64 ∧
    theBond.state = 1 := by decide +kernel

/-! ### The network engine -/

def theMod : NetMod := { cc := 0, ob := false, e := 0, seg := 0, dm := .rud }

/-- Hypotheses of `Obligations.NetworkCommandsAndWindows`. -/
theorem witness_NetworkCommandsAreAccepted :
    (let s := { on (fun t => wrS (wrS (wrS t 4 0x0060010000000000) 5 0x500000) 6 256) with peers := [] }
     Running s ∧ Ready s [.s 3, .s 4, .s 5, .s 6, .s 7] ∧ outstanding64 s.th < 64 ∧ (ringAt s.th s.th.dseqNext).state = 0 ∧ (tagsUsed s 6 0).length < 4096 ∧ fenced s s.th 8 = false ∧
     s.phase ≠ 2 ∧ bits (rdS s.th 4) 36 16 ≠ 0 ∧ (bits (rdS s.th 4) 0 36).toNat + 256 ≤ 2 ^ 36 ∧ bits (rdS s.th 4) 52 12 = 6 ∧ laMalformed (rdS s.th 5) = false ∧ laSpace (rdS s.th 5) = 0 ∧
     laCrosses (rdS s.th 5) 256 false = false ∧ (bits (rdS s.th 4) 0 36).toNat % 8 = 0) ∧
    (let s := withS 4 0x0060000000000000; bits (rdS s.th 4) 36 16 = 0) ∧
    (let tgt := regLa 6 0 (.s 9)
     let s := { withS 4 tgt with peers := [(6, some { lomkin := true, netCc := false, rxCc := false })] }
     rdS s.th 4 = tgt ∧ laMalformed tgt = false ∧ laSpace tgt ≠ 0 ∧ laDev tgt ≠ s.dev ∧ laCrosses tgt (putPayload tgt 0).length false = false ∧ laUnreachable s tgt = false) ∧
    netOpen m0 m0.th = false ∧ outstanding m0 (senderOf m0 m0.th) 0xF = [] ∧ (let s := fencing 0xF; netOpen s s.th = false ∧ outstanding s (senderOf s s.th) 0xF ≠ []) ∧ netOpen { m0 with cmds := [{ cmd .e0 0x20 [] .running with net := some default }] } m0.th = true := by
  simp only [running_iff, ready_iff]
  decide +kernel

/-- A window of memory at 0x500000, and a buffer there. -/
def aWindow : Window :=
  { kind := .memory, world := 0, asid := 0, perm := 7, base := 0x500000, len := 4096, prod := 0, cons := 0, inflight := 0, recs := [], takers := [], revoker := none }
def aBuffer (l : List BufRec) : Window := { aWindow with kind := .buffer, recs := l }
def aRecord (taken pad : Bool) (placed : Nat) : BufRec := { start := 0, size := 32, len := 16, pad := pad, src := 6, cls := 0, mode := .rud, msg := 0, placed := placed, taken := taken }
/-- The machine with that window as number 1. -/
def windowed (x : Window) : State := { paged with windows := [(1, some x)], jobs := [(7, some 0)] }
/-- A network command of the thread, of `n` packets, the last of 64 bytes, to device 6. -/
def netCmd (st : CmdState) (kind : BitVec 8) (n sent : Nat) : Command :=
  { cmd .e0 kind [] st with net := some { dst := 6, cls := 0, mode := .rud, tag := 3, gen := 0, msg := 0, csn := 0, ob := false, e := 0, seg := 1024, land := false, target := 0x0060010000000000, place := 0x500000,
                                           len := 1024 * (n - 1) + 64, op := .swap, dbl := false, b := 0, c := 0, reply := none, packets := n, sent := sent, got := [], heard := [], status := 0, d := 0 } }

/-- Hypotheses of `Obligations.NetworkCommandsAndWindows`. -/
theorem witness_WindowsOpenAndClose : Running m0 ∧ (coreOf m0 0).outst < 256 ∧ Ready m0 [.s 3, .s 4, .s 5] ∧ fenced m0 m0.th 8 = false ∧ { m0 with phase := 2 }.phase = 2 ∧ paged.phase ≠ 2 ∧
    windowAt paged 1 = none ∧ windowAt (windowed aWindow) 1 = some aWindow ∧ (∀ v : BitVec 16, v ≠ 0 → v < 1 → windowAt paged v ≠ none) ∧
    engOk paged 0 (permAccs 7) 0x500000 4096 = true ∧ (0x500000 : Word).toNat % 4096 = 0 ∧ engOk paged 0 [.r, .w] 0x500000 4096 = true ∧
    (windowAt (windowed { aWindow with world := 9 }) 1).map (·.world) = some 9 ∧ (windowAt (windowed { aWindow with kind := .revoking, revoker := some (itsOrigin m0, 3) }) 1).map (·.kind) = some .revoking ∧
    (∀ r ∈ [aRecord false false 16, aRecord false false 8], (windowAt (windowed (aBuffer [r])) 1) = some (aBuffer [r]) ∧ (aBuffer [r]).recs.find? (fun r => !r.pad && !r.taken) = some r) ∧
    (aBuffer [aRecord false true 0, aRecord true false 16]).recs = [aRecord false true 0, aRecord true false 16] ∧
    (let p : Path := { dst := 6, cls := 0, entropy := 0, sent := 2, acked := 1 }
     { m0 with paths := [p] }.paths = [p] ∧ p.dst = bits (6 : Word) 0 12 ∧ p.cls = bits (6 : Word) 12 4 ∧ p.entropy = bits (6 : Word) 16 8) ∧
    findCmd { m0 with cmds := [netCmd .parked 0x20 1 0] } 0 0x8005 = some (netCmd .parked 0x20 1 0) ∧ findCmd m0 0 0x8005 = none := by
  refine ⟨⟨by decide, by decide⟩, by decide, ready_iff.mpr (by decide), by decide, by decide +kernel, by decide +kernel, by decide +kernel, by decide +kernel, ?_, by decide +kernel⟩
  intro v h0 h1
  exact absurd h1 (by bv_omega)

/-- An answer to the packet of that command. -/
def theAnswer : NetPacket := { (default : NetPacket) with src := 5, dst := 6, cls := 0, mode := .rud, kind := .write, csn := 0, off := 0, tag := 3, gen := 0, by' := 0, seq := 0x8005 }

/-- Hypotheses of `Obligations.NetworkPackets`. -/
theorem witness_PacketsAreSentAndAnswered :
    (∀ kind ∈ [0x20, 0x21, (0x23 : BitVec 8)], let s := { paged with cmds := [netCmd .running kind 1 0] }
      findCmd s 0 0x8005 = some (netCmd .running kind 1 0) ∧ cmdFree s (netCmd .running kind 1 0) = true ∧ (netCmd .running kind 1 0).net.map (behindParked s (netCmd .running kind 1 0)) = some false ∧
      (connOf s 6 0 .rud).broken = none ∧ (netCmd .running kind 1 0).reads = none ∧ (netCmd .running kind 1 0).fin = none ∧
      ((netCmd .running kind 1 0).net.map (fun n => engineWaits s (netCmd .running kind 1 0) (localChunks (netCmd .running kind 1 0) n 0))) = some false ∧
      ((netCmd .running kind 1 0).net.map (fun n => engineBad s (netCmd .running kind 1 0) (localChunks (netCmd .running kind 1 0) n 0))) = some none ∧
      ((netCmd .running kind 1 0).net.map (fun n => lockedForEngine s 0 (.cmd 0 0x8005) (localChunks (netCmd .running kind 1 0) n 0))) = some false ∧ (linkStep s 6 0).isSome = true) ∧
    linkStep { paged with portsDown := BitVec.allOnes 16 } 6 0 = none ∧ linkUp m0 1 = true ∧
    answeredCmd m0 theAnswer 6 = none ∧ (answeredCmd { m0 with cmds := [netCmd .running 0x20 1 1] } theAnswer 6).map (·.1) = some (netCmd .running 0x20 1 1) ∧
    (answeredCmd { m0 with cmds := [netCmd .running 0x20 2 2] } theAnswer 6).map (·.2.packets) = some 2 ∧
    (answeredCmd { m0 with cmds := [netCmd .running 0x21 1 1] } { theAnswer with src := 6, kind := .readReply } 6).map (·.1.kind) = some 0x21 ∧
    theAnswer.src = m0.dev ∧ streamStopped m0 6 0 = false ∧ (netCmd .parked 0x20 1 1).state = .parked ∧ (theAnswer.cls ≠ 14 ∧ theAnswer.cls ≠ 15) ∧ { theAnswer with cls := 15 }.cls = 15 ∧
    (connOf m0 6 0 .rud).open' = [] ∧ (linkStep paged 6 14).isSome = true ∧ lomkin paged 6 = false ∧
    lomkin { paged with peers := [(6, some { lomkin := true, netCc := false, rxCc := false })] } 6 = true ∧ linkStep { paged with portsDown := BitVec.allOnes 16 } 6 14 = none ∧
    (let q := { theAnswer with src := 6, csn := 1 }
     let s := { paged with rxHeld := [q] }
     { theAnswer with src := 6 }.src ≠ s.dev ∧ (rxOf s { theAnswer with src := 6 }).broken = none ∧ q ∈ s.rxHeld ∧ sameConn { theAnswer with src := 6 } q = true) := by
  decide +kernel

/-- Hypotheses of `Obligations.NetworkPackets`, of the answers to a read: its acknowledgement, first and again, and its reply under a key that is accepted. -/
theorem witness_AnswersAreHeardOnce :
    (let c (heard got : List Nat) := { netCmd .running 0x21 1 1 with net := (netCmd .running 0x21 1 1).net.map (fun n => { n with heard := heard, got := got }) }
     (∀ l ∈ [([], []), ([0], []), ([0], [(0 : Nat)])], (answeredCmd { m0 with cmds := [c l.1 l.2] } theAnswer 6).map (fun e => (e.2.heard, e.2.got)) = some l) ∧
     (c [] []).kind = 0x21 ∧ (c [] []).state = .running) ∧ theAnswer.off = 0 ∧
    (let p := { theAnswer with src := 6, kind := .readReply }; keyOk m0 p = true ∧ noteKey m0 p = m0) := by decide +kernel

/-- Hypotheses of `Obligations.NetworkPackets`, while the source of a packet is read. -/
theorem witness_SourcesAreReadInPieces : { netCmd .running 0x20 1 0 with reads := some ([piece8], []) }.reads = some ([piece8], []) ∧ [piece8] ≠ [] ∧
    { netCmd .running 0x20 1 0 with reads := some ([], [1]) }.reads = some ([], [1]) := ⟨rfl, by decide, rfl⟩

/-- Hypotheses of `Obligations.NetworkPackets`, where the answer of a read meets its place: it may be written, its page is absent, and packets before it are
still to come. -/
theorem witness_AnswersOfReadsMeetTheirPlace :
    let c := netCmd .running 0x21 1 1
    let far (got : List Nat) : Command := { netCmd .running 0x21 2 2 with net := (netCmd .running 0x21 2 2).net.map (fun n => { n with place := 0x510000, got := got }) }
    let bad (c : Command) : Option (Option RunFault) := c.net.map (fun n => engineBad { paged with cmds := [c] } c (localChunks c n 1))
    (c.net.map (fun n => engineWaits { paged with cmds := [c] } c (localChunks c n 0)) = some false) ∧ Sys2Proof.Machine.gone paged c.handle = false ∧
    ((bad (far [])).bind id).isSome = true ∧ ((far []).net.map (·.got)) = some [] ∧ ((far [0]).net.map (·.got)) = some [0] ∧
    (netCmd .running 0x21 1 1).net.map (fun n => engineWaits { paged with cmds := [c], pending := (List.range 32).map (fun i => .tlbMissWalk 0 0 (word (0x700000 + 65536 * i))) } c (localChunks c n 0)) = some true := by decide +kernel

/-- A write of 8 bytes from device 6 into window 1. -/
def arriving (kind : NetKind) : NetPacket :=
  { (default : NetPacket) with src := 6, dst := 5, cls := 0, mode := .rud, kind := kind, csn := 0, off := 0, tag := 3, win := 1, winOff := 0, job := 7, secure := true, key := some 1, msgLen := 8, payload := List.replicate 8 1, b := 8 }

/-- Hypotheses of `Obligations.NetworkPackets`. -/
theorem witness_ArrivingPacketsArePlaced :
    (∀ kind ∈ [NetKind.write, .readRequest, .atomic, .message],
      let p := arriving kind
      let x := if kind = .message then aBuffer [] else aWindow
      let s := windowed x
      p.src ≠ s.dev ∧ p.mode ≠ .uud ∧ s.phase = 3 ∧ placedAlready (rxOf s p) p.csn = false ∧ s.rxHeld = [] ∧ s.rxLandings = [] ∧
      s.pending.all (fun e => match e with | .netPlace _ _ _ => false | _ => true) = true ∧ p.ob = false ∧ ordered p = false ∧ behindBroken (rxOf s p) p.csn = false ∧
      p.secure = true ∧ keyOk s p = true ∧ sget none s.jobs p.job.toNat = some 0 ∧ windowAt s p.win = some x ∧ x.world = 0 ∧ engLocked s x.world [(x.base.toNat, 8)] = false ∧ (rxOf s p).above.length < 2 ^ 30 ∧
      (linkStep s p.src p.cls).isSome = true ∧ s.locks = [] ∧ x.takers = []) ∧
    (lomkin { windowed aWindow with peers := [(6, some { lomkin := false, netCc := false, rxCc := false })] } 6 = false ∧ { arriving .write with ob := true }.ob = true) ∧
    ordered { arriving .write with ob := true } = true ∧ (rxOf (windowed aWindow) (arriving .write)).low ≠ { arriving .write with csn := 1 }.csn ∧
    placedAlready (rxOf { windowed aWindow with rxConns := [{ src := 6, cls := 0, mode := .rud, low := 1, above := [], broken := none, jobs := [] }] } (arriving .write)) 0 = true ∧
    behindBroken (rxOf { windowed aWindow with rxConns := [{ src := 6, cls := 0, mode := .rud, low := 0, above := [], broken := some 0, jobs := [] }] } (arriving .write)) 1 = true ∧
    (let p := { arriving .landing with win := 0, landing := some toS9 }
     windowAt (windowed aWindow) 0 = none ∧ p.landing = some toS9 ∧ laSpace toS9.la = 1 ∧ toS9.o.world = 0) ∧
    (let s := { windowed aWindow with rxHeld := [arriving .write] }
     s.rxHeld = [arriving .write] ∧ behindBroken (rxOf s (arriving .write)) 0 = false ∧ (rxOf s (arriving .write)).low = 0 ∧ (rxOf s { arriving .write with csn := 1 }).low ≠ 1 ∧
     engLocked { s with locks := [⟨0, 0, 0x500000, 0x500040, true, 0, .cmd 0 0, []⟩] } 0 [(0x500000, 8)] = true) ∧
    linkStep { windowed aWindow with portsDown := BitVec.allOnes 16 } 6 0 = none ∧
    (let x := aBuffer []
     let size := 16 + ((arriving .message).msgLen + 15) / 16 * 16
     size ≤ x.len ∧ size ≤ x.len - x.prod % x.len ∧ size ≤ x.len - (x.prod - x.cons)) ∧
    (let x := { aBuffer [] with len := 64, prod := 112, cons := 96 }
     32 ≤ x.len ∧ ¬ 32 ≤ x.len - x.prod % x.len ∧ x.len - x.prod % x.len + 32 ≤ x.len - (x.prod - x.cons)) := by decide +kernel

/-- Hypotheses of `Obligations.NetworkPackets`, of the keys under which packets are accepted, and of landings whose check code is right and is not. -/
theorem witness_PacketsMeetTheirKeys (y : SecAssoc) :
    let s := { windowed aWindow with secAssocs := [((Config.secAssoc 6 0).toNat, some y)] }
    let p := arriving .write
    sget none s.secAssocs (Config.secAssoc p.src p.cls).toNat = some y ∧ p.key ≠ none ∧ (y.rxNext = some 1 → p.key = y.rxNext ∧ keyOk s p = true) ∧
    (y.rxCur = none → y.rxNext = none → keyOk s p = false) ∧ crcOk toS9 = true ∧ crcOk { toS9 with crc := crcOf toS9.la toS9.lmask toS9.payload + 1 } = false := by
  have away : ((6 : BitVec 12) = (windowed aWindow).dev) = False := by decide
  refine ⟨by simp [sget, arriving], by decide, fun h => ⟨by rw [h]; rfl, ?_⟩, fun h k => ?_, crc_toS9, witness_CorruptLanding⟩ <;>
    simp_all [keyOk, sget, arriving]

/-! ### The invariant -/

/-- Hypotheses of `Obligations.EveryStepKeepsTheTablesCanonical`. -/
theorem witness_EveryStepKeepsTheTablesCanonical : Canonical m0 ∧ (match step m0 with | .next _ => true | _ => false) = true := by
  refine ⟨?_, by decide +kernel⟩
  unfold Canonical MemoriesCanonical UnitsCanonical
  decide +kernel

end Sys2Proof.Tests
end

namespace Sys2Proof.Machine

open Sys2Proof

set_option Elab.async false

/-! ### What canonical form asks for -/

variable {s t : State}

/-- The next state of an outcome, where it has one, is canonical. -/
def CanonicalOut : Out → Prop
  | .next t => Canonical t
  | _ => True

/-- The tables of an operand slot stand in canonical form. -/
def SlotWf (x : OpSlot) : Prop := swf (0 : Byte) x.data = true ∧ swf (0 : Byte) x.scale = true ∧ swf (0 : Byte) x.book = true

/-- The elements of a tile stand in canonical form. -/
def TileWf (x : Tile) : Prop := swf (0 : BitVec 32) x.elems = true

/-- The tables of every listed slot and tile of a unit do. -/
def UnitWf (k : UnitState) : Prop := (∀ x ∈ k.slots, SlotWf x.2) ∧ ∀ x ∈ k.tiles, TileWf x.2

theorem canonical_iff : Canonical s ↔ MemoriesCanonical s ∧ ∀ u ∈ s.units, UnitWf u.2 := Iff.rfl

theorem Canonical.units (h : Canonical s) : ∀ u ∈ s.units, UnitWf u.2 := h.2

/-- What leaves the memories and the units as they were keeps them canonical. -/
theorem Canonical.update (h : Canonical s) (hm : t.mem = s.mem := by rfl) (hg : t.gmem = s.gmem := by rfl)
    (hr : t.ringMem = s.ringMem := by rfl) (hx : t.msixMem = s.msixMem := by rfl) (hu : t.units = s.units := by rfl) :
    Canonical t := by
  unfold Canonical MemoriesCanonical UnitsCanonical
  rw [hm, hg, hr, hx, hu]
  exact h

/-- The memories and the listed units stand in canonical form: `Canonical`, of the five fields it speaks of. -/
def Tables (m g r x : Memory) (u : Sparse UnitState) : Prop :=
  (Memory.wf m = true ∧ Memory.wf g = true ∧ Memory.wf r = true ∧ Memory.wf x = true) ∧ ∀ k ∈ u, UnitWf k.2

theorem Canonical.tables (h : Canonical s) : Tables s.mem s.gmem s.ringMem s.msixMem s.units := h

theorem canonical_of_tables (h : Tables t.mem t.gmem t.ringMem t.msixMem t.units) : Canonical t := h

theorem canonical_ite {c : Prop} [Decidable c] (hs : Canonical s) (ht : Canonical t) : Canonical (if c then s else t) := by
  split
  · exact hs
  · exact ht

theorem canonicalOut_ite {c : Prop} [Decidable c] {o p : Out} (ho : CanonicalOut o) (hp : CanonicalOut p) :
    CanonicalOut (if c then o else p) := by
  split
  · exact ho
  · exact hp

theorem canonical_fst_ite {c : Prop} [Decidable c] {α : Type} {p q : State × α} (hp : Canonical p.1) (hq : Canonical q.1) :
    Canonical (if c then p else q).1 := by
  split
  · exact hp
  · exact hq

theorem foldl_canonical {α : Type} {f : State → α → State} {l : List α} (h : Canonical s) (hf : ∀ t x, Canonical t → Canonical (f t x)) :
    Canonical (l.foldl f s) := by
  induction l generalizing s with
  | nil => exact h
  | cons x r ih => exact ih (hf s x h)

theorem canonical_fst {α : Type} {p : State × α} {x : α} (e : p = (t, x)) (h : Canonical p.1) : Canonical t := by
  rw [e] at h
  exact h

theorem canonical_snd {α : Type} {p : α × State} {x : α} (e : p = (x, t)) (h : Canonical p.2) : Canonical t := by
  rw [e] at h
  exact h

theorem foldl_canonical_fst {α β : Type} {f : State × β → α → State × β} {l : List α} {p : State × β} (h : Canonical p.1)
    (hf : ∀ p x, Canonical p.1 → Canonical (f p x).1) : Canonical (l.foldl f p).1 := by
  induction l generalizing p with
  | nil => exact h
  | cons x r ih => exact ih (hf p x h)

/-! ### The writes -/

theorem canonical_setMem {m : Memory} (h : Canonical s) (hm : Memory.wf m = true) : Canonical { s with mem := m } := ⟨⟨hm, h.1.2⟩, h.2⟩

theorem canonical_setRing {m : Memory} {n : Word} (h : Canonical s) (hm : Memory.wf m = true) : Canonical { s with ringMem := m, mevHead := n } :=
  ⟨⟨h.1.1, h.1.2.1, hm, h.1.2.2.2⟩, h.2⟩

theorem canonical_setUnits {l : Sparse UnitState} (h : Canonical s) (hl : ∀ u ∈ l, UnitWf u.2) : Canonical { s with units := l } := ⟨h.1, hl⟩

theorem wrBytes_canonical {a b} (h : Canonical s) : Canonical (wrBytes s a b) := canonical_setMem h (wrMem_wf _ _ h.1.1)

theorem gWr_canonical {a n v} (h : Canonical s) : Canonical (gWr s a n v) := ⟨⟨h.1.1, wrMem_wf _ _ h.1.2.1, h.1.2.2⟩, h.2⟩

/-! ### The functions of Ops -/

theorem setCore_canonical {c k} (h : Canonical s) : Canonical (setCore s c k) := h.update

theorem setCluster_canonical {c k} (h : Canonical s) : Canonical (setCluster s c k) := h.update

theorem mem_sset {α : Type} [DecidableEq α] {d : α} {m : Sparse α} {k : Nat} {v : α} {e : Nat × α} (h : e ∈ sset d m k v) :
    e = (k, v) ∨ e ∈ m := by
  unfold sset at h
  split at h
  · exact .inr (mem_sdel h)
  · exact mem_sput h

theorem setUnit_canonical {u k} (h : Canonical s) (hk : UnitWf k) : Canonical (setUnit s u k) :=
  canonical_setUnits h (fun e he => (mem_sset he).elim (fun e' => e' ▸ hk) (h.units e))

theorem setDir_canonical {i e} (h : Canonical s) : Canonical (setDir s i e) := h.update

theorem pend_canonical {i} (h : Canonical s) : Canonical (pend s i) := h.update

theorem pendOnce_canonical {i} (h : Canonical s) : Canonical (pendOnce s i) := canonical_ite h (pend_canonical h)

theorem pendFirst_canonical {i} (h : Canonical s) : Canonical (pendFirst s i) := h.update

theorem send_canonical {m} (h : Canonical s) : Canonical (send s m) := h.update

theorem modThread_canonical {h' f} (h : Canonical s) : Canonical (modThread s h' f) := canonical_ite h.update h.update

theorem modProg_canonical {h' q f} (h : Canonical s) : Canonical (modProg s h' q f) := canonical_ite h.update h.update

theorem addThread_canonical {t} (h : Canonical s) : Canonical (addThread s t) := h.update

theorem focusOn_canonical {p} (h : Canonical s) : Canonical (focusOn s p) := by
  unfold focusOn
  refine canonical_ite h ?_
  cases pickOut p s.rest with
  | none => exact h
  | some => exact h.update

theorem postEvent_canonical {kind w tag a b} (h : Canonical s) : Canonical (postEvent s kind w tag a b) :=
  canonical_setRing h (wrMem_wf _ _ h.1.2.2.1)

theorem logError_canonical {kind w detail addr seq} (h : Canonical s) : Canonical (logError s kind w detail addr seq) :=
  canonical_ite (postEvent_canonical h.update) h.update

theorem correction_canonical {a b} (h : Canonical s) : Canonical (correction s a b) :=
  canonical_ite (logError_canonical (canonical_of_tables (by dsimp only; exact (logError_canonical h.update).tables)))
    (logError_canonical h.update)

theorem correctRead_canonical {a n} (h : Canonical s) : Canonical (correctRead s a n) :=
  foldl_canonical h (fun _ _ h => correction_canonical h)

theorem wrLine_canonical {l x} (h : Canonical s) : Canonical (wrLine s l x) := wrBytes_canonical h

theorem dropLine_canonical {x} (h : Canonical s) : Canonical (dropLine s x) := by
  unfold dropLine
  cases x.key with
  | none => exact h
  | some => exact wrLine_canonical h

theorem fillLine_canonical {l key} (h : Canonical s) : Canonical (fillLine s l key).1 := by
  unfold fillLine
  cases key with
  | none => exact h
  | some => exact wrLine_canonical h

theorem touchLine_canonical {a key write} (h : Canonical s) : Canonical (touchLine s a key write) := by
  unfold touchLine
  cases channelOf s a with
  | none => exact h
  | some =>
    split
    · exact h
    · dsimp only
      split
      · exact canonical_ite h.update (canonical_of_tables (by dsimp only; exact (fillLine_canonical
          (dropLine_canonical h)).tables))
      · exact canonical_of_tables (by dsimp only; exact (fillLine_canonical
          (foldl_canonical h (fun _ _ h => dropLine_canonical h))).tables)

theorem rdPiece_canonical {p} (h : Canonical s) : Canonical (rdPiece s p).1 := correctRead_canonical (touchLine_canonical h)

theorem wrPiece_canonical {p data} (h : Canonical s) : Canonical (wrPiece s p data) := wrBytes_canonical (touchLine_canonical h)

theorem rdPieces_canonical {l} (h : Canonical s) : Canonical (rdPieces s l).1 := by
  induction l generalizing s with
  | nil => exact h
  | cons p r ih => exact ih (rdPiece_canonical h)

theorem touchLines_canonical {a n key write} (h : Canonical s) : Canonical (touchLines s a n key write) :=
  foldl_canonical h (fun _ _ h => touchLine_canonical h)

theorem trapFocus_canonical {c val epc} (h : Canonical s) : Canonical (trapFocus s c val epc) := by
  unfold trapFocus
  refine canonical_ite ?_ h.update
  cases s.th.prog with
  | none => exact h
  | some => exact pend_canonical h.update

/-! ### The functions of Image -/

theorem writeImage_canonical {h'} (h : Canonical s) : Canonical (writeImage s h') := by
  unfold writeImage
  cases findThread s h' with
  | none => exact h
  | some => exact canonical_ite (wrBytes_canonical (touchLines_canonical (wrBytes_canonical (touchLines_canonical h)))) h

/-! ### The functions of Translate -/

theorem touchWalk_canonical {asid va} (h : Canonical s) : Canonical (touchWalk s asid va) := by
  unfold touchWalk
  cases sget none s.asids asid.toNat with
  | none => exact h
  | some => exact foldl_canonical h (fun _ _ h => touchLine_canonical h)

theorem askWalk_canonical {c asid va} (h : Canonical s) : Canonical (askWalk s c asid va) := canonical_ite h (pend_canonical h)

theorem useTlb_canonical {c engine asid va} (h : Canonical s) : Canonical (useTlb s c engine asid va) := by
  unfold useTlb
  split
  · split
    · exact setCore_canonical h
    · dsimp only
      split
      · exact setCluster_canonical h
      · exact askWalk_canonical h
  · dsimp only
    split
    · exact setCore_canonical h
    · cases List.find? (tlbHits asid va) (clusterAt s (clusterOf c)).tlb with
      | none => exact askWalk_canonical h
      | some => exact setCore_canonical (setCluster_canonical h)

theorem useTlbs_canonical {t cs} (h : Canonical s) : Canonical (useTlbs s t cs) :=
  foldl_canonical h (fun _ _ h => useTlb_canonical h)

/-! ### The functions of Landing -/

theorem newOrigin_canonical {t} (h : Canonical s) : Canonical (newOrigin s t).1 := by
  unfold newOrigin
  cases t.prog with
  | none => exact h.update
  | some => exact h.update

theorem cmdOrigin_canonical {h' w core q g} (h : Canonical s) : Canonical (cmdOrigin s h' w core q g).1 := h.update

theorem setLoc_canonical {g l} (h : Canonical s) : Canonical (setLoc s g l) := by
  unfold setLoc
  split
  · exact setCore_canonical h
  · exact h.update

theorem locPut_canonical {g h' v} (h : Canonical s) : Canonical (locPut s g h' v) := setLoc_canonical h

theorem locDrop_canonical {g h'} (h : Canonical s) : Canonical (locDrop s g h') := setLoc_canonical h

theorem transmit_canonical {p} (h : Canonical s) : Canonical (transmit s p) := by
  unfold transmit
  refine canonical_ite (pend_canonical h) ?_
  refine canonical_ite (pend_canonical h) ?_
  refine canonical_ite ?_ (canonical_ite (pend_canonical h) (pend_canonical h))
  split
  · exact pend_canonical (locPut_canonical h)
  · exact pend_canonical (locPut_canonical h)
  · exact pend_canonical h

theorem sendOut_canonical {p} (h : Canonical s) : Canonical (sendOut s p) := canonical_ite h.update (transmit_canonical h.update)

theorem sendLanding_canonical {p} (h : Canonical s) : Canonical (sendLanding s p) := sendOut_canonical h

theorem releaseHeld_canonical (h : Canonical s) : Canonical (releaseHeld s) :=
  foldl_canonical h.update (fun _ _ h => sendOut_canonical h)

theorem dropCopy_canonical {p} (h : Canonical s) : Canonical (dropCopy s p) := by
  unfold dropCopy
  cases pickOut (samePacket p) s.copies with
  | none => exact h
  | some => exact releaseHeld_canonical h.update

theorem answerTo_canonical {o g r v counted} (h : Canonical s) : Canonical (answerTo s o g r v counted) := sendLanding_canonical h

theorem countRequest_canonical {t} (h : Canonical s) : Canonical (countRequest s t) := canonical_ite h (setCore_canonical h)

theorem uncountRequest_canonical {c} (h : Canonical s) : Canonical (uncountRequest s c) := setCore_canonical h

theorem failLanding_canonical {h' w la sub seq} (h : Canonical s) : Canonical (failLanding s h' w la sub seq) := by
  unfold failLanding
  cases findThread s h' with
  | none => exact logError_canonical h
  | some =>
    exact canonical_ite (logError_canonical (writeImage_canonical (modThread_canonical h)))
      (writeImage_canonical (modThread_canonical h))

/-! ### The functions of Agreement -/

theorem setBond_canonical {e b} (h : Canonical s) : Canonical (setBond s e b) := h.update

theorem modBond_canonical {e f} (h : Canonical s) : Canonical (modBond s e f) := by
  unfold modBond
  cases bondAt s e with
  | none => exact h
  | some => exact setBond_canonical h

theorem takeBack_canonical {n} (h : Canonical s) : Canonical (takeBack s n) := canonical_ite h.update h.update

theorem dropWait_canonical {w} (h : Canonical s) : Canonical (dropWait s w) := by
  unfold dropWait
  cases w.ann.key with
  | tensor => exact modBond_canonical h.update
  | sync => exact canonical_of_tables (by dsimp only; exact (modBond_canonical h.update).tables)

theorem withdraw_canonical {w st} (h : Canonical s) : Canonical (withdraw s w st) := by
  unfold withdraw
  split
  · dsimp only
    split
    · exact dropWait_canonical h
    · exact canonical_ite (dropWait_canonical (takeBack_canonical h)) h
  · dsimp only
    split
    · exact dropWait_canonical h
    · exact canonical_ite (dropWait_canonical (takeBack_canonical h)) (pendOnce_canonical (pend_canonical h.update))

theorem leaveAgreements_canonical {h'} (h : Canonical s) : Canonical (leaveAgreements s h') :=
  foldl_canonical h (fun _ _ h => canonical_ite h.update (withdraw_canonical h))

/-! ### The functions of Connect -/

theorem setConn_canonical {k} (h : Canonical s) : Canonical (setConn s k) := h.update

theorem setRx_canonical {p k} (h : Canonical s) : Canonical (setRx s p k) := h.update

theorem abandon_canonical {dst cls m c} (h : Canonical s) : Canonical (abandon s dst cls m c) :=
  canonical_ite (foldl_canonical h.update (fun _ _ h => pendOnce_canonical h)) (send_canonical (setConn_canonical h))

theorem netAck_canonical {p} (h : Canonical s) : Canonical (netAck s p) :=
  canonical_ite h (canonical_ite (pend_canonical h) (pend_canonical h))

theorem netRefuse_canonical {p why} (h : Canonical s) : Canonical (netRefuse s p why) := by
  unfold netRefuse
  refine canonical_ite (logError_canonical h) ?_
  refine canonical_ite ?_ ?_
  · refine pend_canonical ?_
    refine foldl_canonical ?_ (fun _ _ h => pendOnce_canonical h)
    cases why with
    | status => exact setRx_canonical h
    | retry => exact h
    | notReady => exact h
  · refine pend_canonical ?_
    refine foldl_canonical ?_ (fun _ _ h => pendOnce_canonical h)
    cases why with
    | status => exact setRx_canonical h
    | retry => exact h
    | notReady => exact h

theorem netMark_canonical {p} (h : Canonical s) : Canonical (netMark s p) :=
  foldl_canonical (setRx_canonical h) (fun _ _ h => pendOnce_canonical h)

theorem netPlaced_canonical {p} (h : Canonical s) : Canonical (netPlaced s p) := netAck_canonical (netMark_canonical h)

theorem landingAnswered_canonical {l sub} (h : Canonical s) : Canonical (landingAnswered s l sub) := by
  unfold landingAnswered
  split
  · exact h
  · exact canonical_ite (netPlaced_canonical h.update) (canonical_ite h.update (netPlaced_canonical (setRx_canonical h.update)))

/-! ### The functions of Plan -/

theorem illegalNow_canonical {code detail} (h : Canonical s) : CanonicalOut (illegalNow code detail s) :=
  canonical_of_tables (by dsimp only; exact (trapFocus_canonical h).tables)

theorem missOf_canonical {c val} (h : Canonical s) : Canonical (missOf s c val) := canonical_ite (askWalk_canonical h) h

theorem suspendFor_canonical {va c} (h : Canonical s) : Canonical (suspendFor s va c) :=
  canonical_ite (canonical_of_tables (by dsimp only; exact (askWalk_canonical h.update).tables))
    (pend_canonical (canonical_of_tables (by dsimp only; exact (askWalk_canonical h.update).tables)))

theorem awaitFirst_canonical {l} (h : Canonical s) : Canonical (awaitFirst l s) := h.update

theorem waitChecks_canonical {walks} (h : Canonical s) : Canonical (waitChecks walks s) := by
  unfold waitChecks
  exact canonical_of_tables (by dsimp only; exact (foldl_canonical h.update (fun _ _ h => askWalk_canonical h)).tables)

theorem finish_canonical (h : Canonical s) : Canonical (finish s) := h.update

theorem conclude_canonical {slot p} (h : Canonical s) (hn : Canonical p.next) : CanonicalOut (conclude slot p s) := by
  unfold conclude
  split
  · exact trapFocus_canonical h
  · refine canonicalOut_ite ?_ h
    split
    · exact trapFocus_canonical (missOf_canonical h)
    · exact suspendFor_canonical h
    · exact waitChecks_canonical h
    · exact canonicalOut_ite (canonicalOut_ite h hn) h

theorem setTh_canonical {t} (h : Canonical s) : Canonical (setTh s t) := h.update

theorem plainPlan_canonical {needs} (h : Canonical s) : Canonical (plainPlan needs s).next := h

/-! ### The functions of Engines -/

theorem modCmd_canonical {h' q f} (h : Canonical s) : Canonical (modCmd s h' q f) := h.update

theorem dropCmd_canonical {h' q} (h : Canonical s) : Canonical (dropCmd s h' q) := h.update

theorem unlock_canonical {h' q} (h : Canonical s) : Canonical (unlock s h' q) := h.update

theorem nextHead_canonical {core} (h : Canonical s) : Canonical (nextHead s core) := by
  unfold nextHead
  cases matrixQueue s core with
  | nil => exact h
  | cons => exact canonical_ite h (pend_canonical h)

theorem endOne_canonical {h' q st res} (h : Canonical s) : Canonical (endOne s h' q st res) := by
  unfold endOne
  dsimp only
  split
  · exact nextHead_canonical (pend_canonical (modCmd_canonical h))
  · exact pend_canonical (modCmd_canonical h)

theorem freeTag_canonical {n} (h : Canonical s) : Canonical (freeTag s n) := h.update

theorem dropLanding_canonical {h' q} (h : Canonical s) : Canonical (dropLanding s h' q) := by
  unfold dropLanding
  split
  · exact modCmd_canonical (dropCopy_canonical h)
  · exact h

theorem breakCmd_canonical {c} (h : Canonical s) : Canonical (breakCmd s c) := by
  unfold breakCmd
  cases c.net with
  | none => exact h
  | some =>
    exact canonical_ite (modCmd_canonical h) (freeTag_canonical (endOne_canonical (canonical_ite (dropLanding_canonical h) h)))

theorem dropReplies_canonical {h' q} (h : Canonical s) : Canonical (dropReplies s h' q) := h.update

theorem endCmd_canonical {h' q st res} (h : Canonical s) : Canonical (endCmd s h' q st res) := by
  unfold endCmd
  cases (findCmd s h' q).bind fun x => x.net with
  | none => exact endOne_canonical h
  | some =>
    exact canonical_ite (freeTag_canonical (endOne_canonical h))
      (foldl_canonical (abandon_canonical (dropReplies_canonical (freeTag_canonical (endOne_canonical h))))
      (fun _ _ h => breakCmd_canonical h))

theorem modRing_canonical {h' f} (h : Canonical s) : Canonical (modRing s h' f) := writeImage_canonical (modThread_canonical h)

theorem cancelCmd_canonical {c} (h : Canonical s) : Canonical (cancelCmd s c) := endCmd_canonical (modRing_canonical h)

theorem restartCmd_canonical {c} (h : Canonical s) : Canonical (restartCmd s c) := modCmd_canonical (modRing_canonical h)

theorem parkCmd_canonical {h' q cause sub val} (h : Canonical s) : Canonical (parkCmd s h' q cause sub val) := by
  unfold parkCmd
  cases findCmd s h' q with
  | none => exact h
  | some => exact canonical_ite (cancelCmd_canonical h) (modRing_canonical (modCmd_canonical h))

theorem cancelParked_canonical {h'} (h : Canonical s) : Canonical (cancelParked s h') :=
  foldl_canonical h (fun _ _ h => cancelCmd_canonical h)

/-! ### The functions of Memory -/

theorem memPlan_canonical {specs needs rw bad next} (hn : Canonical next) : Canonical (memPlan s specs needs rw bad next).next :=
  hn

theorem beginRequest_canonical {cs} (h : Canonical s) : Canonical (beginRequest s cs).1 :=
  newOrigin_canonical (countRequest_canonical (useTlbs_canonical h))

theorem loadScalar_canonical {d a wd off signed acq} (h : Canonical s) : CanonicalOut (loadScalar d a wd off signed acq s) := by
  unfold loadScalar
  exact conclude_canonical h (memPlan_canonical (pend_canonical (setTh_canonical (beginRequest_canonical h))))

theorem storeScalar_canonical {d a wd off rel} (h : Canonical s) : CanonicalOut (storeScalar d a wd off rel s) := by
  unfold storeScalar
  exact conclude_canonical h (memPlan_canonical (pend_canonical (setTh_canonical (beginRequest_canonical h))))

theorem landLoad_canonical {l a wd off rel} (h : Canonical s) : CanonicalOut (landLoad l a wd off rel s) := by
  unfold landLoad
  exact conclude_canonical h (memPlan_canonical (pend_canonical (setTh_canonical (beginRequest_canonical h))))

theorem execVld_canonical {v a q i} (h : Canonical s) : CanonicalOut (execVld v a q i s) :=
  conclude_canonical h (memPlan_canonical (pend_canonical (setTh_canonical (beginRequest_canonical h))))

theorem execVst_canonical {v a r i} (h : Canonical s) : CanonicalOut (execVst v a r i s) :=
  conclude_canonical h (memPlan_canonical (pend_canonical (setTh_canonical (beginRequest_canonical h))))

theorem loadGroups_canonical {v specs needs k run q base} (h : Canonical s) : CanonicalOut
  (loadGroups v specs needs k run q base s) := by
  unfold loadGroups
  refine conclude_canonical h ?_
  split
  · exact setTh_canonical h
  · exact memPlan_canonical (pend_canonical (setTh_canonical (beginRequest_canonical h)))

theorem storeGroups_canonical {v specs needs k run q base} (h : Canonical s) : CanonicalOut
  (storeGroups v specs needs k run q base s) := by
  unfold storeGroups
  refine conclude_canonical h ?_
  split
  · exact setTh_canonical h
  · exact memPlan_canonical (pend_canonical (setTh_canonical (beginRequest_canonical h)))

theorem landNow_canonical {slot specs needs la payload mask cond rel} (h : Canonical s) : CanonicalOut
  (landNow slot specs needs la payload mask cond rel s) :=
  conclude_canonical h (memPlan_canonical (sendLanding_canonical (setTh_canonical (beginRequest_canonical h))))

theorem execAmo_canonical {d a b c op dbl ord} (h : Canonical s) : CanonicalOut (execAmo d a b c op dbl ord s) := by
  unfold execAmo
  exact conclude_canonical h (pend_canonical (setTh_canonical (beginRequest_canonical h)))

theorem execFence_canonical {i x1 u p} (h : Canonical s) : CanonicalOut (execFence i x1 u p s) := by
  unfold execFence
  exact conclude_canonical h (setTh_canonical h)

theorem mloadSend_canonical {v rel t base l} (h : Canonical s) : Canonical (mloadSend v rel t base l s) := by
  induction l generalizing s with
  | nil => exact h
  | cons i r ih => exact ih (sendLanding_canonical (newOrigin_canonical (countRequest_canonical h)))

theorem execMload_canonical {v a n r} (h : Canonical s) : CanonicalOut (execMload v a n r s) :=
  canonicalOut_ite (trapFocus_canonical h).update (conclude_canonical h (mloadSend_canonical (setTh_canonical h)))

theorem replyRead_canonical {g r} (h : Canonical s) : Canonical (replyRead s g r) := by
  unfold replyRead
  split
  · exact canonical_ite (modProg_canonical h) (answerTo_canonical h)
  · exact sendLanding_canonical h
  · exact sendLanding_canonical h
  · exact sendLanding_canonical h

theorem execReadRequest_canonical {r} (h : Canonical s) : CanonicalOut (execReadRequest r s) := by
  unfold execReadRequest
  cases takeAt (choose s r.pieces.length) r.pieces with
  | none => exact replyRead_canonical h
  | some =>
    exact canonicalOut_ite (canonical_ite (replyRead_canonical (rdPiece_canonical h))
      (pendFirst_canonical (rdPiece_canonical h))) trivial

theorem answered_canonical {o} (h : Canonical s) : Canonical (answered s o) := canonical_ite h (uncountRequest_canonical h)

theorem execWriteRequest_canonical {r} (h : Canonical s) : CanonicalOut (execWriteRequest r s) := by
  unfold execWriteRequest
  cases takeAt (choose s r.pieces.length) r.pieces with
  | none => exact answered_canonical h
  | some =>
    exact canonicalOut_ite (canonical_ite (answered_canonical (wrPiece_canonical h))
      (pendFirst_canonical (wrPiece_canonical h))) trivial

theorem execAmoAtHome_canonical {r} (h : Canonical s) : CanonicalOut (execAmoAtHome r s) :=
  canonicalOut_ite (canonical_ite (modProg_canonical (wrPiece_canonical (rdPiece_canonical h)))
    (answerTo_canonical (wrPiece_canonical (rdPiece_canonical h)))) trivial

/-! ### The functions of Sched -/

theorem setStatus_canonical {g w} (h : Canonical s) : Canonical (setStatus s g w) := gWr_canonical h

theorem msix_canonical {v} (h : Canonical s) : Canonical (msix s v) := h.update

theorem setChan_canonical {c k} (h : Canonical s) : Canonical (setChan s c k) := h.update

theorem takeIndex_canonical {i w core slot} (h : Canonical s) : Canonical (takeIndex s i w core slot).1 :=
  setDir_canonical (setCore_canonical h)

theorem enqueueResume_canonical {h'} (h : Canonical s) : Canonical (enqueueResume s h') := by
  unfold enqueueResume
  cases findThread s h' with
  | none => exact h
  | some => exact pendOnce_canonical (setCluster_canonical h)

theorem makeRunnable_canonical {h' cause} (h : Canonical s) : Canonical (makeRunnable s h' cause) := by
  unfold makeRunnable
  cases findThread s h' with
  | none => exact h
  | some => exact canonical_ite h (enqueueResume_canonical (writeImage_canonical (modThread_canonical h)))

theorem endWait_canonical {w h'} (h : Canonical s) : Canonical (endWait s w h') := by
  unfold endWait
  cases findThread s h' with
  | none => exact h
  | some =>
    refine canonical_ite (modThread_canonical h) ?_
    refine canonical_ite h ?_
    split
    · exact modThread_canonical h
    · exact makeRunnable_canonical (modThread_canonical h)
    · exact modThread_canonical h
    · exact modThread_canonical h
    · exact h

theorem mapClusters_canonical {f} (h : Canonical s) : Canonical (mapClusters s f) := h.update

theorem leaveLine_canonical {h'} (h : Canonical s) : Canonical (leaveLine s h') := mapClusters_canonical h

theorem leaveQueue_canonical {h'} (h : Canonical s) : Canonical (leaveQueue s h') := mapClusters_canonical h

theorem signalLine_canonical {c line} (h : Canonical s) : Canonical (signalLine s c line) := by
  unfold signalLine
  dsimp only
  split
  · exact endWait_canonical (setCluster_canonical h)
  · exact setCluster_canonical h

theorem orderSave_canonical {h'} (h : Canonical s) : Canonical (orderSave s h') := pend_canonical (modThread_canonical h)

theorem setTeam_canonical {n t} (h : Canonical s) : Canonical (setTeam s n t) := h.update

theorem settleBarrier_canonical {n} (h : Canonical s) : Canonical (settleBarrier s n) := by
  unfold settleBarrier
  cases teamAt s n with
  | none => exact h
  | some => exact canonical_ite (foldl_canonical (setTeam_canonical h) (fun _ _ h => endWait_canonical h)) h

theorem entryPc_canonical {asid va} (h : Canonical s) : Canonical (entryPc s asid va).1 :=
  canonical_fst_ite (rdPieces_canonical h) h

theorem placeMembers_canonical {g i l n k m} (h : Canonical s) : Canonical (placeMembers s g i l n k m).1 := by
  induction m generalizing s with
  | nil => exact h
  | cons j r ih =>
    simp only [placeMembers]
    split
    · exact ih (entryPc_canonical (takeIndex_canonical h))
    · exact h

theorem placeTeam_canonical {g i} (h : Canonical s) (ht : placeTeam s g i = some t) : Canonical t := by
  unfold placeTeam at ht
  split at ht
  · cases ht
  · split at ht
    · cases ht
    · rename_i k _
      injection ht with ht
      subst ht
      refine canonical_of_tables ?_
      dsimp only
      exact (setTeam_canonical (gWr_canonical (placeMembers_canonical h.update))).tables

theorem placeAll_canonical {g i n} (h : Canonical s) (ht : placeAll s g i n = some t) : Canonical t := by
  induction n generalizing s with
  | zero => cases ht; exact h
  | succ n ih =>
    obtain ⟨u, hu, ht⟩ := Option.bind_eq_some_iff.mp ht
    exact ih (placeTeam_canonical h hu) ht

theorem endLaunch_canonical {g why} (h : Canonical s) : Canonical (endLaunch s g why) := by
  unfold endLaunch
  cases launchOf s g with
  | none => exact h
  | some x =>
    refine foldl_canonical ?_ (fun _ _ h => canonical_ite h (pendOnce_canonical h))
    cases x.grun with
    | none =>
      cases x.chan with
      | none => exact canonical_of_tables (by dsimp only; exact (setStatus_canonical h).tables)
      | some =>
        exact msix_canonical (setChan_canonical (canonical_of_tables (by dsimp only; exact (setStatus_canonical h).tables)))
    | some =>
      refine canonical_ite ?_ ?_
      · refine endCmd_canonical ?_
        cases x.chan with
        | none => exact canonical_of_tables (by dsimp only; exact (setStatus_canonical h).tables)
        | some =>
          exact msix_canonical (setChan_canonical (canonical_of_tables (by dsimp only; exact (setStatus_canonical h).tables)))
      · refine endCmd_canonical ?_
        cases x.chan with
        | none => exact canonical_of_tables (by dsimp only; exact (setStatus_canonical h).tables)
        | some =>
          exact msix_canonical (setChan_canonical (canonical_of_tables (by dsimp only; exact (setStatus_canonical h).tables)))

theorem beginExit_canonical {h'} (h : Canonical s) : Canonical (beginExit s h') :=
  pend_canonical (modThread_canonical (leaveQueue_canonical (cancelParked_canonical h)))

theorem abortLaunch_canonical {g reason node} (h : Canonical s) : Canonical (abortLaunch s g reason node) := by
  unfold abortLaunch
  cases launchOf s g with
  | none => exact h
  | some =>
    refine canonical_ite h ?_
    refine canonical_ite ?_ ?_
    · refine endLaunch_canonical ?_
      refine foldl_canonical h.update ?_
      intro _ _ h
      split
      · exact h
      · exact h
      · exact h
      · exact beginExit_canonical h
    · refine foldl_canonical h.update ?_
      intro _ _ h
      split
      · exact h
      · exact h
      · exact h
      · exact beginExit_canonical h

theorem queueTeams_canonical {g i} (h : Canonical s) : Canonical (queueTeams s g i) := by
  unfold queueTeams
  refine canonical_ite ?_ (pendOnce_canonical h.update)
  cases e : placeAll s g i (nodeTeams s g i) with
  | none => exact abortLaunch_canonical h
  | some u => exact placeAll_canonical h e

theorem oneWork_canonical {g w} (h : Canonical s) : Canonical (oneWork s g w).1 := by
  cases w with
  | rel i =>
    simp only [oneWork]
    split
    · exact gWr_canonical h
    · exact queueTeams_canonical (gWr_canonical h)
  | dec i =>
    simp only [oneWork]
    split
    · exact abortLaunch_canonical h
    · exact gWr_canonical h
  | fin i => exact gWr_canonical h
  | count => exact gWr_canonical h

theorem runWork_canonical {n g l} (h : Canonical s) : Canonical (runWork n s g l) := by
  induction n generalizing s l with
  | zero => exact h
  | succ n ih =>
    cases l with
    | nil => exact h
    | cons w r => exact canonical_ite h (ih (oneWork_canonical h))

theorem settleLaunch_canonical {g} (h : Canonical s) : Canonical (settleLaunch s g) := by
  unfold settleLaunch
  cases launchOf s g with
  | none => exact h
  | some =>
    split
    · exact h
    · split
      · exact canonical_ite (endLaunch_canonical h) h
      · exact canonical_ite h (canonical_ite (endLaunch_canonical h) (canonical_ite (abortLaunch_canonical h) h))

theorem workAnd_canonical {g l} (h : Canonical s) : Canonical (workAnd s g l) := settleLaunch_canonical (runWork_canonical h)

theorem teamDone_canonical {g i} (h : Canonical s) : Canonical (teamDone s g i) :=
  canonical_ite (workAnd_canonical (gWr_canonical h)) (gWr_canonical h)

theorem forall_mem_filter_map {α β : Type} {P : α → Prop} {Q : β → Prop} {f : α → β} {p : β → Bool} {l : List α}
    (hl : ∀ x ∈ l, P x) (hf : ∀ x, P x → Q (f x)) : ∀ y ∈ (l.map f).filter p, Q y := by
  intro y hy
  obtain ⟨x, hx, rfl⟩ := List.mem_map.mp (List.mem_of_mem_filter hy)
  exact hf x (hl x hx)

/-- Owners given up, and entries left out that come to the unlisted value, leave the tables of a slot or a tile as they were. -/
theorem dropClaims_canonical {h'} (h : Canonical s) : Canonical (dropClaims s h') := by
  refine ⟨h.1, forall_mem_filter_map (P := fun e => UnitWf e.2) h.units (fun k hk => ⟨?_, ?_⟩)⟩
  · refine forall_mem_filter_map (P := fun x => SlotWf x.2) hk.1 (fun x hx => ?_)
    simp only
    split
    · exact hx
    · exact hx
  · refine forall_mem_filter_map (P := fun x => TileWf x.2) hk.2 (fun x hx => ?_)
    simp only
    split
    · exact hx
    · exact hx

theorem dropClaimsIfIdle_canonical {h'} (h : Canonical s) : Canonical (dropClaimsIfIdle s h') :=
  canonical_ite h (dropClaims_canonical h)

theorem endThread_canonical {h'} (h : Canonical s) : Canonical (endThread s h') := by
  unfold endThread
  split
  · exact h
  · extract_lets s1 s2 e s3 m s4 s5
    have h3 : Canonical s3 := setDir_canonical (leaveQueue_canonical (leaveLine_canonical (dropClaimsIfIdle_canonical h)))
    have h4 : Canonical s4 := by
      refine canonical_of_tables ?_
      dsimp only [s4, m]
      exact (modThread_canonical h3).tables
    have h5 : Canonical s5 := pendOnce_canonical h4
    clear_value s5
    split
    · exact settleLaunch_canonical h5
    · exact canonical_ite
        (settleLaunch_canonical (teamDone_canonical (setTeam_canonical (settleBarrier_canonical (setTeam_canonical h5)))))
        (settleLaunch_canonical (settleBarrier_canonical (setTeam_canonical h5)))

/-! ### The functions of ThreadLife -/

theorem requestPlan_canonical {d reads bad go} (h : Canonical s) (hgo : ∀ o t, Canonical t → Canonical (go o t)) :
    Canonical (requestPlan s d reads bad go).next :=
  hgo _ _ (newOrigin_canonical (setTh_canonical (countRequest_canonical h)))

theorem commandPlan_canonical {d reads bad go} (h : Canonical s) (hgo : ∀ y0 y1, Canonical y1 → Canonical (go y0 y1)) : Canonical
  (commandPlan s d reads bad go).next := by
  unfold commandPlan
  dsimp only
  exact requestPlan_canonical h (fun _ _ h => hgo _ _ h)

theorem execSleep_canonical {a} (h : Canonical s) : CanonicalOut (execSleep a s) := by
  unfold execSleep
  exact conclude_canonical h (plainPlan_canonical (canonical_ite (setTh_canonical h) (pend_canonical (setTh_canonical h.update))))

theorem execYield_canonical (h : Canonical s) : CanonicalOut (execYield s) := by
  unfold execYield
  exact conclude_canonical h (plainPlan_canonical (setTh_canonical h))

theorem execExit_canonical (h : Canonical s) : CanonicalOut (execExit s) := by
  unfold execExit
  refine conclude_canonical h ?_
  refine plainPlan_canonical ?_
  cases s.th.prog with
  | none => exact beginExit_canonical (setTh_canonical h)
  | some => exact pend_canonical (setTh_canonical (setTh_canonical h))

theorem execThreadExitComplete_canonical {h'} (h : Canonical s) : CanonicalOut (execThreadExitComplete h' s) := by
  unfold execThreadExitComplete
  cases findThread s h' with
  | none => exact h
  | some => exact canonicalOut_ite (pend_canonical h) (endThread_canonical h)

theorem execMigrate_canonical {a} (h : Canonical s) : CanonicalOut (execMigrate a s) := by
  unfold execMigrate
  exact conclude_canonical h (setTh_canonical h)

theorem execPreempt_canonical {d a} (h : Canonical s) : CanonicalOut (execPreempt d a s) := by
  unfold execPreempt
  exact conclude_canonical h (requestPlan_canonical h
    (fun _ _ h => canonical_ite (answerTo_canonical (setTh_canonical h)) (pend_canonical h)))

theorem execPreemptAtDispatcher_canonical {o d h'} (h : Canonical s) : CanonicalOut (execPreemptAtDispatcher o d h' s) :=
  canonicalOut_ite (answerTo_canonical h) (canonicalOut_ite (answerTo_canonical h) (answerTo_canonical (orderSave_canonical h)))

theorem execTeambar_canonical (h : Canonical s) : CanonicalOut (execTeambar s) := by
  unfold execTeambar
  refine conclude_canonical h ?_
  cases teamAt s s.th.team with
  | none => exact setTh_canonical h
  | some => exact settleBarrier_canonical (setTeam_canonical (setTh_canonical h))

theorem execEvw_canonical {a} (h : Canonical s) : CanonicalOut (execEvw a s) := by
  unfold execEvw
  exact conclude_canonical h (plainPlan_canonical (canonical_ite (setTh_canonical (setCluster_canonical h))
    (setTh_canonical (setCluster_canonical h))))

theorem execEvs_canonical {a} (h : Canonical s) : CanonicalOut (execEvs a s) := by
  unfold execEvs
  exact conclude_canonical h (plainPlan_canonical (sendLanding_canonical (newOrigin_canonical (setTh_canonical h))))

theorem ackPlain_canonical {p} (h : Canonical s) : Canonical (ackPlain s p) := pend_canonical h

theorem execEventLanding_canonical {p} (h : Canonical s) : CanonicalOut (execEventLanding p s) :=
  canonicalOut_ite (pend_canonical h) (canonicalOut_ite (pend_canonical h) (ackPlain_canonical (signalLine_canonical h)))

theorem execGettid_canonical {d i} (h : Canonical s) : CanonicalOut (execGettid d i s) := by
  unfold execGettid
  exact conclude_canonical h (plainPlan_canonical (setTh_canonical h))

theorem execGettidQ_canonical {d a} (h : Canonical s) : CanonicalOut (execGettidQ d a s) :=
  conclude_canonical h (requestPlan_canonical h (fun _ _ h => pend_canonical h))

theorem readCell_canonical {t c off n} (h : Canonical s) : Canonical (readCell s t c off n).1 := by
  unfold readCell
  cases cellPart s t c off n with
  | none => exact h
  | some => exact correctRead_canonical (touchLine_canonical h)

theorem writeCell_canonical {t c b} (h : Canonical s) : Canonical (writeCell s t c b) := by
  unfold writeCell
  cases cellPart s t c 0 b.length with
  | none => exact h
  | some => exact wrPiece_canonical h

theorem forkHandles_canonical {w l} (h : Canonical s) : Canonical (forkHandles s w l).1 := by
  induction l generalizing s with
  | nil => exact h
  | cons x r ih =>
    simp only [forkHandles]
    split
    · exact h
    · exact ih (takeIndex_canonical h)

theorem addRecruits_canonical {p n k c pc j l} (h : Canonical s) : Canonical (addRecruits s p n k c pc j l) := by
  induction l generalizing s j with
  | nil => exact h
  | cons x r ih => exact ih (s := addThread s _) h

theorem execFork_canonical {sa sc maxr die body} (h : Canonical s) : CanonicalOut (execFork sa sc maxr die body s) := by
  unfold execFork
  refine conclude_canonical h ?_
  refine addRecruits_canonical ?_
  refine setTh_canonical ?_
  refine useTlbs_canonical ?_
  split
  · exact setTeam_canonical (writeCell_canonical (forkHandles_canonical h))
  · exact writeCell_canonical (forkHandles_canonical h)

theorem lastFinisher_canonical {c} (h : Canonical s) : Canonical (lastFinisher s c) := by
  unfold lastFinisher
  refine canonical_ite (setTh_canonical (readCell_canonical (readCell_canonical h))) ?_
  split
  · exact setTh_canonical (readCell_canonical (readCell_canonical h))
  · exact setTeam_canonical (setTh_canonical (readCell_canonical (readCell_canonical h)))

theorem execJoin_canonical {a} (h : Canonical s) : CanonicalOut (execJoin a s) := by
  unfold execJoin
  exact conclude_canonical h (canonical_ite (lastFinisher_canonical (writeCell_canonical (useTlbs_canonical h)))
    (beginExit_canonical (setTh_canonical (writeCell_canonical (useTlbs_canonical h)))))

/-! ### The functions of Fabric -/

theorem deliver_canonical {t p place} (h : Canonical s) : Canonical (deliver s t p place) := by
  unfold deliver
  cases coreRefusal t p with
  | none => exact pend_canonical (modThread_canonical h)
  | some => exact pend_canonical h

theorem execLandingArrival_canonical {core p} (h : Canonical s) : CanonicalOut (execLandingArrival core p s) := by
  unfold execLandingArrival
  split
  · split
    · dsimp only
      repeat' split
      all_goals exact pend_canonical h
    · dsimp only
      repeat' split
      all_goals exact pend_canonical h
  · split
    · dsimp only
      split
      · split
        · exact canonicalOut_ite (pend_canonical h) (setCore_canonical h)
        · exact canonicalOut_ite (pend_canonical h) (setCore_canonical h)
        · exact deliver_canonical h
      · split
        all_goals exact pend_canonical h
    · dsimp only
      split
      · split
        · exact canonicalOut_ite (pend_canonical h) (setCore_canonical h)
        · exact canonicalOut_ite (pend_canonical h) (setCore_canonical h)
        · exact deliver_canonical h
      · split
        all_goals exact pend_canonical h

theorem awaitedHeld_canonical {h'} (h : Canonical s) : Canonical (awaitedHeld s h') := by
  unfold awaitedHeld
  cases findThread s h' with
  | none => exact h
  | some =>
    split
    · exact h
    · split
      · exact h
      · exact canonical_ite (makeRunnable_canonical (modThread_canonical h)) h

theorem hold_canonical {t p} (h : Canonical s) : Canonical (hold s t p) := by
  unfold hold
  split
  · exact pend_canonical h
  · exact pend_canonical (writeImage_canonical (awaitedHeld_canonical (modThread_canonical h)))

theorem execDirectoryResolve_canonical {p} (h : Canonical s) : CanonicalOut (execDirectoryResolve p s) := by
  unfold execDirectoryResolve
  refine canonicalOut_ite (pend_canonical h) ?_
  refine canonicalOut_ite (pend_canonical h) ?_
  refine canonicalOut_ite (pend_canonical h) ?_
  refine canonicalOut_ite (pend_canonical h) ?_
  refine canonicalOut_ite (pend_canonical h) ?_
  cases findThread s (laHandle p.la) with
  | none => exact pend_canonical h
  | some => exact hold_canonical h

/-- What holds of the unlisted value and of every listed one holds of each value read. -/
theorem sget_of_all {α : Type} {P : α → Prop} {d : α} {m : Sparse α} {k : Nat} (hd : P d) (hm : ∀ e ∈ m, P e.2) : P
  (sget d m k) := by
  induction m with
  | nil => exact hd
  | cons e r ih =>
    unfold sget
    split
    · exact hm e (List.mem_cons_self ..)
    · exact ih (fun x hx => hm x (List.mem_cons_of_mem _ hx))

theorem unitAt_wf {u} (h : Canonical s) : UnitWf (unitAt s u) :=
  sget_of_all (P := UnitWf) ⟨fun _ hx => (nomatch hx), fun _ hx => (nomatch hx)⟩ h.units

theorem slotAt_wf {u i} (h : Canonical s) : SlotWf (slotAt s u i) := sget_of_all (P := SlotWf) ⟨rfl, rfl, rfl⟩ (unitAt_wf h).1

theorem tileAt_wf {u j} (h : Canonical s) : TileWf (tileAt s u j) := sget_of_all (P := TileWf) rfl (unitAt_wf h).2

theorem setSlot_canonical {u i x} (h : Canonical s) (hx : SlotWf x) : Canonical (setSlot s u i x) :=
  setUnit_canonical h ⟨fun e he => (mem_sset he).elim (fun e' => e' ▸ hx) ((unitAt_wf h).1 e), (unitAt_wf h).2⟩

theorem setTile_canonical {u j x} (h : Canonical s) (hx : TileWf x) : Canonical (setTile s u j x) :=
  setUnit_canonical h ⟨(unitAt_wf h).1, fun e he => (mem_sset he).elim (fun e' => e' ▸ hx) ((unitAt_wf h).2 e)⟩

theorem wrTable_wf {b : List Byte} {m : Sparse Byte} {off : Nat} (h : swf (0 : Byte) m = true) : swf (0 : Byte)
  (wrTable m off b) = true := by
  induction b generalizing m off with
  | nil => exact h
  | cons x r ih => exact ih (sset_wf h)

theorem landSlot_wf {x p y} (h : SlotWf x) : SlotWf (landSlot x p y) := by
  obtain ⟨hd, hs, hb⟩ := h
  unfold landSlot
  split
  · exact ⟨hd, wrTable_wf hs, hb⟩
  · split
    · exact ⟨hd, hs, wrTable_wf hb⟩
    · exact ⟨wrTable_wf hd, hs, hb⟩

theorem zeroTile_wf {x} : TileWf (zeroTile x) := rfl

theorem slotStep_canonical {p l} (h : Canonical s) : Canonical (slotStep s p l) := by
  have hput {y} : Canonical (setSlot s (laUnit p.la) (laSlot p.la) (landSlot (slotAt s (laUnit p.la) (laSlot p.la)) p y)) :=
    setSlot_canonical h (landSlot_wf (slotAt_wf h))
  unfold slotStep
  split
  · exact ackPlain_canonical h
  · exact canonical_ite (ackPlain_canonical hput) hput

theorem execSlotLanding_canonical {p} (h : Canonical s) : CanonicalOut (execSlotLanding p s) :=
  canonicalOut_ite (canonical_ite (pend_canonical h) (slotStep_canonical h))
    (canonicalOut_ite (pend_canonical h) (canonicalOut_ite (pend_canonical h)
    (canonicalOut_ite (pend_canonical h) (slotStep_canonical h))))

theorem execMemoryLanding_canonical {p} (h : Canonical s) : CanonicalOut (execMemoryLanding p s) := by
  unfold execMemoryLanding
  refine canonicalOut_ite (pend_canonical h) ?_
  cases takeAt (choose s p.pieces.length) p.pieces with
  | none => exact ackPlain_canonical h
  | some =>
    exact canonicalOut_ite (canonical_ite (ackPlain_canonical (wrPiece_canonical h))
      (pendFirst_canonical (wrPiece_canonical h))) trivial

theorem endLanded_canonical {h' q lost} (h : Canonical s) : Canonical (endLanded s h' q lost) := by
  unfold endLanded
  cases findCmd s h' q with
  | none => exact h
  | some =>
    split
    · exact h
    · split
      · exact h
      · exact canonical_ite (canonical_ite (endCmd_canonical h) (endCmd_canonical h)) h

theorem cmdAnswered_canonical {p refused lost} (h : Canonical s) : Canonical (cmdAnswered s p refused lost) :=
  canonical_ite (endLanded_canonical (modCmd_canonical h)) h

theorem execLandingAcknowledgement_canonical {p place} (h : Canonical s) : CanonicalOut
  (execLandingAcknowledgement p place s) := by
  unfold execLandingAcknowledgement
  refine canonicalOut_ite (landingAnswered_canonical (send_canonical h)) ?_
  extract_lets s1 s2 s3
  have h1 : Canonical s1 := dropCopy_canonical h
  have h2 : Canonical s2 := canonical_ite (locPut_canonical h1) h1
  have h3 : Canonical s3 := canonical_ite (answered_canonical h2) h2
  exact cmdAnswered_canonical h3

theorem failed_canonical {p sub} (h : Canonical s) : Canonical (failed s p sub) := by
  unfold failed
  extract_lets s1 s2 s3 s4
  have h1 : Canonical s1 := dropCopy_canonical h
  have h2 : Canonical s2 := canonical_ite (locDrop_canonical h1) h1
  have h3 : Canonical s3 := canonical_ite (answered_canonical h2) h2
  exact failLanding_canonical (cmdAnswered_canonical h3)

theorem execLandingRefusal_canonical {p sub} (h : Canonical s) : CanonicalOut (execLandingRefusal p sub s) :=
  canonicalOut_ite (landingAnswered_canonical (send_canonical h)) (failed_canonical h)

theorem resend_canonical {p again} (h : Canonical s) : Canonical (resend s p again) := by
  unfold resend
  cases List.find? (samePacket p) s.copies with
  | none => exact h
  | some => exact transmit_canonical h.update

theorem execCheckFailure_canonical {p} (h : Canonical s) : CanonicalOut (execCheckFailure p s) := by
  unfold execCheckFailure
  refine canonicalOut_ite (landingAnswered_canonical (send_canonical h)) ?_
  cases List.find? (samePacket p) s.copies with
  | none => exact h
  | some => exact canonicalOut_ite (resend_canonical h) (failed_canonical h)

theorem execBusyResend_canonical {p} (h : Canonical s) : CanonicalOut (execBusyResend p s) :=
  canonicalOut_ite (pend_canonical h) (resend_canonical h)

/-! ### The functions of Ports -/

theorem enqueueCmd_canonical {c} (h : Canonical s) : Canonical (enqueueCmd s c) := by
  unfold enqueueCmd
  cases c.port with
  | e0 =>
    exact canonical_ite (nextHead_canonical h.update) (canonical_ite (pend_canonical h.update)
      (canonical_ite (pend_canonical h.update) (nextHead_canonical h.update)))
  | e1 =>
    exact canonical_ite (pend_canonical h.update) (canonical_ite (pend_canonical h.update)
      (canonical_ite (pend_canonical h.update) (canonical_ite (pend_canonical h.update) (pend_canonical h.update))))
  | e2 => exact canonical_ite (pend_canonical h.update) (pend_canonical h.update)

theorem execIssue_canonical {n a p} (h : Canonical s) : CanonicalOut (execIssue n a p s) := by
  unfold execIssue
  exact conclude_canonical h (enqueueCmd_canonical (setTh_canonical h.update))

theorem execPop_canonical {d p} (h : Canonical s) : CanonicalOut (execPop d p s) := by
  unfold execPop
  refine conclude_canonical h ?_
  refine plainPlan_canonical ?_
  cases firstWord (advance s.th) p with
  | none => exact setTh_canonical h
  | some => exact setTh_canonical h

theorem execPortst_canonical {d p} (h : Canonical s) : CanonicalOut (execPortst d p s) := by
  unfold execPortst
  exact conclude_canonical h (plainPlan_canonical (setTh_canonical h))

theorem execSeqwait_canonical {a} (h : Canonical s) : CanonicalOut (execSeqwait a s) := by
  unfold execSeqwait
  exact conclude_canonical h (setTh_canonical h)

theorem landCompletion_canonical {c w} (h : Canonical s) : Canonical (landCompletion s c w) := by
  unfold landCompletion
  dsimp only
  split
  · refine canonical_ite h ?_
    refine canonical_ite ?_ (sendLanding_canonical (cmdOrigin_canonical h))
    split
    · exact sendLanding_canonical (useTlb_canonical (cmdOrigin_canonical h))
    · exact failLanding_canonical (useTlb_canonical (cmdOrigin_canonical h))
  · refine canonical_ite ?_ (sendLanding_canonical (cmdOrigin_canonical h))
    split
    · exact sendLanding_canonical (useTlb_canonical (cmdOrigin_canonical h))
    · exact failLanding_canonical (useTlb_canonical (cmdOrigin_canonical h))
  · exact h

theorem execCompletionLanding_canonical {h' q} (h : Canonical s) : CanonicalOut (execCompletionLanding h' q s) := by
  unfold execCompletionLanding
  split
  · exact h
  · split
    · exact h
    · refine canonicalOut_ite (pend_canonical h) ?_
      extract_lets st s1 s2 s3 s4
      have h4 : Canonical s4 := dropCmd_canonical (modRing_canonical (landCompletion_canonical (unlock_canonical h)))
      exact canonical_ite (dropClaimsIfIdle_canonical h4) h4

/-! ### The functions of Operands -/

theorem vecPlan_canonical {d specs needs ok res} (h : Canonical s) : Canonical (vecPlan s d specs needs ok res).next :=
  setTh_canonical h

/-! ### The functions of Vector -/

theorem vecThree_canonical {rule f d a b m} (h : Canonical s) : CanonicalOut (vecThree rule f d a b m s) :=
  conclude_canonical h (vecPlan_canonical h)

theorem vecTwo_canonical {rule f needs d a m} (h : Canonical s) : CanonicalOut (vecTwo rule f needs d a m s) :=
  conclude_canonical h (vecPlan_canonical h)

theorem vecArith_canonical {f d a b m} (h : Canonical s) : CanonicalOut (vecArith f d a b m s) := vecThree_canonical h

theorem vecScalar_canonical {f d a b hi m} (h : Canonical s) : CanonicalOut (vecScalar f d a b hi m s) := by
  unfold vecScalar
  exact vecTwo_canonical h

theorem vecBits_canonical {f d a b m} (h : Canonical s) : CanonicalOut (vecBits f d a b m s) := vecThree_canonical h

theorem vecShift_canonical {f d a b m} (h : Canonical s) : CanonicalOut (vecShift f d a b m s) := vecThree_canonical h

theorem vecShiftImm_canonical {f d a i m} (h : Canonical s) : CanonicalOut (vecShiftImm f d a i m s) := vecTwo_canonical h

theorem execVdot4_canonical {d a b m} (h : Canonical s) : CanonicalOut (execVdot4 d a b m s) :=
  conclude_canonical h (vecPlan_canonical h)

theorem vecUnary_canonical {rule f d a m} (h : Canonical s) : CanonicalOut (vecUnary rule f d a m s) := vecTwo_canonical h

theorem vecCode_canonical {rule f d a m} (h : Canonical s) : CanonicalOut (vecCode rule f d a m s) := vecTwo_canonical h

theorem vecCompare_canonical {c k specs needs m fs w l} (h : Canonical s) : CanonicalOut
  (vecCompare c k specs needs m fs w l s) :=
  conclude_canonical h (setTh_canonical h)

theorem execVsel_canonical {d a b m} (h : Canonical s) : CanonicalOut (execVsel d a b m s) :=
  conclude_canonical h (vecPlan_canonical h)

theorem maskLogic_canonical {d reads v} (h : Canonical s) : CanonicalOut (maskLogic d reads v s) :=
  conclude_canonical h (plainPlan_canonical (setTh_canonical h))

theorem vecFill_canonical {f needs d m} (h : Canonical s) : CanonicalOut (vecFill f needs d m s) :=
  conclude_canonical h (vecPlan_canonical h)

theorem execVins_canonical {d l b hi m} (h : Canonical s) : CanonicalOut (execVins d l b hi m s) :=
  conclude_canonical h (setTh_canonical h)

theorem execVext_canonical {d a l} (h : Canonical s) : CanonicalOut (execVext d a l s) := conclude_canonical h (setTh_canonical h)

theorem vecPermute_canonical {f reads specs d a m} (h : Canonical s) : CanonicalOut (vecPermute f reads specs d a m s) :=
  conclude_canonical h (setTh_canonical h)

theorem reduceInto_canonical {scan d a m res} (h : Canonical s) : CanonicalOut (reduceInto scan s d a m res) :=
  conclude_canonical h (vecPlan_canonical h)

theorem reduceNum_canonical {scan node ident d a m} (h : Canonical s) : CanonicalOut (reduceNum scan node ident d a m s) :=
  reduceInto_canonical h

theorem reduceCode_canonical {scan node ident d a m} (h : Canonical s) : CanonicalOut (reduceCode scan node ident d a m s) :=
  reduceInto_canonical h

theorem vecReduce_canonical {scan d a o m} (h : Canonical s) : CanonicalOut (vecReduce scan d a o m s) := by
  unfold vecReduce
  split
  · exact reduceNum_canonical h
  · exact reduceNum_canonical h
  · exact reduceNum_canonical h
  · exact reduceCode_canonical h
  · exact reduceCode_canonical h
  · exact reduceCode_canonical h

theorem vecPair_canonical {f ok d a p m} (h : Canonical s) : CanonicalOut (vecPair f ok d a p m s) :=
  conclude_canonical h (vecPlan_canonical h)

theorem execSetbf_canonical {b f} (h : Canonical s) : CanonicalOut (execSetbf b f s) :=
  canonicalOut_ite (conclude_canonical h (setTh_canonical h)) (illegalNow_canonical h)

theorem execLdcb_canonical {c a} (h : Canonical s) : CanonicalOut (execLdcb c a s) :=
  canonicalOut_ite (conclude_canonical h (setTh_canonical h)) (illegalNow_canonical h)

/-! ### The functions of Runs -/

theorem parkWith_canonical {c f} (h : Canonical s) : Canonical (parkWith s c f) :=
  parkCmd_canonical (canonical_ite (askWalk_canonical h) h)

theorem engineTlbs_canonical {c cs} (h : Canonical s) : Canonical (engineTlbs s c cs) :=
  foldl_canonical h (fun _ _ h => useTlb_canonical h)

theorem sendRun_canonical {c la adv b} (h : Canonical s) : Canonical (sendRun s c la adv b) := by
  unfold sendRun
  dsimp only
  exact sendLanding_canonical (modCmd_canonical (cmdOrigin_canonical (engineTlbs_canonical h)))

theorem recordFrames_canonical {own dst l} (h : Canonical s) : Canonical (recordFrames s own dst l) := h.update

theorem recoverBy_canonical {h' q go} (h : Canonical s) (hgo : ∀ y0 y1, Canonical y0 → Canonical (go y0 y1)) : Canonical
  (recoverBy s h' q go) := by
  unfold recoverBy
  cases findCmd s h' q with
  | none => exact h
  | some x =>
    refine canonical_ite h ?_
    refine canonical_ite (pend_canonical (modCmd_canonical h)) ?_
    cases namedParked s x with
    | none => exact endCmd_canonical h
    | some => exact endCmd_canonical (hgo _ _ h)

theorem restartBy_canonical {h' q} (h : Canonical s) : Canonical (restartBy s h' q) :=
  recoverBy_canonical h (fun _ _ h => pend_canonical (restartCmd_canonical h))

theorem cancelBy_canonical {h' q} (h : Canonical s) : Canonical (cancelBy s h' q) :=
  recoverBy_canonical h (fun _ _ h => cancelCmd_canonical h)

/-! ### The functions of Matrix -/

theorem execClaim_canonical {d a} (h : Canonical s) : CanonicalOut (execClaim d a s) := by
  unfold execClaim
  exact conclude_canonical h (requestPlan_canonical h (fun _ _ h => pend_canonical h))

theorem execClaimAtUnit_canonical {o d u v} (h : Canonical s) : CanonicalOut (execClaimAtUnit o d u v s) := by
  refine canonicalOut_ite h (canonicalOut_ite (answerTo_canonical h) (answerTo_canonical (setSlot_canonical h ?_)))
  have hx := slotAt_wf (u := u) (i := field v 0 6) h
  split
  · exact ⟨rfl, rfl, rfl⟩
  · exact hx

theorem execRelease_canonical {d a} (h : Canonical s) : CanonicalOut (execRelease d a s) := by
  unfold execRelease
  exact conclude_canonical h (requestPlan_canonical h (fun _ _ h => pend_canonical h))

theorem giveTile_canonical {u j x} (h : Canonical s) (hx : TileWf x) : Canonical (giveTile s u j x) :=
  setCore_canonical (setTile_canonical h hx)

theorem execReleaseAtUnit_canonical {o d v} (h : Canonical s) : CanonicalOut (execReleaseAtUnit o d v s) :=
  canonicalOut_ite (answerTo_canonical h) (canonicalOut_ite (pend_canonical h)
    (answerTo_canonical (foldl_canonical (foldl_canonical h (fun _ _ h => setSlot_canonical h (slotAt_wf h)))
    (fun _ _ h => giveTile_canonical h (tileAt_wf h)))))

theorem execAccz_canonical {d} (h : Canonical s) : CanonicalOut (execAccz d s) := by
  unfold execAccz
  refine conclude_canonical h ?_
  dsimp only
  exact requestPlan_canonical h (fun _ _ h => enqueueCmd_canonical h)

theorem execAcczAtHead_canonical {core} (h : Canonical s) : CanonicalOut (execAcczAtHead core s) := by
  unfold execAcczAtHead
  cases matrixQueue s core with
  | nil => exact h
  | cons c rest =>
    dsimp only
    cases c.accz with
    | none => exact h
    | some d =>
      exact nextHead_canonical (canonical_ite (answerTo_canonical h.update) (answerTo_canonical
        (giveTile_canonical h.update (x := { zeroTile (tileAt s (unitOf core)
          (tileNum core)) with owner := some c.handle }) rfl)))

theorem sparseOf_wf {α : Type} [DecidableEq α] {d : α} {l : List α} : swf d (sparseOf d l) = true := by
  have key (l : List α) (n : Nat) (m : Sparse α)
      (e : m = (l.zipIdx n).filterMap (fun e => if e.1 = d then none else some (e.2, e.1))) :
      swf d m = true ∧ ∀ e ∈ m, n ≤ e.1 := by
    induction l generalizing n m with
    | nil => subst e; exact ⟨rfl, fun _ h => nomatch h⟩
    | cons x r ih =>
      obtain ⟨hw, hn⟩ := ih (n + 1) _ rfl
      simp only [List.zipIdx_cons, List.filterMap_cons] at e
      split at e
      · subst e
        exact ⟨hw, fun e he => Nat.le_of_succ_le (hn e he)⟩
      · rename_i y hy
        obtain ⟨hx, rfl⟩ : x ≠ d ∧ (n, x) = y := by simpa using hy
        subst e
        simp only [swf, Bool.and_eq_true, List.all_eq_true] at hw ⊢
        refine ⟨⟨srising_cons hw.1 hn, fun e he => ?_⟩, fun e he => ?_⟩
        · rcases List.mem_cons.mp he with rfl | he
          · simpa using hx
          · exact hw.2 e he
        · rcases List.mem_cons.mp he with rfl | he
          · exact Nat.le_refl n
          · exact Nat.le_of_succ_le (hn e he)
  exact (key l 0 _ rfl).1

theorem execMzero_canonical {core} (h : Canonical s) : CanonicalOut (execMzero core s) := by
  unfold execMzero
  split
  · exact h
  · exact h
  · refine canonicalOut_ite h ?_
    simp only
    split
    · exact parkWith_canonical h
    · exact endCmd_canonical (setTile_canonical h sparseOf_wf)

theorem execMma_canonical {core} (h : Canonical s) : CanonicalOut (execMma core s) := by
  unfold execMma
  split
  · exact h
  · exact pend_canonical h
  · refine canonicalOut_ite h ?_
    split
    · exact parkWith_canonical h
    · exact canonical_ite (modCmd_canonical (canonical_ite (setTile_canonical h zeroTile_wf) h))
        (pend_canonical (modCmd_canonical (canonical_ite (setTile_canonical h zeroTile_wf) h)))

theorem runKStep_canonical {c} (h : Canonical s) : Canonical (runKStep s c) := by
  have hset {u j x a b n q k} : Canonical (setTile s u j
    { elems := kStepTile x a b, owner := n, cls := q, count := k, lseq := c.seq }) :=
    setTile_canonical h sparseOf_wf
  unfold runKStep
  simp only
  split
  · exact parkWith_canonical h
  · split
    · exact hset
    · exact endCmd_canonical hset

theorem nextBoundary_canonical {u} (h : Canonical s) : Canonical (nextBoundary s u) :=
  canonical_ite (pendOnce_canonical h) (setUnit_canonical h (unitAt_wf h))

theorem nextTurn_wf {u c k} (h : Canonical s) (e : nextTurn s u = some (c, k)) : UnitWf k := by
  unfold nextTurn at e
  simp only at e
  split at e
  · cases e
    exact unitAt_wf h
  · split at e
    · cases e
      exact unitAt_wf h
    · cases e

theorem execKStep_canonical {u} (h : Canonical s) : CanonicalOut (execKStep u s) := by
  unfold execKStep
  split
  · exact nextBoundary_canonical h
  · exact nextBoundary_canonical (runKStep_canonical (setUnit_canonical h (nextTurn_wf h ‹_›)))

theorem execDrain_canonical {core} (h : Canonical s) : CanonicalOut (execDrain core s) := by
  unfold execDrain
  split
  · exact h
  · exact pend_canonical h
  · refine canonicalOut_ite h ?_
    split
    · exact pend_canonical h
    · exact parkWith_canonical h
    · refine canonicalOut_ite (parkWith_canonical h) ?_
      split
      · exact parkWith_canonical h
      · refine canonicalOut_ite (pend_canonical h) ?_
        split
        · exact pend_canonical (modCmd_canonical (sendRun_canonical (modCmd_canonical h)))
        · exact endCmd_canonical (canonical_ite (setTile_canonical (sendRun_canonical (modCmd_canonical h)) zeroTile_wf)
            (sendRun_canonical (modCmd_canonical h)))

theorem execAccrd_canonical {v c a} (h : Canonical s) : CanonicalOut (execAccrd v c a s) :=
  conclude_canonical h (pend_canonical (canonical_of_tables
    (by dsimp only; exact (newOrigin_canonical (setTh_canonical (countRequest_canonical h))).tables)))

theorem execAccrdSnapshot_canonical {o v c core row half} (h : Canonical s) : CanonicalOut
  (execAccrdSnapshot o v c core row half s) :=
  canonicalOut_ite (pend_canonical h) (answerTo_canonical (sendLanding_canonical h))

/-! ### The functions of Copy -/

theorem copySend_canonical {c p so adv f g src} (h : Canonical s) : Canonical (copySend s c p so adv f g src) := by
  unfold copySend
  split
  · dsimp only
    split
    · exact parkWith_canonical (modCmd_canonical h)
    · exact pend_canonical (modCmd_canonical (sendRun_canonical (recordFrames_canonical (modCmd_canonical h))))
  · dsimp only
    split
    · exact parkWith_canonical (modCmd_canonical h)
    · exact endCmd_canonical (sendRun_canonical (recordFrames_canonical (modCmd_canonical h)))

theorem copyRead_canonical {c l got} (h : Canonical s) : Canonical (copyRead s c l got) := by
  unfold copyRead
  cases takeAt (choose s l.length) l with
  | none => exact h
  | some => exact pendFirst_canonical (modCmd_canonical (correctRead_canonical (touchLine_canonical h)))

theorem copyBegin_canonical {c p so adv f g} (h : Canonical s) : Canonical (copyBegin s c p so adv f g) := by
  unfold copyBegin
  refine canonical_ite (pend_canonical h) ?_
  cases copyRunBad s c p so adv f g with
  | none => exact pendFirst_canonical (modCmd_canonical (recordFrames_canonical (engineTlbs_canonical h)))
  | some => exact parkWith_canonical h

theorem copyRun_canonical {c} (h : Canonical s) : Canonical (copyRun s c) := by
  unfold copyRun
  split
  · dsimp only
    split
    · exact parkWith_canonical h
    · exact copyBegin_canonical h
  · dsimp only
    split
    · exact parkWith_canonical h
    · exact copySend_canonical h
  · dsimp only
    split
    · exact parkWith_canonical h
    · exact copyRead_canonical h

theorem copyStep_canonical {h' q} (h : Canonical s) : Canonical (copyStep h' q s) := by
  unfold copyStep
  cases findCmd s h' q with
  | none => exact h
  | some =>
    exact canonical_ite h (canonical_ite (canonical_ite (pend_canonical h)
      (canonical_ite (copyRun_canonical (modCmd_canonical h)) (canonical_ite (pend_canonical h) (pend_canonical h.update))))
      (canonical_ite (copyRun_canonical h) h))

theorem execMcrun_canonical {h' q} (h : Canonical s) : CanonicalOut (execMcrun h' q s) := by
  unfold execMcrun
  cases findCmd s h' q with
  | none => exact h
  | some x =>
    refine canonicalOut_ite h ?_
    refine canonicalOut_ite (pend_canonical h) ?_
    cases mcrunBad s x with
    | none => exact canonicalOut_ite (pend_canonical h) (addThread_canonical (modCmd_canonical h))
    | some => exact parkWith_canonical (modCmd_canonical h)

theorem execMcrunEnd_canonical {h' q} (h : Canonical s) : CanonicalOut (execMcrunEnd h' q s) := by
  unfold execMcrunEnd
  cases List.find? (isProg h' q) (allThreads s) with
  | none => exact h
  | some =>
    split
    · exact h
    · split
      · exact canonicalOut_ite (pend_canonical h) (endCmd_canonical (modProg_canonical h))
      · exact h

theorem sendRows_canonical {s0 t' src la dst n l} (h : Canonical s) : Canonical (sendRows s0 t' src la dst n l s).1 := by
  induction l generalizing s with
  | nil => exact h
  | cons i r ih => exact ih (s := pend _ _) (newOrigin_canonical (useTlbs_canonical h))

theorem streamRows_canonical {i needs bad tag src la dst rows n} (h : Canonical s) : CanonicalOut
  (streamRows i needs bad tag src la dst rows n s) := by
  unfold streamRows
  cases s.th.prog with
  | none => exact illegalNow_canonical h
  | some => exact conclude_canonical h (setTh_canonical (sendRows_canonical h))

theorem execSpref_canonical {a b rows len} (h : Canonical s) : CanonicalOut (execSpref a b rows len s) := by
  unfold execSpref
  dsimp only
  split
  · exact illegalNow_canonical h
  · exact conclude_canonical h (setTh_canonical (foldl_canonical (useTlbs_canonical h) (fun _ _ h => touchLine_canonical h)))

theorem execSwait_canonical {m} (h : Canonical s) : CanonicalOut (execSwait m s) := by
  unfold execSwait
  cases s.th.prog with
  | none => exact illegalNow_canonical h
  | some => exact canonicalOut_ite (illegalNow_canonical h) (conclude_canonical h (setTh_canonical h))

/-! ### The functions of System -/

theorem abandonWait_canonical (h : Canonical s) : Canonical (abandonWait s) := by
  unfold abandonWait
  refine setTh_canonical ?_
  split
  · exact leaveLine_canonical h
  · exact h

theorem writeSpecial_canonical {n v} (h : Canonical s) : Canonical (writeSpecial s n v) :=
  canonical_ite (setTh_canonical h) (canonical_ite (setTh_canonical h)
    (canonical_ite (setTh_canonical h) (canonical_ite (setTh_canonical h)
    (canonical_ite (abandonWait_canonical (setTh_canonical h))
    (canonical_ite (setTh_canonical h) (canonical_ite (setTh_canonical h) h))))))

theorem execRdsr_canonical {d n} (h : Canonical s) : CanonicalOut (execRdsr d n s) := by
  unfold execRdsr
  cases readSpecial s n.toNat with
  | none => exact illegalNow_canonical h
  | some => exact conclude_canonical h (plainPlan_canonical (setTh_canonical h))

theorem execWrsr_canonical {a n} (h : Canonical s) : CanonicalOut (execWrsr a n s) :=
  canonicalOut_ite (conclude_canonical h (writeSpecial_canonical (setTh_canonical h))) (illegalNow_canonical h)

theorem execTrap_canonical {c} (h : Canonical s) : CanonicalOut (execTrap c s) :=
  conclude_canonical h (plainPlan_canonical (setTh_canonical h))

theorem execBkpt_canonical (h : Canonical s) : CanonicalOut (execBkpt s) :=
  conclude_canonical h (plainPlan_canonical (setTh_canonical h))

theorem fetchBundle_canonical {t pc} (h : Canonical s) : Canonical (fetchBundle s t pc).1 := by
  unfold fetchBundle
  split
  · exact h
  · exact rdPiece_canonical (useTlb_canonical h)

theorem reenter_canonical {i} (h : Canonical s) : Canonical (reenter s i) := by
  unfold reenter
  split
  · exact canonical_ite (setTh_canonical h) (setTh_canonical h)
  · exact setTh_canonical h
  · exact canonical_ite (setTh_canonical h) (setTh_canonical h)
  · exact canonical_ite (setTh_canonical h) (setTh_canonical h)
  · dsimp only
    split
    all_goals exact setTh_canonical h
  · exact setTh_canonical (abandonWait_canonical h)

theorem execTret_canonical (h : Canonical s) : CanonicalOut (execTret s) := by
  unfold execTret
  exact conclude_canonical h (canonical_ite (reenter_canonical (fetchBundle_canonical h)) (setTh_canonical h))

/-! ### The functions of Preempt -/

theorem execProgress_canonical {g} (h : Canonical s) : CanonicalOut (execProgress g s) :=
  canonicalOut_ite (setStatus_canonical (foldl_canonical h.update (fun _ _ h => writeImage_canonical h))) h

theorem beginSave_canonical {t a} (h : Canonical s) : Canonical (beginSave s t a) :=
  leaveAgreements_canonical (pend_canonical (modThread_canonical (setDir_canonical h)))

theorem execSaveStart_canonical {h'} (h : Canonical s) : CanonicalOut (execSaveStart h' s) := by
  unfold execSaveStart
  cases findThread s h' with
  | none => exact h
  | some x =>
    refine canonicalOut_ite ?_ ?_
    · cases imagePlace s x with
      | none => exact h
      | some => exact beginSave_canonical h
    · split
      · exact canonical_ite (pend_canonical h) h
      · exact h

theorem emptyMortar_canonical {t} (h : Canonical s) : Canonical (emptyMortar s t) := setCore_canonical h

theorem applyMortar_canonical {h' place l} (h : Canonical s) : Canonical (applyMortar s h' place l) := by
  induction l generalizing s with
  | nil => exact h
  | cons p r ih =>
    simp only [applyMortar]
    split
    · exact h
    · exact ih (deliver_canonical h)

theorem recordFatal_canonical {t} (h : Canonical s) : Canonical (recordFatal s t) :=
  abortLaunch_canonical (gWr_canonical (gWr_canonical (gWr_canonical (gWr_canonical h))))

theorem reportSave_canonical {t' why w} (h : Canonical s) : Canonical (reportSave s t' why w) := by
  unfold reportSave
  extract_lets i j run target k s1 e s2 s3 s4 s5 s6 s7
  have h4 : Canonical s4 := writeImage_canonical (modThread_canonical (setDir_canonical (setCore_canonical h)))
  have h5 : Canonical s5 := canonical_ite (enqueueResume_canonical h4) h4
  have h6 : Canonical s6 := canonical_ite (recordFatal_canonical h5) h5
  clear_value s6
  refine pendOnce_canonical ?_
  dsimp only [s7]
  split
  · exact canonical_ite (beginExit_canonical h6) h6
  · exact h6

theorem execSaveReport_canonical {h'} (h : Canonical s) : CanonicalOut (execSaveReport h' s) := by
  unfold execSaveReport
  cases findThread s h' with
  | none => exact h
  | some =>
    split
    · exact h
    · split
      · exact canonicalOut_ite (pend_canonical h) (canonicalOut_ite
          (pend_canonical (applyMortar_canonical (emptyMortar_canonical h)))
          (canonicalOut_ite (pend_canonical h) (reportSave_canonical h)))
      · exact h

theorem beginRestore_canonical {h' core slot} (h : Canonical s) : Canonical (beginRestore s h' core slot) := by
  unfold beginRestore
  cases findThread s h' with
  | none => exact h
  | some =>
    split
    · exact h
    · split
      · exact modThread_canonical (setCluster_canonical (setDir_canonical (setCore_canonical h)))
      · exact h

theorem execResume_canonical {h' core slot} (h : Canonical s) : CanonicalOut (execResume h' core slot s) := by
  unfold execResume
  cases findThread s h' with
  | none => exact h
  | some =>
    split
    · exact h
    · split
      · exact canonicalOut_ite (pend_canonical (beginRestore_canonical h)) h
      · exact canonical_ite (beginExit_canonical (setDir_canonical
          (modThread_canonical (applyMortar_canonical (emptyMortar_canonical h)))))
          (setDir_canonical (modThread_canonical (applyMortar_canonical (emptyMortar_canonical h))))
      · exact h

/-! ### The functions of Scheduler -/

theorem readList_canonical {a va n} (h : Canonical s) : Canonical (readList s a va n).1 := by
  unfold readList
  split
  · exact h
  · dsimp only
    split
    · exact h
    · exact canonical_fst_ite h (rdPieces_canonical h)

theorem patchNode_canonical {g e} (h : Canonical s) : Canonical (patchNode s g e) :=
  canonical_ite (gWr_canonical h) (canonical_ite (gWr_canonical h) (canonical_ite (gWr_canonical h) (gWr_canonical h)))

theorem patchList_canonical {g asid va} (h : Canonical s) : Canonical (patchList s g asid va).1 := by
  unfold patchList
  split
  · exact canonical_fst ‹_› (readList_canonical h)
  · exact canonical_fst ‹_› (readList_canonical h)
  · exact canonical_fst ‹_› (readList_canonical h)
  · refine canonical_fst_ite (canonical_fst ‹_› (readList_canonical h)) ?_
    split
    · exact canonical_fst ‹_› (readList_canonical (canonical_fst ‹_› (readList_canonical h)))
    · exact canonical_fst ‹_› (readList_canonical (canonical_fst ‹_› (readList_canonical h)))
    · exact canonical_fst ‹_› (readList_canonical (canonical_fst ‹_› (readList_canonical h)))
    · dsimp only
      split
      all_goals exact canonical_fst ‹_› (readList_canonical (canonical_fst ‹_› (readList_canonical h)))

theorem askMmp_canonical {asid va add} (h : Canonical s) : Canonical (askMmp s asid va add) :=
  canonical_ite h.update (pend_canonical h.update)

theorem launchNodes_canonical {g} (h : Canonical s) : Canonical (launchNodes s g) := by
  unfold launchNodes
  cases nodeBad s g with
  | none =>
    exact workAnd_canonical (gWr_canonical (foldl_canonical h
      (fun _ _ h => gWr_canonical (gWr_canonical (gWr_canonical (gWr_canonical h))))))
  | some => exact abortLaunch_canonical h

theorem launchOn_canonical {g list} (h : Canonical s) : Canonical (launchOn s g list) := by
  unfold launchOn
  refine canonical_ite (launchNodes_canonical h) ?_
  split
  · exact askMmp_canonical (canonical_of_tables (by dsimp only; exact (canonical_fst ‹_› (patchList_canonical h)).tables))
  · split
    · exact pendOnce_canonical (canonical_of_tables (by dsimp only; exact (canonical_fst ‹_› (patchList_canonical h)).tables))
    · exact canonical_of_tables (by dsimp only; exact (canonical_fst ‹_› (patchList_canonical h)).tables)
  · exact abortLaunch_canonical (canonical_of_tables (by dsimp only; exact (canonical_fst ‹_› (patchList_canonical h)).tables))
  · exact launchNodes_canonical (foldl_canonical (canonical_of_tables
      (by dsimp only; exact (canonical_fst ‹_› (patchList_canonical h)).tables)) (fun _ _ h => patchNode_canonical h))

theorem launch_canonical {g chan grun list} (h : Canonical s) : Canonical (launch s g chan grun list) :=
  launchOn_canonical (canonical_of_tables (by dsimp only; exact (setStatus_canonical h).tables))

theorem refuseTrigger_canonical {c rest err} (h : Canonical s) : Canonical (refuseTrigger s c rest err) :=
  canonical_ite (msix_canonical (setChan_canonical h)) (pendOnce_canonical (msix_canonical (setChan_canonical h)))

theorem execLaunchStart_canonical {c} (h : Canonical s) : CanonicalOut (execLaunchStart c s) := by
  unfold execLaunchStart
  dsimp only
  split
  · split
    · exact launchOn_canonical h
    · exact h
  · cases (chanAt s c).fifo with
    | nil => exact h
    | cons =>
      exact canonicalOut_ite h (canonicalOut_ite (refuseTrigger_canonical h)
        (canonicalOut_ite (refuseTrigger_canonical h) (canonicalOut_ite (pend_canonical h)
        (launch_canonical (setChan_canonical h)))))

theorem setFunc_canonical {f k} (h : Canonical s) : Canonical (setFunc s f k) := h.update

theorem trigger_canonical {c v} (h : Canonical s) : Canonical (trigger s c v).1 :=
  canonical_fst_ite (pendOnce_canonical (setChan_canonical h)) (setChan_canonical h)

theorem execChtrig_canonical {c v} (h : Canonical s) : CanonicalOut (execChtrig c v s) := canonicalOut_ite h (trigger_canonical h)

theorem execLaunch_canonical {d a b} (h : Canonical s) : CanonicalOut (execLaunch d a b s) := by
  unfold execLaunch
  refine conclude_canonical h ?_
  dsimp only
  exact requestPlan_canonical h (fun _ _ h => answerTo_canonical (trigger_canonical h))

theorem execGrun_canonical {h' q} (h : Canonical s) : CanonicalOut (execGrun h' q s) := by
  unfold execGrun
  cases findCmd s h' q with
  | none => exact h
  | some =>
    refine canonicalOut_ite h ?_
    refine canonicalOut_ite (pend_canonical h) ?_
    refine canonicalOut_ite (endCmd_canonical h) ?_
    refine canonicalOut_ite (pend_canonical h) ?_
    refine canonicalOut_ite (launch_canonical (modCmd_canonical h)) ?_
    split
    · exact askMmp_canonical (canonical_fst ‹_› (patchList_canonical h))
    · exact pend_canonical (canonical_fst ‹_› (patchList_canonical h))
    · exact endCmd_canonical (canonical_fst ‹_› (patchList_canonical h))
    · exact launch_canonical (modCmd_canonical (canonical_fst ‹_› (patchList_canonical h)))

theorem execDepdec_canonical {h' q} (h : Canonical s) : CanonicalOut (execDepdec h' q s) := by
  unfold execDepdec
  cases findCmd s h' q with
  | none => exact h
  | some =>
    refine canonicalOut_ite h ?_
    refine canonicalOut_ite (pend_canonical h) ?_
    dsimp only
    split
    · exact endCmd_canonical h
    · exact canonicalOut_ite (endCmd_canonical h) (canonicalOut_ite (pend_canonical h)
        (canonicalOut_ite (endCmd_canonical (abortLaunch_canonical h))
        (canonicalOut_ite (endCmd_canonical (gWr_canonical h)) (endCmd_canonical (workAnd_canonical h)))))

theorem withoutLower_canonical {q k} (h : Canonical s) : Canonical (withoutLower s q k) := h.update

theorem canonical_of_map_eq_some {α : Type} {o : Option α} {p : α × State} (h : Canonical s)
  (e : o.map (fun w => (w, s)) = some p) :
    Canonical p.2 := by
  obtain ⟨w, -, e⟩ := Option.map_eq_some_iff.mp e
  subst e
  exact h

theorem nextTeam_canonical {p} (h : Canonical s) (e : nextTeam s = some p) : Canonical p.2 := by
  unfold nextTeam at e
  simp only at e
  split at e
  · split at e
    · injection e with e
      subst e
      exact h.update
    · obtain ⟨i, -, e⟩ := List.exists_of_findSome?_eq_some e
      exact canonical_of_map_eq_some h.update e
  · obtain ⟨i, -, e⟩ := List.exists_of_findSome?_eq_some e
    exact canonical_of_map_eq_some h.update e

theorem saveTeam_canonical {n} (h : Canonical s) : Canonical (saveTeam s n) :=
  foldl_canonical h (fun _ _ h => orderSave_canonical h)

theorem makeRoom_canonical {q ks} (h : Canonical s) : Canonical (makeRoom s q ks) := by
  unfold makeRoom
  refine canonical_ite h ?_
  cases victim s q ks with
  | none => exact h
  | some => exact saveTeam_canonical h

theorem makeRooms_canonical {l} (h : Canonical s) : Canonical (makeRooms s l) :=
  foldl_canonical h (fun _ _ h => makeRoom_canonical h)

theorem preemption_canonical (h : Canonical s) : Canonical (preemption s) := by
  unfold preemption
  refine makeRooms_canonical ?_
  split
  · exact canonical_ite (makeRoom_canonical h) h
  · exact h

theorem execTeamPlacement_canonical (h : Canonical s) : CanonicalOut (execTeamPlacement s) := by
  unfold execTeamPlacement
  cases nextResume s with
  | some x => exact pendOnce_canonical (pend_canonical (beginRestore_canonical h))
  | none =>
    cases e : nextTeam s with
    | none => exact preemption_canonical h
    | some x =>
      dsimp only
      cases e' : placeTeam _ x.1.graph x.1.node.toNat with
      | none => exact preemption_canonical h
      | some u => exact pendOnce_canonical (placeTeam_canonical (nextTeam_canonical h e).update e')

theorem execPriorityPreemption_canonical {q} (h : Canonical s) : CanonicalOut (execPriorityPreemption q s) := by
  unfold execPriorityPreemption
  refine makeRooms_canonical ?_
  split
  · exact makeRoom_canonical h
  · exact h

theorem execBlockedTeamEviction_canonical (h : Canonical s) : CanonicalOut (execBlockedTeamEviction s) := by
  unfold execBlockedTeamEviction
  split
  · exact saveTeam_canonical h
  · exact h

/-! ### The functions of Mmp -/

theorem tlbDrop_canonical {g tag sel} (h : Canonical s) : Canonical (tlbDrop s g tag sel) := by
  unfold tlbDrop
  split
  · exact setCore_canonical h
  · exact setCluster_canonical h
  · exact h

theorem setOwner_canonical {f o} (h : Canonical s) : Canonical (setOwner s f o) := h.update

theorem own_canonical {f n w} (h : Canonical s) : Canonical (own s f n w) := foldl_canonical h (fun _ _ h => setOwner_canonical h)

theorem zeroFrame_canonical {f} (h : Canonical s) : Canonical (zeroFrame s f) := ⟨⟨memFilter_wf _ h.1.1, h.1.2⟩, h.2⟩

theorem zeroFrames_canonical {f n} (h : Canonical s) : Canonical (zeroFrames s f n) :=
  foldl_canonical h (fun _ _ h => zeroFrame_canonical h)

theorem zeroUnder_canonical {f n key} (h : Canonical s) : Canonical (zeroUnder s f n key) :=
  canonical_ite h (foldl_canonical h (fun _ _ h => wrPiece_canonical h))

theorem copyFrame_canonical {src dst key} (h : Canonical s) : Canonical (copyFrame s src dst key) :=
  foldl_canonical h (fun _ _ h => wrPiece_canonical (rdPiece_canonical h))

theorem evictFrame_canonical {f key} (h : Canonical s) : Canonical (evictFrame s f key) := by
  unfold evictFrame
  dsimp only
  exact send_canonical (rdPieces_canonical h)

theorem wrEntry_canonical {a w} (h : Canonical s) : Canonical (wrEntry s a w) := wrBytes_canonical h

theorem serveAgain_canonical (h : Canonical s) : Canonical (serveAgain s) := foldl_canonical h (fun _ _ h => pendOnce_canonical h)

theorem beginShoot_canonical {l j done} (h : Canonical s) (hdone : ∀ y0, Canonical y0 → Canonical (done y0)) : Canonical
  (beginShoot s l j done) :=
  canonical_ite (hdone _ h) (foldl_canonical h.update (fun _ _ h => pendOnce_canonical h))

theorem scrubDone_canonical {fs to'} (h : Canonical s) : Canonical (scrubDone s fs to') :=
  foldl_canonical h (fun _ _ h => setOwner_canonical (zeroFrame_canonical h))

theorem scrub_canonical {fs to'} (h : Canonical s) : Canonical (scrub s fs to') :=
  canonical_ite h (beginShoot_canonical (foldl_canonical h (fun _ _ h => setOwner_canonical h))
    (fun _ h => scrubDone_canonical h))

theorem shootDone_canonical {j} (h : Canonical s) : Canonical (shootDone s j) := by
  unfold shootDone
  cases j with
  | tlbi => exact answerTo_canonical h
  | move _ _ x3 =>
    refine serveAgain_canonical ?_
    refine scrub_canonical ?_
    cases x3 with
    | frame =>
      exact canonical_ite (scrub_canonical h) (foldl_canonical (foldl_canonical h (fun _ _ h => copyFrame_canonical h))
        (fun _ _ h => wrEntry_canonical h))
    | host => exact foldl_canonical (foldl_canonical h (fun _ _ h => evictFrame_canonical h)) (fun _ _ h => wrEntry_canonical h)
  | scrub => exact scrubDone_canonical h

theorem shoot_canonical {l j} (h : Canonical s) : Canonical (shoot s l j) :=
  beginShoot_canonical h (fun _ h => shootDone_canonical h)

theorem acknowledge_canonical {g tag sel} (h : Canonical s) : Canonical (acknowledge s g tag sel) :=
  foldl_canonical h.update (fun _ _ h => shootDone_canonical h)

theorem execInvalidationAtAgent_canonical {g tag sel} (h : Canonical s) : CanonicalOut (execInvalidationAtAgent g tag sel s) :=
  canonicalOut_ite (pend_canonical h) (canonicalOut_ite (pend_canonical (tlbDrop_canonical h))
    (acknowledge_canonical (tlbDrop_canonical h)))

theorem fillTlb_canonical {k asid va big l} (h : Canonical s) : Canonical (fillTlb s k asid va big l) := setCluster_canonical h

theorem tlbWrite_canonical {k tag l} (h : Canonical s) : Canonical (tlbWrite s k tag l).1 :=
  canonical_fst_ite h (canonical_fst_ite h (fillTlb_canonical h))

theorem execTlbw_canonical {d a b} (h : Canonical s) : CanonicalOut (execTlbw d a b s) := by
  unfold execTlbw
  exact conclude_canonical h (requestPlan_canonical h (fun _ _ h => answerTo_canonical (tlbWrite_canonical h)))

theorem execTlbi_canonical {d a b} (h : Canonical s) : CanonicalOut (execTlbi d a b s) := by
  unfold execTlbi
  refine conclude_canonical h ?_
  dsimp only
  exact requestPlan_canonical h (fun _ _ h => canonical_ite (answerTo_canonical h) (shoot_canonical h))

theorem logMalformed_canonical {asid va} (h : Canonical s) : Canonical (logMalformed s asid va) := logError_canonical h

theorem execTlbMissWalk_canonical {k asid va} (h : Canonical s) : CanonicalOut (execTlbMissWalk k asid va s) := by
  have ht : Canonical (touchWalk s asid va.toNat) := touchWalk_canonical h
  unfold execTlbMissWalk
  cases walk s asid va.toNat with
  | leaf big l => exact canonicalOut_ite (fillTlb_canonical ht) ht
  | absent => exact ht
  | unmapped m =>
    cases m with
    | true => exact logMalformed_canonical ht
    | false => exact ht

theorem takeTable_canonical {p} (h : Canonical s) (e : takeTable s = some p) : Canonical p.1 := by
  obtain ⟨a, -, ha⟩ := List.exists_of_findSome?_eq_some e
  split at ha
  · cases ha
  · cases ha
    exact ⟨⟨memFilter_wf _ h.1.1, h.1.2⟩, h.2⟩

theorem takeLeafTable_canonical {p} (h : Canonical s) (e : takeLeafTable s = some p) : Canonical p.1 := by
  unfold takeLeafTable at e
  obtain ⟨q, hq, e⟩ := Option.map_eq_some_iff.mp e
  subst e
  dsimp only
  exact foldl_canonical (takeTable_canonical h hq) (fun _ _ h => wrEntry_canonical h)

theorem subTable_canonical {a take p} (h : Canonical s) (ht : ∀ q, take s = some q → Canonical q.1)
  (e : subTable s a take = some p) :
    Canonical p.1 := by
  unfold subTable at e
  simp only at e
  split at e
  · cases e
    exact h
  · obtain ⟨q, hq, rfl⟩ := Option.map_eq_some_iff.mp e
    exact wrEntry_canonical (ht q hq)

theorem pageEntry_canonical {asid va big p} (h : Canonical s) (e : pageEntry s asid va big = some p) : Canonical p.1 := by
  unfold pageEntry at e
  split at e
  · cases e
  · obtain ⟨p1, h1, e⟩ := Option.bind_eq_some_iff.mp e
    obtain ⟨p2, h2, e⟩ := Option.bind_eq_some_iff.mp e
    have hp1 := subTable_canonical h (fun _ => takeTable_canonical h) h1
    have hp2 := subTable_canonical hp1 (fun _ => takeTable_canonical hp1) h2
    simp only at e
    split at e
    · cases e
      exact hp2
    · obtain ⟨p3, h3, e⟩ := Option.map_eq_some_iff.mp e
      subst e
      have hp3 := subTable_canonical hp2 (fun _ => takeLeafTable_canonical hp2) h3
      exact hp3

theorem resolveFault_canonical {f} (h : Canonical s) : Canonical (resolveFault s f) := by
  unfold resolveFault
  refine foldl_canonical ?_ (fun _ _ h => pendOnce_canonical h)
  refine foldl_canonical (foldl_canonical h.update (fun _ _ h => makeRunnable_canonical (modThread_canonical h))) ?_
  intro _ _ h
  split
  · exact pendOnce_canonical h
  · exact h

theorem failFault_canonical {f} (h : Canonical s) : Canonical (failFault s f) :=
  foldl_canonical (foldl_canonical (foldl_canonical h.update (fun _ _ h => makeRunnable_canonical (modThread_canonical h)))
    (fun _ _ h => abortLaunch_canonical h.update)) (fun _ _ h => endCmd_canonical h)

theorem takeFrame_canonical {asid big key p} (h : Canonical s) (e : takeFrame s asid big key = some p) : Canonical p.1 := by
  obtain ⟨f, -, rfl⟩ := Option.map_eq_some_iff.mp e
  exact zeroUnder_canonical (own_canonical (zeroFrames_canonical h))

theorem execPageFaultService_canonical {asid va} (h : Canonical s) : CanonicalOut (execPageFaultService asid va s) := by
  unfold execPageFaultService
  split
  · exact h
  · refine canonicalOut_ite h ?_
    split
    · exact resolveFault_canonical h
    · exact failFault_canonical (canonical_ite (logMalformed_canonical h) h)
    · split
      · exact h
      · refine canonicalOut_ite h ?_
        split
        · exact failFault_canonical h
        · have hs := takeFrame_canonical h ‹_›
          exact canonicalOut_ite (resolveFault_canonical (wrEntry_canonical hs)) (postEvent_canonical (send_canonical hs.update))

theorem execPageMigration_canonical {frame dest} (h : Canonical s) : CanonicalOut (execPageMigration frame dest s) := by
  unfold execPageMigration
  refine canonicalOut_ite h ?_
  refine shoot_canonical ?_
  refine foldl_canonical ?_ (fun _ _ h => wrEntry_canonical h)
  cases dest with
  | frame => exact own_canonical h
  | host => exact h

theorem cancelMoves_canonical {w} (h : Canonical s) : Canonical (cancelMoves s w) := by
  unfold cancelMoves
  exact canonical_of_tables (by dsimp only; exact (foldl_canonical h (fun _ _ h => wrEntry_canonical h)).tables)

theorem undoMove_canonical {d} (h : Canonical s) : Canonical (undoMove s d) := by
  unfold undoMove
  cases d.job with
  | tlbi => exact h
  | move => exact serveAgain_canonical (scrub_canonical (foldl_canonical h.update (fun _ _ h => wrEntry_canonical h)))
  | scrub => exact h

theorem execFrameOwnerChange_canonical {frame w} (h : Canonical s) : CanonicalOut (execFrameOwnerChange frame w s) :=
  canonicalOut_ite h (scrub_canonical (setOwner_canonical (foldl_canonical h (fun _ _ h => undoMove_canonical h))))

theorem ringAsid_canonical {e} (h : Canonical s) : Canonical (ringAsid e s).1 :=
  canonical_fst_ite h (canonical_fst_ite h h.update)

theorem splitPage_canonical {e} (h : Canonical s) (ht : splitPage s e = some t) : Canonical t := by
  obtain ⟨p, hp, rfl⟩ := Option.map_eq_some_iff.mp ht
  exact wrEntry_canonical (foldl_canonical (takeTable_canonical h hp) (fun _ _ h => wrEntry_canonical h))

theorem splitAround_canonical {asid va n} (h : Canonical s) (ht : splitAround s asid va n = some t) : Canonical t := by
  have key (l : List PageEntry) (o : Option State) (ho : ∀ u, o = some u → Canonical u)
      (e : l.foldl (fun o e => o.bind (fun u => splitPage u e)) o = some t) : Canonical t := by
    induction l generalizing o with
    | nil => exact ho t e
    | cons x r ih =>
      refine ih _ (fun u hu => ?_) e
      obtain ⟨v, hv, hu⟩ := Option.bind_eq_some_iff.mp hu
      exact splitPage_canonical (ho v hv) hu
  exact key _ _ (fun u hu => Option.some.inj hu ▸ h) ht

theorem unmapEntries_canonical {es} (h : Canonical s) : Canonical (unmapEntries s es) :=
  scrub_canonical (foldl_canonical (foldl_canonical h (fun _ _ h => setOwner_canonical h)) (fun _ _ h => wrEntry_canonical h))

theorem mapPage_canonical {asid template now kind p} (h : Canonical s) (ht : mapPage s asid template now kind p = some t) :
    Canonical t := by
  obtain ⟨q, hq, ht⟩ := Option.bind_eq_some_iff.mp ht
  have hc := pageEntry_canonical h hq
  split at ht
  · obtain ⟨r, hr, rfl⟩ := Option.map_eq_some_iff.mp ht
    exact wrEntry_canonical (takeFrame_canonical hc hr)
  · cases ht
    exact wrEntry_canonical hc

theorem mapPages_canonical {asid template now kind l} (h : Canonical s) (ht : mapPages s asid template now kind l = some t) :
    Canonical t := by
  induction l generalizing s with
  | nil => cases ht; exact h
  | cons p r ih =>
    obtain ⟨u, hu, ht⟩ := Option.bind_eq_some_iff.mp ht
    exact ih (mapPage_canonical h hu) ht

theorem settleRange_canonical {asid va n} (h : Canonical s) : Canonical (settleRange s asid va n) :=
  serveAgain_canonical (scrub_canonical (canonical_of_tables
    (by dsimp only; exact (foldl_canonical h (fun _ _ h => undoMove_canonical h)).tables)))

theorem ringMap_canonical {e} (h : Canonical s) : Canonical (ringMap e s).1 := by
  unfold ringMap
  refine canonical_fst_ite h (canonical_fst_ite h ?_)
  split
  · exact h
  · rename_i e
    obtain ⟨v, hv, e⟩ := Option.bind_eq_some_iff.mp e
    exact (mapPages_canonical (unmapEntries_canonical (splitAround_canonical (settleRange_canonical h) hv)) e).update

theorem ringUnmap_canonical {e} (h : Canonical s) : Canonical (ringUnmap e s).1 := by
  unfold ringUnmap
  refine canonical_fst_ite h (canonical_fst_ite h ?_)
  split
  · exact h
  · exact unmapEntries_canonical (splitAround_canonical (settleRange_canonical h) ‹_›)

theorem ringWritten_canonical {e} (h : Canonical s) : Canonical (ringWritten e s).1 := by
  unfold ringWritten
  refine canonical_fst_ite h ?_
  split
  · exact h
  · split
    · dsimp only
      split
      · exact failFault_canonical h
      · exact resolveFault_canonical (wrEntry_canonical h)
    · dsimp only
      split
      · exact failFault_canonical h
      · exact failFault_canonical (scrub_canonical h)

/-! ### The functions of Tree -/

theorem engRead_canonical {asid va n} (h : Canonical s) : Canonical (engRead s asid va n).1 := by
  unfold engRead
  refine foldl_canonical_fst h ?_
  intro _ _ h
  split
  · exact rdPiece_canonical h
  · exact h

theorem engWrite_canonical {asid va b} (h : Canonical s) : Canonical (engWrite s asid va b) := by
  unfold engWrite
  refine foldl_canonical h ?_
  intro _ _ h
  split
  · exact wrPiece_canonical h
  · exact h

theorem engAsk_canonical {c asid va n} (h : Canonical s) : Canonical (engAsk s c asid va n) := by
  unfold engAsk
  refine foldl_canonical h ?_
  intro _ _ h
  split
  · exact askWalk_canonical h
  · exact askWalk_canonical h
  · exact h

theorem wrNode_canonical {t i x} (h : Canonical s) : Canonical (wrNode s t i x) := engWrite_canonical h

theorem setTree_canonical {k n t} (h : Canonical s) : Canonical (setTree s k n t) := setCluster_canonical h

theorem descend_canonical {r x p depth} (h : Canonical s) : Canonical (descend s r x p depth).1 := by
  unfold descend
  refine canonical_fst_ite h ?_
  extract_lets y z u
  have hu : Canonical u := wrNode_canonical h
  clear_value u z y
  split
  · exact hu
  · split
    · split
      · exact hu
      · exact setTree_canonical (wrNode_canonical h)
    · split
      · exact hu
      · exact wrNode_canonical hu

theorem expand_canonical {r x leaf table k mine} (h : Canonical s) : Canonical (expand s r x leaf table k mine).1 := by
  have hback {v} : Canonical (setTree s r.cluster r.t v) := setTree_canonical h
  exact canonical_fst_ite hback (canonical_fst_ite hback
    (canonical_fst_ite hback (canonical_fst_ite hback (canonical_fst_ite hback
    (canonical_fst_ite hback (canonical_fst_ite (setTree_canonical (wrNode_canonical h)) (setTree_canonical (wrNode_canonical
      (foldl_canonical (engRead_canonical h) (fun _ _ h => wrNode_canonical h))))))))))

theorem backUp_canonical {x i v full n z} (h : Canonical s) : Canonical (backUp s x i v full n z).1 := by
  unfold backUp
  refine canonical_fst_ite h (canonical_fst_ite h (canonical_fst_ite h ?_))
  extract_lets c sum c1 u z1
  clear_value sum
  have hu : Canonical u := wrNode_canonical h
  clear_value u
  exact canonical_fst_ite hu hu

theorem pushLazy_canonical {t b} (h : Canonical s) : Canonical (pushLazy s t b).1 := by
  unfold pushLazy
  dsimp only
  exact wrNode_canonical h

theorem reroot_canonical {r x c} (h : Canonical s) : Canonical (reroot s r x c).1 := by
  unfold reroot
  extract_lets root y sibs step
  have hstep : ∀ a i, Canonical a.1 → Canonical (step a i).1 := by
    intro a i h
    dsimp only [step]
    refine wrNode_canonical ?_
    split
    · dsimp only
      exact pushLazy_canonical h
    · exact h
  clear_value step sibs y
  refine canonical_fst_ite h (canonical_fst_ite h (canonical_fst_ite h (canonical_fst_ite h (canonical_fst_ite h ?_))))
  cases e : sibs.foldl step (s, x, 0) with
  | mk s1 p =>
    have h1 : Canonical s1 := canonical_fst e (foldl_canonical_fst h hstep)
    have h2 : Canonical (wrNode s1 x root { rdNode s1 x root with flags := 0 }) := wrNode_canonical h1
    refine setTree_canonical (wrNode_canonical (canonical_fst_ite h2 ?_))
    dsimp only
    exact pushLazy_canonical h2

theorem freeBlock_canonical {r x m n} (h : Canonical s) : Canonical (freeBlock s r x m n).1 := by
  unfold freeBlock
  extract_lets b recs t0 step
  have hstep : ∀ a i, Canonical a.1 → Canonical (step a i).1 := fun a i h =>
    wrNode_canonical (canonical_fst_ite (pushLazy_canonical h) h)
  clear_value step recs t0
  refine canonical_fst_ite h (canonical_fst_ite h (canonical_fst_ite h ?_))
  exact setTree_canonical (wrNode_canonical (foldl_canonical_fst h hstep))

theorem bindTree_canonical {r addr init} (h : Canonical s) : Canonical (bindTree s r addr init).1 := by
  unfold bindTree
  dsimp only
  exact canonical_fst_ite h (canonical_fst_ite h (canonical_fst_ite h
    (canonical_fst_ite h (canonical_fst_ite (setTree_canonical
    (foldl_canonical (wrNode_canonical (engWrite_canonical (engRead_canonical h))) (fun _ _ h => wrNode_canonical h)))
    (setTree_canonical (engWrite_canonical (engRead_canonical h)))))))

theorem treeAct_canonical {r x} (h : Canonical s) : Canonical (treeAct s r x).1 := by
  unfold treeAct
  cases r.op with
  | bind a i => exact bindTree_canonical h
  | unbind => exact setTree_canonical (engWrite_canonical h)
  | desc p =>
    cases p with
    | none => exact descend_canonical h
    | some p => exact descend_canonical h
  | expand leaf table k mine => exact expand_canonical h
  | back i v full n z => exact backUp_canonical h
  | reroot c => exact reroot_canonical h
  | read i v => exact canonical_fst_ite h (engRead_canonical h)
  | stat f => exact setTree_canonical h
  | free m n => exact freeBlock_canonical h
  | told v => exact h

theorem treeOutcome_canonical {r} (h : Canonical s) : Canonical (treeOutcome s r).1 := by
  unfold treeOutcome
  refine canonical_fst_ite h ?_
  split
  · exact h
  · exact canonical_fst_ite h (bindTree_canonical h)
  · exact h
  · exact canonical_fst_ite h (canonical_fst_ite h (treeAct_canonical h))

theorem treeAnswer_canonical {r v} (h : Canonical s) : Canonical (treeAnswer s r v) := by
  unfold treeAnswer
  split
  · exact sendLanding_canonical h
  · exact answerTo_canonical h
  · exact h

theorem treeStep_canonical {r} (h : Canonical s) : Canonical (treeStep r s) := by
  unfold treeStep
  have ho : Canonical (treeOutcome s r).1 := treeOutcome_canonical h
  split
  · exact pend_canonical (canonical_fst ‹_› ho)
  · exact pend_canonical (canonical_fst ‹_› ho)
  · exact treeAnswer_canonical (canonical_fst ‹_› ho)

theorem treeTouch_canonical {r} (h : Canonical s) : Canonical (treeTouch r s) := by
  unfold treeTouch
  cases treeAt s r.cluster r.t with
  | none => exact h
  | some => exact canonical_ite h (foldl_canonical h (fun _ _ h => engRead_canonical h))

theorem treeAsk_canonical {r} (h : Canonical s) : Canonical (treeAsk r s) := by
  unfold treeAsk
  split
  · exact canonical_ite h (canonical_ite (canonical_ite (engAsk_canonical h) h) (engAsk_canonical h))
  · exact canonical_ite h (engAsk_canonical h)
  · exact h

theorem treeTurn_canonical {r} (h : Canonical s) : Canonical (treeTurn r s) :=
  treeStep_canonical (treeTouch_canonical (treeAsk_canonical h))

theorem treePlan_canonical {d n reads op} (h : Canonical s) : Canonical (treePlan s d n reads op).next :=
  commandPlan_canonical h (fun _ _ h => pend_canonical h)

theorem treeTold_canonical {d n reads op} (h : Canonical s) : Canonical (treeTold s d n reads op).next :=
  commandPlan_canonical h (fun _ _ h => pend_canonical h)

theorem execTbind_canonical {d n a init} (h : Canonical s) : CanonicalOut (execTbind d n a init s) :=
  conclude_canonical h (treePlan_canonical h)

theorem execTbindUnbind_canonical {d n} (h : Canonical s) : CanonicalOut (execTbindUnbind d n s) :=
  conclude_canonical h (treePlan_canonical h)

theorem execTdesc_canonical {d n} (h : Canonical s) : CanonicalOut (execTdesc d n s) :=
  conclude_canonical h (treePlan_canonical h)

theorem execTexpand_canonical {d n a b c} (h : Canonical s) : CanonicalOut (execTexpand d n a b c s) := by
  unfold execTexpand
  extract_lets x leaf k cl reads p
  have hp : Canonical p.next := treePlan_canonical h
  clear_value p
  refine conclude_canonical h ?_
  split
  · split
    · exact hp
    · split
      · exact treeTold_canonical h
      · exact hp
      · exact hp
      · exact treeTold_canonical (setTree_canonical h)
  · exact hp

theorem execTback_canonical {d n a b vl} (h : Canonical s) : CanonicalOut (execTback d n a b vl s) :=
  conclude_canonical h (treePlan_canonical h)

theorem execTreroot_canonical {d n a} (h : Canonical s) : CanonicalOut (execTreroot d n a s) :=
  conclude_canonical h (treePlan_canonical h)

theorem execTrdn_canonical {v n a} (h : Canonical s) : CanonicalOut (execTrdn v n a s) :=
  conclude_canonical h (pend_canonical (newOrigin_canonical (setTh_canonical (countRequest_canonical h))))

theorem execTstat_canonical {d n f} (h : Canonical s) : CanonicalOut (execTstat d n f s) :=
  conclude_canonical h (treePlan_canonical h)

theorem execTfree_canonical {d n a} (h : Canonical s) : CanonicalOut (execTfree d n a s) :=
  conclude_canonical h (treePlan_canonical h)

/-! ### The functions of Bond -/

theorem sendDecision_canonical {m own g to' bad} (h : Canonical s) : Canonical (sendDecision s m own g to' bad) :=
  foldl_canonical h.update (fun _ _ h => canonical_ite (pend_canonical h) (pend_canonical h))

theorem tryDecide_canonical {n} (h : Canonical s) : Canonical (tryDecide s n) := by
  unfold tryDecide
  cases meshOf s n.world with
  | none => exact h
  | some =>
    split
    · exact h
    · split
      · exact h
      · exact canonical_ite h (sendDecision_canonical h)

theorem faultUnreachable_canonical {dst} (h : Canonical s) : Canonical (faultUnreachable s dst) := by
  unfold faultUnreachable
  refine foldl_canonical h ?_
  intro _ _ h
  split
  · exact h
  · dsimp only
    split
    · exact h
    · exact canonical_ite (sendDecision_canonical h) h

theorem faultUnheard_canonical {dst} (h : Canonical s) : Canonical (faultUnheard s dst) := by
  unfold faultUnheard
  refine foldl_canonical h ?_
  intro _ _ h
  split
  · exact h
  · exact canonical_ite (pend_canonical h) h

theorem announceOwn_canonical {m n} (h : Canonical s) : Canonical (announceOwn s m n) :=
  canonical_ite (tryDecide_canonical (canonical_of_tables
    (by dsimp only; exact (foldl_canonical h (fun _ _ h => pendOnce_canonical (pend_canonical h))).tables)))
    (foldl_canonical h (fun _ _ h => pendOnce_canonical (pend_canonical h)))

theorem execBondAnnouncement_canonical {n} (h : Canonical s) : CanonicalOut (execBondAnnouncement n s) := by
  unfold execBondAnnouncement
  cases meshOf s n.world with
  | none => exact h
  | some => exact canonical_ite (tryDecide_canonical h.update) h

theorem execBondWithdrawal_canonical {n} (h : Canonical s) : CanonicalOut (execBondWithdrawal n s) := by
  unfold execBondWithdrawal
  cases meshOf s n.world with
  | none => exact h
  | some =>
    refine canonicalOut_ite ?_ (canonicalOut_ite (tryDecide_canonical (pend_canonical (takeBack_canonical h))) h)
    split
    · exact dropWait_canonical h
    · exact h

theorem takeBond_canonical {w h' d} (h : Canonical s) : Canonical (takeBond s w h' d) := by
  unfold takeBond
  cases findThread s h' with
  | none => exact h
  | some x =>
    have hm : Canonical (modThread s h' (fun t => advance (setCount t (.s d) 1))) := modThread_canonical h
    have ho := newOrigin_canonical (t := x) (countRequest_canonical (t := x) hm)
    dsimp only
    cases w.result with
    | none => exact ho.update
    | some v => exact answerTo_canonical (canonical_ite ho.update ho.update)

theorem markDrained_canonical {n h'} (h : Canonical s) : Canonical (markDrained s n h') := h.update

theorem takeInDrain_canonical {w} (h : Canonical s) : Canonical (takeInDrain s w) := by
  unfold takeInDrain
  refine foldl_canonical h ?_
  intro _ _ h
  split
  · split
    · exact canonical_ite (markDrained_canonical (takeBond_canonical h)) h
    · exact h
  · exact h

theorem pruneWaits_canonical (h : Canonical s) : Canonical (pruneWaits s) := h.update

theorem landResults_canonical {w v} (h : Canonical s) : Canonical (landResults s w v) :=
  pruneWaits_canonical (foldl_canonical h.update (fun _ _ h => answerTo_canonical h))

theorem execBondDecision_canonical {k go r c} (h : Canonical s) : CanonicalOut (execBondDecision k go r c s) := by
  unfold execBondDecision
  split
  · split
    · exact h.update
    · exact h
  · split
    · split
      · refine takeInDrain_canonical ?_
        refine pend_canonical ?_
        split
        · exact modBond_canonical (modBond_canonical h.update)
        · exact modBond_canonical h.update
      · exact modBond_canonical (pruneWaits_canonical h.update)
      · dsimp only
        split
        · exact landResults_canonical (takeInDrain_canonical h.update)
        · exact takeInDrain_canonical h.update
      · exact h.update
    · split
      · refine takeInDrain_canonical ?_
        refine pend_canonical ?_
        split
        · exact modBond_canonical (modBond_canonical h.update)
        · exact modBond_canonical h.update
      · exact modBond_canonical (pruneWaits_canonical h.update)
      · dsimp only
        split
        · exact landResults_canonical (takeInDrain_canonical h.update)
        · exact takeInDrain_canonical h.update
      · exact h.update

theorem bondLockStep_canonical {k} (h : Canonical s) : Canonical (bondLockStep k s) := by
  unfold bondLockStep
  split
  · exact h
  · split
    · exact h
    · refine canonical_ite (pend_canonical h) ?_
      split
      · exact h
      · refine canonical_ite (pend_canonical ?_) (foldl_canonical ?_ (fun _ _ h => pend_canonical h))
        all_goals exact canonical_of_tables (by dsimp only; exact (engRead_canonical h).tables)

theorem bondUnlock_canonical {e} (h : Canonical s) : Canonical (bondUnlock s e) := h.update

theorem execBondConversion_canonical {k data} (h : Canonical s) : CanonicalOut (execBondConversion k data s) := by
  unfold execBondConversion
  split
  · exact h
  · split
    · refine canonicalOut_ite h ?_
      split
      · exact landResults_canonical (bondUnlock_canonical (setBond_canonical (engWrite_canonical h)))
      · split
        · exact h
        · exact landResults_canonical (bondUnlock_canonical (modBond_canonical (setBond_canonical (engWrite_canonical h))))
    · exact pend_canonical h
    · exact h

/-- The state that an instruction of the bond engine leaves when it is tried is canonical. -/
def CanonicalTry : BondTry → Prop
  | .land _ u => Canonical u
  | .stall u => Canonical u
  | _ => True

theorem canonicalTry_ite {c : Prop} [Decidable c] {x y : BondTry} (hx : CanonicalTry x) (hy : CanonicalTry y) :
    CanonicalTry (if c then x else y) := by
  split
  · exact hx
  · exact hy

theorem bondTried_canonical {d reads x} (h : Canonical s) (hx : CanonicalTry x) : CanonicalOut (bondTried s d reads x) := by
  unfold bondTried
  cases x with
  | land v u =>
    refine conclude_canonical h ?_
    dsimp only
    exact requestPlan_canonical hx (fun _ _ h => answerTo_canonical h)
  | trap v =>
    dsimp only
    exact conclude_canonical h h
  | hold =>
    dsimp only
    exact conclude_canonical h h
  | stall u =>
    dsimp only
    exact canonicalOut_ite (Canonical.update hx) (conclude_canonical h h)
  | take w =>
    dsimp only
    exact conclude_canonical h (takeBond_canonical h)

theorem landStatus_canonical {m b want dst n} (h : Canonical s) : CanonicalTry (landStatus s m b want dst n) := by
  cases m with
  | none => exact h
  | some m => exact canonical_ite h (announceOwn_canonical h)

theorem demand_canonical {d e want dst} (h : Canonical s) : CanonicalTry (demand s d e want dst) := by
  unfold demand
  dsimp only
  split
  · split
    · exact h
    · trivial
    · trivial
  · refine canonicalTry_ite h ?_
    split
    · exact h
    · refine canonicalTry_ite trivial (canonicalTry_ite (landStatus_canonical h) (canonicalTry_ite (landStatus_canonical h) ?_))
      split
      · exact h
      · refine canonicalTry_ite (landStatus_canonical h) (canonicalTry_ite (landStatus_canonical h)
          (canonicalTry_ite trivial (canonicalTry_ite h ?_)))
        split
        · exact canonicalTry_ite h.update trivial
        · exact canonicalTry_ite (pend_canonical h.update) (announceOwn_canonical (modBond_canonical h.update))

theorem giveUpFault_canonical {h' p r} (hr : CanonicalOut r) : CanonicalOut (giveUpFault h' p r) := by
  cases r with
  | next u =>
    refine canonicalOut_ite (pruneWaits_canonical (s := { u with bondWaits := _ }) ?_) hr
    exact Canonical.update hr
  | fault f => exact hr
  | refused f => exact hr

theorem execPload_canonical {d a b} (h : Canonical s) : CanonicalOut (execPload d a b s) :=
  giveUpFault_canonical (bondTried_canonical h (demand_canonical h))

theorem execPconv_canonical {d a b c} (h : Canonical s) : CanonicalOut (execPconv d a b c s) :=
  giveUpFault_canonical (bondTried_canonical h (demand_canonical h))

theorem takeSync_canonical {mask} (h : Canonical s) : Canonical (takeSync s mask).1 := by
  unfold takeSync
  split
  all_goals exact h.update

theorem syncTry_canonical {d mask v} (h : Canonical s) : CanonicalTry (syncTry s d mask v) := by
  unfold syncTry
  dsimp only
  split
  · split
    · exact h
    · trivial
    · trivial
  · split
    · exact h
    · refine canonicalTry_ite h (announceOwn_canonical ?_)
      refine canonical_of_tables ?_
      dsimp only
      exact (takeSync_canonical h).tables

theorem execPsync_canonical {d a mask} (h : Canonical s) : CanonicalOut (execPsync d a mask s) :=
  giveUpFault_canonical (bondTried_canonical h (syncTry_canonical h))

theorem declare_canonical {o asid e desc} (h : Canonical s) : Canonical (declare s o asid e desc).1 := by
  unfold declare
  dsimp only
  refine canonical_fst_ite h ?_
  cases meshOf s o.world with
  | none => exact h
  | some =>
    exact canonical_fst_ite h (canonical_fst_ite h (canonical_fst_ite (setBond_canonical (engRead_canonical h))
      (engRead_canonical h)))

theorem dropEntry_canonical {e} (h : Canonical s) : Canonical (dropEntry s e).1 := by
  unfold dropEntry
  extract_lets s1
  have h1 : Canonical s1 :=
    foldl_canonical h (fun _ _ h => canonical_ite (withdraw_canonical h) (tryDecide_canonical (withdraw_canonical h)))
  exact canonical_fst_ite h1 (setBond_canonical h1)

theorem bondAct_canonical {o asid op} (h : Canonical s) : Canonical (bondAct s o asid op).1 := by
  unfold bondAct
  refine canonical_fst_ite h ?_
  extract_lets with'
  have hw : ∀ e f, (∀ b, Canonical (f b).1) → Canonical (with' e f).1 := by
    intro e f hf
    dsimp only [with']
    cases bondAt s e with
    | none => exact h
    | some b => exact canonical_fst_ite h (canonical_fst_ite h (hf b))
  clear_value with'
  cases op with
  | decl e desc => exact declare_canonical h
  | set e st =>
    refine hw e _ (fun b => ?_)
    cases meshOf s o.world with
    | none => exact h
    | some m => exact canonical_fst_ite h (setBond_canonical h)
  | qry e f =>
    refine canonical_fst_ite ?_ (hw e _ (fun b => h))
    cases meshOf s o.world with
    | none => exact h
    | some m => exact h
  | drop e => exact hw e _ (fun b => dropEntry_canonical h)

theorem bondRequestStep_canonical {o d asid op} (h : Canonical s) : Canonical (bondRequestStep o d asid op s) := by
  unfold bondRequestStep
  have ha : Canonical (bondAct s o asid op).1 := bondAct_canonical h
  split
  · exact pend_canonical (canonical_fst ‹_› ha)
  · exact answerTo_canonical (canonical_fst ‹_› ha)

theorem bondAsk_canonical {o asid op} (h : Canonical s) : Canonical (bondAsk o asid op s) := by
  unfold bondAsk
  split
  · exact canonical_ite h (canonical_ite (canonical_ite (engAsk_canonical (engAsk_canonical h)) h) (engAsk_canonical h))
  · exact h

theorem bondTurn_canonical {o d asid op} (h : Canonical s) : Canonical (bondTurn o d asid op s) :=
  bondRequestStep_canonical (bondAsk_canonical h)

theorem bondPlan_canonical {d reads op} (h : Canonical s) : CanonicalOut (bondPlan s d reads op) :=
  conclude_canonical h (commandPlan_canonical h (fun _ _ h => pend_canonical h))

/-! ### The functions of Control -/

theorem execBcond_canonical {c a b o} (h : Canonical s) : CanonicalOut (execBcond c a b o s) := by
  unfold execBcond
  exact conclude_canonical h (plainPlan_canonical (setTh_canonical h))

theorem jumpLink_canonical {slot d target} (h : Canonical s) : CanonicalOut (jumpLink slot d target s) :=
  conclude_canonical h (plainPlan_canonical (setTh_canonical h))

theorem execJalr_canonical {d a i} (h : Canonical s) : CanonicalOut (execJalr d a i s) := by
  unfold execJalr
  exact conclude_canonical h (setTh_canonical h)

theorem setPresence_canonical {r c detail} (h : Canonical s) : CanonicalOut (setPresence r c detail s) :=
  canonicalOut_ite (illegalNow_canonical h) (conclude_canonical h (setTh_canonical h))

theorem execWaitp_canonical {r q} (h : Canonical s) : CanonicalOut (execWaitp r q s) := conclude_canonical h (setTh_canonical h)

/-! ### The functions of Network -/

theorem acceptNet_canonical {t kind n} (h : Canonical s) : Canonical (acceptNet s t kind n) :=
  canonical_ite (endOne_canonical h.update) (pend_canonical (setConn_canonical h.update))

theorem netCommand_canonical {kind d reads bad n} (h : Canonical s) : CanonicalOut (netCommand kind d reads bad n s) := by
  unfold netCommand
  exact conclude_canonical h (acceptNet_canonical (setTh_canonical h))

theorem useKey_canonical {dst cls} (h : Canonical s) (e : useKey s dst cls = some t) : Canonical t := by
  unfold useKey at e
  simp only at e
  split at e
  · cases e
    exact h
  · split at e
    · cases e
      exact h
    · split at e
      · cases e
      · cases e
        exact canonical_ite (postEvent_canonical h) (canonical_ite (postEvent_canonical h) h)

theorem linkStep_canonical {dst cls} (h : Canonical s) (e : linkStep s dst cls = some t) : Canonical t := by
  unfold linkStep at e
  split at e
  · cases e
    exact h
  · split at e
    · exact useKey_canonical h e
    · cases e

theorem emit_canonical {p} (h : Canonical s) : Canonical (emit s p) := canonical_ite (pend_canonical h) (send_canonical h)

theorem emitNew_canonical {p} (h : Canonical s) : Canonical (emitNew s p) :=
  emit_canonical (canonical_ite h (setConn_canonical h))

theorem countPath_canonical {dst cls m e acked} (h : Canonical s) : Canonical (countPath s dst cls m e acked) :=
  canonical_ite h h.update

theorem modNet_canonical {c f} (h : Canonical s) : Canonical (modNet s c f) := modCmd_canonical h

theorem parkNet_canonical {c i f} (h : Canonical s) : Canonical (parkNet s c i f) :=
  parkCmd_canonical (modCmd_canonical (canonical_ite (askWalk_canonical h) h))

theorem settleNet_canonical {h' q} (h : Canonical s) : Canonical (settleNet s h' q) := by
  unfold settleNet
  cases findCmd s h' q with
  | none => exact h
  | some =>
    split
    · exact h
    · split
      · exact h
      · exact canonical_ite h (canonical_ite (canonical_ite (endCmd_canonical h) h) (canonical_ite (endCmd_canonical h) h))

theorem netPacketSend_canonical {c n data} (h : Canonical s) : Canonical (netPacketSend s c n data) := by
  unfold netPacketSend
  split
  · exact pend_canonical h
  · extract_lets i p s2 s3
    have h3 : Canonical s3 := emitNew_canonical (countPath_canonical
      (modCmd_canonical (modNet_canonical (linkStep_canonical h ‹_›))))
    clear_value s3
    exact canonical_ite (endCmd_canonical h3) (canonical_ite (pend_canonical h3) h3)

theorem netPacketStep_canonical {c n} (h : Canonical s) : Canonical (netPacketStep s c n) := by
  unfold netPacketStep
  cases c.reads with
  | none =>
    refine canonical_ite (pend_canonical h) ?_
    cases engineBad s c (localChunks c n n.sent) with
    | none =>
      exact canonical_ite (netPacketSend_canonical h) (canonical_ite (pend_canonical h)
        (pendFirst_canonical (modCmd_canonical (engineTlbs_canonical h))))
    | some => exact canonical_ite (parkNet_canonical h) (pend_canonical h)
  | some =>
    split
    · split
      · exact netPacketSend_canonical h
      · exact pendFirst_canonical (modCmd_canonical (rdPiece_canonical h))
    · refine canonical_ite (pend_canonical h) ?_
      cases engineBad s c (localChunks c n n.sent) with
      | none =>
        exact canonical_ite (netPacketSend_canonical h) (canonical_ite (pend_canonical h)
          (pendFirst_canonical (modCmd_canonical (engineTlbs_canonical h))))
      | some => exact canonical_ite (parkNet_canonical h) (pend_canonical h)

theorem netSendStep_canonical {h' q} (h : Canonical s) : Canonical (netSendStep h' q s) := by
  unfold netSendStep
  dsimp only
  cases findCmd s h' q with
  | none => exact h
  | some =>
    split
    · exact h
    · split
      · exact h
      · exact canonical_ite h (canonical_ite (settleNet_canonical h)
          (canonical_ite h (canonical_ite (pend_canonical h)
          (canonical_ite (endCmd_canonical h) (canonical_ite (sendLanding_canonical (modCmd_canonical (cmdOrigin_canonical h)))
          (netPacketStep_canonical h))))))

theorem netLandStep_canonical {p} (h : Canonical s) : Canonical (netLandStep p s) := by
  unfold netLandStep
  refine canonical_ite h ?_
  refine canonical_ite (pend_canonical h) ?_
  cases landCommand s p with
  | none =>
    split
    · split
      · exact pend_canonical h
      · exact emitNew_canonical (canonical_ite (countPath_canonical (modNet_canonical (linkStep_canonical h ‹_›)))
          (linkStep_canonical h ‹_›))
    · split
      · exact pend_canonical h
      · dsimp only
        split
        · exact emitNew_canonical (linkStep_canonical h ‹_›)
        · exact emitNew_canonical (countPath_canonical (setConn_canonical (linkStep_canonical h ‹_›)))
  | some =>
    split
    · split
      · exact pend_canonical h
      · exact emitNew_canonical (canonical_ite (countPath_canonical (modNet_canonical (linkStep_canonical h ‹_›)))
          (linkStep_canonical h ‹_›))
    · split
      · exact pend_canonical h
      · dsimp only
        split
        · exact emitNew_canonical (linkStep_canonical h ‹_›)
        · exact emitNew_canonical (countPath_canonical (setConn_canonical (linkStep_canonical h ‹_›)))

theorem bondSendStep_canonical {dst m} (h : Canonical s) : Canonical (bondSendStep dst m s) := by
  unfold bondSendStep
  split
  · exact pend_canonical h
  · exact send_canonical (countPath_canonical (setConn_canonical (linkStep_canonical h ‹_›)))

theorem bondTimeoutStep_canonical {dst} (h : Canonical s) : Canonical (bondTimeoutStep dst s) :=
  canonical_ite (pend_canonical h) (canonical_ite h (faultUnheard_canonical (faultUnreachable_canonical h.update)))

theorem answerOutStep_canonical {p why} (h : Canonical s) : Canonical (answerOutStep p why s) := by
  unfold answerOutStep
  split
  · exact pend_canonical h
  · exact send_canonical (linkStep_canonical h ‹_›)

theorem execNfence_canonical (h : Canonical s) : CanonicalOut (execNfence s) := conclude_canonical h (setTh_canonical h)

theorem netPlan_canonical {d reads op} (h : Canonical s) : CanonicalOut (netPlan s d reads op) :=
  conclude_canonical h (commandPlan_canonical h (fun _ _ h => pend_canonical h))

theorem setWindow_canonical {w x} (h : Canonical s) : Canonical (setWindow s w x) := h.update

theorem openWindow_canonical {w asid kind perm base len} (h : Canonical s) : Canonical
  (openWindow s w asid kind perm base len).1 := by
  unfold openWindow
  cases if s.phase = 2 then none else freeWindow s with
  | none => exact h
  | some => exact setWindow_canonical h

theorem serveTakers_canonical {w l} (h : Canonical s) : Canonical (serveTakers w l s) := by
  induction l generalizing s with
  | nil => exact h
  | cons x r ih =>
    simp only [serveTakers]
    split
    · exact h
    · split
      · exact h
      · exact ih (answerTo_canonical h)

theorem dropTakers_canonical {l} (h : Canonical s) : Canonical (dropTakers s l) :=
  foldl_canonical h (fun _ _ h => answerTo_canonical h)

theorem netRecover_canonical {o q cancel} (h : Canonical s) : Canonical (netRecover s o q cancel).1 := by
  unfold netRecover
  split
  · exact h
  · exact canonical_fst_ite (cancelCmd_canonical h) (pend_canonical (restartCmd_canonical h))

theorem netAct_canonical {o d asid op} (h : Canonical s) : Canonical (netAct s o d asid op).1 := by
  unfold netAct
  split
  · exact canonical_fst_ite h (openWindow_canonical h)
  · exact canonical_fst_ite h (openWindow_canonical h)
  · split
    · exact canonical_fst_ite h (pend_canonical (setWindow_canonical (dropTakers_canonical h)))
    · exact h
  · exact h
  · split
    · exact canonical_fst_ite (serveTakers_canonical (setWindow_canonical h)) h
    · exact h
  · split
    · refine canonical_fst_ite ?_ h
      split
      · exact h
      · exact setWindow_canonical h
    · exact h
  · exact netRecover_canonical h
  · exact netRecover_canonical h

theorem netMisses_canonical {o asid op} (h : Canonical s) : Canonical (netMisses o asid op s) := by
  unfold netMisses
  split
  · exact canonical_ite h (engAsk_canonical h)
  · exact canonical_ite h (engAsk_canonical h)
  · exact h

theorem netRequestStep_canonical {o d asid op} (h : Canonical s) : Canonical (netRequestStep o d asid op s) := by
  unfold netRequestStep
  split
  · exact answerTo_canonical (canonical_fst ‹_› (netAct_canonical h))
  · exact canonical_fst ‹_› (netAct_canonical h)

theorem netTurn_canonical {o d asid op} (h : Canonical s) : Canonical (netTurn o d asid op s) :=
  netRequestStep_canonical (netMisses_canonical h)

theorem execWindowRevokeComplete_canonical {o d w} (h : Canonical s) : CanonicalOut (execWindowRevokeComplete o d w s) := by
  unfold execWindowRevokeComplete
  cases windowAt s w with
  | none => exact h
  | some => exact canonicalOut_ite h (canonicalOut_ite (pend_canonical h) (answerTo_canonical (setWindow_canonical h)))

/-! ### The functions of Packets -/

theorem noteKey_canonical {p} (h : Canonical s) : Canonical (noteKey s p) := by
  unfold noteKey
  dsimp only
  split
  · exact h
  · exact canonical_ite h.update h

theorem handOver_canonical {p w} (h : Canonical s) : Canonical (handOver s p w) := by
  unfold handOver
  cases p.landing with
  | none => exact netRefuse_canonical h
  | some =>
    exact canonical_ite (pend_canonical h.update) (canonical_ite (pend_canonical h.update)
      (canonical_ite (pend_canonical h.update) (canonical_ite (pend_canonical h.update)
      (canonical_ite (pend_canonical h.update) (pend_canonical h.update)))))

theorem flight_canonical {w f} (h : Canonical s) : Canonical (flight s w f) := by
  unfold flight
  cases windowAt s w with
  | none => exact h
  | some => exact setWindow_canonical h

theorem beginPlace_canonical {p asid a va n} (h : Canonical s) : Canonical (beginPlace s p asid a va n) :=
  pend_canonical (flight_canonical h)

theorem recordFor_canonical {x p r} (h : Canonical s) (e : recordFor s x p = .ok (t, r)) : Canonical t := by
  unfold recordFor at e
  split at e
  · cases e
    exact h
  · split at e
    · cases e
    · split at e
      · cases e
      · dsimp only at e
        split at e
        · cases e
        · injection e with e
          injection e with e _
          subst e
          exact engWrite_canonical (engWrite_canonical (foldl_canonical h (fun _ _ h => engWrite_canonical h)))

theorem placePacket_canonical {p} (h : Canonical s) : Canonical (placePacket s p) := by
  unfold placePacket
  cases windowAt s p.win with
  | none => exact canonical_ite (handOver_canonical h) (netRefuse_canonical h)
  | some x =>
    dsimp only
    split
    · exact beginPlace_canonical h
    · split
      · exact netRefuse_canonical h
      · exact canonical_ite (netRefuse_canonical h) (beginPlace_canonical (setWindow_canonical (recordFor_canonical h ‹_›)))
    · exact beginPlace_canonical h
    · split
      · exact pend_canonical h
      · exact emit_canonical (netMark_canonical (engWrite_canonical (engRead_canonical (linkStep_canonical h ‹_›))))
    · exact netRefuse_canonical h

theorem countMessage_canonical {p} (h : Canonical s) : Canonical (countMessage s p) := by
  unfold countMessage
  cases windowAt s p.win with
  | none => exact h
  | some => exact serveTakers_canonical (setWindow_canonical h)

theorem placeDone_canonical {p got} (h : Canonical s) : Canonical (placeDone s p got) := by
  unfold placeDone
  refine canonical_ite ?_ (netPlaced_canonical (canonical_ite (countMessage_canonical (flight_canonical h)) (flight_canonical h)))
  split
  · exact pend_canonical h
  · exact emit_canonical (netMark_canonical (flight_canonical (linkStep_canonical h ‹_›)))

theorem netPlaceStep_canonical {p left got} (h : Canonical s) : Canonical (netPlaceStep p left got s) := by
  unfold netPlaceStep
  cases takeAt (choose s left.length) left with
  | none => exact placeDone_canonical h
  | some => exact canonical_ite (pendFirst_canonical (rdPiece_canonical h)) (pendFirst_canonical (wrPiece_canonical h))

theorem arrivePacketNet_canonical {p} (h : Canonical s) : Canonical (arrivePacketNet s p) := by
  unfold arrivePacketNet
  refine canonical_ite (noteKey_canonical h) ?_
  refine canonical_ite (netAck_canonical (noteKey_canonical h)) ?_
  refine canonical_ite (noteKey_canonical h) ?_
  refine canonical_ite (netRefuse_canonical (noteKey_canonical h)) ?_
  refine canonical_ite (netRefuse_canonical (noteKey_canonical h)) ?_
  cases arrivalBad (noteKey s p) p with
  | none =>
    exact canonical_ite (placePacket_canonical (noteKey_canonical h))
      (canonical_ite (netRefuse_canonical (noteKey_canonical h))
      (flight_canonical (canonical_of_tables (by dsimp only; exact (noteKey_canonical h).tables))))
  | some => exact netRefuse_canonical (noteKey_canonical h)

theorem execOrderedPacketRelease_canonical {p} (h : Canonical s) : CanonicalOut (execOrderedPacketRelease p s) := by
  unfold execOrderedPacketRelease
  cases pickOut (fun q => decide (q = p)) s.rxHeld with
  | none => exact h
  | some =>
    exact canonicalOut_ite (netRefuse_canonical (flight_canonical h.update))
      (canonicalOut_ite h (canonicalOut_ite (netRefuse_canonical (flight_canonical h.update))
      (placePacket_canonical (flight_canonical h.update))))

theorem stale_canonical (h : Canonical s) : Canonical (stale s) := h.update

theorem markAnswered_canonical {c off} (h : Canonical s) : Canonical (markAnswered s c off) := modNet_canonical h

theorem hear_canonical {c n p} (h : Canonical s) : Canonical (hear s c n p) :=
  canonical_ite h (countPath_canonical (modNet_canonical h))

theorem execNetAcknowledgement_canonical {p} (h : Canonical s) : CanonicalOut (execNetAcknowledgement p s) := by
  unfold execNetAcknowledgement
  refine canonicalOut_ite (canonicalOut_ite (countPath_canonical (setConn_canonical h))
    (canonicalOut_ite (countPath_canonical (setConn_canonical h)) h)) ?_
  cases answeredCmd s p p.dst with
  | none => exact stale_canonical h
  | some =>
    exact canonicalOut_ite (hear_canonical h) (canonicalOut_ite (endLanded_canonical (markAnswered_canonical (hear_canonical h)))
      (settleNet_canonical (modCmd_canonical (markAnswered_canonical (hear_canonical h)))))

theorem landReadReply_canonical {p} (h : Canonical s) : Canonical (landReadReply p s) := by
  unfold landReadReply
  cases answeredCmd s p p.src with
  | none => exact stale_canonical h
  | some x =>
    refine canonical_ite (hear_canonical h) ?_
    refine canonical_ite (pend_canonical (hear_canonical h)) ?_
    cases engineBad s x.1 (localChunks x.1 x.2 (p.off / x.2.seg)) with
    | none =>
      exact canonical_ite (pend_canonical (hear_canonical h))
        (settleNet_canonical (sendRun_canonical (markAnswered_canonical (hear_canonical h))))
    | some => exact pend_canonical (parkNet_canonical (hear_canonical h))

theorem execNetReadReply_canonical {p} (h : Canonical s) : CanonicalOut (execNetReadReply p s) :=
  canonical_ite (landReadReply_canonical (noteKey_canonical h)) h

theorem landAtom_canonical {c la b} (h : Canonical s) : Canonical (landAtom s c la b) := by
  unfold landAtom
  dsimp only
  exact canonical_ite (failLanding_canonical (cmdOrigin_canonical (engineTlbs_canonical h)))
    (sendLanding_canonical (modCmd_canonical (cmdOrigin_canonical (engineTlbs_canonical h))))

theorem landAtomicReply_canonical {p} (h : Canonical s) : Canonical (landAtomicReply p s) := by
  unfold landAtomicReply
  cases answeredCmd s p p.src with
  | none => exact stale_canonical h
  | some x =>
    refine canonical_ite (hear_canonical h) ?_
    refine canonical_ite (pend_canonical (hear_canonical h)) ?_
    refine settleNet_canonical ?_
    cases x.2.reply with
    | none => exact markAnswered_canonical (hear_canonical h)
    | some => exact landAtom_canonical (markAnswered_canonical (hear_canonical h))

theorem execNetAtomicReply_canonical {p} (h : Canonical s) : CanonicalOut (execNetAtomicReply p s) :=
  canonical_ite (landAtomicReply_canonical (noteKey_canonical h)) h

theorem execNetRefusal_canonical {p why} (h : Canonical s) : CanonicalOut (execNetRefusal p why s) := by
  unfold execNetRefusal
  refine canonicalOut_ite (foldl_canonical (setRx_canonical h) (fun _ _ h => pendOnce_canonical h)) ?_
  cases why with
  | status =>
    refine canonicalOut_ite (setConn_canonical h) ?_
    refine canonicalOut_ite ?_ ?_
    · cases p.landing.bind fun l => List.find? (samePacket l) s.copies with
      | none => exact h
      | some => exact failed_canonical h
    · cases answeredCmd s p p.dst with
      | none => exact stale_canonical h
      | some =>
        exact canonicalOut_ite (endCmd_canonical (dropLanding_canonical h))
          (canonicalOut_ite h (settleNet_canonical (modNet_canonical (markAnswered_canonical h))))
  | retry => exact canonicalOut_ite (pendOnce_canonical h) (stale_canonical h)
  | notReady => exact canonicalOut_ite (pendOnce_canonical h) (stale_canonical h)

theorem execTransportResend_canonical {p} (h : Canonical s) : CanonicalOut (execTransportResend p s) := by
  unfold execTransportResend
  refine canonicalOut_ite h ?_
  split
  · exact pend_canonical h
  · split
    · exact send_canonical (linkStep_canonical h ‹_›)
    · exact emit_canonical (linkStep_canonical h ‹_›)

theorem execNetworkTimeout_canonical {h' q} (h : Canonical s) : CanonicalOut (execNetworkTimeout h' q s) := by
  unfold execNetworkTimeout
  cases findCmd s h' q with
  | none => exact h
  | some =>
    split
    · exact h
    · split
      · exact h
      · exact canonicalOut_ite h (endCmd_canonical (canonical_ite (dropLanding_canonical h) h))

theorem execSaKeyInstall_canonical {sa next key} (h : Canonical s) : CanonicalOut (execSaKeyInstall sa next key s) :=
  canonical_ite h.update h

/-! ### The functions of Trust -/

theorem clearEn_canonical {c} (h : Canonical s) : Canonical (clearEn s c) := by
  unfold clearEn
  dsimp only
  split
  · exact abortLaunch_canonical (setChan_canonical h)
  · exact setChan_canonical h

theorem releaseClaims_canonical {mine} (h : Canonical s) : Canonical (releaseClaims s mine) := by
  refine ⟨h.1, forall_mem_filter_map (P := fun e => UnitWf e.2) h.units (fun k hk => ⟨?_, ?_⟩)⟩
  · exact forall_mem_filter_map (P := fun x => SlotWf x.2) hk.1 (fun x (hx : SlotWf x.2) => hx)
  · exact forall_mem_filter_map (P := fun x => TileWf x.2) hk.2 (fun x (hx : TileWf x.2) => hx)

theorem dropAnnounced_canonical {mine} (h : Canonical s) : Canonical (dropAnnounced s mine) := by
  unfold dropAnnounced
  refine foldl_canonical h.update ?_
  intro _ _ h
  split
  · exact h
  · exact canonical_ite h (pend_canonical h)

theorem dropBonds_canonical {mine} (h : Canonical s) : Canonical (dropBonds s mine) := by
  unfold dropBonds
  exact canonical_of_tables (by dsimp only; exact (dropAnnounced_canonical
    (foldl_canonical h (fun _ _ h => tryDecide_canonical
    (canonical_of_tables (by dsimp only; exact (withdraw_canonical h).tables))))).tables)

theorem dropTrees_canonical {mine} (h : Canonical s) : Canonical (dropTrees s mine) := h.update

theorem dropWindows_canonical {mine} (h : Canonical s) : Canonical (dropWindows s mine) := h.update

theorem beginDestroy_canonical {w} (h : Canonical s) : Canonical (beginDestroy s w) :=
  foldl_canonical (foldl_canonical h (fun _ _ h => canonical_ite (clearEn_canonical (setChan_canonical h)) h))
    (fun _ _ h => abortLaunch_canonical h)

theorem eraseWorld_canonical {w} (h : Canonical s) : Canonical (eraseWorld s w) :=
  scrub_canonical (cancelMoves_canonical h.update)

theorem endDestroy_canonical {w} (h : Canonical s) : Canonical (endDestroy s w) :=
  eraseWorld_canonical (dropTrees_canonical (dropBonds_canonical (dropWindows_canonical (releaseClaims_canonical h))))

theorem endSessions_canonical {f} (h : Canonical s) : Canonical (endSessions s f) := h.update

theorem leaveLock_canonical {f st} (h : Canonical s) : Canonical (leaveLock s f st) :=
  canonical_ite h (pend_canonical (setFunc_canonical (endSessions_canonical (beginDestroy_canonical h))))

theorem leaveLockStep_canonical {f st} (h : Canonical s) : Canonical (leaveLockStep f st s) :=
  canonical_ite h (canonical_ite (pend_canonical h) (send_canonical (setFunc_canonical (endDestroy_canonical h))))

theorem toError_canonical {f} (h : Canonical s) : Canonical (toError s f) := leaveLock_canonical h

theorem whenRuns_canonical {next} (h : Canonical s) (hnext : Canonical next) : CanonicalOut (whenRuns s next) :=
  canonical_ite hnext h

theorem execLockInterfaceRequest_canonical {f k} (h : Canonical s) : CanonicalOut (execLockInterfaceRequest f k s) :=
  whenRuns_canonical h (canonical_ite (send_canonical (setFunc_canonical h)) (send_canonical h))

theorem execStartInterfaceRequest_canonical {f} (h : Canonical s) : CanonicalOut (execStartInterfaceRequest f s) :=
  whenRuns_canonical h (canonical_ite (send_canonical (setFunc_canonical h)) (send_canonical h))

theorem execStopInterfaceRequest_canonical {f} (h : Canonical s) : CanonicalOut (execStopInterfaceRequest f s) :=
  whenRuns_canonical h (canonical_ite (leaveLock_canonical h)
    (canonical_ite (send_canonical (setFunc_canonical h)) (send_canonical h)))

theorem execGetDeviceInterfaceState_canonical {f} (h : Canonical s) : CanonicalOut (execGetDeviceInterfaceState f s) :=
  whenRuns_canonical h (send_canonical h)

theorem execGetDeviceInterfaceReport_canonical {f} (h : Canonical s) : CanonicalOut (execGetDeviceInterfaceReport f s) :=
  whenRuns_canonical h (send_canonical h)

theorem execIdeStreamFailure_canonical {f} (h : Canonical s) : CanonicalOut (execIdeStreamFailure f s) :=
  whenRuns_canonical h (canonical_ite (toError_canonical h) (setFunc_canonical h))

theorem execBarAddressChange_canonical {f} (h : Canonical s) : CanonicalOut (execBarAddressChange f s) :=
  whenRuns_canonical h (canonical_ite (toError_canonical h) h)

theorem spdmReply_canonical {f kind} (h : Canonical s) : Canonical (spdmReply s f kind) := send_canonical h

theorem execSpdmVersion_canonical {f} (h : Canonical s) : CanonicalOut (execSpdmVersion f s) :=
  whenRuns_canonical h (spdmReply_canonical h)

theorem execSpdmCapabilities_canonical {f} (h : Canonical s) : CanonicalOut (execSpdmCapabilities f s) :=
  whenRuns_canonical h (spdmReply_canonical h)

theorem execSpdmAlgorithms_canonical {f} (h : Canonical s) : CanonicalOut (execSpdmAlgorithms f s) :=
  whenRuns_canonical h (spdmReply_canonical h)

theorem execSpdmDigests_canonical {f} (h : Canonical s) : CanonicalOut (execSpdmDigests f s) :=
  whenRuns_canonical h (spdmReply_canonical h)

theorem execSpdmCertificate_canonical {f slot} (h : Canonical s) : CanonicalOut (execSpdmCertificate f slot s) :=
  whenRuns_canonical h (canonical_ite (spdmReply_canonical h) (send_canonical h))

theorem execSpdmChallenge_canonical {f slot} (h : Canonical s) : CanonicalOut (execSpdmChallenge f slot s) :=
  whenRuns_canonical h (canonical_ite (spdmReply_canonical h) (send_canonical h))

theorem execSpdmMeasurements_canonical {f} (h : Canonical s) : CanonicalOut (execSpdmMeasurements f s) :=
  whenRuns_canonical h (send_canonical h)

theorem execSpdmKeyExchange_canonical {f} (h : Canonical s) : CanonicalOut (execSpdmKeyExchange f s) := by
  unfold execSpdmKeyExchange
  refine whenRuns_canonical h ?_
  cases freeSession s with
  | none => exact send_canonical h
  | some => exact spdmReply_canonical h.update

theorem execSpdmFinish_canonical {f k} (h : Canonical s) : CanonicalOut (execSpdmFinish f k s) :=
  whenRuns_canonical h (canonical_ite (spdmReply_canonical h.update) (send_canonical h))

theorem inSession_canonical {f k next} (h : Canonical s) (hnext : Canonical next) : CanonicalOut (inSession s f k next) :=
  whenRuns_canonical h (canonical_ite hnext (send_canonical h))

theorem execSpdmHeartbeat_canonical {f k} (h : Canonical s) : CanonicalOut (execSpdmHeartbeat f k s) :=
  inSession_canonical h (spdmReply_canonical h)

theorem execSpdmKeyUpdate_canonical {f k} (h : Canonical s) : CanonicalOut (execSpdmKeyUpdate f k s) :=
  inSession_canonical h (spdmReply_canonical h)

theorem execSpdmEndSession_canonical {f k} (h : Canonical s) : CanonicalOut (execSpdmEndSession f k s) :=
  inSession_canonical h (spdmReply_canonical h.update)

theorem execIdeKm_canonical {f k key} (h : Canonical s) : CanonicalOut (execIdeKm f k key s) :=
  inSession_canonical h (spdmReply_canonical h.update)

theorem execProtectedKeyInstall_canonical {f k id key} (h : Canonical s) : CanonicalOut (execProtectedKeyInstall f k id key s) :=
  inSession_canonical h (canonical_ite (spdmReply_canonical h.update) (send_canonical h))

theorem execChctl_canonical {c v} (h : Canonical s) : CanonicalOut (execChctl c v s) :=
  canonicalOut_ite h (canonicalOut_ite (setChan_canonical h)
    (canonicalOut_ite (toError_canonical h) (canonical_ite (setChan_canonical h) (clearEn_canonical (setChan_canonical h)))))

/-! ### The functions of Rings -/

theorem ringMesh_canonical {e map} (h : Canonical s) : Canonical (ringMesh e map s).1 :=
  canonical_fst_ite h (canonical_fst_ite h h.update)

theorem ringJob_canonical {e} (h : Canonical s) : Canonical (ringJob e s).1 :=
  canonical_fst_ite h (canonical_fst_ite h (canonical_fst_ite h.update (canonical_fst_ite h h.update)))

theorem ringPeer_canonical {e} (h : Canonical s) : Canonical (ringPeer e s).1 :=
  canonical_fst_ite h (canonical_fst_ite h h.update)

theorem ringNet_canonical {e} (h : Canonical s) : Canonical (ringNet e s).1 := canonical_fst_ite h (canonical_fst_ite h h.update)

theorem ringBind_canonical {e} (h : Canonical s) : Canonical (ringBind e s).1 :=
  canonical_fst_ite h (canonical_fst_ite (toError_canonical h) (canonical_fst_ite h (setFunc_canonical h)))

theorem ringChannel_canonical {e} (h : Canonical s) : Canonical (ringChannel e s).1 :=
  canonical_fst_ite h (canonical_fst_ite (foldl_canonical h (fun _ _ h => canonical_ite (toError_canonical h) h))
    (canonical_fst_ite h (setChan_canonical h)))

theorem ringVectors_canonical {e} (h : Canonical s) : Canonical (ringVectors e s).1 :=
  canonical_fst_ite h (canonical_fst_ite h (setFunc_canonical h))

theorem ringKey_canonical {e keys} (h : Canonical s) : Canonical (ringKey e keys s).1 :=
  canonical_fst_ite h (canonical_fst_ite h h.update)

theorem ringUnkey_canonical {e} (h : Canonical s) : Canonical (ringUnkey e s).1 := by
  unfold ringUnkey
  refine canonical_fst_ite h ?_
  cases sget none s.keySlots (arg e 8 2) with
  | none => exact h
  | some => exact canonical_fst_ite h h.update

theorem ringDone_canonical {e r} (h : Canonical r.1) : Canonical (ringDone e r) := by
  unfold ringDone
  extract_lets s s1
  have hs : Canonical s := send_canonical h
  have h1 : Canonical s1 := ⟨⟨hs.1.1, hs.1.2.1, wrMem_wf _ _ hs.1.2.2.1, hs.1.2.2.2⟩, hs.2⟩
  clear_value s1 s
  exact canonical_ite (canonical_ite (pendOnce_canonical h1) h1) hs

theorem ringRow_canonical {e op} (h : Canonical s) (hop : Canonical (op e s).1) : CanonicalOut (ringRow e op s) :=
  canonical_ite (s := ringDone e (op e s)) (ringDone_canonical hop) h

theorem execSetAddressSpaceEntry_canonical {e} (h : Canonical s) : CanonicalOut (execSetAddressSpaceEntry e s) :=
  ringRow_canonical h (ringAsid_canonical h)

theorem execMapRange_canonical {e} (h : Canonical s) : CanonicalOut (execMapRange e s) :=
  ringRow_canonical h (ringMap_canonical h)

theorem execUnmapRange_canonical {e} (h : Canonical s) : CanonicalOut (execUnmapRange e s) :=
  ringRow_canonical h (ringUnmap_canonical h)

theorem execHostPageWritten_canonical {e} (h : Canonical s) : CanonicalOut (execHostPageWritten e s) :=
  ringRow_canonical h (ringWritten_canonical h)

theorem execInstallMesh_canonical {e map} (h : Canonical s) : CanonicalOut (execInstallMesh e map s) :=
  ringRow_canonical h (ringMesh_canonical h)

theorem execJobTableEntry_canonical {e} (h : Canonical s) : CanonicalOut (execJobTableEntry e s) :=
  ringRow_canonical h (ringJob_canonical h)

theorem execPeerMapEntry_canonical {e} (h : Canonical s) : CanonicalOut (execPeerMapEntry e s) :=
  ringRow_canonical h (ringPeer_canonical h)

theorem execNetworkParameters_canonical {e} (h : Canonical s) : CanonicalOut (execNetworkParameters e s) :=
  ringRow_canonical h (ringNet_canonical h)

theorem execBindFunctionToWorld_canonical {e} (h : Canonical s) : CanonicalOut (execBindFunctionToWorld e s) :=
  ringRow_canonical h (ringBind_canonical h)

theorem execAssignChannel_canonical {e} (h : Canonical s) : CanonicalOut (execAssignChannel e s) :=
  ringRow_canonical h (ringChannel_canonical h)

theorem execAssignMsixVectors_canonical {e} (h : Canonical s) : CanonicalOut (execAssignMsixVectors e s) :=
  ringRow_canonical h (ringVectors_canonical h)

theorem execInstallKey_canonical {e keys} (h : Canonical s) : CanonicalOut (execInstallKey e keys s) :=
  ringRow_canonical h (ringKey_canonical h)

theorem execRemoveKey_canonical {e} (h : Canonical s) : CanonicalOut (execRemoveKey e s) :=
  ringRow_canonical h (ringUnkey_canonical h)

theorem execUnknownOperation_canonical {e} (h : Canonical s) : CanonicalOut (execUnknownOperation e s) := ringRow_canonical h h

theorem ringOp_canonical {n op e} (h : Canonical s) (ho : ringOp n = some op) : Canonical (op e s).1 := by
  unfold ringOp at ho
  split at ho
  case h_1 => cases ho; exact ringAsid_canonical h
  case h_2 => cases ho; exact ringMap_canonical h
  case h_3 => cases ho; exact ringUnmap_canonical h
  case h_4 => cases ho; exact ringWritten_canonical h
  case h_5 => cases ho
  case h_6 => cases ho; exact ringJob_canonical h
  case h_7 => cases ho; exact ringPeer_canonical h
  case h_8 => cases ho; exact ringNet_canonical h
  case h_9 => cases ho; exact ringBind_canonical h
  case h_10 => cases ho; exact ringChannel_canonical h
  case h_11 => cases ho; exact ringVectors_canonical h
  case h_12 => cases ho
  case h_13 => cases ho; exact ringUnkey_canonical h
  case h_14 => cases ho; exact h

theorem serveRingStep_canonical (h : Canonical s) : Canonical (serveRingStep s) := by
  refine canonical_ite ?_ h
  dsimp only
  cases e : ringOp (arg (entryNow s) 0 1) with
  | none => exact h
  | some op => exact ringDone_canonical (ringOp_canonical h e)

/-! ### The functions of Host -/

theorem writeGraph_canonical {w a b} (h : Canonical s) : Canonical (writeGraph s w a b).1 := by
  unfold writeGraph
  extract_lets met running kept s1
  have h1 : Canonical s1 := ⟨⟨h.1.1, wrMem_wf _ _ h.1.2.1, h.1.2.2⟩, h.2⟩
  clear_value s1
  exact canonical_fst_ite h (canonical_fst_ite (foldl_canonical h (fun _ _ h => setStatus_canonical h)) (canonical_fst_ite h h1))

theorem logDenied_canonical {f a} (h : Canonical s) : Canonical (logDenied s f a) := logError_canonical h

theorem hostRead_canonical {f a n} (h : Canonical s) : Canonical (hostRead s f a n).1 :=
  foldl_canonical_fst h (fun _ _ h => canonical_fst_ite (rdPiece_canonical h) h)

theorem execHostBar2Read_canonical {f off n} (h : Canonical s) : CanonicalOut (execHostBar2Read f off n s) :=
  canonicalOut_ite (send_canonical h) (canonicalOut_ite (send_canonical h)
    (canonicalOut_ite (send_canonical (canonical_ite (logDenied_canonical h) h))
    (send_canonical (hostRead_canonical (canonical_ite (logDenied_canonical h) h)))))

theorem hostWrite_canonical {f a l} (h : Canonical s) : Canonical (hostWrite s f a l) := by
  induction l generalizing s a with
  | nil => exact h
  | cons b r ih => exact ih (canonical_ite (wrPiece_canonical h) h)

theorem execHostBar2Write_canonical {f off data} (h : Canonical s) : CanonicalOut (execHostBar2Write f off data s) := by
  unfold execHostBar2Write
  refine canonicalOut_ite ⟨⟨wrMem_wf _ _ h.1.1, h.1.2⟩, h.2⟩ (canonicalOut_ite h (canonicalOut_ite (canonicalOut_ite h ?_)
    (canonicalOut_ite (pend_canonical h) (hostWrite_canonical (canonical_ite (logDenied_canonical h) h)))))
  have hw : Canonical (writeGraph s (funcAt s f).world off.toNat data).1 := writeGraph_canonical h
  split
  · exact canonical_fst ‹_› hw
  · exact logDenied_canonical (canonical_fst ‹_› hw)

theorem execApbase_canonical {f v} (h : Canonical s) : CanonicalOut (execApbase f v s) :=
  canonicalOut_ite h (canonicalOut_ite (toError_canonical h) (canonicalOut_ite h (setFunc_canonical h)))

theorem deviceWrite_canonical {off v} (h : Canonical s) : Canonical (deviceWrite s off v) :=
  canonical_ite (canonical_ite h.update h) (canonical_ite (canonical_ite h.update h)
    (canonical_ite (canonical_ite h.update h) (canonical_ite (canonical_ite h.update h) h)))

theorem channelWrite_canonical {f off v} (h : Canonical s) : CanonicalOut (channelWrite s f off v) :=
  canonicalOut_ite h (canonicalOut_ite (execChtrig_canonical h)
    (canonicalOut_ite (execChctl_canonical h) (canonicalOut_ite (setChan_canonical h) h)))

theorem msixWrite_canonical {f off v} (h : Canonical s) : Canonical (msixWrite s f off v) :=
  canonical_ite h (canonical_ite (toError_canonical h) ⟨⟨h.1.1, h.1.2.1, h.1.2.2.1, wrMem_wf _ _ h.1.2.2.2⟩, h.2⟩)

theorem pointerWrite_canonical {off v} (h : Canonical s) : Canonical (pointerWrite s off v) :=
  canonical_ite (pendOnce_canonical h.update) (canonical_ite h.update h)

theorem execRegisterWrite_canonical {f off v} (h : Canonical s) : CanonicalOut (execRegisterWrite f off v s) :=
  canonicalOut_ite h (canonicalOut_ite (channelWrite_canonical h) (canonicalOut_ite (execApbase_canonical h)
    (canonicalOut_ite (msixWrite_canonical h) (canonicalOut_ite h (canonicalOut_ite (deviceWrite_canonical h)
      (canonicalOut_ite ⟨⟨h.1.1, h.1.2.1, wrMem_wf _ _ h.1.2.2.1, h.1.2.2.2⟩, h.2⟩ (pointerWrite_canonical h)))))))

/-! ### The functions of Reset -/

theorem resetLaunches_canonical (h : Canonical s) : Canonical (resetLaunches s) := by
  unfold resetLaunches
  refine canonical_of_tables ?_
  dsimp only
  refine Canonical.tables ?_
  refine foldl_canonical ?_ (fun _ _ h => setChan_canonical h)
  refine foldl_canonical h ?_
  intro _ _ h
  split
  · exact setChan_canonical (setStatus_canonical h)
  · exact setStatus_canonical h

theorem resetThreads_canonical (h : Canonical s) : Canonical (resetThreads s) := by
  unfold resetThreads
  exact canonical_of_tables (by dsimp only; exact (foldl_canonical h (fun _ _ h => canonical_ite (setDir_canonical h) h)).tables)

theorem lostCommand_canonical {c} (h : Canonical s) : Canonical (lostCommand s c) := by
  unfold lostCommand
  cases c.net with
  | none => exact h
  | some =>
    exact canonical_ite (canonical_ite (freeTag_canonical h) h) (logError_canonical (canonical_ite (freeTag_canonical h) h))

theorem resetEngines_canonical (h : Canonical s) : Canonical (resetEngines s) := by
  have hl : Canonical (s.cmds.foldl lostCommand s) := foldl_canonical h (fun _ _ h => lostCommand_canonical h)
  exact releaseClaims_canonical hl.update

theorem resetNetwork_canonical (h : Canonical s) : Canonical (resetNetwork s) := h.update

theorem resetInterfaces_canonical (h : Canonical s) : Canonical (resetInterfaces s) := h.update

theorem resetWorlds_canonical {ws} (h : Canonical s) : Canonical (resetWorlds s ws) :=
  foldl_canonical h (fun _ _ h => eraseWorld_canonical h)

theorem resetShootdowns_canonical (h : Canonical s) : Canonical (resetShootdowns s) := h.update

theorem resetAll_canonical (h : Canonical s) : Canonical (resetAll s) :=
  resetWorlds_canonical (resetInterfaces_canonical (resetShootdowns_canonical
    (resetThreads_canonical (resetNetwork_canonical (resetEngines_canonical
    (resetLaunches_canonical (dropTrees_canonical (dropBonds_canonical h))))))))

theorem startFirmware_canonical (h : Canonical s) : Canonical (startFirmware s) :=
  canonical_ite (pendOnce_canonical h.update) h.update

theorem execHotReset_canonical (h : Canonical s) : CanonicalOut (execHotReset s) :=
  canonical_ite (startFirmware_canonical (resetAll_canonical h)) (resetAll_canonical h)

theorem verifyImage_canonical (h : Canonical s) : Canonical (verifyImage s) :=
  canonical_ite (startFirmware_canonical h.update) h.update

theorem reset_canonical : Canonical State.reset := ⟨⟨rfl, rfl, rfl, rfl⟩, fun _ hu => nomatch hu⟩

theorem execPowerOn_canonical (h : Canonical s) : CanonicalOut (execPowerOn s) :=
  verifyImage_canonical (canonical_ite h.update reset_canonical.update)

theorem execFirmwareActivation_canonical (h : Canonical s) : CanonicalOut (execFirmwareActivation s) :=
  canonical_ite h (verifyImage_canonical (canonical_ite (resetAll_canonical h) h))

theorem execTrainingComplete_canonical (h : Canonical s) : CanonicalOut (execTrainingComplete s) :=
  canonical_ite (pendOnce_canonical h.update) h

theorem retarget_canonical {l a n} (h : Canonical s) : Canonical (retarget l s a n) :=
  foldl_canonical h (fun _ _ h => canonical_ite (canonical_ite h (wrEntry_canonical h)) h)

/-- Bytes moved to their new places, those that stay listed first: a fold of writes into a part of the memory. -/
theorem foldl_wrByte_wf {f : Nat → Nat} {l : List (Nat × Byte)} {m : Memory} (h : Memory.wf m = true) :
    Memory.wf (l.foldl (fun m c => wrByte m (f c.1) c.2) m) = true := by
  induction l generalizing m with
  | nil => exact h
  | cons c r ih => exact ih (sset_wf h)

theorem moveReserves_canonical (h : Canonical s) : Canonical (moveReserves s) := by
  unfold moveReserves
  extract_lets l old kept mem move asids dir s1 s2
  have hm : Memory.wf mem = true := foldl_wrByte_wf (memFilter_wf _ h.1.1)
  clear_value mem asids dir
  have h1 : Canonical s1 := ⟨⟨hm, h.1.2⟩, h.2⟩
  clear_value s1
  have h2 : Canonical s2 := foldl_canonical h1 (fun _ _ h => retarget_canonical h)
  clear_value s2
  refine foldl_canonical h2 (fun t e h => ?_)
  cases e.2 with
  | none => exact h
  | some x => exact retarget_canonical h

theorem execPhase3Entry_canonical (h : Canonical s) : CanonicalOut (execPhase3Entry s) := by
  refine canonicalOut_ite h (canonicalOut_ite (pendOnce_canonical h) ?_)
  refine foldl_canonical (moveReserves_canonical h).update (fun t c h => canonical_ite h (pendOnce_canonical h))

theorem unmarkBank_canonical {b} (h : Canonical s) : Canonical (unmarkBank s b) := logError_canonical h.update

theorem execScrubPass_canonical {marks} (h : Canonical s) : CanonicalOut (execScrubPass marks s) :=
  canonicalOut_ite h (canonical_of_tables (by dsimp only; exact (foldl_canonical
    (foldl_canonical (foldl_canonical h (fun _ _ h => canonical_ite h (logError_canonical h)))
    (fun _ _ h => correction_canonical h)) (fun _ _ h => unmarkBank_canonical h)).tables))

theorem fatal_canonical {cause} (h : Canonical s) : Canonical (fatal s cause) :=
  canonical_ite h (msix_canonical (canonical_ite h.update (send_canonical h.update)))

theorem execUncorrectableError_canonical {place} (h : Canonical s) : CanonicalOut (execUncorrectableError place s) := by
  unfold execUncorrectableError
  refine fatal_canonical ?_
  cases place.unit with
  | none => exact h
  | some => exact h.update

/-! ### The functions of Scalar -/

theorem scalarPlan_canonical {d reads v} (h : Canonical s) : Canonical (scalarPlan s d reads v).next :=
  plainPlan_canonical (setTh_canonical h)

theorem aluReg_canonical {d a b f} (h : Canonical s) : CanonicalOut (aluReg d a b f s) :=
  conclude_canonical h (scalarPlan_canonical h)

theorem aluOne_canonical {d a f} (h : Canonical s) : CanonicalOut (aluOne d a f s) :=
  conclude_canonical h (scalarPlan_canonical h)

theorem aluImm_canonical {d a i f} (h : Canonical s) : CanonicalOut (aluImm d a i f s) :=
  conclude_canonical h (scalarPlan_canonical h)

theorem aluShift_canonical {d a n f} (h : Canonical s) : CanonicalOut (aluShift d a n f s) :=
  conclude_canonical h (scalarPlan_canonical h)

theorem execNop_canonical (h : Canonical s) : CanonicalOut (execNop s) :=
  conclude_canonical h (plainPlan_canonical (setTh_canonical h))

theorem execNopA_canonical (h : Canonical s) : CanonicalOut (execNopA s) :=
  conclude_canonical h (plainPlan_canonical (setTh_canonical h))

theorem execBfi_canonical {d a l p} (h : Canonical s) : CanonicalOut (execBfi d a l p s) :=
  conclude_canonical h (scalarPlan_canonical h)

theorem execAddpc_canonical {d i} (h : Canonical s) : CanonicalOut (execAddpc d i s) :=
  conclude_canonical h (scalarPlan_canonical h)

theorem execXset_canonical {x a i} (h : Canonical s) : CanonicalOut (execXset x a i s) :=
  conclude_canonical h (plainPlan_canonical (setTh_canonical h))

theorem execXget_canonical {d x} (h : Canonical s) : CanonicalOut (execXget d x s) :=
  conclude_canonical h (scalarPlan_canonical h)

theorem execMovi_canonical {d i} (h : Canonical s) : CanonicalOut (execMovi d i s) :=
  conclude_canonical h (scalarPlan_canonical h)

theorem execMovih_canonical {d i} (h : Canonical s) : CanonicalOut (execMovih d i s) :=
  conclude_canonical h (scalarPlan_canonical h)

/-! ### The functions of Dispatch -/

/-- Every instruction keeps the canonical form. -/
theorem exec_canonical {i} (h : Canonical s) : CanonicalOut (exec i s) := by
  cases i with
  | nop =>
    dsimp only [exec]
    exact execNop_canonical h
  | nopA =>
    dsimp only [exec]
    exact execNopA_canonical h
  | unassigned =>
    dsimp only [exec]
    exact illegalNow_canonical h
  | add | sub | and | or | xor | andn | orn | xnor | sll | srl | sra | ror | slt | sltu | seq | sne | min | max | minu | maxu | mul | mulh
    | mulhu | div | divu | rem | remu =>
    dsimp only [exec]
    exact aluReg_canonical h
  | clz | ctz | popc | brev | bswap | sextB | sextH | sextW | zextB | zextH | zextW | bfxu | bfx =>
    dsimp only [exec]
    exact aluOne_canonical h
  | addi | andi | ori | xori | slti | sltiu | muli =>
    dsimp only [exec]
    exact aluImm_canonical h
  | slli | srli | srai | rori =>
    dsimp only [exec]
    exact aluShift_canonical h
  | bfi =>
    dsimp only [exec]
    exact execBfi_canonical h
  | addpc =>
    dsimp only [exec]
    exact execAddpc_canonical h
  | xset =>
    dsimp only [exec]
    exact execXset_canonical h
  | xget =>
    dsimp only [exec]
    exact execXget_canonical h
  | movi =>
    dsimp only [exec]
    exact execMovi_canonical h
  | movih =>
    dsimp only [exec]
    exact execMovih_canonical h
  | bcond =>
    dsimp only [exec]
    exact execBcond_canonical h
  | j | jal | jl =>
    dsimp only [exec]
    exact jumpLink_canonical h
  | jalr =>
    dsimp only [exec]
    exact execJalr_canonical h
  | empty | emptyMask | vempty | fill =>
    dsimp only [exec]
    exact setPresence_canonical h
  | waitp =>
    dsimp only [exec]
    exact execWaitp_canonical h
  | sleep =>
    dsimp only [exec]
    exact execSleep_canonical h
  | sleepTimeout | engineFaultTrap | landingFailureTrap | progressTrap | fetchFault =>
    dsimp only [exec]
    exact modThread_canonical h
  | yield =>
    dsimp only [exec]
    exact execYield_canonical h
  | exit =>
    dsimp only [exec]
    exact execExit_canonical h
  | threadExitComplete =>
    dsimp only [exec]
    exact execThreadExitComplete_canonical h
  | migrate =>
    dsimp only [exec]
    exact execMigrate_canonical h
  | preempt =>
    dsimp only [exec]
    exact execPreempt_canonical h
  | preemptAtDispatcher =>
    dsimp only [exec]
    exact execPreemptAtDispatcher_canonical h
  | teambar =>
    dsimp only [exec]
    exact execTeambar_canonical h
  | evw =>
    dsimp only [exec]
    exact execEvw_canonical h
  | evs =>
    dsimp only [exec]
    exact execEvs_canonical h
  | eventLanding =>
    dsimp only [exec]
    exact execEventLanding_canonical h
  | gettid =>
    dsimp only [exec]
    exact execGettid_canonical h
  | gettidQ =>
    dsimp only [exec]
    exact execGettidQ_canonical h
  | directoryLookup =>
    dsimp only [exec]
    exact answerTo_canonical h
  | fork =>
    dsimp only [exec]
    exact execFork_canonical h
  | join =>
    dsimp only [exec]
    exact execJoin_canonical h
  | rdsr =>
    dsimp only [exec]
    exact execRdsr_canonical h
  | wrsr =>
    dsimp only [exec]
    exact execWrsr_canonical h
  | trap =>
    dsimp only [exec]
    exact execTrap_canonical h
  | bkpt =>
    dsimp only [exec]
    exact execBkpt_canonical h
  | tret =>
    dsimp only [exec]
    exact execTret_canonical h
  | pool =>
    dsimp only [exec]
    exact conclude_canonical h h
  | ld | ldu | ldAq | lduAq =>
    dsimp only [exec]
    exact loadScalar_canonical h
  | st | stRl =>
    dsimp only [exec]
    exact storeScalar_canonical h
  | ldl | ldlRl =>
    dsimp only [exec]
    exact landLoad_canonical h
  | vld =>
    dsimp only [exec]
    exact execVld_canonical h
  | vst =>
    dsimp only [exec]
    exact execVst_canonical h
  | vlds | vldg =>
    dsimp only [exec]
    exact loadGroups_canonical h
  | vsts | vstg =>
    dsimp only [exec]
    exact storeGroups_canonical h
  | put | pute | vput | vputl | lamk =>
    dsimp only [exec]
    exact landNow_canonical h
  | amo =>
    dsimp only [exec]
    exact execAmo_canonical h
  | fence =>
    dsimp only [exec]
    exact execFence_canonical h
  | issue =>
    dsimp only [exec]
    exact execIssue_canonical h
  | pop =>
    dsimp only [exec]
    exact execPop_canonical h
  | portst =>
    dsimp only [exec]
    exact execPortst_canonical h
  | seqwait =>
    dsimp only [exec]
    exact execSeqwait_canonical h
  | vadd | vsub | vmul | vfma | vfms | vmin | vmax =>
    dsimp only [exec]
    exact vecArith_canonical h
  | vand | vor | vxor =>
    dsimp only [exec]
    exact vecBits_canonical h
  | vshl | vshr | vsra =>
    dsimp only [exec]
    exact vecShift_canonical h
  | vaddi =>
    dsimp only [exec]
    exact vecTwo_canonical h
  | vshli | vshri | vsrai =>
    dsimp only [exec]
    exact vecShiftImm_canonical h
  | vadds | vsubs | vmuls | vfmas =>
    dsimp only [exec]
    exact vecScalar_canonical h
  | vbcast | viota =>
    dsimp only [exec, execVbcast, execViota]
    exact vecFill_canonical h
  | vins =>
    dsimp only [exec]
    exact execVins_canonical h
  | vcmp | vcmps =>
    dsimp only [exec]
    exact vecCompare_canonical h
  | vsel =>
    dsimp only [exec]
    exact execVsel_canonical h
  | vmov | vpack | vunpk =>
    dsimp only [exec]
    exact vecPair_canonical h
  | vperm | vrot | vrev | vzip | vuzp =>
    dsimp only [exec, execVperm, execVrot, execVrev, execVzip, execVuzp]
    exact vecPermute_canonical h
  | vred | vscan =>
    dsimp only [exec]
    exact vecReduce_canonical h
  | vdot4 =>
    dsimp only [exec]
    exact execVdot4_canonical h
  | vabs | vneg | vsqrt | vrcp | vrsq | vexp2 | vlog2 | vflr | vceil =>
    dsimp only [exec]
    exact vecUnary_canonical h
  | vnot | vclz | vpopc =>
    dsimp only [exec]
    exact vecCode_canonical h
  | mand | mor | mxor | mandn | mnot =>
    dsimp only [exec]
    exact maskLogic_canonical h
  | vext =>
    dsimp only [exec]
    exact execVext_canonical h
  | setbf =>
    dsimp only [exec]
    exact execSetbf_canonical h
  | ldcb =>
    dsimp only [exec]
    exact execLdcb_canonical h
  | claim =>
    dsimp only [exec]
    exact execClaim_canonical h
  | claimAtUnit =>
    dsimp only [exec]
    exact execClaimAtUnit_canonical h
  | release =>
    dsimp only [exec]
    exact execRelease_canonical h
  | releaseAtUnit =>
    dsimp only [exec]
    exact execReleaseAtUnit_canonical h
  | accz =>
    dsimp only [exec]
    exact execAccz_canonical h
  | acczAtHead =>
    dsimp only [exec]
    exact execAcczAtHead_canonical h
  | mload =>
    dsimp only [exec]
    exact execMload_canonical h
  | accrd =>
    dsimp only [exec]
    exact execAccrd_canonical h
  | accrdSnapshot =>
    dsimp only [exec]
    exact execAccrdSnapshot_canonical h
  | launch =>
    dsimp only [exec]
    exact execLaunch_canonical h
  | tlbw =>
    dsimp only [exec]
    exact execTlbw_canonical h
  | tlbi =>
    dsimp only [exec]
    exact execTlbi_canonical h
  | tbind =>
    dsimp only [exec]
    exact execTbind_canonical h
  | tbindUnbind =>
    dsimp only [exec]
    exact execTbindUnbind_canonical h
  | tdesc =>
    dsimp only [exec]
    exact execTdesc_canonical h
  | texpand =>
    dsimp only [exec]
    exact execTexpand_canonical h
  | tback =>
    dsimp only [exec]
    exact execTback_canonical h
  | treroot =>
    dsimp only [exec]
    exact execTreroot_canonical h
  | trdn =>
    dsimp only [exec]
    exact execTrdn_canonical h
  | tstat =>
    dsimp only [exec]
    exact execTstat_canonical h
  | tfree =>
    dsimp only [exec]
    exact execTfree_canonical h
  | pdecl | pset | pqry | pdrop =>
    dsimp only [exec]
    exact bondPlan_canonical h
  | pload =>
    dsimp only [exec]
    exact execPload_canonical h
  | pconv =>
    dsimp only [exec]
    exact execPconv_canonical h
  | psync =>
    dsimp only [exec]
    exact execPsync_canonical h
  | bondAnnouncement =>
    dsimp only [exec]
    exact execBondAnnouncement_canonical h
  | bondDecision =>
    dsimp only [exec]
    exact execBondDecision_canonical h
  | bondWithdrawal =>
    dsimp only [exec]
    exact execBondWithdrawal_canonical h
  | bondConversion =>
    dsimp only [exec]
    exact execBondConversion_canonical h
  | nput | nget | natom | nsend | nsendL =>
    dsimp only [exec]
    exact netCommand_canonical h
  | nfence =>
    dsimp only [exec]
    exact execNfence_canonical h
  | nfenceRs | nfenceCn | wopen | wrevoke | wqry | cbopen | cbpopTake | cbpopFree =>
    dsimp only [exec]
    exact netPlan_canonical h
  | windowRevokeComplete =>
    dsimp only [exec]
    exact execWindowRevokeComplete_canonical h
  | sload | sstore =>
    dsimp only [exec, execSload, execSstore]
    exact streamRows_canonical h
  | spref =>
    dsimp only [exec]
    exact execSpref_canonical h
  | swait =>
    dsimp only [exec]
    exact execSwait_canonical h
  | mma =>
    dsimp only [exec]
    exact execMma_canonical h
  | kStep =>
    dsimp only [exec]
    exact execKStep_canonical h
  | drain =>
    dsimp only [exec]
    exact execDrain_canonical h
  | mzero =>
    dsimp only [exec]
    exact execMzero_canonical h
  | mresume | copyr =>
    dsimp only [exec]
    exact restartBy_canonical h
  | mcancel | copyc =>
    dsimp only [exec]
    exact cancelBy_canonical h
  | copy | copyf =>
    dsimp only [exec]
    exact copyStep_canonical h
  | mcrun =>
    dsimp only [exec]
    exact execMcrun_canonical h
  | mcrunEnd =>
    dsimp only [exec]
    exact execMcrunEnd_canonical h
  | grun =>
    dsimp only [exec]
    exact execGrun_canonical h
  | depdec =>
    dsimp only [exec]
    exact execDepdec_canonical h
  | completionLanding =>
    dsimp only [exec]
    exact execCompletionLanding_canonical h
  | progress =>
    dsimp only [exec]
    exact execProgress_canonical h
  | readRequest =>
    dsimp only [exec]
    exact execReadRequest_canonical h
  | writeRequest =>
    dsimp only [exec]
    exact execWriteRequest_canonical h
  | amoAtHome =>
    dsimp only [exec]
    exact execAmoAtHome_canonical h
  | landingArrival =>
    dsimp only [exec]
    exact execLandingArrival_canonical h
  | directoryResolve =>
    dsimp only [exec]
    exact execDirectoryResolve_canonical h
  | slotLanding =>
    dsimp only [exec]
    exact execSlotLanding_canonical h
  | memoryLanding =>
    dsimp only [exec]
    exact execMemoryLanding_canonical h
  | landingAcknowledgement =>
    dsimp only [exec]
    exact execLandingAcknowledgement_canonical h
  | landingRefusal =>
    dsimp only [exec]
    exact execLandingRefusal_canonical h
  | checkFailure =>
    dsimp only [exec]
    exact execCheckFailure_canonical h
  | busy =>
    dsimp only [exec]
    exact pend_canonical h
  | busyResend =>
    dsimp only [exec]
    exact execBusyResend_canonical h
  | saveStart =>
    dsimp only [exec]
    exact execSaveStart_canonical h
  | saveReport =>
    dsimp only [exec]
    exact execSaveReport_canonical h
  | resume =>
    dsimp only [exec]
    exact execResume_canonical h
  | teamPlacement =>
    dsimp only [exec]
    exact execTeamPlacement_canonical h
  | blockedTeamEviction =>
    dsimp only [exec]
    exact execBlockedTeamEviction_canonical h
  | priorityPreemption =>
    dsimp only [exec]
    exact execPriorityPreemption_canonical h
  | chtrig =>
    dsimp only [exec]
    exact execChtrig_canonical h
  | chctl =>
    dsimp only [exec]
    exact execChctl_canonical h
  | launchStart =>
    dsimp only [exec]
    exact execLaunchStart_canonical h
  | tlbMissWalk =>
    dsimp only [exec]
    exact execTlbMissWalk_canonical h
  | pageFaultService =>
    dsimp only [exec]
    exact execPageFaultService_canonical h
  | pageMigration =>
    dsimp only [exec]
    exact execPageMigration_canonical h
  | invalidationAtAgent =>
    dsimp only [exec]
    exact execInvalidationAtAgent_canonical h
  | setAddressSpaceEntry =>
    dsimp only [exec]
    exact execSetAddressSpaceEntry_canonical h
  | mapRange =>
    dsimp only [exec]
    exact execMapRange_canonical h
  | unmapRange =>
    dsimp only [exec]
    exact execUnmapRange_canonical h
  | hostPageWritten =>
    dsimp only [exec]
    exact execHostPageWritten_canonical h
  | installMesh =>
    dsimp only [exec]
    exact execInstallMesh_canonical h
  | jobTableEntry =>
    dsimp only [exec]
    exact execJobTableEntry_canonical h
  | peerMapEntry =>
    dsimp only [exec]
    exact execPeerMapEntry_canonical h
  | networkParameters =>
    dsimp only [exec]
    exact execNetworkParameters_canonical h
  | bindFunctionToWorld =>
    dsimp only [exec]
    exact execBindFunctionToWorld_canonical h
  | assignChannel =>
    dsimp only [exec]
    exact execAssignChannel_canonical h
  | assignMsixVectors =>
    dsimp only [exec]
    exact execAssignMsixVectors_canonical h
  | installKey =>
    dsimp only [exec]
    exact execInstallKey_canonical h
  | removeKey =>
    dsimp only [exec]
    exact execRemoveKey_canonical h
  | frameOwnerChange =>
    dsimp only [exec]
    exact execFrameOwnerChange_canonical h
  | netWrite | netReadRequest | netAtomic | netMessage | netLanding =>
    dsimp only [exec]
    exact arrivePacketNet_canonical h
  | netReadReply =>
    dsimp only [exec]
    exact execNetReadReply_canonical h
  | netAtomicReply =>
    dsimp only [exec]
    exact execNetAtomicReply_canonical h
  | orderedPacketRelease =>
    dsimp only [exec]
    exact execOrderedPacketRelease_canonical h
  | rudiPacket =>
    dsimp only [exec]
    exact logError_canonical h
  | netAcknowledgement =>
    dsimp only [exec]
    exact execNetAcknowledgement_canonical h
  | netRefusal =>
    dsimp only [exec]
    exact execNetRefusal_canonical h
  | networkTimeout =>
    dsimp only [exec]
    exact execNetworkTimeout_canonical h
  | saKeyInstall =>
    dsimp only [exec]
    exact execSaKeyInstall_canonical h
  | spdmVersion =>
    dsimp only [exec]
    exact execSpdmVersion_canonical h
  | spdmCapabilities =>
    dsimp only [exec]
    exact execSpdmCapabilities_canonical h
  | spdmAlgorithms =>
    dsimp only [exec]
    exact execSpdmAlgorithms_canonical h
  | spdmDigests =>
    dsimp only [exec]
    exact execSpdmDigests_canonical h
  | spdmCertificate =>
    dsimp only [exec]
    exact execSpdmCertificate_canonical h
  | spdmChallenge =>
    dsimp only [exec]
    exact execSpdmChallenge_canonical h
  | spdmMeasurements =>
    dsimp only [exec]
    exact execSpdmMeasurements_canonical h
  | spdmKeyExchange =>
    dsimp only [exec]
    exact execSpdmKeyExchange_canonical h
  | spdmFinish =>
    dsimp only [exec]
    exact execSpdmFinish_canonical h
  | spdmHeartbeat =>
    dsimp only [exec]
    exact execSpdmHeartbeat_canonical h
  | spdmKeyUpdate =>
    dsimp only [exec]
    exact execSpdmKeyUpdate_canonical h
  | spdmEndSession =>
    dsimp only [exec]
    exact execSpdmEndSession_canonical h
  | ideKm =>
    dsimp only [exec]
    exact execIdeKm_canonical h
  | protectedKeyInstall =>
    dsimp only [exec]
    exact execProtectedKeyInstall_canonical h
  | lockInterfaceRequest =>
    dsimp only [exec]
    exact execLockInterfaceRequest_canonical h
  | startInterfaceRequest =>
    dsimp only [exec]
    exact execStartInterfaceRequest_canonical h
  | stopInterfaceRequest =>
    dsimp only [exec]
    exact execStopInterfaceRequest_canonical h
  | getDeviceInterfaceState =>
    dsimp only [exec]
    exact execGetDeviceInterfaceState_canonical h
  | getDeviceInterfaceReport =>
    dsimp only [exec]
    exact execGetDeviceInterfaceReport_canonical h
  | ideStreamFailure =>
    dsimp only [exec]
    exact execIdeStreamFailure_canonical h
  | barAddressChange =>
    dsimp only [exec]
    exact execBarAddressChange_canonical h
  | apbase =>
    dsimp only [exec]
    exact execApbase_canonical h
  | hostBar2Write =>
    dsimp only [exec]
    exact execHostBar2Write_canonical h
  | hostBar2Read =>
    dsimp only [exec]
    exact execHostBar2Read_canonical h
  | registerWrite =>
    dsimp only [exec]
    exact execRegisterWrite_canonical h
  | powerOn =>
    dsimp only [exec]
    exact execPowerOn_canonical h
  | firmwareActivation =>
    dsimp only [exec]
    exact execFirmwareActivation_canonical h
  | trainingComplete =>
    dsimp only [exec]
    exact execTrainingComplete_canonical h
  | phase3Entry =>
    dsimp only [exec]
    exact execPhase3Entry_canonical h
  | hotReset =>
    dsimp only [exec]
    exact execHotReset_canonical h
  | linkDown | functionLevelReset =>
    dsimp only [exec]
    exact resetAll_canonical h
  | scrubPass =>
    dsimp only [exec]
    exact execScrubPass_canonical h
  | uncorrectableError =>
    dsimp only [exec]
    exact execUncorrectableError_canonical h
  | thermalTrip | supplyTrip =>
    dsimp only [exec]
    exact fatal_canonical h
  | unknownOperation =>
    dsimp only [exec]
    exact execUnknownOperation_canonical h
  | transportResend =>
    dsimp only [exec]
    exact execTransportResend_canonical h
  | portDown | portUp =>
    dsimp only [exec]
    exact h.update

/-! ### The functions of Bundle -/

theorem nextBundle_canonical (h : Canonical s) : Canonical (nextBundle s).1 := by
  unfold nextBundle
  cases s.th.fetched with
  | nil =>
    split
    · exact canonical_fst_ite (setTh_canonical h) (fetchBundle_canonical (setTh_canonical h))
    · exact fetchBundle_canonical h
  | cons => exact canonical_fst_ite (setTh_canonical h) (fetchBundle_canonical (setTh_canonical h))

theorem prefetch_canonical (h : Canonical s) : Canonical (prefetch s) :=
  canonical_ite h (setTh_canonical (fetchBundle_canonical h))

theorem clearFlags_canonical (h : Canonical s) : Canonical (clearFlags s) := setTh_canonical h

theorem putFlags_canonical {old} (h : Canonical s) : Canonical (putFlags old s) := setTh_canonical h

theorem joinPair_canonical {x y} (h : Canonical s) (hx : Canonical x) (hy : Canonical y) : Canonical (joinPair s x y) :=
  canonical_ite hx (canonical_ite (putFlags_canonical hy)
    (canonical_ite h.update (canonical_ite h.update (canonical_ite hx
    (canonical_ite (putFlags_canonical hy) (canonical_ite h.update (setTh_canonical hx)))))))

theorem canonicalOut_next {o : Out} (ho : CanonicalOut o) (e : o = .next t) : Canonical t := by
  rw [e] at ho
  exact ho

theorem runPair_canonical {c a w0} (h : Canonical s) : CanonicalOut (runPair c a w0 s) := by
  have hx (i : Instr) : CanonicalOut (exec i s) := exec_canonical h
  have hc : CanonicalOut (exec a (clearFlags s)) := exec_canonical (clearFlags_canonical h)
  unfold runPair
  refine canonicalOut_ite (hx c) (canonicalOut_ite (hx c)
    (canonicalOut_ite (hx a) (canonicalOut_ite (hx _) (canonicalOut_ite (hx a) ?_))))
  split
  · exact joinPair_canonical h (canonicalOut_next (hx c) ‹_›) (canonicalOut_next hc ‹_›)
  · exact hc
  · exact hx c

theorem runIllegal_canonical {slot detail b} (h : Canonical s) : CanonicalOut (runIllegal slot detail b s) := by
  unfold runIllegal
  split
  · exact canonicalOut_ite (exec_canonical h) (exec_canonical h)
  · exact exec_canonical h

theorem runBundle_canonical {b} (h : Canonical s) : CanonicalOut (runBundle b s) := by
  unfold runBundle
  cases decodeBundle b with
  | illegal slot detail => exact runIllegal_canonical h
  | long i => exact exec_canonical h
  | pair c a => exact runPair_canonical h

theorem runProgBundle_canonical {b} (h : Canonical s) : CanonicalOut (runProgBundle b s) := by
  have hx (i : Instr) : CanonicalOut (exec i s) := exec_canonical h
  unfold runProgBundle
  cases decodeBundle b with
  | illegal slot detail => exact canonicalOut_ite (hx _) (hx _)
  | long i => exact canonicalOut_ite (hx _) (hx _)
  | pair c a => exact canonicalOut_ite (hx _) (canonicalOut_ite (hx _) (hx _))

theorem keepBundle_canonical {pc b} (h : Canonical s) : Canonical (keepBundle s pc b) := setTh_canonical h

theorem noteIssue_canonical {t} (h : Canonical s) : Canonical (noteIssue t s) := by
  unfold noteIssue
  refine canonical_ite h ?_
  dsimp only
  split
  · exact setTeam_canonical (setCore_canonical h)
  · exact setCore_canonical h

theorem forgetWalks_canonical (h : Canonical s) : Canonical (forgetWalks s) := setTh_canonical h

theorem settleBundle_canonical {t b} (h : Canonical s) : Canonical (settleBundle t b s) :=
  canonical_ite (keepBundle_canonical h) (noteIssue_canonical (forgetWalks_canonical h))

theorem mapNext_canonical {o f} (ho : CanonicalOut o) (hf : ∀ t, Canonical t → Canonical (f t)) : CanonicalOut (mapNext o f) := by
  cases o with
  | next t => exact hf t ho
  | fault r => trivial
  | refused r => trivial

theorem issueBundle_canonical (h : Canonical s) : CanonicalOut (issueBundle s) := by
  unfold issueBundle
  refine canonicalOut_ite h.update ?_
  split
  · refine noteIssue_canonical (canonical_of_tables ?_)
    dsimp only
    exact (trapFocus_canonical (missOf_canonical h)).tables
  · refine canonical_of_tables ?_
    dsimp only
    exact (suspendFor_canonical h).tables
  · exact h.update
  · have hs : Canonical (setTh (nextBundle s).1 { (nextBundle s).1.th with status := .ready, awaited := [] }) :=
      setTh_canonical (nextBundle_canonical h)
    exact mapNext_canonical (canonicalOut_ite (runProgBundle_canonical hs) (runBundle_canonical hs))
      (fun _ h => settleBundle_canonical h)

theorem takeBoundary_canonical (h : Canonical s) : CanonicalOut (takeBoundary s) := by
  unfold takeBoundary
  refine canonicalOut_ite (execSaveStart_canonical h) ?_
  cases s.th.failed with
  | none => exact canonicalOut_ite (modThread_canonical h) (canonicalOut_ite (modThread_canonical h) (modThread_canonical h))
  | some => exact setTh_canonical h

theorem issueOne_canonical (h : Canonical s) : CanonicalOut (issueOne s) :=
  canonicalOut_ite h.update (canonicalOut_ite (mapNext_canonical (takeBoundary_canonical h) (fun _ h => h.update))
    (issueBundle_canonical h))

theorem issueFrom_canonical {l} (h : Canonical s) : CanonicalOut (issueFrom l s) := by
  induction l generalizing s with
  | nil => exact h
  | cons x r ih =>
    have ho := issueOne_canonical (focusOn_canonical (p := fun t => isLive t && t.handle = x) h)
    unfold issueFrom
    split
    · have hx := canonicalOut_next ho ‹_›
      exact canonicalOut_ite (ih hx) hx
    · exact ho

theorem issueCore_canonical {c} (h : Canonical s) : CanonicalOut (issueCore s c) := issueFrom_canonical h

theorem issueProg_canonical {h' q} (h : Canonical s) : CanonicalOut (issueProg s h' q) :=
  canonicalOut_ite (issueBundle_canonical (focusOn_canonical h)) (focusOn_canonical h)

theorem issueBy_canonical {i} (h : Canonical s) : CanonicalOut (issueBy s i) := by
  cases i with
  | core c => exact issueCore_canonical h
  | prog h' q => exact issueProg_canonical h

theorem issueHere_canonical (h : Canonical s) : CanonicalOut (issueHere s) := by
  unfold issueHere
  cases issuerOf s.th with
  | none => exact h
  | some i => exact issueBy_canonical h

theorem runEvent_canonical {e} (h : Canonical s) : CanonicalOut (runEvent e s) := by
  cases e with
  | treeAction => exact treeTurn_canonical h
  | bondRequest | bondWaiting => exact bondTurn_canonical h
  | bondLock => exact bondLockStep_canonical h
  | bondSend => exact bondSendStep_canonical h
  | bondTimeout => exact bondTimeoutStep_canonical h
  | netRequest => exact netTurn_canonical h
  | netSend => exact netSendStep_canonical h
  | netLand => exact netLandStep_canonical h
  | netPlace => exact netPlaceStep_canonical h
  | answerOut => exact answerOutStep_canonical h
  | leaveLock => exact leaveLockStep_canonical h
  | serveRing => exact serveRingStep_canonical h
  | phase3Entry => exact execPhase3Entry_canonical h
  | bar2Write => exact execHostBar2Write_canonical h
  | sleepTimeout => exact modThread_canonical h
  | threadExitComplete => exact execThreadExitComplete_canonical h
  | preemptAtDispatcher => exact execPreemptAtDispatcher_canonical h
  | eventLanding => exact execEventLanding_canonical h
  | directoryLookup => exact answerTo_canonical h
  | claimAtUnit => exact execClaimAtUnit_canonical h
  | releaseAtUnit => exact execReleaseAtUnit_canonical h
  | acczAtHead => exact execAcczAtHead_canonical h
  | accrdSnapshot => exact execAccrdSnapshot_canonical h
  | bondAnnouncement => exact execBondAnnouncement_canonical h
  | bondDecision => exact execBondDecision_canonical h
  | bondWithdrawal => exact execBondWithdrawal_canonical h
  | bondConversion => exact execBondConversion_canonical h
  | windowRevokeComplete => exact execWindowRevokeComplete_canonical h
  | mma => exact execMma_canonical h
  | kStep => exact execKStep_canonical h
  | drain => exact execDrain_canonical h
  | mzero => exact execMzero_canonical h
  | mresume | copyr => exact restartBy_canonical h
  | mcancel | copyc => exact cancelBy_canonical h
  | copy | copyf => exact copyStep_canonical h
  | mcrun => exact execMcrun_canonical h
  | mcrunEnd => exact execMcrunEnd_canonical h
  | grun => exact execGrun_canonical h
  | depdec => exact execDepdec_canonical h
  | completionLanding => exact execCompletionLanding_canonical h
  | readRequest => exact execReadRequest_canonical h
  | writeRequest => exact execWriteRequest_canonical h
  | amoAtHome => exact execAmoAtHome_canonical h
  | landingArrival => exact execLandingArrival_canonical h
  | directoryResolve => exact execDirectoryResolve_canonical h
  | slotLanding => exact execSlotLanding_canonical h
  | memoryLanding => exact execMemoryLanding_canonical h
  | landingAcknowledgement => exact execLandingAcknowledgement_canonical h
  | landingRefusal => exact execLandingRefusal_canonical h
  | checkFailure => exact execCheckFailure_canonical h
  | busy => exact pend_canonical h
  | busyResend => exact execBusyResend_canonical h
  | saveStart => exact execSaveStart_canonical h
  | saveReport => exact execSaveReport_canonical h
  | resume => exact execResume_canonical h
  | teamPlacement => exact execTeamPlacement_canonical h
  | launchStart => exact execLaunchStart_canonical h
  | tlbMissWalk => exact execTlbMissWalk_canonical h
  | pageFaultService => exact execPageFaultService_canonical h
  | invalidationAtAgent => exact execInvalidationAtAgent_canonical h
  | netWrite | netReadRequest | netAtomic | netMessage | netLanding => exact arrivePacketNet_canonical h
  | netReadReply => exact landReadReply_canonical h
  | netAtomicReply => exact landAtomicReply_canonical h
  | orderedPacketRelease => exact execOrderedPacketRelease_canonical h
  | rudiPacket => exact logError_canonical h
  | netAcknowledgement => exact execNetAcknowledgement_canonical h
  | netRefusal => exact execNetRefusal_canonical h
  | transportResend => exact execTransportResend_canonical h

theorem runPending_canonical {j} (h : Canonical s) : CanonicalOut (runPending j s) := by
  unfold runPending
  cases s.pending[j]? with
  | none => exact h
  | some => exact canonicalOut_ite h (runEvent_canonical h.update)

theorem runInput_canonical (h : Canonical s) : CanonicalOut (runInput s) := by
  unfold runInput
  cases s.inputs with
  | nil => exact h
  | cons i r => exact canonicalOut_ite (exec_canonical h.update) h.update

theorem act_canonical {k} (h : Canonical s) : CanonicalOut (act k s) := by
  unfold act
  refine canonicalOut_ite (runInput_canonical h) ?_
  cases k with
  | zero => exact issueHere_canonical h
  | succ k =>
    refine canonicalOut_ite (runPending_canonical h) (canonicalOut_ite (runInput_canonical h) ?_)
    split
    · exact issueBy_canonical h
    · split
      · exact prefetch_canonical (focusOn_canonical h)
      · exact h

theorem tick_canonical (h : Canonical s) : Canonical (tick s) := h.update

/-! ### The functions of Step -/

theorem step_canonical (h : Canonical s) : CanonicalOut (step s) := mapNext_canonical (act_canonical h) (fun _ h => h.update)

end Sys2Proof.Machine

/-- Settles O59: from `step_canonical`, which goes through the functions that `step` calls, one lemma for each. -/
theorem everyStepKeepsTheTablesCanonical : Obligations.EveryStepKeepsTheTablesCanonical := by
  unfold Obligations.EveryStepKeepsTheTablesCanonical
  intro s t h e
  exact Sys2Proof.Machine.canonicalOut_next (Sys2Proof.Machine.step_canonical h) e

namespace Sys2Proof.Machine

open Sys2Proof

/-! ### What an access to memory leaves alone -/

variable {s t u : State}

/-- What one access to memory, with the reports of its corrections, leaves as it was (R223, R374): the threads, the requests and landings under
way, cores, clusters and units. -/
structure Beside (s t : State) : Prop where
  th : t.th = s.th
  rest : t.rest = s.rest
  pending : t.pending = s.pending
  cores : t.cores = s.cores
  clusters : t.clusters = s.clusters
  units : t.units = s.units
  copies : t.copies = s.copies
  heldBack : t.heldBack = s.heldBack
  agentLocs : t.agentLocs = s.agentLocs
  dev : t.dev = s.dev
  dir : t.dir = s.dir

theorem Beside.refl : Beside s s := ⟨rfl, rfl, rfl, rfl, rfl, rfl, rfl, rfl, rfl, rfl, rfl⟩

theorem Beside.trans (h : Beside s t) (k : Beside t u) : Beside s u :=
  ⟨k.th.trans h.th, k.rest.trans h.rest, k.pending.trans h.pending, k.cores.trans h.cores, k.clusters.trans h.clusters, k.units.trans h.units,
    k.copies.trans h.copies, k.heldBack.trans h.heldBack, k.agentLocs.trans h.agentLocs, k.dev.trans h.dev, k.dir.trans h.dir⟩

theorem beside_ite {c : Prop} [Decidable c] (ht : Beside s t) (hu : Beside s u) : Beside s (if c then t else u) := by
  split
  · exact ht
  · exact hu

theorem foldl_beside {α : Type} {f : State → α → State} {l : List α} (hf : ∀ t x, Beside t (f t x)) : Beside s (l.foldl f s) := by
  induction l generalizing s with
  | nil => exact Beside.refl
  | cons x r ih => exact (hf s x).trans ih

theorem wrBytes_beside (s : State) (a : Nat) (b : List Byte) : Beside s (wrBytes s a b) := ⟨rfl, rfl, rfl, rfl, rfl, rfl, rfl, rfl, rfl, rfl, rfl⟩

theorem Beside.logError {k : BitVec 16} {w : World} {d : BitVec 32} {a q : Word} (h : Beside s t) :
    Beside s (logError t k w d a q) := by
  refine h.trans ?_
  unfold Machine.logError
  exact beside_ite ⟨rfl, rfl, rfl, rfl, rfl, rfl, rfl, rfl, rfl, rfl, rfl⟩ ⟨rfl, rfl, rfl, rfl, rfl, rfl, rfl, rfl, rfl, rfl, rfl⟩

theorem correction_beside (s : State) (a b : Nat) : Beside s (correction s a b) := by
  unfold correction
  extract_lets n s1
  have h1 : Beside s s1 := Beside.logError ⟨rfl, rfl, rfl, rfl, rfl, rfl, rfl, rfl, rfl, rfl, rfl⟩
  clear_value s1
  exact beside_ite (Beside.logError (h1.trans ⟨rfl, rfl, rfl, rfl, rfl, rfl, rfl, rfl, rfl, rfl, rfl⟩)) h1

theorem correctRead_beside (s : State) (a n : Nat) : Beside s (correctRead s a n) := foldl_beside (fun t e => correction_beside t e.1 e.2)

theorem dropLine_beside (s : State) (x : BufLine) : Beside s (dropLine s x) := by
  unfold dropLine
  cases x.key with
  | none => exact Beside.refl
  | some k => exact wrBytes_beside s _ _

theorem fillLine_beside (s : State) (l : Nat) (k : Option (BitVec 13)) : Beside s (fillLine s l k).1 := by
  cases k with
  | none => exact Beside.refl
  | some k => exact wrBytes_beside s _ _

/-- Buffers are no part of what an access leaves alone. -/
theorem setBuffers_beside (h : Beside s t) (b : Sparse (List BufLine)) : Beside s { t with buffers := b } :=
  ⟨h.th, h.rest, h.pending, h.cores, h.clusters, h.units, h.copies, h.heldBack, h.agentLocs, h.dev, h.dir⟩

theorem touchLine_beside (s : State) (a : Nat) (k : Option (BitVec 13)) (w : Bool) : Beside s (touchLine s a k w) := by
  unfold touchLine
  cases channelOf s a with
  | none => exact Beside.refl
  | some c =>
    dsimp only
    split
    · exact beside_ite (setBuffers_beside Beside.refl _) (setBuffers_beside ((dropLine_beside s _).trans (fillLine_beside _ _ k)) _)
    · exact setBuffers_beside ((foldl_beside dropLine_beside).trans (fillLine_beside _ _ k)) _

theorem rdPiece_beside (s : State) (p : Piece) : Beside s (rdPiece s p).1 := (touchLine_beside s _ _ _).trans (correctRead_beside _ _ _)

theorem wrPiece_beside (s : State) (p : Piece) (d : List Byte) : Beside s (wrPiece s p d) := (touchLine_beside s _ _ _).trans (wrBytes_beside _ _ _)

/-! ### The bytes of an access under the key that its place is held under (R223, R224) -/

/-- With no keyed line in the set, none is written back. -/
theorem foldl_dropLine_noKey {l : List BufLine} (h : ∀ x ∈ l, x.key = none) : l.foldl dropLine s = s := by
  induction l with
  | nil => rfl
  | cons x r ih =>
    have hx : dropLine s x = s := by
      unfold dropLine
      rw [h x (List.mem_cons_self ..)]
    rw [List.foldl_cons, hx]
    exact ih (fun y hy => h y (List.mem_cons_of_mem _ hy))

theorem touchLine_mem {p : Piece} {w : Bool} (h : sameKey s p) : (touchLine s p.addr p.key w).mem = s.mem := by
  unfold touchLine
  unfold sameKey bufferSet at h
  cases hc : channelOf s p.addr with
  | none => rfl
  | some c =>
    rw [hc] at h
    dsimp only at h ⊢
    rcases h with h | ⟨x, hx, hk⟩ | ⟨hk, hl⟩
    · cases h
    · rw [hx]
      dsimp only
      rw [if_pos hk]
    · split
      · rename_i x hx
        rw [if_pos ((hl x (List.mem_of_find?_eq_some hx)).trans hk.symm)]
      · rw [foldl_dropLine_noKey (fun x hx => hl x (List.mem_of_mem_filter (List.mem_of_mem_drop hx))), hk]
        rfl

theorem rdPiece_mem {p : Piece} (h : sameKey s p) : (rdPiece s p).1.mem = s.mem := (correctRead_mem _ _ _).trans (touchLine_mem h)

theorem rdPiece_bytes {p : Piece} (h : sameKey s p) : (rdPiece s p).2 = rdBytes s p.addr p.len := congrArg (rdMem · p.addr p.len) (rdPiece_mem h)

/-! ### Bytes, pieces and the choice among them -/

theorem rdMem_length (m : Memory) (a n : Nat) : (rdMem m a n).length = n := by
  induction n generalizing a with
  | zero => rfl
  | succ n ih => rw [rdMem, List.length_cons, ih]

theorem rdMem_wrMem (m : Memory) (a : Nat) (b : List Byte) : rdMem (wrMem m a b) a b.length = b := by
  have key (n i : Nat) (h : i + n = b.length) : rdMem (wrMem m a b) (a + i) n = b.drop i := by
    induction n generalizing i with
    | zero => rw [rdMem, List.drop_eq_nil_of_le (by omega)]
    | succ n ih =>
      rw [rdMem, sget_wrMem_inside b m a i (by omega), Nat.add_assoc, ih (i + 1) (by omega),
        List.drop_eq_getElem_cons (show i < b.length by omega), List.getD_eq_getElem _ _ (show i < b.length by omega)]
  have h := key b.length 0 (Nat.zero_add _)
  rwa [Nat.add_zero, List.drop_zero] at h

theorem slice_length (l : List Byte) (off n : Nat) : (slice l off n).length = n := by
  unfold slice
  rw [List.length_append, List.length_take, List.length_drop, List.length_replicate]
  omega

theorem slice_eq_take {l : List Byte} {off n : Nat} (h : off + n ≤ l.length) : slice l off n = (l.drop off).take n := by
  unfold slice
  rw [Nat.sub_eq_zero_of_le (by omega), List.replicate_zero, List.append_nil]

/-- A patch over the whole of a byte string is the string that replaces it. -/
theorem patch_all {l b : List Byte} (h : b.length = l.length) : patch l 0 b = b := by
  unfold patch
  rw [List.take_zero, List.nil_append, Nat.sub_zero, Nat.zero_add, ← h, List.take_length, h, List.drop_length, List.append_nil]

theorem choose_lt {s : State} {n : Nat} (h : 0 < n) : choose s n < n := by
  unfold choose
  split
  · exact h
  · exact Nat.mod_lt _ h

/-- One of several is taken, whatever the choice is, and the others stay. -/
theorem takeAt_of_lt {α : Type} {l : List α} {k : Nat} (h : k < l.length) : ∃ x r, takeAt k l = some (x, r) ∧ l.Perm (x :: r) := by
  induction l generalizing k with
  | nil => cases h
  | cons y l ih =>
    cases k with
    | zero => exact ⟨y, l, rfl, .refl _⟩
    | succ k =>
      obtain ⟨x, r, e, hp⟩ := ih (Nat.lt_of_succ_lt_succ h)
      refine ⟨x, y :: r, ?_, (hp.cons y).trans (.swap x y r)⟩
      rw [takeAt, e]
      rfl

theorem takeAt_choose {s : State} {α : Type} {l : List α} (h : l ≠ []) :
    ∃ x r, takeAt (choose s l.length) l = some (x, r) ∧ l.Perm (x :: r) := takeAt_of_lt (choose_lt (List.length_pos_of_ne_nil h))

theorem takeAt_choose_one {s : State} {α : Type} (x : α) : takeAt (choose s [x].length) [x] = some (x, []) := rfl

/-! ### A piece written at its home -/

theorem wrPiece_bytes {s : State} {p : Piece} {d : List Byte} (h : p.off + p.len ≤ d.length) :
    rdBytes (wrPiece s p d) p.addr p.len = (d.drop p.off).take p.len := by
  have hb : slice d p.off p.len = (d.drop p.off).take p.len := slice_eq_take h
  have hl : (slice d p.off p.len).length = p.len := slice_length d p.off p.len
  rw [← hb]
  calc rdBytes (wrPiece s p d) p.addr p.len
      = rdMem (wrMem (touchLine s p.addr p.key true).mem p.addr (slice d p.off p.len)) p.addr (slice d p.off p.len).length := by rw [hl]; rfl
    _ = slice d p.off p.len := rdMem_wrMem _ _ _

theorem wrPiece_outside {s : State} {p : Piece} {d : List Byte} (h : sameKey s p) : SameMemoryOutside s (wrPiece s p d) p.addr p.len := by
  intro a ha
  refine (rdByte_wrBytes_outside p.addr a _ ?_).trans ?_
  · rwa [slice_length]
  · exact congrArg (sget 0 · a) (touchLine_mem h)

/-! ### Cores and their counts -/

theorem coreOf_setCore_same (s : State) (c : BitVec 11) (k : CoreState) : coreOf (setCore s c k) c = k := sget_sset_same

theorem coreOf_setCore_other {s : State} {c d : BitVec 11} {k : CoreState} (h : d ≠ c) : coreOf (setCore s c k) d = coreOf s d :=
  sget_sset_other (fun e => h (BitVec.eq_of_toNat_eq e))

/-- A request of a thread that is answered is counted no longer (R159). -/
theorem answered_outst {s : State} {o : Origin} (h : o.seq.getLsbD 31 = false) :
    (coreOf (answered s o) o.core).outst = (coreOf s o.core).outst - 1 := by
  unfold answered bit uncountRequest
  rw [if_neg (by rw [h]; decide), coreOf_setCore_same]

/-- What an answer that is counted leaves as it was. -/
theorem answered_beside_cores (s : State) (o : Origin) : (answered s o).th = s.th ∧ (answered s o).rest = s.rest ∧
    (answered s o).mem = s.mem ∧ (answered s o).copies = s.copies ∧ (answered s o).heldBack = s.heldBack := by
  unfold answered
  split <;> exact ⟨rfl, rfl, rfl, rfl, rfl⟩

/-! ### What the path of a landing leaves alone, and where its copies stand (R177, R178) -/

/-- What sending, dropping and locating landings leaves as it was: the threads, memory, and the requests that the cores count. -/
structure Underway (s t : State) : Prop where
  th : t.th = s.th
  rest : t.rest = s.rest
  mem : t.mem = s.mem
  dev : t.dev = s.dev
  dir : t.dir = s.dir
  outst : ∀ c, (coreOf t c).outst = (coreOf s c).outst

variable {s t u : State}

theorem Underway.refl : Underway s s := ⟨rfl, rfl, rfl, rfl, rfl, fun _ => rfl⟩

theorem Underway.trans (h : Underway s t) (k : Underway t u) : Underway s u :=
  ⟨k.th.trans h.th, k.rest.trans h.rest, k.mem.trans h.mem, k.dev.trans h.dev, k.dir.trans h.dir, fun c => (k.outst c).trans (h.outst c)⟩

theorem Underway.threads (h : Underway s t) : SameThreads s t := ⟨h.th, h.rest⟩

/-- Where the copies stand is no part of it. -/
theorem Underway.ofCopies {c l : List Packet} (k : Underway { s with copies := c, heldBack := l } t) : Underway s t :=
  ⟨k.th, k.rest, k.mem, k.dev, k.dir, k.outst⟩

/-- The copies of landings that are sent or held back. -/
def copiesOf (s : State) : List Packet := s.copies ++ s.heldBack

theorem setLoc_underway (s : State) (g : Agent) (l : List (Handle × Option (BitVec 11))) : Underway s (setLoc s g l) := by
  unfold setLoc
  split
  · rename_i c
    refine ⟨rfl, rfl, rfl, rfl, rfl, fun d => ?_⟩
    by_cases h : d = c
    · rw [h, coreOf_setCore_same]
    · rw [coreOf_setCore_other h]
  · exact ⟨rfl, rfl, rfl, rfl, rfl, fun _ => rfl⟩

theorem setLoc_copies (s : State) (g : Agent) (l : List (Handle × Option (BitVec 11))) :
    (setLoc s g l).copies = s.copies ∧ (setLoc s g l).heldBack = s.heldBack ∧ (setLoc s g l).pending = s.pending := by
  unfold setLoc
  split
  · exact ⟨rfl, rfl, rfl⟩
  · exact ⟨rfl, rfl, rfl⟩

/-- A landing that leaves its agent: one event waits, its copy stands where it stood. -/
structure Transmitted (s t : State) : Prop where
  underway : Underway s t
  copies : t.copies = s.copies
  heldBack : t.heldBack = s.heldBack
  pending : ∃ e, t.pending = s.pending ++ [e]

theorem pend_transmitted (s : State) (e : Event) : Transmitted s (pend s e) := ⟨⟨rfl, rfl, rfl, rfl, rfl, fun _ => rfl⟩, rfl, rfl, e, rfl⟩

theorem pend_locPut_transmitted (s : State) (g : Agent) (h : Handle) (v : Option (BitVec 11)) (e : Event) :
    Transmitted s (pend (locPut s g h v) e) := by
  obtain ⟨hc, hh, hp⟩ := setLoc_copies s g ((h, v) :: (locOf s g).filter (fun e => e.1 ≠ h))
  exact ⟨(setLoc_underway s g _).trans (pend_transmitted _ e).underway, hc, hh, e, congrArg (· ++ [e]) hp⟩

theorem transmit_transmitted (s : State) (p : Packet) : Transmitted s (transmit s p) := by
  unfold transmit
  split
  · exact pend_transmitted s _
  · split
    · exact pend_transmitted s _
    · split
      · split
        · exact pend_locPut_transmitted s _ _ _ _
        · exact pend_locPut_transmitted s _ _ _ _
        · exact pend_transmitted s _
      · split
        · exact pend_transmitted s _
        · exact pend_transmitted s _

theorem sendOut_underway (s : State) (p : Packet) : Underway s (sendOut s p) := by
  unfold sendOut
  split
  · exact ⟨rfl, rfl, rfl, rfl, rfl, fun _ => rfl⟩
  · exact (transmit_transmitted _ p).underway.ofCopies

theorem sendOut_copies (s : State) (p : Packet) : (copiesOf (sendOut s p)).Perm (p :: copiesOf s) := by
  unfold copiesOf sendOut
  split
  · rw [← List.append_assoc]
    exact List.perm_append_singleton p _
  · rw [(transmit_transmitted _ p).copies, (transmit_transmitted _ p).heldBack, List.append_assoc]
    exact List.perm_middle

theorem foldl_sendOut_underway (l : List Packet) : Underway s (l.foldl sendOut s) := by
  induction l generalizing s with
  | nil => exact Underway.refl
  | cons p r ih => exact (sendOut_underway s p).trans ih

theorem foldl_sendOut_copies (l : List Packet) : (copiesOf (l.foldl sendOut s)).Perm (l ++ copiesOf s) := by
  induction l generalizing s with
  | nil => exact .refl _
  | cons p r ih => exact ih.trans (((sendOut_copies s p).append_left r).trans List.perm_middle)

theorem releaseHeld_underway (s : State) : Underway s (releaseHeld s) :=
  (foldl_sendOut_underway s.heldBack).ofCopies

theorem releaseHeld_copies (s : State) : (copiesOf (releaseHeld s)).Perm (copiesOf s) := by
  refine (foldl_sendOut_copies (s := { s with heldBack := [] }) s.heldBack).trans ?_
  unfold copiesOf
  rw [List.append_nil]
  exact List.perm_append_comm

theorem dropCopy_underway (s : State) (p : Packet) : Underway s (dropCopy s p) := by
  unfold dropCopy
  split
  · exact Underway.refl
  · exact (releaseHeld_underway _).ofCopies

theorem pickOut_append {α : Type} {f : α → Bool} {l r : List α} {q : α} (hl : ∀ x ∈ l, f x = false) (hq : f q = true) :
    pickOut f (l ++ q :: r) = some (q, l ++ r) := by
  induction l with
  | nil => exact if_pos hq
  | cons x l ih =>
    rw [List.cons_append, pickOut, if_neg (by rw [hl x (List.mem_cons_self ..)]; decide), ih (fun y hy => hl y (List.mem_cons_of_mem _ hy))]
    rfl

/-- The copy of an answered landing is gone, and what it held back is sent. -/
theorem dropCopy_copies {p q : Packet} {l r : List Packet} (hc : s.copies = l ++ q :: r) (hl : ∀ x ∈ l, samePacket p x = false)
    (hq : samePacket p q = true) : (copiesOf (dropCopy s p)).Perm (l ++ r ++ s.heldBack) := by
  unfold dropCopy
  rw [hc, pickOut_append hl hq]
  exact releaseHeld_copies _

/-! ### Answers -/

theorem sendLanding_underway (s : State) (p : Packet) : Underway s (sendLanding s p) := sendOut_underway s _

/-- A landing sent stands among the copies, its score set. -/
theorem exists_copy_sendLanding (s : State) (p : Packet) : ∃ c, { p with score := c } ∈ copiesOf (sendLanding s p) :=
  ⟨_, (sendOut_copies s _).mem_iff.mpr (List.mem_cons_self ..)⟩

theorem answerTo_underway (s : State) (o : Origin) (g : Agent) (r : Reg) (v : Word) (c : Bool) : Underway s (answerTo s o g r v c) :=
  sendLanding_underway s _

theorem answerTo_answersWith (s : State) (o : Origin) (g : Agent) (d : BitVec 6) (v : Word) : answersWith (answerTo s o g (.s d) v true) o d v := by
  obtain ⟨c, hc⟩ := exists_copy_sendLanding s { packet { o with agent := g } (regLa o.dev o.by' (.s d)) (leBytes 8 v.toNat) with
    counted := true, reply := true }
  exact ⟨_, hc, rfl, rfl, rfl, rfl⟩

/-! ### The parts of an access (R69, R162) -/

/-- The first part of an access and the others. -/
theorem chunksFrom_succ (acc : Acc) (f va n off : Nat) (h : n ≠ 0) :
    chunksFrom acc (f + 1) va n off = { va := va, len := min n (8 - va % 8), off := off, acc := acc } ::
      chunksFrom acc f (va + min n (8 - va % 8)) (n - min n (8 - va % 8)) (off + min n (8 - va % 8)) := by
  rw [chunksFrom, if_neg h]

theorem chunksFrom_none (acc : Acc) (f va off : Nat) : chunksFrom acc f va 0 off = [] := by
  cases f with
  | zero => rfl
  | succ f => rfl

theorem mem_chunksFrom {acc : Acc} {f va n off : Nat} {c : Chunk} (h : c ∈ chunksFrom acc f va n off) :
    c.acc = acc ∧ 0 < c.len ∧ c.va / 8 = (c.va + c.len - 1) / 8 ∧ c.va - va = c.off - off ∧ va ≤ c.va ∧ off ≤ c.off ∧
      c.va + c.len ≤ va + n := by
  induction f generalizing va n off with
  | zero => cases h
  | succ f ih =>
    by_cases hn : n = 0
    · rw [hn, chunksFrom_none] at h
      cases h
    · rw [chunksFrom_succ acc f va n off hn] at h
      cases h with
      | head => exact ⟨rfl, by dsimp only; omega, by dsimp only; omega, by dsimp only; omega, Nat.le_refl _, Nat.le_refl _, by dsimp only; omega⟩
      | tail _ h =>
        obtain ⟨ha, hl, h8, ho, hv, hf, hb⟩ := ih h
        exact ⟨ha, hl, h8, by omega, by omega, by omega, by omega⟩

theorem chunksFrom_pairwise (acc : Acc) (f va n off : Nat) : (chunksFrom acc f va n off).Pairwise (fun a b => a.va + a.len ≤ b.va) := by
  induction f generalizing va n off with
  | zero => exact .nil
  | succ f ih =>
    by_cases hn : n = 0
    · rw [hn, chunksFrom_none]
      exact .nil
    · rw [chunksFrom_succ acc f va n off hn]
      refine .cons (fun c hc => ?_) (ih _ _ _)
      obtain ⟨-, -, -, -, hv, -, -⟩ := mem_chunksFrom hc
      exact hv

/-- With a part left for each 8 bytes that the access meets, every byte of it stands in one. -/
theorem chunksFrom_cover {acc : Acc} {f va n off k : Nat} (hf : n + va % 8 ≤ 8 * f) (hk : k < n) :
    ∃ c ∈ chunksFrom acc f va n off, c.va ≤ va + k ∧ va + k < c.va + c.len := by
  induction f generalizing va n off k with
  | zero => omega
  | succ f ih =>
    rw [chunksFrom_succ acc f va n off (by omega)]
    by_cases h : k < min n (8 - va % 8)
    · exact ⟨_, List.mem_cons_self .., Nat.le_add_right .., by dsimp only; omega⟩
    · obtain ⟨c, hc, h1, h2⟩ := ih (va := va + min n (8 - va % 8)) (n := n - min n (8 - va % 8)) (off := off + min n (8 - va % 8))
        (k := k - min n (8 - va % 8)) (by omega) (by omega)
      exact ⟨c, List.mem_cons_of_mem _ hc, by omega, by omega⟩

theorem chunks_cover {acc : Acc} {va n off k : Nat} (hk : k < n) : ∃ c ∈ chunks acc va n off, c.va ≤ va + k ∧ va + k < c.va + c.len :=
  chunksFrom_cover (by omega) hk

/-! ### Requests at their home -/

theorem readRequest_one {s : State} {r : ReadReq} {p : Piece} (hp : r.pieces = [p]) (ha : assigned s p.addr = true) :
    exec (.readRequest r) s = .next (replyRead (rdPiece s p).1 (replyAgent s r.o p.addr)
      { r with pieces := [], got := patch r.got p.off (rdPiece s p).2 }) := by
  show execReadRequest r s = _
  unfold execReadRequest
  rw [hp, takeAt_choose_one]
  dsimp only
  rw [if_pos ha, if_pos rfl]

theorem writeRequest_of_take {s : State} {r : WriteReq} {p : Piece} {l : List Piece}
    (hp : takeAt (choose s r.pieces.length) r.pieces = some (p, l)) (ha : assigned s p.addr = true) :
    exec (.writeRequest r) s = .next (if l = [] then answered (wrPiece s p r.data) r.o
      else pendFirst (wrPiece s p r.data) (.writeRequest { r with pieces := l })) := by
  show execWriteRequest r s = _
  unfold execWriteRequest
  rw [hp]
  dsimp only
  rw [if_pos ha]

/-- The value that a load gets of the bytes read (R160). -/
theorem replyRead_scalar {s : State} {g : Agent} {r : ReadReq} {d : BitVec 6} {signed : Bool} (hr : r.reply = .scalar d signed)
    (hb : r.o.seq.getLsbD 31 = false) :
    replyRead s g r = answerTo s r.o g (.s d)
      (if signed then BitVec.ofInt 64 (BitVec.ofNat (8 * r.got.length) (ofLe r.got)).toInt else word (ofLe r.got)) true := by
  unfold replyRead bit
  rw [hr]
  dsimp only
  rw [if_neg (by rw [hb]; decide)]

theorem read_answers {s : State} {r : ReadReq} {p : Piece} {d : BitVec 6} {signed : Bool} (hp : r.pieces = [p])
    (hr : r.reply = .scalar d signed) (hg : r.got.length = p.len) (h0 : p.off = 0) (hb : r.o.seq.getLsbD 31 = false)
    (ha : assigned s p.addr = true) (hk : sameKey s p) :
    ∃ t, exec (.readRequest r) s = .next t ∧ SameThreads s t ∧ SameMemory s t ∧
      answersWith t r.o d (if signed then BitVec.ofInt 64 (BitVec.ofNat (8 * p.len) (ofLe (rdBytes s p.addr p.len))).toInt
        else word (ofLe (rdBytes s p.addr p.len))) := by
  have hl : (rdBytes s p.addr p.len).length = p.len := rdMem_length _ _ _
  refine ⟨_, (readRequest_one hp ha).trans (congrArg _ (replyRead_scalar hr hb)), ?_⟩
  dsimp only
  rw [h0, rdPiece_bytes hk, patch_all (hl.trans hg.symm), hl]
  have hu := fun v => answerTo_underway (rdPiece s p).1 r.o (replyAgent s r.o p.addr) (.s d) v true
  have hs := rdPiece_beside s p
  exact ⟨⟨(hu _).th.trans hs.th, (hu _).rest.trans hs.rest⟩, fun a => congrArg (sget 0 · a) ((hu _).mem.trans (rdPiece_mem hk)),
    answerTo_answersWith _ _ _ _ _⟩

theorem write_stores {s : State} {r : WriteReq} {p : Piece} (hp : r.pieces = [p]) (hb : r.o.seq.getLsbD 31 = false)
    (hl : p.off + p.len ≤ r.data.length) (ha : assigned s p.addr = true) (hk : sameKey s p) :
    ∃ t, exec (.writeRequest r) s = .next t ∧ SameThreads s t ∧ rdBytes t p.addr p.len = (r.data.drop p.off).take p.len ∧
      SameMemoryOutside s t p.addr p.len ∧ (coreOf t r.o.core).outst = (coreOf s r.o.core).outst - 1 := by
  have ht : takeAt (choose s r.pieces.length) r.pieces = some (p, []) := by rw [hp]; exact takeAt_choose_one p
  have hs := wrPiece_beside s p r.data
  obtain ⟨hth, hrest, hmem, -, -⟩ := answered_beside_cores (wrPiece s p r.data) r.o
  refine ⟨_, writeRequest_of_take ht ha, ?_⟩
  rw [if_pos rfl]
  refine ⟨⟨hth.trans hs.th, hrest.trans hs.rest⟩, ?_, fun a ha => ?_, ?_⟩
  · exact (congrArg (rdMem · p.addr p.len) hmem).trans (wrPiece_bytes hl)
  · exact (congrArg (sget 0 · a) hmem).trans (wrPiece_outside hk a ha)
  · rw [answered_outst hb]
    exact congrArg (fun c => (sget CoreState.init c r.o.core.toNat).outst - 1) hs.cores

theorem write_one_of_several {s : State} {r : WriteReq} (h2 : 2 ≤ r.pieces.length)
    (hall : ∀ p ∈ r.pieces, assigned s p.addr = true ∧ sameKey s p) :
    ∃ t p l, exec (.writeRequest r) s = .next t ∧ SameThreads s t ∧ p ∈ r.pieces ∧ r.pieces.Perm (p :: l) ∧
      t.pending = .writeRequest { r with pieces := l } :: s.pending ∧ SameMemoryOutside s t p.addr p.len := by
  obtain ⟨p, l, ht, hperm⟩ := takeAt_choose (s := s) (l := r.pieces) (fun e => by rw [e] at h2; cases h2)
  have hmem : p ∈ r.pieces := hperm.mem_iff.mpr (List.mem_cons_self ..)
  have hl : l ≠ [] := by
    intro e
    have := hperm.length_eq
    rw [e, List.length_singleton] at this
    omega
  obtain ⟨ha, hk⟩ := hall p hmem
  have hs := wrPiece_beside s p r.data
  refine ⟨_, p, l, writeRequest_of_take ht ha, ?_⟩
  rw [if_neg hl]
  exact ⟨⟨hs.th, hs.rest⟩, hmem, hperm, congrArg _ hs.pending, wrPiece_outside hk⟩

/-- R337: what no device has stops the machine. -/
theorem request_unassigned {s : State} {r : ReadReq} {w : WriteReq} {a : AmoReq} {p : Piece} (h : assigned s p.addr = false) :
    (r.pieces = [p] → exec (.readRequest r) s = .fault (.unassignedAddress p.addr)) ∧
    (w.pieces = [p] → exec (.writeRequest w) s = .fault (.unassignedAddress p.addr)) ∧
    (a.addr = p.addr → exec (.amoAtHome a) s = .fault (.unassignedAddress p.addr)) := by
  have hn : ¬ assigned s p.addr = true := by rw [h]; decide
  refine ⟨fun e => ?_, fun e => ?_, fun e => ?_⟩
  · show execReadRequest r s = _
    unfold execReadRequest
    rw [e, takeAt_choose_one]
    exact if_neg hn
  · show execWriteRequest w s = _
    unfold execWriteRequest
    rw [e, takeAt_choose_one]
    exact if_neg hn
  · show execAmoAtHome a s = _
    unfold execAmoAtHome
    rw [e]
    exact if_neg hn

end Sys2Proof.Machine

open Sys2Proof.Machine in
/-- Settles O21: a request of one piece is answered from the bytes of its place, or stores its own there; of several pieces `takeAt` takes one of
them; the parts of an access by recursion on `chunksFrom`. -/
theorem requestsAtTheirHome : Obligations.RequestsAtTheirHome := by
  unfold Obligations.RequestsAtTheirHome
  refine ⟨fun s r p d signed hp hr hg h0 _ _ hb ha hk => read_answers hp hr hg h0 hb ha hk,
    fun s r p hp hb hl ha hk => write_stores hp hb hl ha hk, fun s r h2 hall => write_one_of_several h2 hall,
    fun s r w a p h => request_unassigned h, fun acc va n off => ⟨fun c hc => ?_, fun k hk => chunks_cover hk, chunksFrom_pairwise acc _ va n off,
      fun c hc => ?_⟩⟩
  · obtain ⟨ha, hl, h8, ho, hv, hf, -⟩ := mem_chunksFrom hc
    exact ⟨ha, hl, h8, ho, hv, hf⟩
  · obtain ⟨-, -, -, -, -, -, hb⟩ := mem_chunksFrom hc
    exact hb

namespace Sys2Proof.Machine

open Sys2Proof

variable {s t u : State}

/-! ### Landings in operand slots (R178, R184, R230, R246) -/

theorem slotAt_setSlot_same (s : State) (u : BitVec 8) (i : Nat) (x : OpSlot) : slotAt (setSlot s u i x) u i = x := by
  unfold slotAt setSlot unitAt setUnit
  rw [sget_sset_same, sget_sset_same]

theorem wrTable_eq_wrMem (b : List Byte) (m : Sparse Byte) (off : Nat) : wrTable m off b = wrMem m off b := by
  induction b generalizing m off with
  | nil => rfl
  | cons x r ih => exact ih _ _

/-- The part of a slot that a landing address names (R246). -/
def slotPart (la : Word) (y : OpSlot) : Sparse Byte := if laPart la = 1 then y.scale else if laPart la = 2 then y.book else y.data

theorem landSlot_part (x : OpSlot) (p : Packet) (z : Piece) :
    slotPart p.la (landSlot x p z) = wrMem (slotPart p.la x) z.addr (slice p.payload z.off z.len) := by
  unfold slotPart landSlot
  by_cases h1 : laPart p.la = 1
  · simp only [if_pos h1]
    exact wrTable_eq_wrMem _ _ _
  · by_cases h2 : laPart p.la = 2
    · simp only [if_neg h1, if_pos h2]
      exact wrTable_eq_wrMem _ _ _
    · simp only [if_neg h1, if_neg h2]
      exact wrTable_eq_wrMem _ _ _

/-- A landing changes no part of a slot but the one it names. -/
theorem landSlot_others (x : OpSlot) (p : Packet) (z : Piece) :
    landSlot x p z = { x with data := (landSlot x p z).data, scale := (landSlot x p z).scale, book := (landSlot x p z).book } ∧
      (laPart p.la ≠ 1 → (landSlot x p z).scale = x.scale) ∧ (laPart p.la ≠ 2 → (landSlot x p z).book = x.book) ∧
      (laPart p.la = 1 ∨ laPart p.la = 2 → (landSlot x p z).data = x.data) := by
  unfold landSlot
  by_cases h1 : laPart p.la = 1
  · rw [if_pos h1]
    exact ⟨rfl, fun h => absurd h1 h, fun _ => rfl, fun _ => rfl⟩
  · by_cases h2 : laPart p.la = 2
    · rw [if_neg h1, if_pos h2]
      exact ⟨rfl, fun _ => rfl, fun h => absurd h2 h, fun _ => rfl⟩
    · rw [if_neg h1, if_neg h2]
      exact ⟨rfl, fun _ => rfl, fun _ => rfl, fun h => absurd h (not_or.mpr ⟨h1, h2⟩)⟩

theorem landSlot_inside {x : OpSlot} {p : Packet} {z : Piece} {i : Nat} (h : z.off + z.len ≤ p.payload.length) (hi : i < z.len) :
    sget 0 (slotPart p.la (landSlot x p z)) (z.addr + i) = p.payload.getD (z.off + i) 0 := by
  rw [landSlot_part, sget_wrMem_inside _ _ _ _ (by rwa [slice_length]), slice_eq_take h, List.getD_eq_getElem?_getD, List.getD_eq_getElem?_getD,
    List.getElem?_take_of_lt hi, List.getElem?_drop]

theorem landSlot_outside {x : OpSlot} {p : Packet} {z : Piece} {k : Nat} (hk : k < z.addr ∨ z.addr + z.len ≤ k) :
    sget 0 (slotPart p.la (landSlot x p z)) k = sget 0 (slotPart p.la x) k := by
  rw [landSlot_part]
  exact sget_wrMem_outside _ _ _ _ (by rwa [slice_length])

/-- The pieces that are still to be written: at first those of the payload (R178). -/
def slotLeft (p : Packet) : List Piece := if p.pieces = [] then slotPieces p else p.pieces

theorem slotStep_nil (s : State) (p : Packet) : slotStep s p [] = pend s (.landingAcknowledgement p 0xFFF) := rfl

theorem slotStep_of_take {p : Packet} {l r : List Piece} {z : Piece} (h : takeAt (choose s l.length) l = some (z, r)) :
    slotStep s p l =
      (if r = [] then ackPlain (setSlot s (laUnit p.la) (laSlot p.la) (landSlot (slotAt s (laUnit p.la) (laSlot p.la)) p z)) { p with pieces := [] }
       else pendFirst (setSlot s (laUnit p.la) (laSlot p.la) (landSlot (slotAt s (laUnit p.la) (laSlot p.la)) p z))
         (.slotLanding { p with pieces := r })) := by
  unfold slotStep
  rw [h]
  rfl

/-- The checks that come first are passed: no piece is written yet and the check code holds. -/
def Fresh (p : Packet) : Prop := p.pieces = [] ∧ crcOk p = true

/-- The slot that a landing names. -/
def slotOf (s : State) (p : Packet) : OpSlot := slotAt s (laUnit p.la) (laSlot p.la)

theorem slotLanding_begun {p : Packet} (h : p.pieces ≠ []) :
    exec (.slotLanding p) s = .next (if (slotOf s p).owner.isNone then pend s (.landingRefusal p 5) else slotStep s p p.pieces) := by
  show execSlotLanding p s = _
  unfold execSlotLanding
  exact if_pos h

theorem slotLanding_fresh {p : Packet} (h : Fresh p) :
    exec (.slotLanding p) s =
      if !unitPresent s (laUnit p.la) || (slotOf s p).owner.isNone then .next (pend s (.landingRefusal p 5))
      else if (slotOf s p).world ≠ p.o.world then .next (pend s (.landingRefusal p 3))
      else .next (slotStep s p (slotPieces p)) := by
  obtain ⟨hp, hc⟩ := h
  show execSlotLanding p s = _
  unfold execSlotLanding
  rw [if_neg (not_not.mpr hp), if_neg (by rw [hc]; decide)]
  rfl

theorem slotLanding_badCheck {p : Packet} (hp : p.pieces = []) (hc : crcOk p = false) :
    exec (.slotLanding p) s = .next (pend s (.checkFailure p)) := by
  show execSlotLanding p s = _
  unfold execSlotLanding
  rw [if_neg (not_not.mpr hp), if_pos (by rw [hc]; decide)]

theorem slotLanding_unclaimed {p : Packet} (h : Fresh p) (hu : ¬ unitPresent s (laUnit p.la) = true ∨ (slotOf s p).owner = none) :
    exec (.slotLanding p) s = .next (pend s (.landingRefusal p 5)) := by
  rw [slotLanding_fresh h, if_pos]
  rw [Bool.or_eq_true, Bool.not_eq_true', Option.isNone_iff_eq_none]
  exact hu.imp_left (fun h => by simpa using h)

theorem claimed {p : Packet} (hu : unitPresent s (laUnit p.la) = true) (ho : (slotOf s p).owner ≠ none) :
    ¬ (!unitPresent s (laUnit p.la) || (slotOf s p).owner.isNone) = true := by
  rw [Bool.or_eq_true, Bool.not_eq_true', Option.isNone_iff_eq_none, hu]
  exact not_or.mpr ⟨by decide, ho⟩

theorem slotLanding_otherWorld {p : Packet} (h : Fresh p) (hu : unitPresent s (laUnit p.la) = true) (ho : (slotOf s p).owner ≠ none)
    (hw : (slotOf s p).world ≠ p.o.world) : exec (.slotLanding p) s = .next (pend s (.landingRefusal p 3)) := by
  rw [slotLanding_fresh h, if_neg (claimed hu ho), if_pos hw]

/-- When a landing's bytes go on into its slot: the slot is claimed, and what comes first has its checks passed. -/
theorem slotLanding_goes_on {p : Packet} (ho : (slotOf s p).owner ≠ none)
    (h : Fresh p ∧ unitPresent s (laUnit p.la) = true ∧ (slotOf s p).world = p.o.world ∨ p.pieces ≠ []) :
    exec (.slotLanding p) s = .next (slotStep s p (slotLeft p)) := by
  unfold slotLeft
  rcases h with ⟨hf, hu, hw⟩ | hp
  · rw [slotLanding_fresh hf, if_neg (claimed hu ho), if_neg (not_not.mpr hw), if_pos hf.1]
  · rw [slotLanding_begun hp, if_neg hp, if_neg (by simpa using ho)]

/-- One piece of a landing is written into its slot, and with the last one it is acknowledged. -/
theorem slotLanding_writes {p : Packet} (ho : (slotOf s p).owner ≠ none)
    (h : Fresh p ∧ unitPresent s (laUnit p.la) = true ∧ (slotOf s p).world = p.o.world ∨ p.pieces ≠ []) (hl : slotLeft p ≠ []) :
    ∃ t z r, exec (.slotLanding p) s = .next t ∧ SameThreads s t ∧ t.mem = s.mem ∧ (slotLeft p).Perm (z :: r) ∧
      slotOf t p = landSlot (slotOf s p) p z ∧
      t.pending = (if r = [] then s.pending ++ [.landingAcknowledgement { p with pieces := [] } 0xFFF]
        else .slotLanding { p with pieces := r } :: s.pending) := by
  obtain ⟨z, r, ht, hp⟩ := takeAt_choose (s := s) hl
  refine ⟨_, z, r, (slotLanding_goes_on ho h).trans (congrArg _ (slotStep_of_take ht)), ?_⟩
  by_cases hr : r = []
  · rw [if_pos hr, if_pos hr]
    exact ⟨⟨rfl, rfl⟩, rfl, hp, slotAt_setSlot_same .., rfl⟩
  · rw [if_neg hr, if_neg hr]
    exact ⟨⟨rfl, rfl⟩, rfl, hp, slotAt_setSlot_same .., rfl⟩

/-! ### Landings in memory (R165, R178) -/

theorem memoryLanding_writes {p : Packet} {x : Piece} (hc : crcOk p = true) (hp : p.pieces = [x]) (ha : assigned s x.addr = true)
    (hk : sameKey s x) (hl : x.off + x.len ≤ p.payload.length) :
    ∃ t, exec (.memoryLanding p) s = .next t ∧ SameThreads s t ∧ rdBytes t x.addr x.len = (p.payload.drop x.off).take x.len ∧
      SameMemoryOutside s t x.addr x.len ∧ t.pending = s.pending ++ [.landingAcknowledgement { p with pieces := [] } 0xFFF] := by
  have hs := wrPiece_beside s x p.payload
  refine ⟨ackPlain (wrPiece s x p.payload) { p with pieces := [] }, ?_, ⟨hs.th, hs.rest⟩, wrPiece_bytes hl, wrPiece_outside hk,
    congrArg (· ++ [_]) hs.pending⟩
  show execMemoryLanding p s = _
  unfold execMemoryLanding
  rw [if_neg (by rw [hc]; decide), hp, takeAt_choose_one]
  dsimp only
  rw [if_pos ha, if_pos rfl]

/-! ### What comes back to a landing's agent (R177, R180, R185, R187) -/

theorem locOf_setLoc (s : State) (g : Agent) (l : List (Handle × Option (BitVec 11))) : locOf (setLoc s g l) g = l.take 64 := by
  unfold setLoc
  split
  · rename_i c
    show (coreOf (setCore s c { coreOf s c with loc := l.take 64 }) c).loc = _
    rw [coreOf_setCore_same]
  · rename_i hg
    unfold locOf
    split
    · exact absurd rfl (hg _)
    · rw [List.find?_cons_of_pos (by simp)]
      rfl

theorem locOf_locPut_head (s : State) (g : Agent) (h : Handle) (v : Option (BitVec 11)) : (locOf (locPut s g h v) g).head? = some (h, v) := by
  unfold locPut
  rw [locOf_setLoc]
  rfl

theorem locOf_locDrop {g : Agent} {h : Handle} {x : Handle × Option (BitVec 11)} (hx : x ∈ locOf (locDrop s g h) g) : x.1 ≠ h := by
  unfold locDrop at hx
  rw [locOf_setLoc] at hx
  simpa using List.of_mem_filter (List.mem_of_mem_take hx)

theorem locOf_congr {g : Agent} (hc : ∀ c, (coreOf t c).loc = (coreOf s c).loc) (ha : t.agentLocs = s.agentLocs) : locOf t g = locOf s g := by
  unfold locOf
  split
  · exact hc _
  · rw [ha]

theorem Beside.locOf {g : Agent} (h : Beside s t) : locOf t g = locOf s g :=
  locOf_congr (fun c => congrArg (fun l => (sget CoreState.init l c.toNat).loc) h.cores) h.agentLocs

theorem locOf_answered {o : Origin} {g : Agent} : locOf (answered s o) g = locOf s g := by
  unfold answered
  split
  · rfl
  · refine locOf_congr (fun c => ?_) rfl
    unfold uncountRequest
    by_cases h : c = o.core
    · rw [h, coreOf_setCore_same]
    · rw [coreOf_setCore_other h]

/-- An answer to a landing of a thread's own bundle is no command's (R213). -/
theorem cmdAnswered_of_thread {p : Packet} {a b : Bool} (h : p.o.seq.getLsbD 31 = false) : cmdAnswered s p a b = s := by
  unfold cmdAnswered bit
  rw [if_neg (by rw [h]; decide)]

/-- The agent's copy is dropped, its cache is told where the thread is, and what was counted is counted no longer. -/
theorem landingAcknowledgement_settles {p q : Packet} {l r : List Packet} {place : BitVec 12} (hd : p.o.dev = s.dev)
    (hb : p.o.seq.getLsbD 31 = false) (hc : s.copies = l ++ q :: r) (hl : ∀ x ∈ l, samePacket p x = false) (hq : samePacket p q = true) :
    ∃ t, exec (.landingAcknowledgement p place) s = .next t ∧ SameThreads s t ∧ t.mem = s.mem ∧
      (copiesOf t).Perm (l ++ r ++ s.heldBack) ∧
      (laSpace p.la = 1 → laDev p.la = s.dev →
        (locOf t p.o.agent).head? = some (laHandle p.la, if place = 0xFFF then none else some (place.truncate 11))) ∧
      (p.counted = true → (coreOf t p.o.core).outst = (coreOf s p.o.core).outst - 1) := by
  have h1 := dropCopy_underway s p
  have k1 := dropCopy_copies hc hl hq
  set s1 := dropCopy s p with e1
  set s2 := if laSpace p.la = 1 && laDev p.la = s1.dev then
      locPut s1 p.o.agent (laHandle p.la) (if place = 0xFFF then none else some (bits place 0 11)) else s1 with e2
  have h2 : Underway s s2 := by
    rw [e2]
    split
    · exact h1.trans (setLoc_underway _ _ _)
    · exact h1
  have k2 : copiesOf s2 = copiesOf s1 := by
    rw [e2]
    split
    · obtain ⟨hc, hh, -⟩ := setLoc_copies s1 p.o.agent ((laHandle p.la, if place = 0xFFF then none else some (bits place 0 11)) ::
        (locOf s1 p.o.agent).filter (fun e => e.1 ≠ laHandle p.la))
      exact congrArg₂ (· ++ ·) hc hh
    · rfl
  have l2 (h : laSpace p.la = 1) (h' : laDev p.la = s.dev) :
      (locOf s2 p.o.agent).head? = some (laHandle p.la, if place = 0xFFF then none else some (place.truncate 11)) := by
    rw [e2, if_pos (by rw [h, h', h1.dev]; simp), locOf_locPut_head]
    rfl
  have ht : exec (.landingAcknowledgement p place) s = .next (if p.counted then answered s2 p.o else s2) := by
    show execLandingAcknowledgement p place s = _
    unfold execLandingAcknowledgement
    rw [if_neg (not_not.mpr hd)]
    exact congrArg _ (cmdAnswered_of_thread hb)
  obtain ⟨hth, hrest, hmem, hcop, hheld⟩ := answered_beside_cores s2 p.o
  refine ⟨_, ht, ?_⟩
  by_cases hp : p.counted = true
  · rw [if_pos hp]
    refine ⟨⟨hth.trans h2.th, hrest.trans h2.rest⟩, hmem.trans h2.mem, ?_, fun h h' => ?_, fun _ => ?_⟩
    · rw [show copiesOf (answered s2 p.o) = copiesOf s2 from congrArg₂ (· ++ ·) hcop hheld, k2]
      exact k1
    · rw [locOf_answered]
      exact l2 h h'
    · rw [answered_outst hb, h2.outst]
  · rw [if_neg hp]
    exact ⟨h2.threads, h2.mem, k2 ▸ k1, l2, fun h => absurd h hp⟩

/-! ### A landing that fails (R180, R185) -/

theorem touchLines_beside (s : State) (a n : Nat) (k : Option (BitVec 13)) (w : Bool) : Beside s (touchLines s a n k w) :=
  foldl_beside (fun t _ => touchLine_beside t _ k w)

theorem writeImage_beside (s : State) (h : Handle) : Beside s (writeImage s h) := by
  unfold writeImage
  cases findThread s h with
  | none => exact Beside.refl
  | some t =>
    exact beside_ite ((((touchLines_beside s _ _ none true).trans (wrBytes_beside _ _ _)).trans (touchLines_beside _ _ _ none true)).trans
      (wrBytes_beside _ _ _)) Beside.refl

/-- The image of a thread that stands in its slot is not written. -/
theorem writeImage_of_here {h : Handle} (hl : isLive s.th = true) (hh : s.th.handle = h) (ha : isAway s.th = false) : writeImage s h = s := by
  unfold writeImage findThread
  rw [if_pos (by rw [hl, hh]; simp)]
  dsimp only
  rw [if_neg (by rw [ha, Bool.false_and]; exact Bool.false_ne_true)]

theorem toNat_append_add {m n : Nat} (x : BitVec m) (y : BitVec n) : (x ++ y).toNat = x.toNat * 2 ^ n + y.toNat := by
  rw [BitVec.toNat_append, ← Nat.shiftLeft_add_eq_or_of_lt y.isLt, Nat.shiftLeft_eq]

/-- What a thread's record says after a landing failure (R185). -/
theorem receiveFailure_fails (x : Thread) (la : Word) (sub : BitVec 8) (seq : BitVec 32) : (receiveFailure x la sub seq).1 = fails x la sub seq := by
  have hf : field x.lfaultHi 8 8 < 256 := (bits x.lfaultHi 8 8).isLt
  have hn : (if field x.lfaultHi 8 8 = 255 then (255 : BitVec 8) else BitVec.ofNat 8 (field x.lfaultHi 8 8 + 1)).toNat =
      min 255 (field x.lfaultHi 8 8 + 1) := by
    split
    · rw [Nat.min_eq_left (by omega)]
      rfl
    · rw [BitVec.toNat_ofNat]
      omega
  unfold receiveFailure fails inTrap bit
  dsimp only
  generalize (if field x.lfaultHi 8 8 = 255 then (255 : BitVec 8) else BitVec.ofNat 8 (field x.lfaultHi 8 8 + 1)) = n at hn ⊢
  rw [← hn]
  by_cases h : field x.lfaultHi 8 8 = 0 ∧ x.tstat.getLsbD 6 = false
  · have hw : (seq ++ 0#16 ++ n ++ sub).cast (by decide) = word (seq.toNat * 2 ^ 32 + n.toNat * 2 ^ 8 + sub.toNat) := by
      apply BitVec.eq_of_toNat_eq
      simp only [word, BitVec.toNat_cast, toNat_append_add, BitVec.toNat_ofNat]
      omega
    rw [if_pos (by rw [h.1, h.2]; decide), if_pos h, hw]
  · have hw : (bits x.lfaultHi 32 32 ++ 0#15 ++ 1#1 ++ n ++ bits x.lfaultHi 0 8).cast (by decide) =
        word (field x.lfaultHi 32 32 * 2 ^ 32 + 2 ^ 16 + n.toNat * 2 ^ 8 + field x.lfaultHi 0 8) := by
      apply BitVec.eq_of_toNat_eq
      simp only [word, field, bits, BitVec.toNat_cast, toNat_append_add, BitVec.toNat_ofNat]
      omega
    rw [if_neg (by simpa using h), if_neg h, hw]

theorem lfault_keeps (x : Thread) (a b : Word) : isLive { x with lfaultLo := a, lfaultHi := b } = isLive x ∧
    isAway { x with lfaultLo := a, lfaultHi := b } = isAway x := ⟨rfl, rfl⟩

/-- The record of a failure changes neither handle nor state of the thread. -/
theorem fails_keeps (x : Thread) (la : Word) (sub : BitVec 8) (seq : BitVec 32) : isLive (fails x la sub seq) = isLive x ∧
    (fails x la sub seq).handle = x.handle ∧ isAway (fails x la sub seq) = isAway x := by
  unfold fails
  dsimp only
  split
  · exact ⟨(lfault_keeps x _ _).1, rfl, (lfault_keeps x _ _).2⟩
  · exact ⟨(lfault_keeps x x.lfaultLo _).1, rfl, (lfault_keeps x x.lfaultLo _).2⟩

theorem findThread_here {h : Handle} (hv : isLive s.th = true) (hh : s.th.handle = h) : findThread s h = some s.th := by
  unfold findThread
  rw [if_pos (by rw [hv, hh]; simp)]

theorem modThread_here {h : Handle} {f : Thread → Thread} (hv : isLive s.th = true) (hh : s.th.handle = h) :
    modThread s h f = { s with th := f s.th } := by
  unfold modThread
  rw [if_pos (by rw [hv, hh]; simp)]

theorem failLanding_here {h : Handle} {w : World} {la : Word} {sub : BitVec 8} {seq : BitVec 32} (hv : isLive s.th = true)
    (hh : s.th.handle = h) : Beside { s with th := fails s.th la sub seq } (failLanding s h w la sub seq) ∧
      (isAway s.th = false → (failLanding s h w la sub seq).mem = s.mem) := by
  obtain ⟨hl, hn, ha⟩ := fails_keeps s.th la sub seq
  have hw := writeImage_beside { s with th := fails s.th la sub seq } h
  have hm (hz : isAway s.th = false) : (writeImage { s with th := fails s.th la sub seq } h).mem = s.mem := by
    rw [writeImage_of_here (s := { s with th := fails s.th la sub seq }) (hl.trans hv) (hn.trans hh) (ha.trans hz)]
  unfold failLanding
  rw [findThread_here hv hh]
  dsimp only
  rw [modThread_here hv hh, receiveFailure_fails]
  split
  · exact ⟨hw.logError, fun hz => (logError_mem _ _ _ _ _ _).trans (hm hz)⟩
  · exact ⟨hw, hm⟩

/-- A failed landing of the thread in focus: its copy is gone, its failure recorded, the place it was sent to forgotten. -/
theorem failed_records {p q : Packet} {l r : List Packet} {sub : BitVec 8} (hb : p.o.seq.getLsbD 31 = false) (hc : s.copies = l ++ q :: r)
    (hl : ∀ x ∈ l, samePacket p x = false) (hq : samePacket p q = true) (hv : isLive s.th = true) (hh : s.th.handle = p.o.by') :
    (copiesOf (failed s p sub)).Perm (l ++ r ++ s.heldBack) ∧ (isAway s.th = false → (failed s p sub).mem = s.mem) ∧
      (failed s p sub).rest = s.rest ∧ (failed s p sub).th = fails s.th p.la sub p.o.seq ∧
      (laSpace p.la = 1 → sub ≠ 0 → ∀ x ∈ locOf (failed s p sub) p.o.agent, x.1 ≠ laHandle p.la) := by
  have h1 := dropCopy_underway s p
  have k1 := dropCopy_copies hc hl hq
  set s2 := if laSpace p.la = 1 && sub ≠ 0 then locDrop (dropCopy s p) p.o.agent (laHandle p.la) else dropCopy s p with e2
  have h2 : Underway s s2 := by
    rw [e2]
    split
    · exact h1.trans (setLoc_underway _ _ _)
    · exact h1
  have k2 : copiesOf s2 = copiesOf (dropCopy s p) := by
    rw [e2]
    split
    · obtain ⟨hc, hh, -⟩ := setLoc_copies (dropCopy s p) p.o.agent ((locOf (dropCopy s p) p.o.agent).filter (fun e => e.1 ≠ laHandle p.la))
      exact congrArg₂ (· ++ ·) hc hh
    · rfl
  have l2 (h : laSpace p.la = 1) (h' : sub ≠ 0) (x : Handle × Option (BitVec 11)) (hx : x ∈ locOf s2 p.o.agent) : x.1 ≠ laHandle p.la := by
    rw [e2, if_pos (by simpa using ⟨h, h'⟩)] at hx
    exact locOf_locDrop hx
  set s3 := if p.counted then answered s2 p.o else s2 with e3
  have h3 : s3.th = s2.th ∧ s3.rest = s2.rest ∧ s3.mem = s2.mem ∧ s3.copies = s2.copies ∧ s3.heldBack = s2.heldBack := by
    rw [e3]
    split
    · exact answered_beside_cores s2 p.o
    · exact ⟨rfl, rfl, rfl, rfl, rfl⟩
  have l3 : locOf s3 p.o.agent = locOf s2 p.o.agent := by
    rw [e3]
    split
    · exact locOf_answered
    · rfl
  have e : failed s p sub = failLanding s3 p.o.by' p.o.world p.la sub p.o.seq := by
    unfold failed
    dsimp only
    rw [cmdAnswered_of_thread hb]
  obtain ⟨hth, hrest, hmem, hcop, hheld⟩ := h3
  have e1 : s3.th = s.th := hth.trans h2.th
  obtain ⟨hf, hm⟩ := failLanding_here (s := s3) (h := p.o.by') (w := p.o.world) (la := p.la) (sub := sub) (seq := p.o.seq) (by rw [e1]; exact hv)
    (by rw [e1]; exact hh)
  rw [e]
  refine ⟨?_, fun hz => (hm (by rw [e1]; exact hz)).trans (hmem.trans h2.mem), hf.rest.trans (hrest.trans h2.rest), ?_, fun h h' x hx => ?_⟩
  · have : copiesOf (failLanding s3 p.o.by' p.o.world p.la sub p.o.seq) = copiesOf s2 :=
      congrArg₂ (· ++ ·) (hf.copies.trans hcop) (hf.heldBack.trans hheld)
    rw [this, k2]
    exact k1
  · rw [hf.th, e1]
  · refine l2 h h' x ?_
    rw [hf.locOf] at hx
    exact l3 ▸ hx

/-! ### A landing sent again (R177, R187) -/

theorem find_copy {p q : Packet} {l r : List Packet} (hc : s.copies = l ++ q :: r) (hl : ∀ x ∈ l, samePacket p x = false)
    (hq : samePacket p q = true) : s.copies.find? (samePacket p) = some q := by
  rw [hc, List.find?_append, List.find?_eq_none.mpr (fun x hx => by rw [hl x hx]; decide), List.find?_cons_of_pos hq]
  rfl

theorem samePacket_origin {p q : Packet} (h : samePacket p q = true) : p.o = q.o := of_decide_eq_true h

/-- What is sent again leaves the threads and memory as they are, and its copy counts the attempt unless its target was busy. -/
theorem resend_sends {p q : Packet} {l r : List Packet} (again : Bool) (hc : s.copies = l ++ q :: r) (hl : ∀ x ∈ l, samePacket p x = false)
    (hq : samePacket p q = true) :
    ∃ x, x ∈ (resend s p again).copies ∧ samePacket p x = true ∧ x.tries = (if again then q.tries + 1 else q.tries) ∧
      SameThreads s (resend s p again) ∧ (resend s p again).mem = s.mem ∧ (resend s p again).pending.length = s.pending.length + 1 := by
  let q1 := if again then { q with tries := q.tries + 1 } else q
  have hr : resend s p again = transmit { s with copies := s.copies.map (fun c => if samePacket p c then q1 else c) } q1 := by
    unfold resend
    rw [find_copy hc hl hq]
  have ht := transmit_transmitted { s with copies := s.copies.map (fun c => if samePacket p c then q1 else c) } q1
  obtain ⟨e, he⟩ := ht.pending
  have ho : samePacket p q1 = true ∧ q1.tries = (if again then q.tries + 1 else q.tries) := by
    cases again
    · exact ⟨hq, rfl⟩
    · exact ⟨hq, rfl⟩
  rw [hr]
  refine ⟨q1, ?_, ho.1, ho.2, ⟨ht.underway.th, ht.underway.rest⟩, ht.underway.mem, ?_⟩
  · rw [ht.copies]
    exact List.mem_map.mpr ⟨q, by rw [hc]; simp, if_pos hq⟩
  · rw [he]
    exact List.length_append

theorem checkFailure_here {p q : Packet} (hd : p.o.dev = s.dev) (hf : s.copies.find? (samePacket p) = some q) :
    exec (.checkFailure p) s = if q.tries < 4 then .next (resend s p true) else .next (failed s q 0) := by
  show execCheckFailure p s = _
  unfold execCheckFailure
  rw [if_neg (not_not.mpr hd), hf]

theorem busyResend_here {p : Packet} (hd : p.o.dev = s.dev) : exec (.busyResend p) s = .next (resend s p false) :=
  if_neg (not_not.mpr hd)

theorem landingRefusal_here {p : Packet} {sub : BitVec 8} (hd : p.o.dev = s.dev) : exec (.landingRefusal p sub) s = .next (failed s p sub) :=
  if_neg (not_not.mpr hd)

theorem checkFailure_resends {p q : Packet} {l r : List Packet} (hd : p.o.dev = s.dev) (hc : s.copies = l ++ q :: r)
    (hl : ∀ x ∈ l, samePacket p x = false) (hq : samePacket p q = true) (hn : q.tries < 4) :
    ∃ t x, exec (.checkFailure p) s = .next t ∧ SameThreads s t ∧ t.mem = s.mem ∧ x ∈ t.copies ∧ samePacket p x = true ∧
      x.tries = q.tries + 1 ∧ t.pending.length = s.pending.length + 1 := by
  obtain ⟨x, hx, hp, hi, ht, hm, hl'⟩ := resend_sends true hc hl hq
  exact ⟨_, x, (checkFailure_here hd (find_copy hc hl hq)).trans (if_pos hn), ht, hm, hx, hp, hi, hl'⟩

/-- The fourth failure of a check is final (R177). -/
theorem checkFailure_final {p q : Packet} {l r : List Packet} (hd : p.o.dev = s.dev) (hb : p.o.seq.getLsbD 31 = false)
    (hc : s.copies = l ++ q :: r) (hl : ∀ x ∈ l, samePacket p x = false) (hq : samePacket p q = true) (hn : 4 ≤ q.tries)
    (hv : isLive s.th = true) (hh : s.th.handle = p.o.by') :
    ∃ t, exec (.checkFailure p) s = .next t ∧ (copiesOf t).Perm (l ++ r ++ s.heldBack) ∧ (isAway s.th = false → t.mem = s.mem) ∧
      t.rest = s.rest ∧ t.th = fails s.th q.la 0 p.o.seq := by
  have ho := samePacket_origin hq
  have hs : samePacket q = samePacket p := by
    funext x
    unfold samePacket
    rw [ho]
  obtain ⟨hp, hm, hr, ht, -⟩ := failed_records (p := q) (sub := 0) (ho ▸ hb) hc (hs ▸ hl) (hs ▸ hq) hv (ho ▸ hh)
  exact ⟨_, (checkFailure_here hd (find_copy hc hl hq)).trans (if_neg (Nat.not_lt.mpr hn)), hp, hm, hr, ho ▸ ht⟩

/-! ### O43 -/

/-- What becomes of the landing in a slot of which a piece is still to be written. -/
theorem slotLanding_stores {p : Packet} (ho : (slotOf s p).owner ≠ none)
    (h : Fresh p ∧ unitPresent s (laUnit p.la) = true ∧ (slotOf s p).world = p.o.world ∨ p.pieces ≠ []) (hl : slotLeft p ≠ [])
    (hz : ∀ z ∈ slotLeft p, z.off + z.len ≤ p.payload.length) :
    ∃ t y z r, exec (.slotLanding p) s = .next t ∧ SameThreads s t ∧ t.mem = s.mem ∧ (slotLeft p).Perm (z :: r) ∧ slotOf t p = y ∧
      t.pending = (if r = [] then s.pending ++ [.landingAcknowledgement { p with pieces := [] } 0xFFF]
        else .slotLanding { p with pieces := r } :: s.pending) ∧
      y = { slotOf s p with data := y.data, scale := y.scale, book := y.book } ∧
      (∀ i, i < z.len → sget 0 (slotPart p.la y) (z.addr + i) = p.payload.getD (z.off + i) 0) ∧
      (∀ k, k < z.addr ∨ z.addr + z.len ≤ k → sget 0 (slotPart p.la y) k = sget 0 (slotPart p.la (slotOf s p)) k) ∧
      (laPart p.la ≠ 1 → y.scale = (slotOf s p).scale) ∧ (laPart p.la ≠ 2 → y.book = (slotOf s p).book) ∧
      (laPart p.la = 1 ∨ laPart p.la = 2 → y.data = (slotOf s p).data) := by
  obtain ⟨t, z, r, ht, hs, hm, hp, hy, hd⟩ := slotLanding_writes ho h hl
  have hz' : z.off + z.len ≤ p.payload.length := hz z (hp.mem_iff.mpr (List.mem_cons_self ..))
  obtain ⟨h1, h2, h3, h4⟩ := landSlot_others (slotOf s p) p z
  exact ⟨t, _, z, r, ht, hs, hm, hp, hy, hd, h1, fun i hi => landSlot_inside hz' hi, fun k hk => landSlot_outside hk, h2, h3, h4⟩

end Sys2Proof.Machine

open Sys2Proof Sys2Proof.Machine in
/-- Settles O43: a landing in a slot by the state it finds there, then by the piece taken (`slotLanding_stores`); one in memory is a
piece written at its home; what comes back drops the copy, tells the thread, or sends it again. -/
theorem landingsStoreAndAreAnswered : Obligations.LandingsStoreAndAreAnswered := by
  unfold Obligations.LandingsStoreAndAreAnswered
  refine ⟨⟨fun s p => ⟨slotLanding_badCheck, slotLanding_unclaimed, slotLanding_otherWorld, fun hp hn => ?_, fun hf hu ho hw hl => ?_,
    fun ho h hl hz => ?_⟩, fun s p x => memoryLanding_writes⟩, fun s p q l r place sub hd hb hc hl hq => ⟨?_, fun ⟨hv, hh⟩ => ?_,
    checkFailure_resends hd hc hl hq, fun hn ⟨hv, hh⟩ => checkFailure_final hd hb hc hl hq hn hv hh, rfl, ?_⟩⟩
  · exact (slotLanding_begun hp).trans (congrArg _ (if_pos (Option.isNone_iff_eq_none.mpr hn)))
  · refine (slotLanding_goes_on ho (.inl ⟨hf, hu, hw⟩)).trans (congrArg _ ?_)
    rw [show slotLeft p = [] from hl, slotStep_nil]
  · exact slotLanding_stores ho (h.imp_left fun ⟨hf, hu, hw⟩ => ⟨hf, hu, hw⟩) hl hz
  · exact landingAcknowledgement_settles hd hb hc hl hq
  · obtain ⟨hp, hm, hr, ht, hk⟩ := failed_records (sub := sub) hb hc hl hq hv hh
    exact ⟨_, landingRefusal_here hd, hp, hm, hr, ht, hk⟩
  · obtain ⟨x, hx, hp, hi, ht, hm, hn⟩ := resend_sends false hc hl hq
    exact ⟨_, x, busyResend_here hd, ht, hm, hx, hp, hi, hn⟩

namespace Sys2Proof.Machine

open Sys2Proof

/-! ### O18: a handler's `TEAMBAR` at the barrier its thread was interrupted in -/

/-- A member asleep at the barrier in a handler (R198): it arrived, was interrupted there, and its handler arrived again. -/
def arrivedTwice : Thread :=
  { Thread.none with handle := 2, member := some 1, status := .sleeping .teambar, waited := some .teambar }

/-- A team of the threads 1 and 2, of which thread 2 has arrived, and again from its handler. -/
def twiceArrivedTeam : Team :=
  { graph := 0, node := 0, home := 0, members := [1, 2], left := [], arrived := [2, 2], alive := 2, placed := 0, acted := 0 }

/-- Thread 1 is about to arrive last. -/
def beforeLastArrival : State :=
  { State.reset with
    th := { Thread.none with handle := 1, member := some 0, status := .ready }
    rest := [arrivedTwice]
    teams := [(0, some twiceArrivedTeam)] }

/-- Both waits of thread 2 are over: the interrupted one, and the one of its handler, which has left its sleep. -/
def afterLastArrival : State :=
  { beforeLastArrival with
    th := { beforeLastArrival.th with pc := 8 }
    rest := [{ arrivedTwice with status := .ready, woken := true }]
    teams := [(0, some { twiceArrivedTeam with arrived := [] })]
    last := .done }

theorem lastArrival_runs : Running beforeLastArrival := ⟨rfl, rfl⟩

theorem lastArrival_wakes : exec .teambar beforeLastArrival = .next afterLastArrival := rfl

theorem everyMember_arrived : ∀ h ∈ twiceArrivedTeam.members, h ∉ twiceArrivedTeam.left →
    h ∈ twiceArrivedTeam.arrived ∨ h = beforeLastArrival.th.handle := by
  intro h hm _
  rcases List.mem_pair.mp hm with rfl | rfl
  · exact .inr rfl
  · exact .inl (List.mem_cons_self ..)

end Sys2Proof.Machine

open Sys2Proof Sys2Proof.Machine in
/-- Refutes O18: of a member in a handler, whose interrupted wait at the barrier ends (R198), it says that its status stays. Where the handler itself
arrived at the same barrier, the handle stands twice among the arrived, the last arrival ends both waits, and the thread leaves its sleep. -/
theorem not_barriersAndEventLines : ¬ Obligations.BarriersAndEventLines := by
  unfold Obligations.BarriersAndEventLines
  rintro ⟨hbar, -, -⟩
  obtain ⟨-, hlast⟩ := hbar beforeLastArrival twiceArrivedTeam 0 lastArrival_runs
  have hall := hlast rfl rfl rfl rfl
  simp only [if_pos everyMember_arrived] at hall
  obtain ⟨t, ht, -, -, -, hwakes⟩ := hall
  obtain ⟨-, hhandler, -⟩ := hwakes 2 arrivedTwice (by decide) (by decide) rfl
  obtain ⟨v, hv, -, hsame⟩ := hhandler rfl rfl
  obtain rfl : afterLastArrival = t := Host.Outcome.next.inj (lastArrival_wakes.symm.trans ht)
  obtain rfl : { arrivedTwice with status := .ready, woken := true } = v := Option.some.inj hv
  exact absurd hsame (by decide)

namespace Sys2Proof.Machine
open Sys2Proof
set_option Elab.async false

/-! ### Fields of a word that is put together (R26 to R40) -/

section
variable {v w i n : Nat}

theorem bits_append_low {x : BitVec v} {y : BitVec w} (h : i + n ≤ w) : bits (x ++ y) i n = bits y i n :=
  BitVec.extractLsb'_append_eq_of_add_le h

theorem bits_append_high {x : BitVec v} {y : BitVec w} (h : w ≤ i) : bits (x ++ y) i n = bits x (i - w) n :=
  BitVec.extractLsb'_append_eq_of_le h

theorem bits_cast {x : BitVec v} (h : v = w) : bits (x.cast h) i n = bits x i n := BitVec.extractLsb'_cast

theorem bits_all {x : BitVec w} : bits x 0 w = x := BitVec.extractLsb'_eq_self

theorem decide_bitOf {b : Bool} : decide (bitOf b = 1#1) = b := by cases b <;> rfl

end

section
variable {op d a b : BitVec 6} {v : BitVec 8} {i k : Nat}

theorem cr_fields {fn : BitVec 7} : bits (cr op d a b fn) 25 6 = op ∧ bits (cr op d a b fn) 19 6 = d ∧ bits (cr op d a b fn) 13 6 = a ∧
    bits (cr op d a b fn) 7 6 = b := by
  refine ⟨?_, ?_, ?_, ?_⟩ <;>
    simp (disch := omega) only [cr, bits_cast, bits_append_low, bits_append_high, bits_all, Nat.reduceSub]

theorem cr_low {fn : BitVec 7} (h : i + k ≤ 7) : bits (cr op d a b fn) i k = bits fn i k := by
  simp (disch := omega) only [cr, bits_cast, bits_append_low]

theorem ci_low {i13 : BitVec 13} (h : i + k ≤ 13) : bits (ci op d a i13) i k = bits i13 i k := by
  simp (disch := omega) only [ci, bits_cast, bits_append_low]

theorem cv_low {mode : BitVec 3} {i8 : BitVec 8} (h : i + k ≤ 8) : bits (cv op v a mode i8) i k = bits i8 i k := by
  simp (disch := omega) only [cv, bits_cast, bits_append_low]

theorem ci_fields {i13 : BitVec 13} : bits (ci op d a i13) 25 6 = op ∧ bits (ci op d a i13) 19 6 = d ∧ bits (ci op d a i13) 13 6 = a ∧
    bits (ci op d a i13) 22 3 = bits d 3 3 ∧ bits (ci op d a i13) 19 3 = bits d 0 3 ∧ bits (ci op d a i13) 16 3 = bits a 3 3 ∧
    bits (ci op d a i13) 13 3 = bits a 0 3 := by
  refine ⟨?_, ?_, ?_, ?_, ?_, ?_, ?_⟩ <;>
    simp (disch := omega) only [ci, bits_cast, bits_append_low, bits_append_high, bits_all, Nat.reduceSub]

theorem cm_fields {wd : BitVec 2} {i11 : BitVec 11} : bits (cm op d a wd i11) 25 6 = op ∧ bits (cm op d a wd i11) 19 6 = d ∧
    bits (cm op d a wd i11) 13 6 = a ∧ bits (cm op d a wd i11) 11 2 = wd ∧ bits (cm op d a wd i11) 0 11 = i11 := by
  refine ⟨?_, ?_, ?_, ?_, ?_⟩ <;>
    simp (disch := omega) only [cm, bits_cast, bits_append_low, bits_append_high, bits_all, Nat.reduceSub]

theorem cb_fields {c : BitVec 3} {o : BitVec 10} : bits (cb op c a b o) 25 6 = op ∧ bits (cb op c a b o) 22 3 = c ∧
    bits (cb op c a b o) 16 6 = a ∧ bits (cb op c a b o) 10 6 = b ∧ bits (cb op c a b o) 0 10 = o := by
  refine ⟨?_, ?_, ?_, ?_, ?_⟩ <;>
    simp (disch := omega) only [cb, bits_cast, bits_append_low, bits_append_high, bits_all, Nat.reduceSub]

theorem cj_fields {o : BitVec 25} : bits (cj op o) 25 6 = op ∧ bits (cj op o) 0 25 = o := by
  refine ⟨?_, ?_⟩ <;> simp (disch := omega) only [cj, bits_cast, bits_append_low, bits_append_high, bits_all, Nat.reduceSub]

theorem cv_fields {mode : BitVec 3} {i8 : BitVec 8} : bits (cv op v a mode i8) 25 6 = op ∧ bits (cv op v a mode i8) 17 8 = v ∧
    bits (cv op v a mode i8) 11 6 = a ∧ bits (cv op v a mode i8) 8 3 = mode ∧ bits (cv op v a mode i8) 8 1 = bits mode 0 1 ∧
    bits (cv op v a mode i8) 9 1 = bits mode 1 1 ∧ bits (cv op v a mode i8) 9 2 = bits mode 1 2 ∧ bits (cv op v a mode i8) 10 1 = bits mode 2 1 := by
  refine ⟨?_, ?_, ?_, ?_, ?_, ?_, ?_, ?_⟩ <;>
    simp (disch := omega) only [cv, bits_cast, bits_append_low, bits_append_high, bits_all, Nat.reduceSub]

end

end Sys2Proof.Machine

namespace Sys2Proof.Machine
open Sys2Proof
set_option Elab.async false

/-! ### The C-slot: codes, families, words (R36 to R39) -/

theorem bits_zero {w i n : Nat} : bits (0#w) i n = 0#n := by simp [bits]

theorem condOf_condCode (c : Cond) : condOf (condCode c) = some c := by cases c <;> rfl

theorem widthOf_widthCode (wd : Width) : widthOf (widthCode wd) = wd := by cases wd <;> rfl

theorem scopeOf_scopeCode (sc : Scope) : scopeOf (scopeCode sc) = some sc := by cases sc <;> rfl

theorem portOf_portCode (p : Port) : portOf (portCode p) = some p := by cases p <;> rfl

/-- The register of a presence instruction is read back from its class and number (R114). -/
theorem pregOf_pregCode (g : PReg) : pregOf (pregCode g).1 (pregCode g).2 = .ok g := by
  cases g with
  | s n => simp [pregOf, pregCode, bits, BitVec.extractLsb'_setWidth_of_le, BitVec.extractLsb'_eq_self, show n.toNat % 256 < 64 by omega]
  | v n => rfl
  | m n => simp [pregOf, pregCode, bits, BitVec.extractLsb'_setWidth_of_le, BitVec.extractLsb'_eq_self, show n.toNat % 256 < 16 by omega]

theorem decodeC_families (d a b : BitVec 6) (fn : BitVec 7) :
    decodeC (cr 0x01 d a b fn) = decodeAlu d a b fn ∧ decodeC (cr 0x14 d a b fn) = decodeSystem d a b fn ∧
    decodeC (cr 0x1D d a b fn) = decodeMatrix d a b fn ∧ decodeC (cr 0x1E d a b fn) = decodePorts d a b fn ∧
    decodeC (cr 0x27 d a b fn) = decodeOrdered d a b fn := by
  refine ⟨?_, ?_, ?_, ?_, ?_⟩ <;>
    simp (disch := decide) only [decodeC, cr_fields, cr_low, BitVec.ofNat_eq_ofNat, BitVec.reduceToNat, bits_all]

theorem decodeC_immediates (d a : BitVec 6) (i : BitVec 13) :
    decodeC (ci 0x02 d a i) = .ok (.addi d a i) ∧ decodeC (ci 0x03 d a i) = .ok (.andi d a i) ∧ decodeC (ci 0x04 d a i) = .ok (.ori d a i) ∧
    decodeC (ci 0x05 d a i) = .ok (.xori d a i) ∧ decodeC (ci 0x06 d a i) = .ok (.slti d a i) ∧ decodeC (ci 0x07 d a i) = .ok (.sltiu d a i) ∧
    decodeC (ci 0x0B d a i) = .ok (.muli d a i) ∧ decodeC (ci 0x13 d a i) = .ok (.jalr d a i) := by
  refine ⟨?_, ?_, ?_, ?_, ?_, ?_, ?_, ?_⟩ <;>
    simp (disch := decide) only [decodeC, ci_fields, ci_low, BitVec.ofNat_eq_ofNat, BitVec.reduceToNat, bits_all]

theorem decodeC_shifts (d a n : BitVec 6) :
    decodeC (ci 0x08 d a (0#5 ++ 0#2 ++ n)) = .ok (.slli d a n) ∧ decodeC (ci 0x08 d a (0#5 ++ 1#2 ++ n)) = .ok (.srli d a n) ∧
    decodeC (ci 0x08 d a (0#5 ++ 2#2 ++ n)) = .ok (.srai d a n) ∧ decodeC (ci 0x08 d a (0#5 ++ 3#2 ++ n)) = .ok (.rori d a n) := by
  refine ⟨?_, ?_, ?_, ?_⟩ <;>
    simp (disch := decide) only [decodeC, ci_fields, ci_low, BitVec.ofNat_eq_ofNat, BitVec.reduceToNat, bits_append_low, bits_append_high,
      Nat.reduceSub, bits_all, need, decide_true, if_true]

theorem decodeC_bitFields {d a l p : BitVec 6} (h : p.toNat + l.toNat < 64) :
    decodeC (ci 0x09 d a (0#1 ++ l ++ p)) = .ok (.bfxu d a l p) ∧ decodeC (ci 0x09 d a (1#1 ++ l ++ p)) = .ok (.bfx d a l p) ∧
    decodeC (ci 0x0A d a (0#1 ++ l ++ p)) = .ok (.bfi d a l p) := by
  refine ⟨?_, ?_, ?_⟩ <;>
    simp (disch := decide) only [decodeC, ci_fields, ci_low, BitVec.ofNat_eq_ofNat, BitVec.reduceToNat, bits_append_low, bits_append_high,
      Nat.reduceSub, bits_all, need, h, decide_true, if_true, BitVec.reduceEq, if_false]

theorem decodeC_jumps :
    (∀ c a b o, decodeC (cb 0x10 (condCode c) a b o) = .ok (.bcond c a b o)) ∧ (∀ o, decodeC (cj 0x11 o) = .ok (.j o)) ∧
    (∀ o, decodeC (cj 0x12 o) = .ok (.jal o)) ∧ decodeC (cj 0x00 0) = .ok .nop := by
  refine ⟨fun c a b o => ?_, fun o => ?_, fun o => ?_, ?_⟩ <;>
    simp (disch := decide) only [decodeC, cb_fields, cj_fields, BitVec.ofNat_eq_ofNat, BitVec.reduceToNat, condOf_condCode, need, decide_true,
      if_true]

theorem decodeC_special :
    (∀ d i, decodeC (ci 0x0C d 0 i) = .ok (.addpc d i)) ∧ (∀ i, decodeC (ci 0x1B 0 0 i) = .ok (.trap i)) ∧
    (∀ (x : BitVec 3) (a : BitVec 6) (i : BitVec 13), decodeC (ci 0x1F (0#3 ++ x) a i) = .ok (.xset x a i)) ∧
    (∀ (d : BitVec 6) (x : BitVec 3), decodeC (ci 0x0D d (0#3 ++ x) 0) = .ok (.xget d x)) ∧
    (∀ (d : BitVec 6) (k : BitVec 4), decodeC (ci 0x15 d 0 (0#1 ++ 0#8 ++ k)) = .ok (.gettid d k)) ∧
    (∀ d a, decodeC (ci 0x15 d a (1#1 ++ 0#12)) = .ok (.gettidQ d a)) ∧
    (∀ (d : BitVec 6) (n : BitVec 12), decodeC (ci 0x16 d 0 (0#1 ++ n)) = .ok (.rdsr d n)) ∧
    (∀ (a : BitVec 6) (n : BitVec 12), decodeC (ci 0x17 0 a (0#1 ++ n)) = .ok (.wrsr a n)) ∧
    (∀ (q : Bool) (sc : Scope) (u p : BitVec 4), decodeC (ci 0x1C 0 0 (0#1 ++ bitOf q ++ scopeCode sc ++ u ++ p)) = .ok (.fence q sc u p)) := by
  refine ⟨?_, ?_, ?_, ?_, ?_, ?_, ?_, ?_, ?_⟩ <;> intros <;>
    simp (disch := decide) only [decodeC, ci_fields, ci_low, BitVec.ofNat_eq_ofNat, BitVec.reduceToNat, bits_append_low, bits_append_high,
      Nat.reduceSub, bits_all, bits_zero, need, decide_true, Bool.and_self, if_true, BitVec.reduceEq, if_false, scopeOf_scopeCode, decide_bitOf]

theorem decodeC_loads (d a : BitVec 6) (wd : Width) (i : BitVec 11) :
    decodeC (cm 0x20 d a (widthCode wd) i) = .ok (.ld d a wd i) ∧
    decodeC (cm 0x21 d a (widthCode wd) i) = need (wd != .d) .function (.ok (.ldu d a wd i)) ∧
    decodeC (cm 0x22 d a (widthCode wd) i) = .ok (.st d a wd i) ∧ decodeC (cm 0x23 d a (widthCode wd) i) = .ok (.ldl d a wd i) := by
  refine ⟨?_, ?_, ?_, ?_⟩ <;>
    simp only [decodeC, cm_fields, BitVec.ofNat_eq_ofNat, BitVec.reduceToNat, widthOf_widthCode]

theorem decodeOrdered_codes (d a : BitVec 6) (wd : Width) :
    decodeOrdered d a 0 (1#2 ++ widthCode wd ++ 0#3) = .ok (.ldAq d a wd) ∧
    decodeOrdered d a 0 (1#2 ++ widthCode wd ++ 1#3) = need (wd != .d) .function (.ok (.lduAq d a wd)) ∧
    decodeOrdered d a 0 (2#2 ++ widthCode wd ++ 2#3) = .ok (.stRl d a wd) ∧
    decodeOrdered d a 0 (2#2 ++ widthCode wd ++ 3#3) = .ok (.ldlRl d a wd) := by
  refine ⟨?_, ?_, ?_, ?_⟩ <;>
    simp (disch := decide) only [decodeOrdered, BitVec.ofNat_eq_ofNat, BitVec.reduceToNat, bits_append_low, bits_append_high, Nat.reduceSub,
      bits_all, widthOf_widthCode, need, decide_true, if_true]

theorem decodeC_presence :
    (∀ (n p : BitVec 6), decodeC (cv 0x18 (n.zeroExtend 8) 0 0 (0#2 ++ p)) = .ok (.empty n p)) ∧
    (∀ (v : BitVec 8) (p : BitVec 6), decodeC (cv 0x18 v 0 1 (0#2 ++ p)) = .ok (.vempty v p)) ∧
    (∀ (k : BitVec 4) (p : BitVec 6), decodeC (cv 0x18 (k.zeroExtend 8) 0 2 (0#2 ++ p)) = .ok (.emptyMask k p)) ∧
    (∀ g, decodeC (cv 0x19 (pregCode g).2 0 (pregCode g).1 0) = .ok (.fill g)) ∧
    (∀ (g : PReg) (q : Bool), decodeC (cv 0x1A (pregCode g).2 0 (pregCode g).1 (0#7 ++ bitOf q)) = .ok (.waitp g q)) := by
  have hs (n : BitVec 6) : pregOf 0#3 (n.zeroExtend 8) = .ok (.s n) := pregOf_pregCode (.s n)
  have hv (v : BitVec 8) : pregOf 1#3 v = .ok (.v v) := pregOf_pregCode (.v v)
  have hm (k : BitVec 4) : pregOf 2#3 (k.zeroExtend 8) = .ok (.m k) := pregOf_pregCode (.m k)
  refine ⟨?_, ?_, ?_, ?_, ?_⟩ <;> intros <;>
    simp (disch := decide) only [decodeC, cv_fields, cv_low, BitVec.ofNat_eq_ofNat, BitVec.reduceToNat, bits_append_low, bits_append_high,
      Nat.reduceSub, bits_all, bits_zero, need, decide_true, Bool.and_self, if_true, hs, hv, hm, pregOf_pregCode, decide_bitOf]

theorem decodeC_vectors (v : BitVec 8) (a : BitVec 6) (r : Bool) :
    (∀ i, decodeC (cv 0x28 v a (0#2 ++ bitOf r) i) = .ok (.vld v a r i)) ∧ (∀ i, decodeC (cv 0x29 v a (0#2 ++ bitOf r) i) = .ok (.vst v a r i)) ∧
    (∀ e : Bool, decodeC (cv 0x2B v a (0#1 ++ bitOf e ++ bitOf r) 0) = .ok (.vput v a e r)) ∧
    (∀ k : BitVec 4, decodeC (cv 0x2D v a (0#2 ++ bitOf r) (0#4 ++ k)) = .ok (.lamk v a r k)) := by
  refine ⟨?_, ?_, ?_, ?_⟩ <;> intros <;>
    simp (disch := decide) only [decodeC, cv_fields, cv_low, BitVec.ofNat_eq_ofNat, BitVec.reduceToNat, bits_append_low, bits_append_high,
      Nat.reduceSub, bits_all, bits_zero, need, decide_true, Bool.and_self, if_true, decide_bitOf]

theorem decodeC_vputl {v : BitVec 8} {a f : BitVec 6} {e r : Bool} {n : BitVec 2} (h : f.toNat + Sys2Proof.lanesOf n ≤ 64) :
    decodeC (cv 0x2C v a (0#1 ++ bitOf e ++ bitOf r) (n ++ f)) = .ok (.vputl v a e r n f) := by
  simp (disch := decide) only [decodeC, cv_fields, cv_low, BitVec.ofNat_eq_ofNat, BitVec.reduceToNat, bits_append_low, bits_append_high,
    Nat.reduceSub, bits_all, need, h, decide_true, if_true, decide_bitOf]

theorem decodeC_puts (l a : BitVec 6) (r : Bool) :
    decodeC (cr 0x2A l a 0 (0#6 ++ bitOf r)) = .ok (.put l a r) ∧ decodeC (cr 0x2A l a 0 (0#5 ++ 1#1 ++ bitOf r)) = .ok (.pute l a r) := by
  refine ⟨?_, ?_⟩ <;>
    simp (disch := decide) only [decodeC, cr_fields, cr_low, BitVec.ofNat_eq_ofNat, BitVec.reduceToNat, bits_append_low, bits_append_high,
      Nat.reduceSub, bits_all, bits_zero, need, decide_true, Bool.and_self, if_true, decide_bitOf, BitVec.reduceEq, if_false]

theorem decodePorts_issue {n : BitVec 4} {a : BitVec 6} {p : Port} (h : a.toNat + n.toNat < 64) :
    decodePorts (0#2 ++ n) a (portCode p) 0x00 = .ok (.issue n a p) := by
  simp (disch := decide) only [decodePorts, BitVec.ofNat_eq_ofNat, BitVec.reduceToNat, portOf_portCode, bits_append_low, bits_append_high,
    Nat.reduceSub, bits_all, need, h, decide_true, if_true]

theorem decodePorts_reads (d : BitVec 6) (p : Port) :
    decodePorts d 0 (portCode p) 0x01 = .ok (.pop d p) ∧ decodePorts d 0 (portCode p) 0x02 = .ok (.portst d p) := by
  cases p <;> exact ⟨rfl, rfl⟩

/-- Every well-formed C-slot instruction is read back from its word, the operands at every value (R36 to R39). -/
theorem decodeC_encodeC {i : Instr} {w : BitVec 32} (hwf : wf i = true) (h : encodeC i = some w) : decodeC w = .ok i := by
  cases i <;> cases h
  case bfxu | bfx | bfi => simp only [decodeC_bitFields (of_decide_eq_true hwf)]
  case ldu => simp only [decodeC_loads, need, show (_ != Width.d) = true from hwf, if_true]
  case lduAq => simp only [decodeC_families, decodeOrdered_codes, need, show (_ != Width.d) = true from hwf, if_true]
  case vputl => exact decodeC_vputl (of_decide_eq_true hwf)
  case issue => simp only [decodeC_families, decodePorts_issue (of_decide_eq_true hwf)]
  all_goals simp only [decodeC_families, decodeC_immediates, decodeC_shifts, decodeC_jumps, decodeC_special, decodeC_loads, decodeOrdered_codes,
    decodeC_presence, decodeC_vectors, decodeC_puts, decodePorts_reads]
  all_goals rfl
end Sys2Proof.Machine

namespace Sys2Proof.Machine
open Sys2Proof
set_option Elab.async false

/-! ### The A-slot (R40, R41) -/

theorem av_fields (op : BitVec 6) (d a b : BitVec 8) (m : BitVec 2) : bits (av op d a b m) 26 6 = op ∧ bits (av op d a b m) 18 8 = d ∧
    bits (av op d a b m) 10 8 = a ∧ bits (av op d a b m) 2 8 = b ∧ bits (av op d a b m) 0 2 = m ∧ bits (av op d a b m) 22 4 = bits d 4 4 ∧
    bits (av op d a b m) 18 4 = bits d 0 4 ∧ bits (av op d a b m) 18 6 = bits d 0 6 ∧ bits (av op d a b m) 8 2 = bits b 6 2 ∧
    bits (av op d a b m) 2 6 = bits b 0 6 := by
  refine ⟨?_, ?_, ?_, ?_, ?_, ?_, ?_, ?_, ?_, ?_⟩ <;>
    simp (disch := decide) only [av, bits_cast, bits_append_low, bits_append_high, bits_all, Nat.reduceSub]

theorem avs_fields (op : BitVec 6) (d a : BitVec 8) (b : BitVec 6) (hi : Bool) (m : BitVec 2) : bits (avs op d a b hi m) 26 6 = op ∧
    bits (avs op d a b hi m) 18 8 = d ∧ bits (avs op d a b hi m) 10 8 = a ∧ bits (avs op d a b hi m) 4 6 = b ∧
    bits (avs op d a b hi m) 2 2 = 0#1 ++ bitOf hi ∧ bits (avs op d a b hi m) 0 2 = m := by
  refine ⟨?_, ?_, ?_, ?_, ?_, ?_⟩
  case refine_5 =>
    refine BitVec.eq_of_getLsbD_eq fun i hi' => ?_
    obtain rfl | rfl : i = 0 ∨ i = 1 := by omega
    · simp only [avs, bits, BitVec.getLsbD_extractLsb', BitVec.getLsbD_cast, BitVec.getLsbD_append]
      rfl
    · simp only [avs, bits, BitVec.getLsbD_extractLsb', BitVec.getLsbD_cast, BitVec.getLsbD_append]
      rfl
  all_goals simp (disch := decide) only [avs, bits_cast, bits_append_low, bits_append_high, bits_all, Nat.reduceSub]

theorem avc_fields (op : BitVec 6) (d a : BitVec 8) (p r : BitVec 3) (s : Bool) (m : BitVec 2) : bits (avc op d a p r s m) 26 6 = op ∧
    bits (avc op d a p r s m) 18 8 = d ∧ bits (avc op d a p r s m) 10 8 = a ∧ bits (avc op d a p r s m) 7 3 = p ∧
    bits (avc op d a p r s m) 4 3 = r ∧ bits (avc op d a p r s m) 3 1 = bitOf s ∧ bits (avc op d a p r s m) 1 2 = m ∧
    bits (avc op d a p r s m) 0 1 = 0#1 := by
  refine ⟨?_, ?_, ?_, ?_, ?_, ?_, ?_, ?_⟩ <;>
    simp (disch := decide) only [avc, bits_cast, bits_append_low, bits_append_high, bits_all, Nat.reduceSub]

theorem vcondOf_vcondCode (c : VCond) : vcondOf (vcondCode c) = some c := by cases c <;> rfl

theorem rndOf_rndCode (r : Rnd) : Sys2Proof.rndOf (rndCode r) = some r := by cases r <;> rfl

theorem redOf_redCode (o : RedOp) : redOf (redCode o) = some o := by cases o <;> rfl

theorem decodeA_zero : decodeA (av 0x00 0 0 0 0) = .ok .nopA := rfl

theorem decodeA_arithmetic (d a b : BitVec 8) (m : BitVec 2) :
    decodeA (av 0x01 d a b m) = .ok (.vadd d a b m) ∧ decodeA (av 0x02 d a b m) = .ok (.vsub d a b m) ∧
    decodeA (av 0x03 d a b m) = .ok (.vmul d a b m) ∧ decodeA (av 0x04 d a b m) = .ok (.vfma d a b m) ∧
    decodeA (av 0x05 d a b m) = .ok (.vfms d a b m) ∧ decodeA (av 0x06 d a b m) = .ok (.vmin d a b m) ∧
    decodeA (av 0x07 d a b m) = .ok (.vmax d a b m) ∧ decodeA (av 0x08 d a b m) = .ok (.vand d a b m) ∧
    decodeA (av 0x09 d a b m) = .ok (.vor d a b m) ∧ decodeA (av 0x0A d a b m) = .ok (.vxor d a b m) ∧
    decodeA (av 0x0B d a b m) = .ok (.vshl d a b m) ∧ decodeA (av 0x0C d a b m) = .ok (.vshr d a b m) ∧
    decodeA (av 0x0D d a b m) = .ok (.vsra d a b m) ∧ decodeA (av 0x0E d a b m) = .ok (.vaddi d a b m) ∧
    decodeA (av 0x0F d a b m) = .ok (.vshli d a b m) ∧ decodeA (av 0x10 d a b m) = .ok (.vshri d a b m) ∧
    decodeA (av 0x11 d a b m) = .ok (.vsrai d a b m) := by
  refine ⟨?_, ?_, ?_, ?_, ?_, ?_, ?_, ?_, ?_, ?_, ?_, ?_, ?_, ?_, ?_, ?_, ?_⟩ <;>
    simp only [decodeA, av_fields, BitVec.ofNat_eq_ofNat, BitVec.reduceToNat]

theorem decodeA_families (d a b : BitVec 8) (m : BitVec 2) :
    decodeA (av 0x23 d a b m) = decodeUnary d a b m ∧ decodeA (av 0x24 d a b m) = decodeMask d a b m := by
  refine ⟨?_, ?_⟩ <;> simp only [decodeA, av_fields, BitVec.ofNat_eq_ofNat, BitVec.reduceToNat]

theorem decodeA_permute (d a b : BitVec 8) (m : BitVec 2) :
    decodeA (av 0x1F d a b m) = decodePermute d a (bits b 6 2) (bits b 0 6) m := by
  simp only [decodeA, av_fields, BitVec.ofNat_eq_ofNat, BitVec.reduceToNat]

theorem decodeA_avs (d a : BitVec 8) (b : BitVec 6) (hi : Bool) (m : BitVec 2) :
    decodeA (avs 0x12 d a b hi m) = decodeAvs 0x12 d a b (0#1 ++ bitOf hi) m ∧ decodeA (avs 0x13 d a b hi m) = decodeAvs 0x13 d a b (0#1 ++ bitOf hi) m ∧
    decodeA (avs 0x14 d a b hi m) = decodeAvs 0x14 d a b (0#1 ++ bitOf hi) m ∧ decodeA (avs 0x15 d a b hi m) = decodeAvs 0x15 d a b (0#1 ++ bitOf hi) m ∧
    decodeA (avs 0x16 d a b hi m) = decodeAvs 0x16 d a b (0#1 ++ bitOf hi) m ∧ decodeA (avs 0x17 d a b hi m) = decodeAvs 0x17 d a b (0#1 ++ bitOf hi) m ∧
    decodeA (avs 0x19 d a b hi m) = decodeAvs 0x19 d a b (0#1 ++ bitOf hi) m := by
  refine ⟨?_, ?_, ?_, ?_, ?_, ?_, ?_⟩ <;> simp only [decodeA, avs_fields, BitVec.ofNat_eq_ofNat, BitVec.reduceToNat]

theorem decodeA_avc (d a : BitVec 8) (p : BitVec 3) (m : BitVec 2) :
    (∀ r s, decodeA (avc 0x1B d a p (rndCode r) s m) = .ok (.vmov d a p r s m)) ∧ decodeA (avc 0x1C d a p 0 false m) = .ok (.vpack d a p m) ∧
    (∀ s, decodeA (avc 0x1D d a p 0 s m) = .ok (.vunpk d a p s m)) := by
  refine ⟨fun r s => ?_, ?_, fun s => ?_⟩ <;>
    simp only [decodeA, avc_fields, BitVec.ofNat_eq_ofNat, BitVec.reduceToNat, decodeAvc, need, decide_true, if_true, rndOf_rndCode, decide_bitOf,
      Bool.not_false, Bool.and_self]

theorem decodeA_rest :
    (∀ (c : VCond) (k : BitVec 4) a b m, decodeA (av 0x18 (vcondCode c ++ k) a b m) = .ok (.vcmp c k a b m)) ∧
    (∀ d a b m, decodeA (av 0x1A d a b m) = .ok (.vsel d a b m)) ∧ (∀ d a b m, decodeA (av 0x1E d a b m) = .ok (.vperm d a b m)) ∧
    (∀ d a o m, decodeA (av 0x20 d a (redCode o) m) = .ok (.vred d a o m)) ∧ (∀ d a o m, decodeA (av 0x21 d a (redCode o) m) = .ok (.vscan d a o m)) ∧
    (∀ d a b m, decodeA (av 0x22 d a b m) = .ok (.vdot4 d a b m)) ∧ (∀ d i m, decodeA (av 0x26 d 0 i m) = .ok (.viota d i m)) ∧
    (∀ (k : BitVec 4) f, decodeA (av 0x27 (0#4 ++ k) 0 f 0) = .ok (.setbf k f)) ∧
    (∀ (k : BitVec 4) a, decodeA (av 0x28 (0#4 ++ k) a 0 0) = .ok (.ldcb k a)) := by
  refine ⟨?_, ?_, ?_, ?_, ?_, ?_, ?_, ?_, ?_⟩ <;> intros <;>
    simp (disch := decide) only [decodeA, av_fields, BitVec.ofNat_eq_ofNat, BitVec.reduceToNat, bits_append_low, bits_append_high, Nat.reduceSub,
      bits_all, vcondOf_vcondCode, redOf_redCode, need, decide_true, Bool.and_self, if_true]

theorem toNat_zero_append {v w : Nat} (x : BitVec w) : (0#v ++ x).toNat = x.toNat := by
  rw [BitVec.toNat_append, BitVec.toNat_ofNat, Nat.zero_mod, Nat.zero_shiftLeft, Nat.zero_or]

theorem decodeA_vext (d : BitVec 6) (a : BitVec 8) (l : BitVec 6) : decodeA (av 0x25 (0#2 ++ d) a (0#2 ++ l) 0) = .ok (.vext d a l) := by
  have hd (x : BitVec 6) : decide (x.toNat < 64) = true := decide_eq_true x.isLt
  simp (disch := decide) only [decodeA, av_fields, BitVec.ofNat_eq_ofNat, BitVec.reduceToNat, bits_append_low, bits_all, need, decide_true,
    toNat_zero_append, hd, Bool.and_self, if_true]

theorem decodeAvs_vins (d : BitVec 8) (l b : BitVec 6) (hi : Bool) (m : BitVec 2) :
    decodeAvs 0x17 d (0#2 ++ l) b (0#1 ++ bitOf hi) m = .ok (.vins d l b hi m) := by
  have hl : decide (l.toNat < 64) = true := decide_eq_true l.isLt
  cases hi <;> simp (disch := decide) only [decodeAvs, bits_append_low, bits_all, need, toNat_zero_append, hl, if_true] <;> rfl

theorem decodeAvs_vcmps (c : VCond) (k : BitVec 4) (a : BitVec 8) (b : BitVec 6) (hi : Bool) (m : BitVec 2) :
    decodeAvs 0x19 (vcondCode c ++ k) a b (0#1 ++ bitOf hi) m = .ok (.vcmps c k a b hi m) := by
  cases hi <;> simp (disch := decide) only [decodeAvs, bits_append_low, bits_append_high, Nat.sub_self, bits_all, vcondOf_vcondCode, need] <;> rfl

theorem decodeAvs_scalars (d a : BitVec 8) (b : BitVec 6) (hi : Bool) (m : BitVec 2) :
    decodeAvs 0x12 d a b (0#1 ++ bitOf hi) m = .ok (.vadds d a b hi m) ∧ decodeAvs 0x13 d a b (0#1 ++ bitOf hi) m = .ok (.vsubs d a b hi m) ∧
    decodeAvs 0x14 d a b (0#1 ++ bitOf hi) m = .ok (.vmuls d a b hi m) ∧ decodeAvs 0x15 d a b (0#1 ++ bitOf hi) m = .ok (.vfmas d a b hi m) ∧
    (a = 0 → decodeAvs 0x16 d a b (0#1 ++ bitOf hi) m = .ok (.vbcast d b hi m)) := by
  cases hi <;> exact ⟨rfl, rfl, rfl, rfl, fun h => h ▸ rfl⟩

theorem decodeA_permutes (d a : BitVec 8) (m : BitVec 2) :
    (∀ k : BitVec 6, decodeA (av 0x1F d a (0#2 ++ k) m) = .ok (.vrot d a k m)) ∧
    decodeA (av 0x1F d a (1#2 ++ 0#6) m) = .ok (.vrev d a m) ∧
    (∀ hi : Bool, decodeA (av 0x1F d a (2#2 ++ 0#5 ++ bitOf hi) m) = .ok (.vzip d a hi m)) ∧
    (∀ hi : Bool, decodeA (av 0x1F d a (3#2 ++ 0#5 ++ bitOf hi) m) = .ok (.vuzp d a hi m)) := by
  refine ⟨fun k => ?_, ?_, fun hi => ?_, fun hi => ?_⟩
  · simp (disch := decide) only [decodeA_permute, bits_append_low, bits_append_high, Nat.sub_self, bits_all]
    rfl
  · simp only [decodeA_permute]
    rfl
  · cases hi <;> simp only [decodeA_permute] <;> rfl
  · cases hi <;> simp only [decodeA_permute] <;> rfl

theorem decodeMask_codes (d a : BitVec 4) :
    (∀ b : BitVec 4, decodeMask (0#4 ++ d) (0#4 ++ a) (0#4 ++ b) 0 = .ok (.mand d a b)) ∧
    (∀ b : BitVec 4, decodeMask (1#4 ++ d) (0#4 ++ a) (0#4 ++ b) 0 = .ok (.mor d a b)) ∧
    (∀ b : BitVec 4, decodeMask (2#4 ++ d) (0#4 ++ a) (0#4 ++ b) 0 = .ok (.mxor d a b)) ∧
    (∀ b : BitVec 4, decodeMask (3#4 ++ d) (0#4 ++ a) (0#4 ++ b) 0 = .ok (.mandn d a b)) ∧
    decodeMask (4#4 ++ d) (0#4 ++ a) 0 0 = .ok (.mnot d a) := by
  refine ⟨?_, ?_, ?_, ?_, ?_⟩ <;> intros <;>
    simp (disch := decide) only [decodeMask, BitVec.ofNat_eq_ofNat, bits_append_low, bits_append_high, Nat.sub_self, bits_all, bits_zero, need,
      decide_true, Bool.and_self, if_true, BitVec.reduceToNat]

/-- Every well-formed A-slot instruction is read back from its word, the operands at every value (R40, R41). -/
theorem decodeA_encodeA {i : Instr} {w : BitVec 32} (h : encodeA i = some w) : decodeA w = .ok i := by
  cases i <;> cases h
  all_goals simp only [decodeA_permutes, decodeA_arithmetic, decodeA_families, decodeA_avs, decodeA_avc, decodeA_rest, decodeA_vext, decodeAvs_vins,
    decodeAvs_vcmps, decodeAvs_scalars, decodeMask_codes, decodeA_zero]
  all_goals rfl

end Sys2Proof.Machine

namespace Sys2Proof.Machine
open Sys2Proof
set_option Elab.async false

/-! ### The L-form (R42) -/

theorem lTree_fields (d : BitVec 8) (t : BitVec 4) (a b c : BitVec 6) (mode : BitVec 3) : bits (lTree d t a b c mode) 0 8 = d ∧
    bits (lTree d t a b c mode) 0 6 = bits d 0 6 ∧ bits (lTree d t a b c mode) 6 2 = bits d 6 2 ∧ bits (lTree d t a b c mode) 8 4 = t ∧
    bits (lTree d t a b c mode) 12 6 = a ∧ bits (lTree d t a b c mode) 18 6 = b ∧ bits (lTree d t a b c mode) 24 6 = c ∧
    bits (lTree d t a b c mode) 30 3 = mode ∧ bits (lTree d t a b c mode) 33 24 = 0 := by
  refine ⟨?_, ?_, ?_, ?_, ?_, ?_, ?_, ?_, ?_⟩ <;>
    simp (disch := decide) only [lTree, bits_cast, bits_append_low, bits_append_high, bits_all, Nat.reduceSub, BitVec.ofNat_eq_ofNat]

theorem d8_fields (d : BitVec 6) : bits (d8 d) 0 6 = d ∧ bits (d8 d) 6 2 = 0 := by
  refine ⟨?_, ?_⟩ <;> simp (disch := decide) only [d8, bits_append_low, bits_append_high, bits_all, Nat.sub_self, BitVec.ofNat_eq_ofNat]

theorem lFour_fields (d a b c : BitVec 6) (i : BitVec 4) : bits (lFour d a b c i) 0 6 = d ∧ bits (lFour d a b c i) 6 6 = a ∧
    bits (lFour d a b c i) 12 6 = b ∧ bits (lFour d a b c i) 18 6 = c ∧ bits (lFour d a b c i) 24 4 = i ∧
    bits (lFour d a b c i) 24 3 = bits i 0 3 ∧ bits (lFour d a b c i) 27 1 = bits i 3 1 ∧ bits (lFour d a b c i) 28 29 = 0 := by
  refine ⟨?_, ?_, ?_, ?_, ?_, ?_, ?_, ?_⟩ <;>
    simp (disch := decide) only [lFour, bits_cast, bits_append_low, bits_append_high, bits_all, Nat.reduceSub, BitVec.ofNat_eq_ofNat]

theorem lNet_fields (d a b c r : BitVec 6) (x : NetMod) (o : BitVec 4) (dbl land : Bool) : bits (lNet d a b c r x o dbl land) 0 6 = d ∧
    bits (lNet d a b c r x o dbl land) 6 6 = a ∧ bits (lNet d a b c r x o dbl land) 12 6 = b ∧ bits (lNet d a b c r x o dbl land) 18 6 = c ∧
    bits (lNet d a b c r x o dbl land) 24 6 = r ∧ bits (lNet d a b c r x o dbl land) 30 4 = x.cc ∧
    bits (lNet d a b c r x o dbl land) 34 1 = bitOf x.ob ∧ bits (lNet d a b c r x o dbl land) 35 4 = x.e ∧
    bits (lNet d a b c r x o dbl land) 39 2 = x.seg ∧ bits (lNet d a b c r x o dbl land) 41 2 = netModeCode x.dm ∧
    bits (lNet d a b c r x o dbl land) 43 4 = o ∧ bits (lNet d a b c r x o dbl land) 47 1 = bitOf dbl ∧
    bits (lNet d a b c r x o dbl land) 48 1 = bitOf land ∧ bits (lNet d a b c r x o dbl land) 49 8 = 0 := by
  refine ⟨?_, ?_, ?_, ?_, ?_, ?_, ?_, ?_, ?_, ?_, ?_, ?_, ?_, ?_⟩ <;>
    simp (disch := decide) only [lNet, bits_cast, bits_append_low, bits_append_high, bits_all, Nat.reduceSub, BitVec.ofNat_eq_ofNat]

theorem lStride_fields (v : BitVec 8) (a b : BitVec 6) (m : BitVec 4) (run : BitVec 3) (q : Bool) : bits (lStride v a b m run q) 0 8 = v ∧
    bits (lStride v a b m run q) 8 6 = a ∧ bits (lStride v a b m run q) 14 6 = b ∧ bits (lStride v a b m run q) 20 4 = m ∧
    bits (lStride v a b m run q) 24 3 = run ∧ bits (lStride v a b m run q) 27 1 = bitOf q ∧ bits (lStride v a b m run q) 28 29 = 0 := by
  refine ⟨?_, ?_, ?_, ?_, ?_, ?_, ?_⟩ <;>
    simp (disch := decide) only [lStride, bits_cast, bits_append_low, bits_append_high, bits_all, Nat.reduceSub, BitVec.ofNat_eq_ofNat]

theorem lGather_fields (v : BitVec 8) (a : BitVec 6) (vb : BitVec 8) (m : BitVec 4) (run : BitVec 3) (q : Bool) :
    bits (lGather v a vb m run q) 0 8 = v ∧ bits (lGather v a vb m run q) 8 6 = a ∧ bits (lGather v a vb m run q) 14 8 = vb ∧
    bits (lGather v a vb m run q) 22 4 = m ∧ bits (lGather v a vb m run q) 26 3 = run ∧ bits (lGather v a vb m run q) 29 1 = bitOf q ∧
    bits (lGather v a vb m run q) 30 27 = 0 := by
  refine ⟨?_, ?_, ?_, ?_, ?_, ?_, ?_⟩ <;>
    simp (disch := decide) only [lGather, bits_cast, bits_append_low, bits_append_high, bits_all, Nat.reduceSub, BitVec.ofNat_eq_ofNat]

theorem lStream_fields (d a b c : BitVec 6) (rows len : BitVec 8) (tag : BitVec 4) : bits (lStream d a b c rows len tag) 0 6 = d ∧
    bits (lStream d a b c rows len tag) 6 6 = a ∧ bits (lStream d a b c rows len tag) 12 6 = b ∧ bits (lStream d a b c rows len tag) 18 6 = c ∧
    bits (lStream d a b c rows len tag) 24 8 = rows ∧ bits (lStream d a b c rows len tag) 32 8 = len ∧
    bits (lStream d a b c rows len tag) 40 4 = tag ∧ bits (lStream d a b c rows len tag) 44 13 = 0 := by
  refine ⟨?_, ?_, ?_, ?_, ?_, ?_, ?_, ?_⟩ <;>
    simp (disch := decide) only [lStream, bits_cast, bits_append_low, bits_append_high, bits_all, Nat.reduceSub, BitVec.ofNat_eq_ofNat]

theorem amoOf_amoCode (o : AmoOp) : amoOf (amoCode o) = some o := by cases o <;> rfl

theorem netModeOf_netModeCode (m : NetMode) : netModeOf (netModeCode m) = some m := by cases m <;> rfl

/-- The shared fields of a network command are read back where they are well formed (R304). -/
theorem netModOf_lNet {d a b c r : BitVec 6} {x : NetMod} {o : BitVec 4} {dbl land : Bool} (h : netModOk x = true) :
    netModOf (lNet d a b c r x o dbl land) = .ok x := by
  simp only [netModOf, lNet_fields, netModeOf_netModeCode, BitVec.ofNat_eq_ofNat, decide_bitOf]
  exact if_pos h

theorem decodeL_families (f : BitVec 57) : decodeL 0x10 f = decodeTree 0x10 f ∧ decodeL 0x11 f = decodeTree 0x11 f ∧
    decodeL 0x12 f = decodeTree 0x12 f ∧ decodeL 0x13 f = decodeTree 0x13 f ∧ decodeL 0x14 f = decodeTree 0x14 f ∧
    decodeL 0x15 f = decodeTree 0x15 f ∧ decodeL 0x16 f = decodeTree 0x16 f ∧ decodeL 0x17 f = decodeTree 0x17 f ∧
    decodeL 0x18 f = decodeBond 0x18 f ∧ decodeL 0x19 f = decodeBond 0x19 f ∧ decodeL 0x1A f = decodeBond 0x1A f ∧
    decodeL 0x1B f = decodeBond 0x1B f ∧ decodeL 0x1C f = decodeBond 0x1C f ∧ decodeL 0x1D f = decodeBond 0x1D f ∧
    decodeL 0x1E f = decodeBond 0x1E f ∧ decodeL 0x20 f = decodeNet 0x20 f ∧ decodeL 0x21 f = decodeNet 0x21 f ∧
    decodeL 0x22 f = decodeNet 0x22 f ∧ decodeL 0x23 f = decodeNet 0x23 f ∧ decodeL 0x24 f = decodeWindow 0x24 f ∧
    decodeL 0x25 f = decodeWindow 0x25 f ∧ decodeL 0x26 f = decodeWindow 0x26 f ∧ decodeL 0x27 f = decodeWindow 0x27 f ∧
    decodeL 0x28 f = decodeWindow 0x28 f ∧ decodeL 0x29 f = decodeWindow 0x29 f :=
  ⟨rfl, rfl, rfl, rfl, rfl, rfl, rfl, rfl, rfl, rfl, rfl, rfl, rfl, rfl, rfl, rfl, rfl, rfl, rfl, rfl, rfl, rfl, rfl, rfl, rfl⟩

theorem decodeL_plain :
    (∀ (d : BitVec 6) (i : BitVec 51), decodeL 0x01 (i ++ d) = .ok (.movi d i)) ∧
    (∀ (d : BitVec 6) (i : BitVec 16), decodeL 0x02 (0#35 ++ i ++ d) = .ok (.movih d i)) ∧
    (∀ (d : BitVec 6) (o : BitVec 51), decodeL 0x03 (o ++ d) = .ok (.jl d o)) ∧
    (∀ (sa sc : BitVec 6) (maxr : BitVec 12) (die : Bool) (body : BitVec 24) h,
      decodeL 0x04 ((0#8 ++ body ++ bitOf die ++ maxr ++ sc ++ sa).cast h) = .ok (.fork sa sc maxr die body)) ∧
    (∀ (v : BitVec 8) (a : BitVec 6) (n : BitVec 3) (r : Bool) h, decodeL 0x0A ((0#39 ++ bitOf r ++ n ++ a ++ v).cast h) = .ok (.mload v a n r)) ∧
    (∀ (v : BitVec 8) (c a : BitVec 6) h, decodeL 0x0B ((0#37 ++ a ++ c ++ v).cast h) = .ok (.accrd v c a)) ∧
    (∀ (d a b : BitVec 6) h, decodeL 0x0C ((0#39 ++ b ++ a ++ d).cast h) = .ok (.launch d a b)) ∧
    (∀ n : BitVec 16, decodeL 0x3E (0#41 ++ n) = .ok (.pool n)) := by
  refine ⟨?_, ?_, ?_, ?_, ?_, ?_, ?_, ?_⟩ <;> intros <;>
    simp (disch := decide) only [decodeL, BitVec.ofNat_eq_ofNat, BitVec.reduceToNat, bits_cast, bits_append_low, bits_append_high, bits_all,
      Nat.reduceSub, need, decide_true, if_true, decide_bitOf]

theorem decodeL_amo {d a b c : BitVec 6} {o : AmoOp} {dbl : Bool} {ord : BitVec 2} (hwf : wf (.amo d a b c o dbl ord) = true)
    (h : 25 + 2 + 1 + 1 + 4 + 6 + 6 + 6 + 6 = 57) :
    decodeL 0x05 ((0#25 ++ ord ++ 1#1 ++ bitOf dbl ++ amoCode o ++ c ++ b ++ a ++ d).cast h) = .ok (.amo d a b c o dbl ord) := by
  obtain ⟨hc, hd⟩ := (Bool.and_eq_true ..).mp hwf
  simp (disch := decide) only [decodeL, BitVec.ofNat_eq_ofNat, BitVec.reduceToNat, bits_cast, bits_append_low, bits_append_high, bits_all,
      Nat.reduceSub, need, decide_true, if_true, decide_bitOf, amoOf_amoCode, Bool.true_and]
  exact (if_pos hd).trans (if_pos hc)

theorem decodeL_groups {v vb : BitVec 8} {a b : BitVec 6} {m : BitVec 4} {run : BitVec 3} {q : Bool} (h : decide (run ≠ 7#3) = true) :
    decodeL 0x06 (lStride v a b m run q) = .ok (.vlds v a b m run q) ∧ decodeL 0x07 (lStride v a b m run q) = .ok (.vsts v a b m run q) ∧
    decodeL 0x08 (lGather v a vb m run q) = .ok (.vldg v a vb m run q) ∧ decodeL 0x09 (lGather v a vb m run q) = .ok (.vstg v a vb m run q) := by
  refine ⟨?_, ?_, ?_, ?_⟩ <;>
    simp only [decodeL, lStride_fields, lGather_fields, BitVec.ofNat_eq_ofNat, BitVec.reduceToNat, need, decide_true, if_true, decide_bitOf, h]

/-- The bits above the length of a stream instruction without a tag are zeros. -/
theorem lStream_above (d a b c : BitVec 6) (rows len : BitVec 8) : bits (lStream d a b c rows len 0#4) 40 17 = 0#17 := by
  refine BitVec.eq_of_getLsbD_eq fun i hi => ?_
  simp (disch := omega) only [lStream, bits, BitVec.getLsbD_extractLsb', BitVec.getLsbD_cast, BitVec.getLsbD_append, if_neg,
    BitVec.getLsbD_zero, ite_self, Bool.and_false]

theorem decodeL_streams :
    (∀ d a b c rows len tag, decodeL 0x30 (lStream d a b c rows len tag) = .ok (.sload d a b c rows len tag)) ∧
    (∀ d a b c rows len tag, decodeL 0x31 (lStream d a b c rows len tag) = .ok (.sstore d a b c rows len tag)) ∧
    (∀ a b rows len, decodeL 0x32 (lStream 0 a b 0 rows len 0) = .ok (.spref a b rows len)) := by
  refine ⟨?_, ?_, ?_⟩ <;> intros <;>
    simp only [decodeL, lStream_fields, lStream_above, BitVec.ofNat_eq_ofNat, BitVec.reduceToNat, need, decide_true, Bool.and_self, if_true]

theorem decodeL_swait {m : BitVec 16} (h : decide (m ≠ 0#16) = true) : decodeL 0x33 (0#41 ++ m) = .ok (.swait m) := by
  simp (disch := decide) only [decodeL, BitVec.ofNat_eq_ofNat, BitVec.reduceToNat, bits_append_low, bits_append_high, bits_all,
      Nat.sub_self, need, decide_true, if_true, h]

theorem decodeTree_codes (d : BitVec 6) (t : BitVec 4) (a : BitVec 6) :
    (∀ init : Bool, decodeTree 0x10 (lTree (d8 d) t a 0 0 (0#2 ++ bitOf init)) = .ok (.tbind d t a init)) ∧
    (∀ b c, decodeTree 0x12 (lTree (d8 d) t a b c 0) = .ok (.texpand d t a b c)) ∧
    (∀ b, ∀ vl : Bool, decodeTree 0x13 (lTree (d8 d) t a b 0 (0#2 ++ bitOf vl)) = .ok (.tback d t a b vl)) ∧
    decodeTree 0x14 (lTree (d8 d) t a 0 0 0) = .ok (.treroot d t a) ∧ decodeTree 0x17 (lTree (d8 d) t a 0 0 0) = .ok (.tfree d t a) := by
  refine ⟨fun init => ?_, fun b c => ?_, fun b vl => ?_, ?_, ?_⟩ <;>
    simp only [decodeTree, lTree_fields, d8_fields, BitVec.ofNat_eq_ofNat, need, decide_true, Bool.or_true, Bool.and_self, if_true]
  · cases init <;> rfl
  · cases vl <;> rfl

theorem decodeTree_others (d : BitVec 6) (t : BitVec 4) :
    decodeTree 0x10 (lTree (d8 d) t 0 0 0 2) = .ok (.tbindUnbind d t) ∧ decodeTree 0x11 (lTree (d8 d) t 0 0 0 0) = .ok (.tdesc d t) := by
  refine ⟨?_, ?_⟩ <;>
    simp only [decodeTree, lTree_fields, d8_fields, BitVec.ofNat_eq_ofNat, BitVec.reduceToNat, need, decide_true, Bool.or_true, Bool.and_self,
      if_true]

theorem decodeTree_tstat {d : BitVec 6} {t : BitVec 4} {f : BitVec 3} (h : decide (f ≠ 7#3) = true) :
    decodeTree 0x16 (lTree (d8 d) t 0 0 0 f) = .ok (.tstat d t f) := by
  simp only [decodeTree, lTree_fields, d8_fields, BitVec.ofNat_eq_ofNat, need, decide_true, Bool.or_true, Bool.and_self, if_true, h]

theorem decodeTree_trdn (v : BitVec 8) (t : BitVec 4) (a : BitVec 6) : decodeTree 0x15 (lTree v t a 0 0 0) = .ok (.trdn v t a) := by
  simp only [decodeTree, lTree_fields, BitVec.ofNat_eq_ofNat, need, decide_true, Bool.true_or, Bool.and_self, if_true]

theorem decodeBond_codes (d a : BitVec 6) :
    (∀ b, decodeBond 0x18 (lFour d a b 0 0) = .ok (.pdecl d a b)) ∧ (∀ b, decodeBond 0x19 (lFour d a b 0 0) = .ok (.pset d a b)) ∧
    (∀ b, decodeBond 0x1A (lFour d a b 0 0) = .ok (.pload d a b)) ∧ (∀ b c, decodeBond 0x1B (lFour d a b c 0) = .ok (.pconv d a b c)) ∧
    (∀ f : BitVec 4, decide (f.toNat < 7) = true → decodeBond 0x1C (lFour d a 0 0 f) = .ok (.pqry d a f)) ∧
    decodeBond 0x1D (lFour d a 0 0 0) = .ok (.pdrop d a) := by
  refine ⟨?_, ?_, ?_, ?_, ?_, ?_⟩ <;> intros <;>
    simp only [decodeBond, lFour_fields, BitVec.ofNat_eq_ofNat, need, decide_true, Bool.and_self, if_true, *]

theorem decodeBond_psync {d a : BitVec 6} {m : BitVec 4} (h : decide (m ≠ 0#4) = true) :
    decodeBond 0x1E (lFour d a 0 0 m) = .ok (.psync d a m) := by
  simp only [decodeBond, lFour_fields, BitVec.ofNat_eq_ofNat, need, decide_true, Bool.and_self, if_true, h]

theorem decodeWindow_codes (d a : BitVec 6) :
    decodeWindow 0x24 (lFour 0 0 0 0 0) = .ok .nfence ∧ decodeWindow 0x24 (lFour d a 0 0 1) = .ok (.nfenceRs d a) ∧
    decodeWindow 0x24 (lFour d a 0 0 2) = .ok (.nfenceCn d a) ∧
    (∀ b, ∀ p : BitVec 3, decodeWindow 0x25 (lFour d a b 0 (0#1 ++ p)) = .ok (.wopen d a b p)) ∧
    decodeWindow 0x26 (lFour d a 0 0 0) = .ok (.wrevoke d a) ∧
    (∀ f : BitVec 3, decide (f.toNat < 5) = true → decodeWindow 0x27 (lFour d a 0 0 (0#1 ++ f)) = .ok (.wqry d a f)) ∧
    (∀ b, decodeWindow 0x28 (lFour d a b 0 0) = .ok (.cbopen d a b)) ∧
    decodeWindow 0x29 (lFour d a 0 0 0) = .ok (.cbpopTake d a) ∧ decodeWindow 0x29 (lFour d a 0 0 1) = .ok (.cbpopFree d a) := by
  refine ⟨?_, ?_, ?_, ?_, ?_, ?_, ?_, ?_, ?_⟩ <;> intros <;>
    simp (disch := decide) only [decodeWindow, lFour_fields, BitVec.ofNat_eq_ofNat, BitVec.reduceToNat, bits_append_low, bits_append_high,
      Nat.sub_self, bits_all, toNat_zero_append, need, decide_true, Bool.and_self, if_true, *]

section
variable {d a b c r : BitVec 6} {x : NetMod} {o : AmoOp} {dbl : Bool}

theorem decodeNet_transfers (hx : netModOk x = true) (hm : (x.dm != .uud) = true) :
    decodeNet 0x20 (lNet d a b c 0 x 0 false false) = .ok (.nput d a b c x) ∧
    decodeNet 0x21 (lNet d a b c 0 x 0 false false) = .ok (.nget d a b c x) := by
  refine ⟨?_, ?_⟩ <;>
    simp only [decodeNet, netModOf_lNet hx, lNet_fields, BitVec.ofNat_eq_ofNat, decide_bitOf, need, decide_true, Bool.not_false, Bool.and_self, if_true, hm]

theorem decodeNet_sends (hx : netModOk x = true) : decodeNet 0x23 (lNet d a b c 0 x 0 false false) = .ok (.nsend d a b c x) := by
  simp only [decodeNet, netModOf_lNet hx, lNet_fields, BitVec.ofNat_eq_ofNat, decide_bitOf, need, decide_true, Bool.not_false, Bool.and_self, if_true]
  rfl

theorem decodeNet_landing {cc : BitVec 4} {ob : Bool} (h : decide (cc.toNat < 14) = true) :
    decodeNet 0x23 (lNet d a b 0 0 { cc := cc, ob := ob, e := 0, seg := 0, dm := .rud } 0 false true) = .ok (.nsendL d a b cc ob) := by
  have hx : netModOk { cc := cc, ob := ob, e := 0#4, seg := 0#2, dm := .rud } = true := by
    simp [netModOk, of_decide_eq_true h]
  simp only [decodeNet, netModOf_lNet hx, lNet_fields, BitVec.ofNat_eq_ofNat, decide_bitOf, need, decide_true, Bool.not_false, Bool.and_self, if_true]
  rfl

theorem decodeNet_atomic (h : wf (.natom d a b c r o dbl x) = true) :
    decodeNet 0x22 (lNet d a b c r x (amoCode o) dbl false) = .ok (.natom d a b c r o dbl x) := by
  simp only [wf, Bool.and_eq_true, BitVec.ofNat_eq_ofNat] at h
  obtain ⟨⟨⟨⟨⟨hx, hm⟩, he⟩, hs⟩, hc⟩, hd⟩ := h
  simp only [decodeNet, netModOf_lNet hx, lNet_fields, BitVec.ofNat_eq_ofNat, decide_bitOf, need, decide_true, if_true,
    amoOf_amoCode, Bool.not_false, Bool.true_and]
  rw [he, hs, hm]
  exact (if_pos hc).trans (if_pos hd)

end

/-- Every well-formed L-form is read back from its major opcode and field value (R42). -/
theorem decodeL_encodeL {i : Instr} {op : BitVec 6} {f : BitVec 57} (hwf : wf i = true) (h : encodeL i = some (op, f)) : decodeL op f = .ok i := by
  cases i <;> cases h
  case amo => exact decodeL_amo hwf _
  case vlds | vsts => simp only [decodeL_groups hwf (vb := 0)]
  case vldg | vstg => simp only [decodeL_groups hwf (b := 0)]
  case swait => exact decodeL_swait hwf
  case tstat => exact decodeTree_tstat hwf
  case psync => exact decodeBond_psync hwf
  case pqry | wqry =>
    simp only [decodeL_families, decodeBond_codes, decodeWindow_codes, show decide _ = true from hwf]
  case nput | nget =>
    obtain ⟨hx, hm⟩ := (Bool.and_eq_true ..).mp hwf
    simp only [decodeL_families, decodeNet_transfers hx hm]
  case nsend => exact decodeNet_sends hwf
  case nsendL => exact decodeNet_landing hwf
  case natom => exact decodeNet_atomic hwf
  all_goals simp only [decodeL_families, decodeL_plain, decodeL_streams, decodeTree_codes, decodeTree_others, decodeTree_trdn,
    decodeBond_codes, decodeWindow_codes]
  all_goals rfl

end Sys2Proof.Machine

namespace Sys2Proof.Machine
open Sys2Proof
set_option Elab.async false

/-! ### Bundles and their bytes (R25, R28, R35) -/

theorem cr_marked (op d a b : BitVec 6) (fn : BitVec 7) : bits (cr op d a b fn) 31 1 = 1#1 := by
  simp (disch := decide) only [cr, bits_cast, bits_append_high, bits_all, Nat.reduceSub]

theorem ci_marked (op d a : BitVec 6) (i : BitVec 13) : bits (ci op d a i) 31 1 = 1#1 := by
  simp (disch := decide) only [ci, bits_cast, bits_append_high, bits_all, Nat.reduceSub]

theorem cm_marked (op d a : BitVec 6) (wd : BitVec 2) (i : BitVec 11) : bits (cm op d a wd i) 31 1 = 1#1 := by
  simp (disch := decide) only [cm, bits_cast, bits_append_high, bits_all, Nat.reduceSub]

theorem cb_marked (op : BitVec 6) (c : BitVec 3) (a b : BitVec 6) (o : BitVec 10) : bits (cb op c a b o) 31 1 = 1#1 := by
  simp (disch := decide) only [cb, bits_cast, bits_append_high, bits_all, Nat.reduceSub]

theorem cj_marked (op : BitVec 6) (o : BitVec 25) : bits (cj op o) 31 1 = 1#1 := by
  simp (disch := decide) only [cj, bits_cast, bits_append_high, bits_all, Nat.reduceSub]

theorem cv_marked (op : BitVec 6) (v : BitVec 8) (a : BitVec 6) (mode : BitVec 3) (i : BitVec 8) : bits (cv op v a mode i) 31 1 = 1#1 := by
  simp (disch := decide) only [cv, bits_cast, bits_append_high, bits_all, Nat.reduceSub]

/-- Every C-slot word has P set (R25). -/
theorem encodeC_marked {i : Instr} {w : BitVec 32} (h : encodeC i = some w) : bits w 31 1 = 1#1 := by
  cases i <;> cases h <;> simp only [cr_marked, ci_marked, cm_marked, cb_marked, cj_marked, cv_marked]

theorem decodeC_nop : decodeC (cj 0x00 0) = .ok .nop := rfl

theorem decodeBundle_pairBundle {c a : BitVec 32} {i j : Instr} (hp : bits c 31 1 = 1#1) (hc : decodeC c = .ok i) (ha : decodeA a = .ok j) :
    decodeBundle (pairBundle c a) = .pair i j := by
  have h0 : bits (pairBundle c a) 31 1 = 1#1 := (bits_append_low (by decide)).trans hp
  have h1 : word0 (pairBundle c a) = c := (bits_append_low (by decide)).trans bits_all
  have h2 : word1 (pairBundle c a) = a := (bits_append_high (by decide)).trans bits_all
  simp only [decodeBundle, h0, h1, h2, hc, ha]
  rfl

theorem longField_longBundle (op : BitVec 6) (f : BitVec 57) : longField (longBundle op f) = f := by
  simp (disch := decide) only [longField, longBundle, bits_cast, bits_append_low, bits_append_high, Nat.reduceSub, bits_all]
  exact (BitVec.extractLsb'_append_extractLsb'_eq_extractLsb' rfl).trans bits_all

theorem decodeBundle_longBundle {op : BitVec 6} {f : BitVec 57} {i : Instr} (h : decodeL op f = .ok i) :
    decodeBundle (longBundle op f) = .long i := by
  have h0 : bits (longBundle op f) 31 1 = 0#1 := by
    simp (disch := decide) only [longBundle, bits_cast, bits_append_low, bits_append_high, Nat.reduceSub, bits_all]
  have h1 : bits (longBundle op f) 25 6 = op := by
    simp (disch := decide) only [longBundle, bits_cast, bits_append_low, bits_append_high, Nat.reduceSub, bits_all]
  simp only [decodeBundle, h0, h1, longField_longBundle, h]
  rfl

/-- Eight bytes, lowest address first, give back their bundle (R25). -/
theorem bundleOfBytes_bytesOfBundle (b : BitVec 64) : bundleOfBytes (bytesOfBundle b) = some (b, []) := by
  have h : bits b 56 8 ++ bits b 48 8 ++ bits b 40 8 ++ bits b 32 8 ++ bits b 24 8 ++ bits b 16 8 ++ bits b 8 8 ++ bits b 0 8 = b := by
    iterate 7 rw [BitVec.extractLsb'_append_extractLsb'_eq_extractLsb' (by rfl)]
    exact bits_all
  simp only [bytesOfBundle, bundleOfBytes, h]

theorem encode_holdsAlone {i : Instr} (hwf : wf i = true) (hw : hasWord i = true) : ∃ b, encode i = some b ∧ holdsAlone b i := by
  unfold encode
  cases hc : encodeC i with
  | some c =>
    exact ⟨_, rfl, .inr (.inl (decodeBundle_pairBundle (encodeC_marked hc) (decodeC_encodeC hwf hc) decodeA_zero))⟩
  | none =>
    cases ha : encodeA i with
    | some a => exact ⟨_, rfl, .inr (.inr (decodeBundle_pairBundle (cj_marked ..) decodeC_nop (decodeA_encodeA ha)))⟩
    | none =>
      cases hl : encodeL i with
      | some p => exact ⟨_, rfl, .inl (decodeBundle_longBundle (decodeL_encodeL hwf hl))⟩
      | none => simp [hasWord, hc, ha, hl] at hw

end Sys2Proof.Machine

open Sys2Proof Sys2Proof.Machine in
/-- Settles O3: the word of each slot is read back by its own decoder, and a bundle is read back from its bytes. -/
theorem bundlesRoundTrip : Obligations.BundlesRoundTrip := by
  unfold Obligations.BundlesRoundTrip
  intro i hwf hw
  obtain ⟨b, hb, hd⟩ := encode_holdsAlone hwf hw
  refine ⟨b, hb, hd, ?_⟩
  unfold decodeBytes
  rw [bundleOfBytes_bytesOfBundle]

open Sys2Proof Sys2Proof.Machine in
/-- Refutes O2: `decodeC` does not read bit 31, in which `encodeC` writes the paired form's mark (R25). The word 0 decodes to `NOP`, and the word of `NOP`
is 0x80000000. -/
theorem not_encodingIsABijection : ¬ Obligations.EncodingIsABijection := by
  unfold Obligations.EncodingIsABijection
  rintro ⟨-, hC, -, -⟩
  obtain ⟨he, -⟩ := hC 0 .nop rfl
  exact absurd he (by decide)

open Sys2Proof Sys2Proof.Machine in
/-- Settles O1: each worked encoding is a closed word, and the decoder evaluates to the instruction that the rule names. -/
theorem workedEncodingsDecode : Obligations.WorkedEncodingsDecode := by
  unfold Obligations.WorkedEncodingsDecode
  refine ⟨⟨rfl, rfl, rfl, rfl, rfl, rfl, rfl, rfl, rfl, rfl, rfl, rfl, rfl, rfl⟩, ⟨_, rfl⟩, ⟨_, rfl⟩⟩

namespace Sys2Proof.Machine
open Sys2Proof
set_option Elab.async false

section
variable {s t : State}

/-! ### The thread in focus across a fetch -/

theorem askWalk_th (s : State) (c : BitVec 7) (asid : BitVec 12) (va : Nat) : (askWalk s c asid va).th = s.th := by
  unfold askWalk
  split <;> rfl

theorem useTlb_th (s : State) (c : BitVec 11) (engine : Bool) (asid : BitVec 12) (va : Nat) : (useTlb s c engine asid va).th = s.th := by
  unfold useTlb
  dsimp only
  split
  · rfl
  · split
    · split <;> rfl
    · exact askWalk_th ..

theorem fetchBundle_th (s : State) (u : Thread) (pc : Word) : (fetchBundle s u pc).1.th = s.th := by
  unfold fetchBundle
  split
  · rfl
  · exact (rdPiece_beside _ _).th.trans (useTlb_th ..)

/-- The thread after its fetch is the thread before, ready and awaiting nothing. -/
theorem afterFetch_th (s : State) : (afterFetch s).th = { s.th with status := .ready, awaited := [] } := by
  simp only [afterFetch, setTh_th, fetchBundle_th]

/-! ### The step that issues -/

theorem nextBundle_unbuffered (h : s.th.fetched = []) : nextBundle s = fetchBundle s s.th s.th.pc := by
  simp only [nextBundle, h]

theorem issueBundle_of_issues (hi : Issues s) :
    issueBundle s = mapNext (runBundle (theBundle s) (afterFetch s)) (settleBundle s.th (theBundle s)) := by
  have hb : buffered s.th = false := by simp only [buffered, hi.empty]
  simp only [issueBundle, hi.acquired, hb, hi.fetch, nextBundle_unbuffered hi.empty, hi.proper]
  rfl

theorem issueOne_of_clear (h : boundaryDue s.th = false) : issueOne s = issueBundle s := by
  have hs : s.th.save.isSome = false := by
    simp only [boundaryDue, Bool.or_eq_false_iff] at h
    obtain ⟨⟨⟨⟨hs, -⟩, -⟩, -⟩, -⟩ := h
    exact hs
  simp only [issueOne, hs, h, Bool.false_and, Bool.false_eq_true, if_false]

theorem focusOn_self {p : Thread → Bool} (h : p s.th = true) : focusOn s p = s := if_pos h

theorem noteIssue_last (u : Thread) (s : State) : (noteIssue u s).last = s.last := by
  unfold noteIssue
  split
  · rfl
  · dsimp only
    split <;> rfl

theorem noteIssue_th (u : Thread) (s : State) : (noteIssue u s).th = s.th := by
  unfold noteIssue
  split
  · rfl
  · dsimp only
    split <;> rfl

theorem tick_th (s : State) : (tick s).th = s.th := rfl

/-- Where the thread in focus issues and its bundle does not wait, the step runs the bundle on the machine after the fetch; the walks of its pages are
forgotten, the slot is noted as the last one, and the turn moves (R31, R89, R341). -/
theorem step_of_issues (hi : Issues s) (hr : runBundle (theBundle s) (afterFetch s) = .next t) (hw : waits t.last = false) :
    step s = .next (tick (noteIssue s.th (forgetWalks t))) := by
  obtain ⟨r, horder⟩ := List.head?_eq_some_iff.mp hi.first
  have hone : issueOne s = .next (noteIssue s.th (forgetWalks t)) := by
    rw [issueOne_of_clear hi.clear, issueBundle_of_issues hi, hr]
    simp only [mapNext, settleBundle, hw]
    rfl
  have hfocus : focusOn s (fun u => isLive u && u.handle = s.th.handle) = s := focusOn_self (by simp [hi.live])
  have hlast : waits (noteIssue s.th (forgetWalks t)).last = false := by rwa [noteIssue_last]
  have hact : act s.turn s = .next (noteIssue s.th (forgetWalks t)) := by
    simp only [act, hi.phase, hi.turn, issueHere, hi.issuer, issueBy, issueCore, horder, issueFrom, hfocus, hone, hlast]
    rfl
  simp only [step, hact, mapNext]

/-- A state that such a step answers remembers no walk. -/
theorem walked_of_step {v : State} (hi : Issues s) (hr : runBundle (theBundle s) (afterFetch s) = .next t) (hw : waits t.last = false)
    (hs : step s = .next (tick (noteIssue s.th v))) : v.th.walked = [] := by
  have hstate := Host.Outcome.next.inj ((step_of_issues hi hr hw).symm.trans hs)
  have hth := congrArg (fun u : State => u.th) hstate
  simp only [tick_th, noteIssue_th] at hth
  exact hth ▸ rfl

end

end Sys2Proof.Machine

namespace Sys2Proof.Machine
open Sys2Proof
set_option Elab.async false

section
variable {s t : State}

theorem toNat_append_eq_add {v w : Nat} (x : BitVec v) (y : BitVec w) : (x ++ y).toNat = x.toNat * 2 ^ w + y.toNat := by
  rw [BitVec.toNat_append, ← Nat.shiftLeft_add_eq_or_of_lt y.isLt, Nat.shiftLeft_eq]

/-- `TVAL` of an ILLEGAL as a sum: the slot from bit 62 on, the detail below (R33). -/
theorem illegalVal_eq_word (code : BitVec 2) (detail : BitVec 57) : illegalVal code detail = word (code.toNat * 2 ^ 62 + detail.toNat) := by
  refine BitVec.eq_of_toNat_eq ?_
  have hc := code.isLt
  have hd := detail.isLt
  simp only [illegalVal, word, BitVec.toNat_cast, toNat_append_eq_add, BitVec.toNat_ofNat]
  omega

theorem exec_unassigned (slot : BitVec 2) (detail : BitVec 57) (s : State) : exec (.unassigned slot detail) s =
    .next { trapFocus s .illegal (word (slot.toNat * 2 ^ 62 + detail.toNat)) s.th.pc with last := .window } := by
  rw [← illegalVal_eq_word]
  rfl

theorem exec_nop (s : State) : exec .nop s = becomes s (advance s.th) := rfl

theorem trapEntry_walked (u : Thread) (i : TrapInfo) : (trapEntry u i).walked = u.walked := by
  unfold trapEntry
  dsimp only
  split <;> rfl

theorem trapFocus_of_thread (h : s.th.prog = none) (c : Cause) (v pc : Word) :
    trapFocus s c v pc = setTh s (trapEntry s.th (preciseInfo c v pc)) := by
  simp only [trapFocus, h]
  rfl

theorem forgetWalks_setTh (s : State) (u : Thread) : forgetWalks (setTh s u) = setTh s { u with walked := [] } := rfl

/-- A pair that is neither a `NOP` beside another nor ILLEGAL, and whose instructions both take effect (R31). -/
theorem runPair_done {x y : State} {c a : Instr} {w : BitVec 32} (ha : isNopA a = false) (hc : isNopC c = false) (hfc : formBad s c = false)
    (hfa : formBad s a = false) (hw : conflict s.th c a = false) (hx : exec c s = .next x) (hy : exec a (clearFlags s) = .next y)
    (hxd : x.last = .done) (hyd : y.last = .done) : runPair c a w s = .next (setTh x (joinThreads s.th x.th y.th)) := by
  have hjoin : joinPair s x y = setTh x (joinThreads s.th x.th y.th) := by
    simp [joinPair, hxd, hyd]
  simp only [runPair, ha, hfc, hfa, hw, hc, hx, hy, hjoin]
  rfl

end

/-! ### A thread that fetches with a walk noted -/

/-- A machine about to fetch the bundle `b` in a thread that still remembers a walk of page 0. -/
def walkNoted (b : BitVec 64) : State :=
  let s := placeBundle State.reset b
  setTh s { s.th with walked := [0] }

section
set_option maxRecDepth 100000

theorem walkNoted_issues_nop : Issues (walkNoted 0x80000000) := by constructor <;> decide

theorem walkNoted_issues_erased : Issues (walkNoted 0) := by constructor <;> decide

theorem theBundle_walkNoted_nop : theBundle (walkNoted 0x80000000) = 0x80000000 := by decide

theorem theBundle_walkNoted_erased : theBundle (walkNoted 0) = 0 := by decide

theorem walkNoted_walked (b : BitVec 64) : (afterFetch (walkNoted b)).th.walked = [0] := by
  rw [afterFetch_th]
  rfl

end

end Sys2Proof.Machine

open Sys2Proof Sys2Proof.Machine in
/-- Refutes O4: a bundle that takes effect forgets the walks of its pages (R341), which the stated result keeps. A `NOP` in a thread that remembers a
walk shows the difference. -/
theorem not_stepRunsDecodedInstruction : ¬ Obligations.StepRunsDecodedInstruction := by
  unfold Obligations.StepRunsDecodedInstruction
  intro h
  have hpair : decodeBundle (theBundle (walkNoted 0x80000000)) = .pair .nop .nopA := by
    rw [theBundle_walkNoted_nop]
    rfl
  have hrun : runBundle (theBundle (walkNoted 0x80000000)) (afterFetch (walkNoted 0x80000000)) =
      becomes (afterFetch (walkNoted 0x80000000)) (advance (afterFetch (walkNoted 0x80000000)).th) := by
    simp only [runBundle, hpair]
    exact exec_nop _
  have hstep := h (walkNoted 0x80000000) _ .nop walkNoted_issues_nop rfl (.inr (.inl hpair)) (exec_nop _) rfl
  have hforgot := walked_of_step walkNoted_issues_nop hrun rfl hstep
  exact absurd ((walkNoted_walked 0x80000000).symm.trans hforgot) (by decide)

open Sys2Proof Sys2Proof.Machine in
/-- Refutes O6: in its second part, as in its first, the stated result keeps the walks that a bundle which traps forgets (R341). A thread that
remembers a walk and fetches out of erased memory (R35) shows the difference. -/
theorem not_bundlesThatTrap : ¬ Obligations.BundlesThatTrap := by
  unfold Obligations.BundlesThatTrap
  rintro ⟨-, hillegal, -⟩
  obtain ⟨r, hd⟩ : ∃ r, decodeBundle (theBundle (walkNoted 0)) = .illegal 3 0 r := by
    rw [theBundle_walkNoted_erased]
    exact ⟨_, rfl⟩
  have hrun : runBundle (theBundle (walkNoted 0)) (afterFetch (walkNoted 0)) = exec (.unassigned 3 0) (afterFetch (walkNoted 0)) := by
    simp only [runBundle, hd]
    rfl
  obtain ⟨htraps, -⟩ := hillegal (walkNoted 0) 3 0 r walkNoted_issues_erased hd
  have hstep := htraps (by rintro c ⟨h, -⟩; exact absurd h (by decide))
  have hforgot := walked_of_step walkNoted_issues_erased (hrun.trans (exec_unassigned ..)) rfl hstep
  have hprog : (afterFetch (walkNoted 0)).th.prog = none := by rw [afterFetch_th]; rfl
  simp only [trapFocus_of_thread hprog, setTh_th, trapEntry_walked, walkNoted_walked] at hforgot
  exact absurd hforgot (by decide)

open Sys2Proof Sys2Proof.Machine in
/-- Settles O5: the step runs the pair, whose instructions both take effect, and joins what each has written. -/
theorem stepRunsBothInstructions : Obligations.StepRunsBothInstructions := by
  unfold Obligations.StepRunsBothInstructions
  intro s x y c a hi hd ha hc hfc hfa hw hx hy hxd hyd
  have hrun : runBundle (theBundle s) (afterFetch s) = .next (setTh x (joinThreads (afterFetch s).th x.th y.th)) := by
    simp only [runBundle, hd]
    exact runPair_done ha hc hfc hfa hw hx hy hxd hyd
  have hstep := step_of_issues hi hrun (by simp [hxd, waits])
  rw [forgetWalks_setTh] at hstep
  refine ⟨_, hstep, ?_⟩
  simp only [setTh_th, joinThreads, joinVec, afterFetch_th, Vector.getElem_ofFn, Fin.getElem_fin, implies_true, and_self]

namespace Sys2Proof.Machine
open Sys2Proof
set_option Elab.async false

/-- A machine whose thread awaits one arrival in `S1`. -/
def s1Empty : State := setTh State.reset (setCount State.reset.th (.s 1) 1)

/-- Of `MOVIH` the plan names its register once, as destination: that is what the thread awaits. -/
theorem movih_awaits_once {s : State} {d : BitVec 6} (h : present s.th (.s d) = false) (i : BitVec 16) :
    exec (.movih d i) s = .next { awaitFirst [.s d] s with last := .stalled } :=
  conclude_stall (slot := .l) (p := scalarPlan s d [] (i ++ bits (rdS s.th d) 0 48)) (r := .s d)
    (fun _ h => absurd h List.not_mem_nil) List.mem_cons_self h

end Sys2Proof.Machine

open Sys2Proof Sys2Proof.Machine in
/-- Refutes O8: of `MOVIH`, which reads its destination, the stated record names that register twice (as destination and as operand), and the
machine's once. -/
theorem not_scalarFrame : ¬ Obligations.ScalarFrame := by
  unfold Obligations.ScalarFrame
  rintro ⟨-, hstall, -, -⟩
  have htwice := hstall s1Empty (.movih 1 0) 1 [1] (.s 1) (.inl ⟨_, rfl⟩) List.mem_cons_self rfl
  have hstate := Host.Outcome.next.inj ((movih_awaits_once rfl 0).symm.trans htwice)
  have hawaited : [Reg.s 1] = scalarNeeds 1 [1] := congrArg (fun t : State => t.th.awaited) hstate
  exact absurd hawaited (by decide)

namespace Sys2Proof.Machine
open Sys2Proof
set_option Elab.async false

section
variable {t : Thread} {r q : Reg} {c : BitVec 7}

/-! ### The count of a register (R94) -/

theorem count_setCount_same (h : fixedReg r = false) : count (setCount t r c) r = c := by
  cases r with
  | s n => simp [setCount, h, count]
  | m n => simp [setCount, h, count]
  | v n => simp [setCount, h, count, sget_sset_same]

theorem count_setCount_other (h : q ≠ r) : count (setCount t r c) q = count t q := by
  unfold setCount
  split
  · rfl
  · cases r with
    | s n =>
      cases q with
      | s k => exact Vector.getElem_set_ne n.isLt k.isLt (fun hn => h (congrArg Reg.s (BitVec.eq_of_toNat_eq hn.symm)))
      | m k => rfl
      | v k => rfl
    | m n =>
      cases q with
      | s k => rfl
      | m k => exact Vector.getElem_set_ne n.isLt k.isLt (fun hn => h (congrArg Reg.m (BitVec.eq_of_toNat_eq hn.symm)))
      | v k => rfl
    | v n =>
      cases q with
      | s k => rfl
      | m k => rfl
      | v k => exact sget_sset_other (fun hn => h (congrArg Reg.v (BitVec.eq_of_toNat_eq hn)))

theorem present_setCount (h : fixedReg r = false) : present (setCount t r c) r = true ↔ c = 0 := by
  simp [present, h, count_setCount_same h]

theorem fixedReg_eq_false (hs : r ≠ .s 0) (hm : r ≠ .m 0) : fixedReg r = false := by
  simp only [fixedReg, decide_eq_false hs, decide_eq_false hm, Bool.or_self]

end

section
variable {s : State} {r : PReg}

theorem setPresence_eq (hf : fixedReg (pregReg s.th r) = false) (hw : InWindow s (pregSpecs r)) (c : BitVec 7) (detail : BitVec 57) :
    setPresence r c detail s = becomes s (advance (setCount s.th (pregReg s.th r) c)) := by
  have hempty {l : List Reg} (h : l = []) : Ready s l := fun _ hr => absurd (h ▸ hr) List.not_mem_nil
  simp only [setPresence, hf]
  exact conclude_done hw (hempty rfl) rfl (hempty rfl) rfl

theorem setPresence_fixed (hf : fixedReg (pregReg s.th r) = true) (c : BitVec 7) (i : Instr) {w : BitVec 32} (hw : encodeC i = some w) :
    setPresence r c (wordC i) s = .next { trapFocus s .illegal (word (2 ^ 62 + w.toNat)) s.th.pc with last := .window } := by
  have hv : illegalVal 1 (wordC i) = word (2 ^ 62 + w.toNat) := by
    rw [illegalVal_eq_word]
    have := w.isLt
    simp only [wordC, hw, Option.getD_some, BitVec.toNat_setWidth]
    rw [Nat.mod_eq_of_lt (show w.toNat < 2 ^ 57 by omega)]
    rfl
  simp only [setPresence, hf, illegalNow, hv]
  rfl

/-- The count of an `EMPTY` is its field plus one (R115). -/
theorem count_of_field (n : BitVec 6) : n.zeroExtend 7 + 1 = BitVec.ofNat 7 (n.toNat + 1) := by
  refine BitVec.eq_of_toNat_eq ?_
  simp

end
end Sys2Proof.Machine

open Sys2Proof Sys2Proof.Machine in
/-- Settles O10: all these forms are one operation, which sets the count, or is ILLEGAL on `S0` and `M0`. -/
theorem presenceInstructions : Obligations.PresenceInstructions := by
  unfold Obligations.PresenceInstructions
  refine ⟨fun s r n k v => ?_, fun s n i hi => ?_, fun t r q c hs hm => ?_⟩
  · have hS (h : r ≠ 0) : fixedReg (.s r) = false := fixedReg_eq_false (by simpa using h) (by simp)
    have hM (h : k ≠ 0) : fixedReg (.m k) = false := fixedReg_eq_false (by simp) (by simpa using h)
    have hV : fixedReg (.v (spec s.th v)) = false := fixedReg_eq_false (by simp) (by simp)
    have hnone : InWindow s [] := fun _ h => absurd h List.not_mem_nil
    rw [← count_of_field]
    exact ⟨fun h => setPresence_eq (r := .s r) (hS h) hnone _ (wordC (.empty r n)),
      fun h => setPresence_eq (r := .m k) (hM h) hnone _ (wordC (.emptyMask k n)),
      fun h => setPresence_eq (r := .v v) hV h _ (wordC (.vempty v n)),
      fun h => setPresence_eq (r := .s r) (hS h) hnone 0 (wordC (.fill (.s r))),
      fun h => setPresence_eq (r := .m k) (hM h) hnone 0 (wordC (.fill (.m k))),
      fun h => setPresence_eq (r := .v v) hV h 0 (wordC (.fill (.v v)))⟩
  · simp only [List.mem_cons, List.not_mem_nil, or_false] at hi
    obtain rfl | rfl | rfl | rfl := hi
    · exact ⟨_, rfl, setPresence_fixed (r := .s 0) rfl (n.zeroExtend 7 + 1) (.empty 0 n) rfl⟩
    · exact ⟨_, rfl, setPresence_fixed (r := .m 0) rfl (n.zeroExtend 7 + 1) (.emptyMask 0 n) rfl⟩
    · exact ⟨_, rfl, setPresence_fixed (r := .s 0) rfl 0 (.fill (.s 0)) rfl⟩
    · exact ⟨_, rfl, setPresence_fixed (r := .m 0) rfl 0 (.fill (.m 0)) rfl⟩
  · have hf := fixedReg_eq_false hs hm
    exact ⟨count_setCount_same hf, present_setCount hf, count_setCount_other⟩

namespace Sys2Proof.Machine
open Sys2Proof
set_option Elab.async false

/-! ### Taking a trap (R196) -/

/-- The cause word as a sum of its fields (R194). -/
theorem tcauseOf_eq_word (i : TrapInfo) : tcauseOf i = word (i.sub.toNat * 2 ^ 32 + i.seq.toNat * 2 ^ 16 + i.port.toNat * 2 ^ 12 +
    i.wait.toNat * 2 ^ 9 + (if i.async then 2 ^ 8 else 0) + i.cause.toNat) := by
  obtain ⟨cause, val, epc, async, wait, port, seq, sub⟩ := i
  refine BitVec.eq_of_toNat_eq ?_
  simp only [tcauseOf, word, BitVec.toNat_cast, toNat_append_eq_add, BitVec.toNat_ofNat]
  cases async <;> simp <;> omega

section
variable {t : Thread}

theorem trapEntry_handler (hi : t.tstat.getLsbD 6 = false) (hv : t.tvec ≠ 0) (i : TrapInfo) : trapEntry t i =
    { t with tcause := tcauseOf i, tval := i.val, tepc := i.epc, tstat := t.tstat ||| 0x40, pc := t.tvec } := by
  simp only [trapEntry, inTrap, bit, hi, hv, decide_false, Bool.or_self, Bool.false_eq_true, if_false]

/-- The cause word of a precise trap is its code: no wait, no command, not asynchronous (R196). -/
theorem trapEntry_precise (hi : t.tstat.getLsbD 6 = false) (hv : t.tvec ≠ 0) (k : Cause) (v epc : Word) : trapEntry t (preciseInfo k v epc) =
    { t with tcause := word (causeCode k).toNat, tval := v, tepc := epc, tstat := t.tstat ||| 0x40, pc := t.tvec } := by
  have hcause : tcauseOf (preciseInfo k v epc) = word (causeCode k).toNat := by
    rw [tcauseOf_eq_word]
    simp [preciseInfo]
  rw [trapEntry_handler hi hv, hcause]
  rfl

theorem trapEntry_fatal (h : t.tstat.getLsbD 6 = true ∨ t.tvec = 0) (i : TrapInfo) : trapEntry t i =
    { t with tcause := tcauseOf i, tval := i.val, tepc := i.epc, save := some .fatal } := by
  have hc : (inTrap t || decide (t.tvec = 0)) = true := by simpa [inTrap, bit] using h
  simp only [trapEntry, hc, if_true]

end

section
variable {s : State}

/-- Nothing stands against `TRAP` and `BKPT`: they take their trap (R131). -/
theorem exec_trap (s : State) (c : BitVec 13) :
    exec (.trap c) s = becomes s (trapEntry s.th (preciseInfo .trap (c.zeroExtend 64) (s.th.pc + 8))) := rfl

theorem exec_bkpt (s : State) : exec .bkpt s = becomes s (trapEntry s.th (preciseInfo .break' 0 s.th.pc)) := rfl

theorem missOf_of_thread (h : s.th.prog = none) (c : Cause) (v : Word) : missOf s c v = s := by
  simp [missOf, h]

theorem exec_pool (h : s.th.prog = none) (n : BitVec 16) :
    exec (.pool n) s = .next { setTh s (trapEntry s.th (preciseInfo .execPool (n.zeroExtend 64) s.th.pc)) with last := .trapped } := by
  rw [← trapFocus_of_thread h]
  exact congrArg (fun u => Host.Outcome.next { trapFocus u .execPool (n.zeroExtend 64) s.th.pc with last := .trapped }) (missOf_of_thread h ..)

end

end Sys2Proof.Machine

namespace Sys2Proof.Settled
open Sys2Proof.Machine

/-- Settles O13: each of the three instructions takes its trap by `trapEntry`, which is the procedure. -/
theorem trapEntry : Obligations.TrapEntry := by
  unfold Obligations.TrapEntry
  refine ⟨fun t i => ?_, fun s c n hp hi hv => ?_⟩
  · rw [← tcauseOf_eq_word]
    exact ⟨fun hi hv => trapEntry_handler hi hv i, fun h => trapEntry_fatal h i⟩
  · have htrap := trapEntry_precise hi hv
    refine ⟨?_, ?_, ?_⟩
    · rw [exec_trap, htrap]
      rfl
    · rw [exec_bkpt, htrap]
      rfl
    · rw [exec_pool hp, htrap]
      rfl

end Sys2Proof.Settled

namespace Sys2Proof.Machine
open Sys2Proof
set_option Elab.async false

/-! ### Elements of a register (R46) -/

theorem upFrom_eq_range' (k n : Nat) : upFrom k n = List.range' k n := by
  induction n generalizing k with
  | zero => rfl
  | succ n ih => rw [upFrom, ih, List.range'_succ]

theorem upFrom_zero (n : Nat) : upFrom 0 n = List.range n := (upFrom_eq_range' 0 n).trans List.range_eq_range'.symm

theorem elemsFrom_eq_map (w x k n : Nat) : elemsFrom w n (x / 2 ^ (w * k)) = (List.range' k n).map (fun e => x / 2 ^ (w * e) % 2 ^ w) := by
  induction n generalizing k with
  | zero => rfl
  | succ n ih =>
    have hnext : x / 2 ^ (w * k) / 2 ^ w = x / 2 ^ (w * (k + 1)) := by rw [Nat.div_div_eq_div_mul, ← pow_add, Nat.mul_succ]
    rw [elemsFrom, hnext, ih, List.range'_succ, List.map_cons]

/-- The elements of a register, each read at its place. -/
theorem elemsOf_eq_map (w : Nat) (x : Lanes) : elemsOf w x = (List.range' 0 (2048 / w)).map (elemAt w x) := by
  have h := elemsFrom_eq_map w x.toNat 0 (2048 / w)
  rwa [Nat.mul_zero, pow_zero, Nat.div_one] at h

theorem joinElems_elem (w k n : Nat) (f : Nat → Nat) {e : Nat} (he : e < n) :
    joinElems w ((List.range' k n).map f) / 2 ^ (w * e) % 2 ^ w = f (k + e) % 2 ^ w := by
  induction n generalizing k e with
  | zero => omega
  | succ n ih =>
    rw [List.range'_succ, List.map_cons, joinElems]
    cases e with
    | zero => rw [Nat.mul_zero, pow_zero, Nat.div_one, Nat.add_mul_mod_self_left, Nat.mod_mod, Nat.add_zero]
    | succ e =>
      have hfirst : (f k % 2 ^ w + 2 ^ w * joinElems w ((List.range' (k + 1) n).map f)) / 2 ^ w =
          joinElems w ((List.range' (k + 1) n).map f) := by
        rw [Nat.add_mul_div_left _ _ (Nat.two_pow_pos w), Nat.div_eq_of_lt (Nat.mod_lt _ (Nat.two_pow_pos w)), Nat.zero_add]
      rw [Nat.mul_succ, Nat.add_comm (w * e), pow_add, ← Nat.div_div_eq_div_mul, hfirst, ih (k + 1) (by omega)]
      congr 2
      omega

/-- A field of a number that lies in the word reads the same in the word. -/
theorem ofNat_toNat_div_mod {x a b c : Nat} (h : a + b ≤ c) : (BitVec.ofNat c x).toNat / 2 ^ a % 2 ^ b = x / 2 ^ a % 2 ^ b := by
  obtain ⟨r, rfl⟩ := Nat.exists_eq_add_of_le h
  rw [BitVec.toNat_ofNat, pow_add, pow_add, Nat.mul_assoc, Nat.mod_mul_right_div_self, Nat.mod_mul_right_mod]

/-- Each element of the register that elements form. -/
theorem elemAt_lanesOf {w n : Nat} (f : Nat → Nat) {e : Nat} (hn : w * n ≤ 2048) (he : e < n) :
    elemAt w (lanesOf w ((List.range' 0 n).map f)) e = f e % 2 ^ w := by
  have hle : w * e + w ≤ 2048 := (Nat.mul_succ w e ▸ Nat.mul_le_mul_left w he).trans hn
  unfold elemAt lanesOf
  rw [ofNat_toNat_div_mod hle, joinElems_elem w 0 n f he, Nat.zero_add]

theorem elemAt_lt (w : Nat) (x : Lanes) (e : Nat) : elemAt w x e < 2 ^ w := Nat.mod_lt _ (Nat.two_pow_pos w)

/-! ### Elementwise results (R133) -/

section
variable {α : Type} (mask : Word) (w : Nat) (f : Nat → α → Nat × Flags) (D : Nat → Nat) (A : Nat → α)

/-- The flags that the active elements of a list raise together. -/
def flagsOf (val : Nat → Flags) (l : List Nat) : Flags :=
  l.foldr (fun e g => if activeElem mask w e then orFlags (val e) g else g) noFlags

theorem elementwise_range (k n : Nat) : elementwise mask w f k ((List.range' k n).map D) ((List.range' k n).map A) =
    ((List.range' k n).map (fun e => if activeElem mask w e then (f (D e) (A e)).1 else D e),
      flagsOf mask w (fun e => (f (D e) (A e)).2) (List.range' k n)) := by
  induction n generalizing k with
  | zero => rfl
  | succ n ih =>
    simp only [List.range'_succ, List.map_cons, elementwise, ih, flagsOf, List.foldr_cons]
    split <;> rfl

end

/-- The five flags (R56). -/
def flagFields : List (Flags → Bool) := [Flags.nv, Flags.dz, Flags.of', Flags.uf, Flags.nx]

theorem flagFields_or {g : Flags → Bool} (hg : g ∈ flagFields) (a b : Flags) : g (orFlags a b) = (g a || g b) ∧ g noFlags = false := by
  simp only [flagFields, List.mem_cons, List.not_mem_nil, or_false] at hg
  obtain rfl | rfl | rfl | rfl | rfl := hg <;> exact ⟨rfl, rfl⟩

theorem flagsOf_iff {g : Flags → Bool} (hg : g ∈ flagFields) (mask : Word) (w : Nat) (val : Nat → Flags) (l : List Nat) :
    g (flagsOf mask w val l) = true ↔ ∃ e ∈ l, mask.getLsbD (e * w / 32) = true ∧ g (val e) = true := by
  induction l with
  | nil => simp [flagsOf, flagFields_or hg noFlags noFlags]
  | cons e r ih =>
    have hfold : flagsOf mask w val (e :: r) =
        if activeElem mask w e then orFlags (val e) (flagsOf mask w val r) else flagsOf mask w val r := rfl
    rw [hfold, List.exists_mem_cons_iff, ← ih]
    cases h : activeElem mask w e with
    | true => simp [flagFields_or hg, show mask.getLsbD (e * w / 32) = true from h]
    | false => simp [show mask.getLsbD (e * w / 32) = false from h]

end Sys2Proof.Machine

namespace Sys2Proof.Machine
open Sys2Proof
set_option Elab.async false

section
variable {s : State} {i : Instr}

/-! ### Instructions of elementwise kind -/

/-- Element `e` of the register that a specifier names. -/
def elemOf (s : State) (v : BitVec 8) (e : Nat) : Nat := elemAt (widthAt s v) (rdV s.th (spec s.th v)) e

/-- The registers that such an instruction asks for. -/
def VForm.needs (s : State) (f : VForm) : List Reg :=
  .v (spec s.th f.d) :: f.srcs.map (fun v => Reg.v (spec s.th v)) ++ f.more ++ [.m (f.m.zeroExtend 4)]

/-- The formats that its rule is about, the destination's last. -/
def VForm.fmts (s : State) (f : VForm) : List Fmt := (f.srcs ++ [f.d]).map (fun v => (vop s.th v).fmt)

/-- A register and flags hold the results of a form (R133). -/
def VForm.Holds (s : State) (f : VForm) (x : Lanes) (fl : Flags) : Prop :=
  mixes (widthAt s f.d) (rdM s.th (f.m.zeroExtend 4)) (rdV s.th (spec s.th f.d)) x (fun e => (f.val e).1) ∧
    gathers (widthAt s f.d) (rdM s.th (f.m.zeroExtend 4)) fl (fun e => (f.val e).2)

/-- The instruction is a plan of the form: it asks for the form's registers and formats, and where they agree it has the form's results. -/
def VForm.IsPlanOf (s : State) (f : VForm) (i : Instr) : Prop :=
  ∃ needs res, exec i s = conclude .a (vecPlan s (vop s.th f.d) (f.d :: f.srcs) needs (fmtsOk f.rule (f.fmts s)) res) s ∧
    (∀ r ∈ needs, r ∈ f.needs s) ∧ (fmtsOk f.rule (f.fmts s) = true → f.Holds s (lanesOf (widthAt s f.d) res.1) res.2)

variable {f : VForm}

/-- What the plan asks for is what the form asks for. -/
theorem VForm.ready_plan {needs : List Reg} (hn : ∀ r ∈ needs, r ∈ f.needs s) (hr : Ready s (f.needs s)) :
    Ready s (Reg.v (vop s.th f.d).reg :: needs) := by
  intro r hm
  obtain rfl | hm := List.mem_cons.mp hm
  · exact hr _ (by simp [VForm.needs, vop])
  · exact hr r (hn r hm)

theorem VForm.IsPlanOf.completes (h : f.IsPlanOf s i) (hw : InWindow s (f.d :: f.srcs)) (hr : Ready s (f.needs s))
    (hf : fmtsOk f.rule (f.fmts s) = true) : ∃ x fl, writesVector s i f.d x fl ∧ f.Holds s x fl := by
  obtain ⟨needs, res, hrun, hn, hres⟩ := h
  refine ⟨_, _, hrun.trans ?_, hres hf⟩
  exact conclude_done hw (VForm.ready_plan hn hr) (by simp [vecPlan, formatBad, hf]) (fun _ h => absurd h List.not_mem_nil) rfl

theorem VForm.IsPlanOf.traps_format (h : f.IsPlanOf s i) (hw : InWindow s (f.d :: f.srcs)) (hr : Ready s (f.needs s))
    (hf : ¬ fmtsOk f.rule (f.fmts s) = true) : exec i s = trapsWith s .format 0 := by
  obtain ⟨needs, res, hrun, hn, -⟩ := h
  exact hrun.trans (conclude_trap hw (VForm.ready_plan hn hr) (by simp [vecPlan, formatBad, hf]))

/-- `TVAL` of a register outside the window as a sum: the slot, the window bit, the index (R33). -/
theorem windowVal_eq_word (x : BitVec 10) : windowVal .a x = word (2 * 2 ^ 62 + 2 ^ 61 + x.toNat) := by
  refine BitVec.eq_of_toNat_eq ?_
  have := x.isLt
  simp only [windowVal, Slot.code, word, BitVec.toNat_cast, toNat_append_eq_add, BitVec.ofNat_eq_ofNat, BitVec.toNat_ofNat]
  omega

theorem VForm.IsPlanOf.traps_window (h : f.IsPlanOf s i) (hw : ¬ InWindow s [f.d]) : exec i s =
    .next { trapFocus s .illegal (word (2 * 2 ^ 62 + 2 ^ 61 + (specIndex s.th f.d).toNat)) s.th.pc with last := .window } := by
  obtain ⟨needs, res, hrun, -, -⟩ := h
  have hout : outside s.th (f.d :: f.srcs) = some (specIndex s.th f.d) := by
    have hle : winSize s.th ≤ (specIndex s.th f.d).toNat := by simpa [InWindow] using hw
    simp [outside, hle]
  rw [hrun, ← windowVal_eq_word]
  simp only [conclude, vecPlan, hout]

/-! ### The forms of the machine -/

theorem vop_els (s : State) (v : BitVec 8) : (vop s.th v).els = (List.range' 0 (2048 / widthAt s v)).map (elemOf s v) := elemsOf_eq_map ..

/-- Formats that obey a rule are of one width. -/
theorem fmtsOk_width {rule : FmtRule} {l : List Fmt} {f g : Fmt} (h : fmtsOk rule l = true) (hf : f ∈ l) (hg : g ∈ l) :
    fmtWidth f = fmtWidth g := by
  simp only [fmtsOk, Bool.and_eq_true, List.all_eq_true, decide_eq_true_eq] at h
  obtain ⟨hw, -⟩ := h
  exact (hw f hf).trans (hw g hg).symm

theorem fmtsOk_class {c : FmtClass} {l : List Fmt} {f : Fmt} (h : fmtsOk (.ofClass c) l = true) (hf : f ∈ l) : fmtClass f = c := by
  simp only [fmtsOk, Bool.and_eq_true, List.all_eq_true, decide_eq_true_eq] at h
  obtain ⟨-, hc⟩ := h
  exact hc f hf

/-- The same result in `w` bits, and the same flags. -/
def SameResult (w : Nat) (x y : Nat × Flags) : Prop := x.1 % 2 ^ w = y.1 % 2 ^ w ∧ x.2 = y.2

theorem SameResult.refl (w : Nat) (x : Nat × Flags) : SameResult w x x := ⟨rfl, rfl⟩

/-- What `elementwise` makes of the destination and one operand for each of its elements. -/
theorem elementwise_holds {α : Type} (f : VForm) (F : Nat → α → Nat × Flags) (A : Nat → α)
    (h : ∀ e < 2048 / widthAt s f.d, SameResult (widthAt s f.d) (F (elemOf s f.d e) (A e)) (f.val e)) :
    let res := elementwise (rdM s.th (mreg f.m)) (widthAt s f.d) F 0 (vop s.th f.d).els ((List.range' 0 (2048 / widthAt s f.d)).map A)
    f.Holds s (lanesOf (widthAt s f.d) res.1) res.2 := by
  simp only [vop_els, elementwise_range]
  refine ⟨fun e he => ?_, fun g hg => ?_⟩
  · obtain ⟨hx, -⟩ := h e he
    rw [elemAt_lanesOf _ (Nat.mul_div_le ..) he]
    cases hm : activeElem (rdM s.th (mreg f.m)) (widthAt s f.d) e with
    | true => exact hx.trans (if_pos hm).symm
    | false =>
      refine (Nat.mod_eq_of_lt (elemAt_lt ..)).trans (if_neg ?_).symm
      exact fun h => absurd (hm.symm.trans h) Bool.false_ne_true
  · rw [flagsOf_iff hg]
    simp only [List.mem_range'_1, Nat.zero_le, true_and, Nat.zero_add]
    refine exists_congr fun e => and_congr_right fun he => ?_
    obtain ⟨-, hfl⟩ := h e he
    rw [hfl]
    rfl

theorem vecThree_isPlanOf {rule : FmtRule} {F : VOp → VOp → VOp → Nat → Nat → Nat → Nat × Flags} {d a b : BitVec 8} {m : BitVec 2}
    {val : Nat → Nat × Flags} (hrun : exec i s = vecThree rule F d a b m s)
    (hval : fmtsOk rule [(vop s.th a).fmt, (vop s.th b).fmt, (vop s.th d).fmt] = true → ∀ e < 2048 / widthAt s d,
      SameResult (widthAt s d) (F (vop s.th d) (vop s.th a) (vop s.th b) (elemOf s d e) (elemOf s a e) (elemOf s b e)) (val e)) :
    VForm.IsPlanOf s ⟨d, [a, b], [], m, rule, val⟩ i := by
  refine ⟨_, _, hrun, by simp [VForm.needs, vop, mreg], fun hf => ?_⟩
  have hwa : widthAt s a = widthAt s d := fmtsOk_width hf (by simp [VForm.fmts]) (by simp [VForm.fmts])
  have hwb : widthAt s b = widthAt s d := fmtsOk_width hf (by simp [VForm.fmts]) (by simp [VForm.fmts])
  have hels : (vop s.th a).els.zip (vop s.th b).els =
      (List.range' 0 (2048 / widthAt s d)).map (fun e => (elemOf s a e, elemOf s b e)) := by
    rw [vop_els, vop_els, hwa, hwb, List.zip_map']
  rw [hels]
  exact elementwise_holds ⟨d, [a, b], [], m, rule, val⟩ _ _ (hval hf)

theorem vecTwo_isPlanOf {rule : FmtRule} {F : VOp → VOp → Nat → Nat → Nat × Flags} {more : List Reg} {d a : BitVec 8} {m : BitVec 2}
    {val : Nat → Nat × Flags} (hrun : exec i s = vecTwo rule F more d a m s)
    (hval : fmtsOk rule [(vop s.th a).fmt, (vop s.th d).fmt] = true → ∀ e < 2048 / widthAt s d,
      SameResult (widthAt s d) (F (vop s.th d) (vop s.th a) (elemOf s d e) (elemOf s a e)) (val e)) :
    VForm.IsPlanOf s ⟨d, [a], more, m, rule, val⟩ i := by
  have hneeds : ∀ r ∈ more ++ [.v (vop s.th a).reg, .m (mreg m)], r ∈ VForm.needs s ⟨d, [a], more, m, rule, val⟩ := by
    intro r hr
    simp only [List.mem_append, List.mem_cons, List.not_mem_nil, or_false] at hr
    obtain hr | rfl | rfl := hr <;> simp [VForm.needs, vop, mreg, *]
  refine ⟨_, _, hrun, hneeds, fun hf => ?_⟩
  have hwa : widthAt s a = widthAt s d := fmtsOk_width hf (by simp [VForm.fmts]) (by simp [VForm.fmts])
  rw [vop_els s a, hwa]
  exact elementwise_holds ⟨d, [a], more, m, rule, val⟩ _ _ (hval hf)

theorem vecFill_isPlanOf {F : VOp → Nat → Nat × Flags} {more : List Reg} {d : BitVec 8} {m : BitVec 2} {val : Nat → Nat × Flags}
    (hrun : exec i s = vecFill F more d m s)
    (hval : ∀ e < 2048 / widthAt s d, SameResult (widthAt s d) (F (vop s.th d) e) (val e)) :
    VForm.IsPlanOf s ⟨d, [], more, m, .either, val⟩ i := by
  have hneeds : ∀ r ∈ more ++ [.m (mreg m)], r ∈ VForm.needs s ⟨d, [], more, m, .either, val⟩ := fun r hr =>
    List.mem_cons_of_mem _ hr
  refine ⟨_, _, hrun, hneeds, fun hf => ?_⟩
  have hidx : upFrom 0 (vop s.th d).els.length = (List.range' 0 (2048 / widthAt s d)).map id := by
    rw [vop_els, List.length_map, List.length_range', upFrom_eq_range', List.map_id]
  rw [hidx]
  exact elementwise_holds ⟨d, [], more, m, .either, val⟩ _ _ hval

end
end Sys2Proof.Machine

namespace Sys2Proof.Machine
open Sys2Proof
set_option Elab.async false

/-! ### What the model's functions of encodings are (R138, R140) -/

/-- An element of an integer format uses its whole container (R46). -/
theorem fmtUsed_int {f : Fmt} (h : fmtClass f = .int) : fmtUsed f = fmtWidth f := by
  unfold fmtUsed
  split
  · cases h
  · cases h
  · rfl

section
variable {s : State}

theorem codeAt_int {v : BitVec 8} (h : fmtClass (vop s.th v).fmt = .int) (e : Nat) : codeAt s v e = elemOf s v e := by
  have hlt : elemAt (widthAt s v) (rdV s.th (spec s.th v)) e < 2 ^ fmtWidth (vop s.th v).fmt := elemAt_lt ..
  unfold codeAt
  rw [fmtUsed_int h, Nat.mod_eq_of_lt hlt]
  rfl

end

/-- The floor of a negative number of `w` bits by `2 ^ n`; a shift of `w` places or more leaves the sign (R138). -/
theorem signed_div {w x n : Nat} (hx : x < 2 ^ w) :
    ((x : Int) - 2 ^ w) / 2 ^ n = (x / 2 ^ min n w : Nat) - (2 ^ (w - min n w) : Nat) := by
  rcases Nat.le_total n w with h | h
  · rw [Nat.min_eq_left h]
    have hpow : (2 : Int) ^ w = 2 ^ (w - n) * 2 ^ n := by rw [← pow_add, Nat.sub_add_cancel h]
    rw [hpow, sub_eq_add_neg, ← neg_mul, Int.add_mul_ediv_right _ _ (by positivity)]
    push_cast
    ring
  · rw [Nat.min_eq_right h, Nat.div_eq_of_lt hx, Nat.sub_self]
    have hle : (2 : Int) ^ w ≤ 2 ^ n := pow_le_pow_right₀ (by norm_num) h
    have hx' : (x : Int) < 2 ^ w := by exact_mod_cast hx
    rw [Int.ediv_eq_iff_of_pos (by positivity)]
    norm_num
    omega

theorem sub_emod_of_lt {a b d : Nat} (h : d < b) (hle : b ≤ a) : ((d : Int) - b) % a = (d + (a - b) : Nat) := by
  rw [← Int.add_emod_right, Int.emod_eq_of_lt] <;> omega

/-- The model's shift right with a fill bit, from an encoding of `w` bits, is that of R138. -/
theorem shArith_eq {f : Fmt} {w x n : Nat} (hx : x < 2 ^ w) : shArith f w x n = shiftSigned' (f ≠ .uint8) w x n := by
  have hk : min n w ≤ w := Nat.min_le_right ..
  have hlt : x / 2 ^ min n w < 2 ^ (w - min n w) := by
    rw [Nat.div_lt_iff_lt_mul (Nat.two_pow_pos _), ← pow_add, Nat.sub_add_cancel hk]
    exact hx
  have hle : 2 ^ (w - min n w) ≤ 2 ^ w := Nat.pow_le_pow_right (by norm_num) (Nat.sub_le ..)
  unfold shArith shiftSigned'
  cases hf : (decide (f ≠ .uint8) && decide (2 ^ (w - 1) ≤ x)) with
  | true =>
    have hmod : ((x / 2 ^ min n w : Nat) - (2 ^ (w - min n w) : Nat) : Int) % 2 ^ w =
        (x / 2 ^ min n w + (2 ^ w - 2 ^ (w - min n w)) : Nat) := by
      exact_mod_cast sub_emod_of_lt hlt hle
    simp only [if_true, signed_div hx, hmod, Int.toNat_natCast]
  | false =>
    have hdiv : x / 2 ^ min n w = x / 2 ^ n := by
      rcases Nat.le_total n w with h | h
      · rw [Nat.min_eq_left h]
      · rw [Nat.min_eq_right h, Nat.div_eq_of_lt hx, Nat.div_eq_of_lt (hx.trans_le (Nat.pow_le_pow_right (by norm_num) h))]
    simp [hdiv]

theorem popBits_eq (w x : Nat) : popBits w x = (List.range w).countP (fun i => x / 2 ^ i % 2 = 1) := by
  rw [popBits, upFrom_zero, List.countP_eq_length_filter]

section
variable {s : State} {i : Instr}

theorem readElem_elemOf (v : BitVec 8) (e : Nat) : readElem (vop s.th v) (elemOf s v e) = valueAt s v e := rfl

theorem readCode_elemOf (v : BitVec 8) (e : Nat) : readCode (vop s.th v) (elemOf s v e) = codeAt s v e := rfl

theorem intoFmt_vop (d : BitVec 8) (x : Exact × Bool) : intoFmt (vop s.th d).fmt x = rounded s d x := rfl

theorem scalarHalf_eq (t : Thread) (b : BitVec 6) (hi : Bool) : scalarHalf t b hi = (rdS t b).toNat / 2 ^ (if hi then 32 else 0) % 2 ^ 32 := by
  rw [← Nat.shiftRight_eq_div_pow]
  exact BitVec.extractLsb'_toNat ..

theorem readElem_scalar (d : BitVec 8) (b : BitVec 6) (hi : Bool) :
    readElem (vop s.th d) (scalarHalf s.th b hi % 2 ^ (vop s.th d).width) = scalarElem s d b hi := by
  unfold scalarElem
  rw [← scalarHalf_eq]
  rfl

theorem vecArith_isPlanOf {g : Arith} {d a b : BitVec 8} {m : BitVec 2} (hrun : exec i s = vecArith g d a b m s) :
    VForm.IsPlanOf s ⟨d, [a, b], [], m, .either, fun e => rounded s d (g (valueAt s d e) (valueAt s a e) (valueAt s b e))⟩ i := by
  refine vecThree_isPlanOf hrun (fun _ _ _ => ?_)
  simp only [readElem_elemOf, intoFmt_vop]
  exact .refl ..

theorem vecScalar_isPlanOf {g : Arith} {d a : BitVec 8} {b : BitVec 6} {hi : Bool} {m : BitVec 2} (hrun : exec i s = vecScalar g d a b hi m s) :
    VForm.IsPlanOf s ⟨d, [a], [.s b], m, .either, fun e => rounded s d (g (valueAt s d e) (valueAt s a e) (scalarElem s d b hi))⟩ i := by
  refine vecTwo_isPlanOf (F := fun vd va x y =>
    intoFmt vd.fmt (g (readElem vd x) (readElem va y) (readElem vd (scalarHalf s.th b hi % 2 ^ vd.width)))) hrun (fun _ _ _ => ?_)
  simp only [readElem_elemOf, readElem_scalar, intoFmt_vop]
  exact .refl ..

theorem vecBits_isPlanOf {g : Nat → Nat → Nat} {d a b : BitVec 8} {m : BitVec 2} (hrun : exec i s = vecBits g d a b m s) :
    VForm.IsPlanOf s ⟨d, [a, b], [], m, .widths, fun e => (g (codeAt s a e) (codeAt s b e) % 2 ^ fmtUsed (vop s.th d).fmt, noFlags)⟩ i := by
  refine vecThree_isPlanOf hrun (fun _ _ _ => ?_)
  simp only [readCode_elemOf]
  exact .refl ..

/-- A shift whose amounts stand in a register, where the model's shift is `g` on encodings of the destination's width (R138). -/
theorem vecShift_isPlanOf {sh : Shift} {g : Nat → Nat → Nat} {d a b : BitVec 8} {m : BitVec 2} (hrun : exec i s = vecShift sh d a b m s)
    (hg : ∀ x < 2 ^ widthAt s d, ∀ n, sh (vop s.th d).fmt (widthAt s d) x n = g x n) :
    VForm.IsPlanOf s ⟨d, [a, b], [], m, .ofClass .int, fun e => (g (codeAt s a e) (codeAt s b e), noFlags)⟩ i := by
  refine vecThree_isPlanOf hrun (fun hf e _ => ?_)
  have hwa : widthAt s a = widthAt s d := fmtsOk_width hf (by simp) (by simp)
  have hlt : elemOf s a e < 2 ^ widthAt s d := hwa ▸ elemAt_lt ..
  rw [codeAt_int (fmtsOk_class hf (by simp)), codeAt_int (fmtsOk_class hf (by simp)), ← hg _ hlt]
  exact .refl ..

/-- The same with the amount of the immediate. -/
theorem vecShiftImm_isPlanOf {sh : Shift} {g : Nat → Nat → Nat} {d a n : BitVec 8} {m : BitVec 2} (hrun : exec i s = vecShiftImm sh d a n m s)
    (hg : ∀ x < 2 ^ widthAt s d, ∀ n, sh (vop s.th d).fmt (widthAt s d) x n = g x n) :
    VForm.IsPlanOf s ⟨d, [a], [], m, .ofClass .int, fun e => (g (codeAt s a e) n.toNat, noFlags)⟩ i := by
  refine vecTwo_isPlanOf hrun (fun hf e _ => ?_)
  have hwa : widthAt s a = widthAt s d := fmtsOk_width hf (by simp) (by simp)
  have hlt : elemOf s a e < 2 ^ widthAt s d := hwa ▸ elemAt_lt ..
  rw [codeAt_int (fmtsOk_class hf (by simp)), ← hg _ hlt]
  exact .refl ..

/-- A function of an encoding; its result is cut to the bits that an element of the destination uses (R46, R140). -/
theorem vecCode_isPlanOf {rule : FmtRule} {g : Nat → Nat → Nat} {d a : BitVec 8} {m : BitVec 2} (hrun : exec i s = vecCode rule g d a m s) :
    VForm.IsPlanOf s ⟨d, [a], [], m, rule,
      fun e => (g (widthAt s d) (codeAt s a e) % 2 ^ fmtUsed (vop s.th d).fmt, noFlags)⟩ i := by
  refine vecTwo_isPlanOf hrun (fun _ _ _ => ?_)
  simp only [readCode_elemOf]
  exact .refl ..

/-- The same of an integer format, which uses its whole container. -/
theorem vecCodeInt_isPlanOf {g : Nat → Nat → Nat} {d a : BitVec 8} {m : BitVec 2} (hrun : exec i s = vecCode (.ofClass .int) g d a m s) :
    VForm.IsPlanOf s ⟨d, [a], [], m, .ofClass .int, fun e => (g (widthAt s d) (codeAt s a e), noFlags)⟩ i := by
  refine vecTwo_isPlanOf hrun (fun hf _ _ => ⟨?_, rfl⟩)
  simp only [readCode_elemOf, writeCode, fmtUsed_int (fmtsOk_class hf (by simp : (vop s.th d).fmt ∈ _))]
  exact Nat.mod_mod ..

theorem vecUnary_isPlanOf {rule : FmtRule} {g : Exact → Exact × Flags} {d a : BitVec 8} {m : BitVec 2}
    (hrun : exec i s = vecUnary rule g d a m s) :
    VForm.IsPlanOf s ⟨d, [a], [], m, rule, fun e => ((rounded s d ((g (valueAt s a e)).1, false)).1,
      orFlags (g (valueAt s a e)).2 (rounded s d ((g (valueAt s a e)).1, false)).2)⟩ i := by
  refine vecTwo_isPlanOf hrun (fun _ _ _ => ?_)
  simp only [readElem_elemOf, intoFmt_vop]
  exact .refl ..

theorem vform_isPlanOf {f : VForm} (h : vform s i = some f) : f.IsPlanOf s i := by
  cases i <;> cases h
  case vadd => exact vecArith_isPlanOf (g := arAdd) rfl
  case vsub => exact vecArith_isPlanOf (g := arSub) rfl
  case vmul => exact vecArith_isPlanOf (g := arMul) rfl
  case vfma => exact vecArith_isPlanOf (g := arFma) rfl
  case vfms => exact vecArith_isPlanOf (g := arFms) rfl
  case vmin => exact vecArith_isPlanOf (g := arMin) rfl
  case vmax => exact vecArith_isPlanOf (g := arMax) rfl
  case vadds => exact vecScalar_isPlanOf (g := arAdd) rfl
  case vsubs => exact vecScalar_isPlanOf (g := arSub) rfl
  case vmuls => exact vecScalar_isPlanOf (g := arMul) rfl
  case vfmas => exact vecScalar_isPlanOf (g := arFma) rfl
  case vand => exact vecBits_isPlanOf (g := (· &&& ·)) rfl
  case vor => exact vecBits_isPlanOf (g := (· ||| ·)) rfl
  case vxor => exact vecBits_isPlanOf (g := (· ^^^ ·)) rfl
  case vshl d _ _ _ => exact vecShift_isPlanOf (g := shiftLeft' (widthAt s d)) rfl (fun _ _ _ => rfl)
  case vshr d _ _ _ => exact vecShift_isPlanOf (g := shiftRight' (widthAt s d)) rfl (fun _ _ _ => rfl)
  case vsra d _ _ _ => exact vecShift_isPlanOf (g := shiftSigned' ((vop s.th d).fmt ≠ .uint8) (widthAt s d)) rfl (fun _ hx _ => shArith_eq hx)
  case vshli d _ _ _ => exact vecShiftImm_isPlanOf (g := shiftLeft' (widthAt s d)) rfl (fun _ _ _ => rfl)
  case vshri d _ _ _ => exact vecShiftImm_isPlanOf (g := shiftRight' (widthAt s d)) rfl (fun _ _ _ => rfl)
  case vsrai d _ _ _ => exact vecShiftImm_isPlanOf (g := shiftSigned' ((vop s.th d).fmt ≠ .uint8) (widthAt s d)) rfl (fun _ hx _ => shArith_eq hx)
  case vnot => exact vecCode_isPlanOf (g := fun w x => 2 ^ w - 1 - x) rfl
  case vclz => exact vecCodeInt_isPlanOf (g := clzBits) rfl
  case vpopc =>
    simp only [← popBits_eq]
    exact vecCodeInt_isPlanOf (g := popBits) rfl
  case vaddi _ _ n _ =>
    refine vecTwo_isPlanOf (F := fun vd va _ y => intoFmt vd.fmt (numAdd (readElem va y) (numOf n.toInt 0))) rfl (fun _ _ _ => ?_)
    simp only [readElem_elemOf, intoFmt_vop]
    exact .refl ..
  case vbcast _ b hi _ =>
    simp only [← scalarHalf_eq]
    exact vecFill_isPlanOf (F := fun vd _ => (writeCode vd.fmt (scalarHalf s.th b hi), noFlags)) rfl (fun _ _ => .refl ..)
  case viota _ n _ =>
    exact vecFill_isPlanOf (F := fun vd k => intoFmt vd.fmt (numOf (n.toNat + k : Nat) 0, false)) rfl (fun _ _ => .refl ..)

theorem unaryForm_isPlanOf {d a : BitVec 8} {m : BitVec 2} {rule : FmtRule} {g : Exact → Exact × Flags}
    (h : unaryForm i = some (d, a, m, rule, g)) :
    VForm.IsPlanOf s ⟨d, [a], [], m, rule, fun e => ((rounded s d ((g (valueAt s a e)).1, false)).1,
      orFlags (g (valueAt s a e)).2 (rounded s d ((g (valueAt s a e)).1, false)).2)⟩ i := by
  cases i <;> cases h <;> exact vecUnary_isPlanOf rfl

end
end Sys2Proof.Machine

open Sys2Proof Sys2Proof.Machine in
/-- Settles O27: each instruction is a plan of its form, and such a plan completes or traps by the form alone. -/
theorem vectorResults : Obligations.VectorResults := by
  unfold Obligations.VectorResults
  refine ⟨fun s i f h hw hr hf => (vform_isPlanOf h).completes hw hr hf,
    fun s i d a m rule g h hw hr hf => (unaryForm_isPlanOf h).completes hw hr hf,
    fun s i f h => ⟨fun hw hf hr => (vform_isPlanOf h).traps_format hw hr hf, (vform_isPlanOf h).traps_window⟩⟩

namespace Sys2Proof.Machine
open Sys2Proof
set_option Elab.async false

/-! ### Commands by name -/

/-- Is it the command of a thread and sequence number? -/
def isCmd (h : Handle) (q : BitVec 16) (c : Command) : Bool := c.handle = h && c.seq = q && c.accz.isNone

section
variable {s : State} {h : Handle} {q : BitVec 16} {c : Command}

theorem findCmd_eq_find (s : State) (h : Handle) (q : BitVec 16) : findCmd s h q = s.cmds.find? (isCmd h q) := rfl

theorem findCmd_key (hc : findCmd s h q = some c) : c.handle = h ∧ c.seq = q := by
  have hp : isCmd h q c = true := List.find?_some hc
  simp only [isCmd, Bool.and_eq_true, decide_eq_true_eq] at hp
  exact hp.1

/-- A change of a command that keeps its name is what one finds afterwards. -/
theorem findCmd_modCmd {f : Command → Command} (hf : ∀ c, isCmd h q (f c) = isCmd h q c) :
    findCmd (modCmd s h q f) h q = (findCmd s h q).map f := by
  have hcmds : (modCmd s h q f).cmds = s.cmds.map (fun c => if isCmd h q c then f c else c) := rfl
  have hpred : (isCmd h q ∘ fun c => if isCmd h q c then f c else c) = isCmd h q := by
    funext c
    simp only [Function.comp]
    split
    · exact hf c
    · rfl
  rw [findCmd_eq_find, findCmd_eq_find, hcmds, List.find?_map, hpred]
  cases hc : s.cmds.find? (isCmd h q) with
  | none => rfl
  | some c => exact congrArg some (if_pos (List.find?_some hc))

end

/-! ### Scalar registers across a write (R29) -/

theorem rdS_wrS_same {t : Thread} {r : BitVec 6} (hr : r ≠ 0) (v : Word) : rdS (wrS t r v) r = v := by
  rw [rdS, wrS, if_neg hr, if_neg hr]
  exact Vector.getElem_set_self ..

theorem rdS_wrS_other {t : Thread} {r k : BitVec 6} (hk : k ≠ r) (v : Word) : rdS (wrS t r v) k = rdS t k := by
  unfold rdS wrS
  split
  · rfl
  · split
    · rfl
    · exact Vector.getElem_set_ne r.isLt k.isLt (fun h => hk (BitVec.eq_of_toNat_eq h.symm))

/-! ### Memory-core programs (R225 to R227) -/

section
variable {s : State} {h : Handle} {q : BitVec 16} {c : Command}

theorem exec_mcrun_queued (hc : findCmd s h q = some c) (hfin : c.fin = none) (hq : c.state = .queued) (hb : queuedBefore s c = false)
    (hfree : cmdFree s c = true) (hbad : mcrunBad s c = none) : exec (.mcrun h q) s =
      if 4 ≤ progsOn s (mcrunCore c) then .next (pend s (.mcrun h q))
      else .next (addThread (modCmd s h q (fun c => { c with state := .running })) (newProg c (mcrunCore c))) := by
  have hrun : exec (.mcrun h q) s = execMcrun h q s := rfl
  rw [hrun]
  simp only [execMcrun, hc, hfin, hq, hb, hfree, hbad]
  rfl

/-- The low byte of a word, extended again. -/
theorem zext64_low_byte (x : Word) : zext64 (bits x 0 8) = x &&& 0xFF := by
  refine BitVec.eq_of_toNat_eq ?_
  have hmask : (0xFF : Word).toNat = 2 ^ 8 - 1 := rfl
  rw [BitVec.toNat_and, hmask, Nat.and_two_pow_sub_one_eq_mod]
  simp [zext64, bits]
  omega

/-- A program starts with its parameter, its memory core and zeros, every register present (R225). -/
theorem newProg_regs (c : Command) (m : Nat) (r : BitVec 6) :
    rdS (newProg c m) r = (if r = 1 then nthWord c.words 4 else if r = 2 then (nthWord c.words 1) &&& 0xFF else 0) ∧
      count (newProg c m) (.s r) = 0 := by
  refine ⟨?_, ?_⟩
  · rw [← zext64_low_byte]
    unfold newProg
    split
    next h1 => rw [h1, rdS_wrS_other (by decide), rdS_wrS_same (by decide)]
    next h1 =>
      split
      next h2 => rw [h2, rdS_wrS_same (by decide)]
      next h2 =>
        rw [rdS_wrS_other h2, rdS_wrS_other h1]
        simp [rdS, Thread.none]
  · simp [newProg, count, Thread.none]

theorem newProg_isProg (hc : findCmd s h q = some c) (m : Nat) : isProg h q (newProg c m) = true := by
  obtain ⟨hh, hq⟩ := findCmd_key hc
  simp [isProg, newProg, hh, hq]

theorem mcrun_starts (hc : findCmd s h q = some c) (hfin : c.fin = none) (hq : c.state = .queued) (hb : queuedBefore s c = false)
    (hfree : cmdFree s c = true) (hbad : mcrunBad s c = none) (hp : progsOn s (mcrunCore c) < 4) :
    ∃ t u, exec (.mcrun h q) s = .next t ∧ t.th = s.th ∧ t.mem = s.mem ∧ u ∈ t.rest ∧
      findCmd t h q = some { c with state := .running } ∧ isProg h q u = true ∧ u.status = .ready ∧ u.pc = nthWord c.words 2 ∧
      u.world = c.world ∧ u.asid = c.asid ∧
      ∀ r : BitVec 6, rdS u r = (if r = 1 then nthWord c.words 4 else if r = 2 then (nthWord c.words 1) &&& 0xFF else 0) ∧ count u (.s r) = 0 := by
  refine ⟨_, newProg c (mcrunCore c), (exec_mcrun_queued hc hfin hq hb hfree hbad).trans (if_neg (Nat.not_le.mpr hp)), rfl, rfl, ?_, ?_,
    newProg_isProg hc _, ?_, ?_, ?_, ?_, newProg_regs c _⟩
  · exact List.mem_append_right _ (List.mem_singleton.mpr rfl)
  · have hrunning := findCmd_modCmd (s := s) (h := h) (q := q) (f := fun c => { c with state := .running }) (fun _ => rfl)
    rw [hc] at hrunning
    exact hrunning
  all_goals simp [newProg]

end
end Sys2Proof.Machine

namespace Sys2Proof.Machine
open Sys2Proof
set_option Elab.async false

section
variable {s : State} {h : Handle} {q : BitVec 16} {st : BitVec 8} {res : BitVec 32}

/-! ### The end of a command (R172) -/

/-- The state in which a command has its status and result, and its completion landing is due. -/
def landingDueOf (s : State) (h : Handle) (q : BitVec 16) (st : BitVec 8) (res : BitVec 32) : State :=
  pend (modCmd s h q (fun c => { c with state := .running, fault := none, reads := none, fin := some (st, res) })) (.completionLanding h q)

theorem nextHead_cases (s : State) (core : BitVec 11) : nextHead s core = s ∨ ∃ e, nextHead s core = pend s e := by
  unfold nextHead
  split
  · exact .inl rfl
  · split
    · exact .inl rfl
    · exact .inr ⟨_, rfl⟩

theorem endOne_cases (s : State) (h : Handle) (q : BitVec 16) (st : BitVec 8) (res : BitVec 32) :
    endOne s h q st res = landingDueOf s h q st res ∨ ∃ e, endOne s h q st res = pend (landingDueOf s h q st res) e := by
  unfold endOne
  dsimp only
  split
  · exact nextHead_cases ..
  · exact .inl rfl

theorem landingDueOf_hasEnded (s : State) (h : Handle) (q : BitVec 16) (st : BitVec 8) (res : BitVec 32) :
    hasEnded (landingDueOf s h q st res) h q st res := by
  refine ⟨List.mem_append_right _ (List.mem_singleton.mpr rfl), fun c hc => ?_⟩
  have hfind := findCmd_modCmd (s := s) (h := h) (q := q)
    (f := fun c => { c with state := .running, fault := none, reads := none, fin := some (st, res) }) (fun _ => rfl)
  obtain ⟨d, -, rfl⟩ := Option.map_eq_some_iff.mp (hfind.symm.trans hc)
  rfl

theorem hasEnded_pend {t : State} (ht : hasEnded t h q st res) (e : Event) : hasEnded (pend t e) h q st res := by
  obtain ⟨hp, hc⟩ := ht
  exact ⟨List.mem_append_left _ hp, hc⟩

/-- A command that is no network command ends: it has its status and result, and of the threads and memory nothing is another. -/
theorem endCmd_ends (hnet : ∀ c, findCmd s h q = some c → c.net = none) (st : BitVec 8) (res : BitVec 32) :
    hasEnded (endCmd s h q st res) h q st res ∧ (endCmd s h q st res).th = s.th ∧ (endCmd s h q st res).mem = s.mem := by
  have hplain : endCmd s h q st res = endOne s h q st res := by
    have hbind : (findCmd s h q).bind (fun c => c.net) = none := Option.bind_eq_none_iff.mpr hnet
    simp only [endCmd, hbind]
  rw [hplain]
  obtain he | ⟨e, he⟩ := endOne_cases s h q st res
  · rw [he]
    exact ⟨landingDueOf_hasEnded .., rfl, rfl⟩
  · rw [he]
    exact ⟨hasEnded_pend (landingDueOf_hasEnded ..) e, rfl, rfl⟩

/-! ### The end of a program (R227) -/

variable {p : McProgram} {away : Bool}

theorem isProg_exiting {t : Thread} (hp : t.prog = some p) (hst : t.status = .exiting away) : isProg t.handle p.seq t = true := by
  simp [isProg, hp, hst]

theorem exec_mcrunEnd (hp : s.th.prog = some p) (hst : s.th.status = .exiting away) : exec (.mcrunEnd s.th.handle p.seq) s =
    if unanswered s (senderOf s s.th) then .next (pend s (.mcrunEnd s.th.handle p.seq))
    else .next (endCmd (setTh s { s.th with status := .ended }) s.th.handle p.seq (mcrunResult s.th p).1 (mcrunResult s.th p).2) := by
  have hrun : exec (.mcrunEnd s.th.handle p.seq) s = execMcrunEnd s.th.handle p.seq s := rfl
  have hfind : (allThreads s).find? (isProg s.th.handle p.seq) = some s.th := List.find?_cons_of_pos (isProg_exiting hp hst)
  have hmod : modProg s s.th.handle p.seq (fun t => { t with status := .ended }) = setTh s { s.th with status := .ended } :=
    if_pos (isProg_exiting hp hst)
  simp only [hrun, execMcrunEnd, hfind, hp, hst, hmod]

theorem mcrunResult_normal {t : Thread} (h : p.ended = none) : mcrunResult t p = (0, (rdS t 3).truncate 32) := by
  simp only [mcrunResult, h]
  rfl

/-- The result of a program that a trap ended: the number of its bundle in 24 bits above the cause. -/
theorem mcrunResult_trapped {t : Thread} {cause : BitVec 8} {pc : Word} (h : p.ended = some (cause, pc)) :
    mcrunResult t p = (3, BitVec.ofNat 32 ((pc - p.pc0).toNat / 8 % 2 ^ 24 * 256 + cause.toNat)) := by
  simp only [mcrunResult, h]
  refine congrArg (Prod.mk _) (BitVec.eq_of_toNat_eq ?_)
  have hlt := cause.isLt
  have hfield : (bits (pc - p.pc0) 3 24).toNat = (pc - p.pc0).toNat / 8 % 2 ^ 24 := by
    rw [BitVec.extractLsb'_toNat, Nat.shiftRight_eq_div_pow]
  rw [BitVec.toNat_cast, toNat_append_eq_add, hfield, BitVec.toNat_ofNat]
  omega

end
end Sys2Proof.Machine

namespace Sys2Proof.Machine
open Sys2Proof
set_option Elab.async false

section
variable {s t u : State}

/-! ### What leaves the threads and memory alone, and withdraws no action -/

/-- Threads and memory are as they were, and what waited to act waits still. -/
structure OnlyAsks (s t : State) : Prop where
  th : t.th = s.th
  rest : t.rest = s.rest
  mem : t.mem = s.mem
  pending : ∀ e ∈ s.pending, e ∈ t.pending

theorem OnlyAsks.refl : OnlyAsks s s := ⟨rfl, rfl, rfl, fun _ h => h⟩

theorem OnlyAsks.trans (h : OnlyAsks s t) (k : OnlyAsks t u) : OnlyAsks s u :=
  ⟨k.th.trans h.th, k.rest.trans h.rest, k.mem.trans h.mem, fun e he => k.pending e (h.pending e he)⟩

theorem pend_onlyAsks (s : State) (e : Event) : OnlyAsks s (pend s e) := ⟨rfl, rfl, rfl, fun _ h => List.mem_append_left _ h⟩

theorem askWalk_onlyAsks (s : State) (c : BitVec 7) (asid : BitVec 12) (va : Nat) : OnlyAsks s (askWalk s c asid va) := by
  unfold askWalk
  split
  · exact .refl
  · exact pend_onlyAsks ..

theorem useTlb_onlyAsks (s : State) (c : BitVec 11) (engine : Bool) (asid : BitVec 12) (va : Nat) :
    OnlyAsks s (useTlb s c engine asid va) := by
  unfold useTlb
  dsimp only
  split
  · exact ⟨rfl, rfl, rfl, fun _ h => h⟩
  · split
    · split <;> exact ⟨rfl, rfl, rfl, fun _ h => h⟩
    · exact askWalk_onlyAsks ..

theorem foldl_onlyAsks {α : Type} {f : State → α → State} (hf : ∀ s x, OnlyAsks s (f s x)) (l : List α) (s : State) :
    OnlyAsks s (l.foldl f s) := by
  induction l generalizing s with
  | nil => exact .refl
  | cons x r ih => exact (hf s x).trans (ih (f s x))

theorem useTlbs_onlyAsks (s : State) (t : Thread) (cs : List Chunk) : OnlyAsks s (useTlbs s t cs) :=
  foldl_onlyAsks (fun _ _ => useTlb_onlyAsks ..) _ s

theorem newOrigin_onlyAsks (s : State) (t : Thread) : OnlyAsks s (newOrigin s t).1 := by
  unfold newOrigin
  split <;> exact ⟨rfl, rfl, rfl, fun _ h => h⟩

theorem newOrigin_by (s : State) (t : Thread) : (newOrigin s t).2.by' = t.handle := by
  unfold newOrigin
  split <;> rfl

/-! ### The rows of a stream instruction (R228) -/

variable {s0 : State} {th : Thread} {src dst : Nat → List Chunk} {la : Nat → Word} {n : Nat}

/-- The read of row `i` waits under the number `x`, with the places of its bytes and of its landing. -/
def RowWaits (s0 : State) (th : Thread) (src dst : Nat → List Chunk) (la : Nat → Word) (n : Nat) (t : State) (i x : Nat) : Prop :=
  ∃ r, .readRequest r ∈ t.pending ∧ r.o.by' = th.handle ∧ r.o.n = x ∧ r.got.length = n ∧ r.pieces = piecesOf s0 th (src i) ∧
    r.reply = .row (la i) (piecesOf s0 th (dst i))

theorem RowWaits.of_pending {i x : Nat} (h : RowWaits s0 th src dst la n t i x) (hu : ∀ e ∈ t.pending, e ∈ u.pending) :
    RowWaits s0 th src dst la n u i x := by
  obtain ⟨r, hr, hrest⟩ := h
  exact ⟨r, hu _ hr, hrest⟩

theorem sendRows_waits (l : List Nat) (s : State) : OnlyAsks s (sendRows s0 th src la dst n l s).1 ∧
    List.Forall₂ (RowWaits s0 th src dst la n (sendRows s0 th src la dst n l s).1) l (sendRows s0 th src la dst n l s).2 := by
  induction l generalizing s with
  | nil => exact ⟨.refl, .nil⟩
  | cons i r ih =>
    have hmark := (useTlbs_onlyAsks s th (src i ++ dst i)).trans (newOrigin_onlyAsks _ th)
    simp only [sendRows]
    obtain ⟨hasks, hrows⟩ := ih (pend (newOrigin (useTlbs s th (src i ++ dst i)) th).1 (.readRequest
      { o := (newOrigin (useTlbs s th (src i ++ dst i)) th).2, pieces := piecesOf s0 th (src i), got := List.replicate n 0
        reply := .row (la i) (piecesOf s0 th (dst i)), acq := false }))
    refine ⟨(hmark.trans (pend_onlyAsks ..)).trans hasks, .cons (RowWaits.of_pending ?_ hasks.pending) hrows⟩
    exact ⟨_, List.mem_append_right _ (List.mem_singleton.mpr rfl), newOrigin_by .., rfl, List.length_replicate, rfl, rfl⟩

/-- Row `i` of `k` rows is the `i`-th that is sent. -/
theorem sendRows_upFrom (k : Nat) (s : State) : (sendRows s0 th src la dst n (upFrom 0 k) s).2.length = k ∧
    ∀ i < k, ∃ x, (sendRows s0 th src la dst n (upFrom 0 k) s).2[i]? = some x ∧
      RowWaits s0 th src dst la n (sendRows s0 th src la dst n (upFrom 0 k) s).1 i x := by
  obtain ⟨-, hrows⟩ := sendRows_waits (s0 := s0) (th := th) (src := src) (dst := dst) (la := la) (n := n) (upFrom 0 k) s
  have hin : (upFrom 0 k).length = k := by rw [upFrom_zero, List.length_range]
  have hout := hrows.length_eq.symm.trans hin
  refine ⟨hout, fun i hi => ⟨_, List.getElem?_eq_getElem (hi.trans_eq hout.symm), ?_⟩⟩
  have hrow := hrows.get (hi.trans_eq hin.symm) (hi.trans_eq hout.symm)
  simp only [upFrom_zero, List.get_eq_getElem, List.getElem_range] at hrow ⊢
  exact hrow

/-- A program with its operands present, its rows' checks passed and room for the instruction sends the rows under the tag (R228, R229). -/
theorem streamRows_sends {i : Instr} {needs : List Reg} {bad : Option Bad} {tag : BitVec 4} {k : Nat} {p : McProgram} {base : Nat → Nat}
    (hp : s.th.prog = some p) (hopen : (streamsOpen s s.th).length < 16) (hfence : fenced s s.th 7 = false) (hr : Ready s needs)
    (hb : bad = none) : ∃ t l, streamRows i needs bad tag (fun i => chunks .r (base i) n 0) la dst k n s = .next t ∧ t.last = .done ∧
      t.rest = s.rest ∧ t.mem = s.mem ∧ l.length = k ∧
      t.th = advance { s.th with prog := some { p with streams := streamsOpen s s.th ++ [(tag, l)] } } ∧
      ∀ i < k, ∃ x, l[i]? = some x ∧ sendsRow s t n (base i) (la i) (dst i) x := by
  let src (i : Nat) := chunks .r (base i) n 0
  obtain ⟨hasks, -⟩ := sendRows_waits (s0 := s) (th := s.th) (src := src) (dst := dst) (la := la) (n := n) (upFrom 0 k) s
  obtain ⟨hlen, hrows⟩ := sendRows_upFrom (s0 := s) (th := s.th) (src := src) (dst := dst) (la := la) (n := n) k s
  have hhold : (decide (16 ≤ (streamsOpen s s.th).length) || fenced s s.th 7) = false := by
    rw [hfence, Bool.or_false, decide_eq_false (Nat.not_le.mpr hopen)]
  simp only [streamRows, hp]
  refine ⟨_, _, conclude_done (fun _ h => absurd h List.not_mem_nil) hr hb (fun _ h => absurd h List.not_mem_nil) hhold,
    rfl, hasks.rest, hasks.mem, hlen, ?_, fun i hi => ?_⟩
  · simp only [finish, setTh_th, hasks.th, src]
  · obtain ⟨x, hx, hrow⟩ := hrows i hi
    exact ⟨x, hx, hrow.of_pending (fun _ h => h)⟩

end
end Sys2Proof.Machine

namespace Sys2Proof.Machine
open Sys2Proof
set_option Elab.async false

section
variable {s : State} {p : McProgram}

/-! ### The stream instructions (R228, R229) -/

theorem illegalLong_of_illegalNow {i : Instr} {op : BitVec 6} {f : BitVec 57} (he : encodeL i = some (op, f))
    (hrun : exec i s = illegalNow 3 (fieldL i) s) : illegalLong s i := by
  have hf : fieldL i = f := by simp only [fieldL, he, Option.map_some, Option.getD_some]
  refine ⟨op, f, he, hrun.trans ?_⟩
  rw [illegalNow, hf, illegalVal_eq_word]
  rfl

/-- On a compute core the stream instructions are ILLEGAL (R34). -/
theorem streams_illegal (hp : s.th.prog = none) (d a b c : BitVec 6) (rows len : BitVec 8) (tag : BitVec 4) (m : BitVec 16) :
    illegalLong s (.sload d a b c rows len tag) ∧ illegalLong s (.sstore d a b c rows len tag) ∧ illegalLong s (.spref a b rows len) ∧
      illegalLong s (.swait m) := by
  have hload : exec (.sload d a b c rows len tag) s = execSload d a b c rows len tag s := rfl
  have hstore : exec (.sstore d a b c rows len tag) s = execSstore d a b c rows len tag s := rfl
  have hpref : exec (.spref a b rows len) s = execSpref a b rows len s := rfl
  have hwait : exec (.swait m) s = execSwait m s := rfl
  refine ⟨illegalLong_of_illegalNow rfl ?_, illegalLong_of_illegalNow rfl ?_, illegalLong_of_illegalNow rfl ?_,
    illegalLong_of_illegalNow rfl ?_⟩
  · simp only [hload, execSload, streamRows, hp]
  · simp only [hstore, execSstore, streamRows, hp]
  · simp only [hpref, execSpref, hp]
  · simp only [hwait, execSwait, hp]

theorem fenced_of_no_fences (hf : s.th.fences = []) (set : BitVec 4) : fenced s s.th set = false := by
  simp [fenced, hf]

/-- The instruction `i` sends `k` rows of `n` bytes under a tag, row `j` from `base j` to `la j`, and the program goes on (R228). -/
def SendsRows (s : State) (p : McProgram) (i : Instr) (tag : BitVec 4) (k n : Nat) (base : Nat → Nat) (la : Nat → Word)
    (dst : Nat → List Chunk) : Prop :=
  ∃ t l, exec i s = .next t ∧ t.last = .done ∧ t.rest = s.rest ∧ t.mem = s.mem ∧ l.length = k ∧
    t.th = advance { s.th with prog := some { p with streams := streamsOpen s s.th ++ [(tag, l)] } } ∧
    ∀ j < k, ∃ x, l[j]? = some x ∧ sendsRow s t n (base j) (la j) (dst j) x

section
variable {d a b c : BitVec 6} {rows len : BitVec 8} {tag : BitVec 4}

theorem sload_sends (hp : s.th.prog = some p) (hopen : (streamsOpen s s.th).length < 16) (hf : s.th.fences = [])
    (hr : Ready s [.s d, .s a, .s b, .s c])
    (hb : accessBad s s.th
      ((List.range (rows.toNat + 1)).flatMap (fun (i : Nat) => laAlign (runLa (rdS s.th d) (i * (rdS s.th c).toInt)) (len.toNat + 1)))
      ((List.range (rows.toNat + 1)).flatMap (fun (i : Nat) => chunks .r (rowAt (rdS s.th a) (rdS s.th b) i) (len.toNat + 1) 0 ++
        laChunks (runLa (rdS s.th d) (i * (rdS s.th c).toInt)) (len.toNat + 1))) = none)
    (hla : rowsLaBad s (rdS s.th d) (rdS s.th c) (rows.toNat + 1) (len.toNat + 1) = none) :
    SendsRows s p (.sload d a b c rows len tag) tag (rows.toNat + 1) (len.toNat + 1) (rowAt (rdS s.th a) (rdS s.th b))
      (fun i => runLa (rdS s.th d) (i * (rdS s.th c).toInt))
      (fun i => laChunks (runLa (rdS s.th d) (i * (rdS s.th c).toInt)) (len.toNat + 1)) := by
  have hrun : exec (.sload d a b c rows len tag) s = execSload d a b c rows len tag s := rfl
  rw [← upFrom_zero] at hb
  unfold SendsRows
  simp only [hrun, execSload, hb, hla]
  exact streamRows_sends hp hopen (fenced_of_no_fences hf 7) hr rfl

theorem sstore_sends (hp : s.th.prog = some p) (hopen : (streamsOpen s s.th).length < 16) (hf : s.th.fences = [])
    (hr : Ready s [.s d, .s a, .s b, .s c])
    (hb : accessBad s s.th [] ((List.range (rows.toNat + 1)).flatMap (fun i =>
      chunks .r (rowAt (rdS s.th a) (rdS s.th b) i) (len.toNat + 1) 0 ++
        chunks .w (rowAt (rdS s.th d) (rdS s.th c) i) (len.toNat + 1) 0)) = none) :
    SendsRows s p (.sstore d a b c rows len tag) tag (rows.toNat + 1) (len.toNat + 1) (rowAt (rdS s.th a) (rdS s.th b))
      (fun i => word (rowAt (rdS s.th d) (rdS s.th c) i)) (fun i => chunks .w (rowAt (rdS s.th d) (rdS s.th c) i) (len.toNat + 1) 0) := by
  have hrun : exec (.sstore d a b c rows len tag) s = execSstore d a b c rows len tag s := rfl
  rw [← upFrom_zero] at hb
  unfold SendsRows
  simp only [hrun, execSstore, hb]
  exact streamRows_sends hp hopen (fenced_of_no_fences hf 7) hr rfl

end

theorem spref_goes_on (hp : s.th.prog = some p) (hf : s.th.fences = []) {a b : BitVec 6} {rows len : BitVec 8} (hr : Ready s [.s a, .s b])
    (hb : accessBad s s.th [] ((List.range (rows.toNat + 1)).flatMap (fun i => chunks .r (rowAt (rdS s.th a) (rdS s.th b) i) (len.toNat + 1) 0)) = none) :
    ∃ t, exec (.spref a b rows len) s = .next t ∧ t.last = .done ∧ t.th = advance s.th ∧ t.rest = s.rest := by
  have hrun : exec (.spref a b rows len) s = execSpref a b rows len s := rfl
  rw [← upFrom_zero] at hb
  have hfill (l : List Piece) (u : State) : (l.foldl (fun s p => touchLine s p.addr p.key false) u).rest = u.rest :=
    Beside.rest (foldl_beside (f := fun (s : State) (p : Piece) => touchLine s p.addr p.key false) (fun t x => touchLine_beside t x.addr x.key false))
  simp only [hrun, execSpref, hp]
  refine ⟨_, conclude_done (fun _ h => absurd h List.not_mem_nil) hr hb (fun _ h => absurd h List.not_mem_nil) (fenced_of_no_fences hf 1),
    rfl, rfl, ?_⟩
  exact (hfill ..).trans (useTlbs_onlyAsks ..).rest

/-- `SWAIT` goes on with the instructions in flight kept, or is held by one of its tags. -/
theorem exec_swait (hp : s.th.prog = some p) {m : BitVec 16} (hm : m ≠ 0) : exec (.swait m) s =
    if (streamsOpen s s.th).any (fun e => bit m e.1.toNat) then .next { s with last := .held }
    else becomes s (advance { s.th with prog := some { p with streams := streamsOpen s s.th } }) := by
  have hrun : exec (.swait m) s = execSwait m s := rfl
  simp only [hrun, execSwait, hp, if_neg hm]
  cases h : (streamsOpen s s.th).any (fun e => bit m e.1.toNat) with
  | true => simp [conclude, outside]
  | false => simp [conclude, outside, finish, becomes, setTh]

end
end Sys2Proof.Machine

open Sys2Proof Sys2Proof.Machine in
/-- Settles O41: an MCRUN starts its program and a program's end is its command's; the rows of a stream instruction are sent one by one. -/
theorem memoryCoreProgramsAndStreams : Obligations.MemoryCoreProgramsAndStreams := by
  unfold Obligations.MemoryCoreProgramsAndStreams
  refine ⟨⟨fun s h q c hc hfin hq hb hfree hbad => ⟨fun hfull => ?_, fun hroom => mcrun_starts hc hfin hq hb hfree hbad hroom⟩,
    fun s p away hp hst => ⟨fun hun => ?_, fun hun hnet => ?_⟩⟩,
    fun s d a b c rows len tag m => ⟨fun hp => streams_illegal hp .., fun p hp hopen hf => ⟨fun hr hb hla => ?_, fun hr hb => ?_,
      fun hr hb => spref_goes_on hp hf hr hb, fun hm htags => ⟨_, (exec_swait hp hm).trans (if_neg ?_)⟩, fun e he hbit => ?_⟩⟩⟩
  · exact (exec_mcrun_queued hc hfin hq hb hfree hbad).trans (if_pos hfull)
  · exact (exec_mcrunEnd hp hst).trans (if_pos hun)
  · obtain ⟨hended, hth, hmem⟩ := endCmd_ends (s := setTh s { s.th with status := .ended }) hnet (mcrunResult s.th p).1 (mcrunResult s.th p).2
    refine ⟨_, (exec_mcrunEnd hp hst).trans (if_neg (hun ▸ Bool.false_ne_true)), congrArg Thread.status hth, hmem, fun hn => ?_,
      fun cause pc ht => ?_⟩
    · rw [mcrunResult_normal hn] at hended ⊢
      exact hended
    · rw [mcrunResult_trapped ht] at hended ⊢
      exact hended
  · exact sload_sends hp hopen hf hr hb hla
  · exact sstore_sends hp hopen hf hr hb
  · simpa [bit] using htags
  · have hm : m ≠ 0 := by
      rintro rfl
      simp at hbit
    exact (exec_swait hp hm).trans (if_pos (List.any_eq_true.mpr ⟨e, he, hbit⟩))

namespace Sys2Proof.Machine
open Sys2Proof

/-! ### Rounding of what a format holds (R47, R48, R54, R55) -/

/-- A number on the grid is its own rounding. -/
theorem gridRound_self (mode : Rnd) (neg : Bool) (m : Nat) (q : Int) : gridRound mode neg m q q = (m, true) := by
  simp [gridRound]

/-- The significand of an exponent and a mantissa field (R48). -/
def significand (p : FloatParams) (e m : Nat) : Nat := if e = 0 then m else 2 ^ p.mb + m

/-- The exponent of its last place (R48). -/
def lastPlace (p : FloatParams) (e : Nat) : Int := (if e = 0 then 1 else (e : Int)) - p.bias - p.mb

/-- The fields stay at or below those of the largest finite value (R47). -/
def FiniteFields (p : FloatParams) (e m : Nat) : Prop := e < p.topE ∨ e = p.topE ∧ m ≤ p.topM

section
variable {p : FloatParams} {e m : Nat}

/-- A subnormal number lies below the binade of the least normal one. -/
theorem log2_subnormal (hm : m < 2 ^ p.mb) (h0 : m ≠ 0) : Nat.log2 (significand p 0 m) + lastPlace p 0 < 1 - p.bias := by
  have hlog : Nat.log2 m < p.mb := (Nat.log2_lt h0).mpr hm
  simp only [significand, lastPlace, if_true]
  omega

/-- A normal number lies in the binade of its exponent field. -/
theorem log2_normal (hm : m < 2 ^ p.mb) (he : e ≠ 0) : (Nat.log2 (significand p e m) : Int) + lastPlace p e = e - p.bias := by
  have hlog : Nat.log2 (2 ^ p.mb + m) = p.mb := by
    rw [Nat.log2_eq_iff (by positivity), pow_succ]
    omega
  simp only [significand, lastPlace, if_neg he, hlog]
  omega

theorem significand_ne_zero (h0 : e ≠ 0 ∨ m ≠ 0) : significand p e m ≠ 0 := by
  have hpos := Nat.two_pow_pos p.mb
  unfold significand
  split <;> omega

/-- The grid on which R55 rounds a number that the format holds is that of its last place. -/
theorem grid_eq_lastPlace (hm : m < 2 ^ p.mb) (h0 : e ≠ 0 ∨ m ≠ 0) :
    (if 1 - (p.bias : Int) ≤ Nat.log2 (significand p e m) + lastPlace p e then
      Nat.log2 (significand p e m) + lastPlace p e - p.mb else 1 - p.bias - p.mb) = lastPlace p e := by
  by_cases he : e = 0
  · subst he
    have hsub := log2_subnormal hm (by simpa using h0)
    rw [if_neg (by omega)]
    rfl
  · rw [log2_normal hm he, if_pos (by omega), lastPlace, if_neg he]

/-- On its grid a number is encoded by its fields. -/
theorem encodeOnGrid_significand (hm : m < 2 ^ p.mb) (h0 : e ≠ 0 ∨ m ≠ 0) :
    encodeOnGrid p (significand p e m) (lastPlace p e) = (e, m) := by
  by_cases he : e = 0
  · subst he
    have hsub := log2_subnormal hm (by simpa using h0)
    have hplace : lastPlace p 0 - (1 - p.bias - p.mb) = 0 := by simp [lastPlace]
    simp only [encodeOnGrid, if_pos hsub, hplace]
    simp [significand]
  · have hlog := log2_normal hm he
    have hshift : (e : Int) - p.bias - p.mb - lastPlace p e = 0 := by simp [lastPlace, he]
    have hexp : ((e : Int) - p.bias + p.bias).toNat = e := by omega
    simp only [encodeOnGrid, hlog, hshift, hexp]
    rw [if_neg (by omega)]
    simp [significand, he]

/-- A nonzero finite number of the format is rounded to its own fields, exactly (R54, R55). -/
theorem roundTo_significand {f : Fmt} (mode : Rnd) (sat neg : Bool) (hm : m < 2 ^ (floatParams f).mb) (h0 : e ≠ 0 ∨ m ≠ 0)
    (hfin : FiniteFields (floatParams f) e m) :
    roundTo f mode sat (.fin (if neg then -(significand (floatParams f) e m : Int) else significand (floatParams f) e m)
      (lastPlace (floatParams f) e)) = (withSign (floatParams f) neg (e * 2 ^ (floatParams f).mb + m), noFlags) := by
  have hne := significand_ne_zero (p := floatParams f) h0
  have habs : (if neg then -(significand (floatParams f) e m : Int) else significand (floatParams f) e m).natAbs =
      significand (floatParams f) e m := by cases neg <;> simp
  have hneg : decide ((if neg then -(significand (floatParams f) e m : Int) else significand (floatParams f) e m) < 0) = neg := by
    cases neg <;> simp; omega
  have hsmall : (decide ((floatParams f).topE < e) || decide (e = (floatParams f).topE) && decide ((floatParams f).topM < m)) = false := by
    unfold FiniteFields at hfin
    simp
    omega
  simp only [roundTo, habs, hneg, grid_eq_lastPlace hm h0, gridRound_self, encodeOnGrid_significand hm h0, if_neg hne, hsmall]
  simp [noFlags]

end

/-! ### The fields of an encoding (R48) -/

/-- A float format uses its sign, exponent and mantissa bits. -/
theorem fmtUsed_float {f : Fmt} (h : fmtClass f = .float) : fmtUsed f = (floatParams f).mb + (floatParams f).eb + 1 := by
  cases f <;> cases h <;> rfl

/-- What is neither infinity nor NaN stays within the largest finite value (R47). -/
theorem finite_of_fields {f : Fmt} {e m : Nat} (h : fmtClass f = .float) (he : e < 2 ^ (floatParams f).eb) (hm : m < 2 ^ (floatParams f).mb)
    (hinf : ¬ ((floatParams f).hasInf = true ∧ e = 2 ^ (floatParams f).eb - 1))
    (hnan : ¬ ((floatParams f).hasNan = true ∧ (floatParams f).hasInf = false ∧ e = 2 ^ (floatParams f).eb - 1 ∧
      m = 2 ^ (floatParams f).mb - 1)) :
    FiniteFields (floatParams f) e m := by
  unfold FiniteFields
  cases f <;> cases h <;> simp [floatParams] at * <;> omega

/-- An encoding is its sign, exponent and mantissa fields. -/
theorem withSign_fields {p : FloatParams} {x : Nat} (hx : x < 2 ^ (p.mb + p.eb + 1)) :
    withSign p (x / 2 ^ (p.mb + p.eb) % 2 = 1) (x / 2 ^ p.mb % 2 ^ p.eb * 2 ^ p.mb + x % 2 ^ p.mb) = x := by
  have hlow : x / 2 ^ p.mb % 2 ^ p.eb * 2 ^ p.mb + x % 2 ^ p.mb = x % 2 ^ (p.mb + p.eb) := by
    rw [pow_add, Nat.mod_mul, Nat.mul_comm, Nat.add_comm]
  have hsign : x / 2 ^ (p.mb + p.eb) < 2 := by
    rw [Nat.div_lt_iff_lt_mul (by positivity), Nat.mul_comm, ← pow_succ]
    exact hx
  have hdiv := Nat.div_add_mod x (2 ^ (p.mb + p.eb))
  rw [hlow, withSign]
  obtain h | h := Nat.le_one_iff_eq_zero_or_eq_one.mp (Nat.lt_succ_iff.mp hsign)
  · rw [h] at hdiv ⊢
    simpa using hdiv
  · rw [h] at hdiv ⊢
    simp
    omega

/-- A number that the format holds is a zero, or nonzero with its fields below those of the infinities and NaNs. -/
theorem decodeFloat_cases {f : Fmt} {x : Nat} (hf : fmtClass f = .float) (hnan : numIsNan (decodeFloat f x) = false)
    (hinf : ∀ n, decodeFloat f x ≠ .inf n) :
    let p := floatParams f
    let e := x / 2 ^ p.mb % 2 ^ p.eb
    let m := x % 2 ^ p.mb
    let neg : Bool := x / 2 ^ (p.mb + p.eb) % 2 = 1
    (e = 0 ∧ m = 0 ∧ decodeFloat f x = .zero neg) ∨
      ((e ≠ 0 ∨ m ≠ 0) ∧ FiniteFields p e m ∧
        decodeFloat f x = .fin (if neg then -(significand p e m : Int) else significand p e m) (lastPlace p e)) := by
  intro p e m neg
  have hdec : decodeFloat f x = if p.hasInf && e = 2 ^ p.eb - 1 then if m = 0 then .inf neg else .nan (m < 2 ^ (p.mb - 1))
      else if p.hasNan && !p.hasInf && e = 2 ^ p.eb - 1 && m = 2 ^ p.mb - 1 then .nan false
      else if e = 0 && m = 0 then .zero neg
      else .fin (if neg then -(significand p e m : Int) else significand p e m) (lastPlace p e) := rfl
  split at hdec
  · split at hdec
    · exact absurd hdec (hinf neg)
    · rw [hdec] at hnan
      cases hnan
  next hi =>
    split at hdec
    · rw [hdec] at hnan
      cases hnan
    next hn =>
      split at hdec
      next h0 =>
        simp only [Bool.and_eq_true, decide_eq_true_eq] at h0
        exact .inl ⟨h0.1, h0.2, hdec⟩
      next h0 =>
        simp only [Bool.and_eq_true, decide_eq_true_eq, Bool.not_eq_true'] at hi hn h0
        refine .inr ⟨by tauto, finite_of_fields hf (Nat.mod_lt _ (by positivity)) (Nat.mod_lt _ (by positivity)) hi ?_, hdec⟩
        tauto

/-- R54, R55: a number that the format holds is rounded to itself, and raises no flag. -/
theorem roundTo_decodeFloat {f : Fmt} (mode : Rnd) (sat : Bool) {x : Nat} (hf : fmtClass f = .float) (hx : x < 2 ^ fmtUsed f)
    (hnan : numIsNan (decodeFloat f x) = false) (hinf : ∀ n, decodeFloat f x ≠ .inf n) :
    roundTo f mode sat (decodeFloat f x) = (x, noFlags) := by
  rw [fmtUsed_float hf] at hx
  have hfields := withSign_fields hx
  obtain ⟨he, hm, hdec⟩ | ⟨h0, hfin, hdec⟩ := decodeFloat_cases hf hnan hinf
  · rw [he, hm, Nat.zero_mul] at hfields
    rw [hdec]
    exact congrArg (fun y => (y, noFlags)) hfields
  · rw [hdec, roundTo_significand mode sat _ (Nat.mod_lt _ (by positivity)) h0 hfin, hfields]

end Sys2Proof.Machine

namespace Sys2Proof.Machine
open Sys2Proof

/-! ### Paired elements (R149) -/

theorem fmtWidth_pos (f : Fmt) : 0 < fmtWidth f := by cases f <;> decide

theorem partOk_iff {ws wd part : Nat} : partOk ws wd part = true ↔ partFits ws wd part := by
  unfold partOk partFits
  split
  · simp
  · split <;> simp

/-- The elements that a part of the wider side's number pairs lie within the narrower side's register. -/
theorem part_le {w v part : Nat} (hw : 0 < w) (hp : part < v / w) : part * (2048 / v) + 2048 / v ≤ 2048 / w := by
  rw [← Nat.succ_mul, Nat.le_div_iff_mul_le hw]
  calc (part + 1) * (2048 / v) * w ≤ v / w * (2048 / v) * w := by gcongr; exact hp
    _ = v / w * w * (2048 / v) := by ring
    _ ≤ v * (2048 / v) := by gcongr; exact Nat.div_mul_le_self ..
    _ ≤ 2048 := Nat.mul_div_le ..

/-- A stretch of a table's values. -/
theorem slice_map_range {α : Type} (f : Nat → α) {k n c : Nat} (h : k + n ≤ c) :
    (((List.range c).map f).drop k).take n = (List.range n).map (fun i => f (k + i)) := by
  refine List.ext_getElem (by simp; omega) (fun i _ _ => ?_)
  simp

/-- The values of a table set into a longer list of pairs. -/
theorem padded_map_range {α : Type} (f : Nat → α) {k n c : Nat} (h : k + n ≤ c) :
    List.replicate k none ++ ((List.range n).map f).map some ++ List.replicate (c - k - n) none =
      (List.range c).map (fun e => (if k ≤ e ∧ e < k + n then some (e - k) else none).map f) := by
  refine List.ext_getElem (by simp; omega) (fun e _ _ => ?_)
  simp only [List.getElem_append, List.length_append, List.length_replicate, List.length_map, List.length_range, List.getElem_replicate,
    List.getElem_map, List.getElem_range]
  by_cases hlow : e < k
  · simp [hlow, Nat.lt_add_right, Nat.not_le.mpr hlow]
  · by_cases hin : e < k + n <;> simp [hlow, hin, Nat.le_of_not_lt hlow]

/-- The list of pairs says of each destination element which source element pairs with it. -/
theorem paired_eq_map {ws wd part : Nat} (hws : 0 < ws) (hwd : 0 < wd) (hp : partFits ws wd part) (g : Nat → Nat) :
    paired ws wd part ((List.range' 0 (2048 / ws)).map g) =
      (List.range' 0 (2048 / wd)).map (fun e => (pairedWith ws wd part e).map g) := by
  unfold partFits at hp
  by_cases heq : ws = wd
  · simp [paired, pairedWith, heq]
  by_cases hlt : ws < wd
  · rw [if_neg heq, if_pos hlt] at hp
    simp only [paired, pairedWith, if_neg heq, if_pos hlt, ← List.range_eq_range', slice_map_range g (part_le hws hp), List.map_map]
    rfl
  · rw [if_neg heq, if_neg hlt] at hp
    have hin := part_le hwd hp
    have hmin : min (part * (2048 / ws)) (2048 / wd) = part * (2048 / ws) := Nat.min_eq_left (Nat.le_of_add_right_le hin)
    simp only [paired, pairedWith, if_neg heq, if_neg hlt, ← List.range_eq_range', hmin, padded_map_range g hin, Nat.succ_mul]

/-! ### Moves and conversions (R150, R151) -/

/-- Sign extension to 32 bits, cut to the destination, is the signed value's remainder (R151). -/
theorem extendCode_mod {u v x : Nat} (hv : v ≤ 32) : extendCode u 32 x % 2 ^ v =
    ((if 2 ^ (u - 1) ≤ x then (x : Int) - 2 ^ u else x) % 2 ^ v).toNat := by
  unfold extendCode
  split
  · have hsum : ((x + 2 ^ 32 * 2 ^ u - 2 ^ u : Nat) : Int) = (x - 2 ^ u) + 2 ^ v * (2 ^ (32 - v) * 2 ^ u) := by
      rw [Nat.cast_sub (le_add_left (Nat.le_mul_of_pos_left _ (by norm_num))), ← mul_assoc (2 ^ v), ← pow_add 2 v, Nat.add_sub_cancel' hv]
      push_cast
      ring
    rw [← Int.toNat_natCast (_ % 2 ^ v), Int.natCast_mod, hsum]
    push_cast
    rw [Int.add_mul_emod_self_left]
  · exact_mod_cast (Int.toNat_natCast (x % 2 ^ v)).symm

section
variable {s : State} {i : Instr} {F : VOp → VOp → Nat → Nat × Flags} {okF : Fmt → Bool} {d a : BitVec 8} {p : BitVec 3} {m : BitVec 2}
  {val : Nat → Nat × Flags}

/-- What becomes of a destination element: the result for the source element that pairs with it, or its own bits. -/
def pairedVal (s : State) (d a : BitVec 8) (p : BitVec 3) (val : Nat → Nat × Flags) (e : Nat) : Nat × Flags :=
  match pairedWith (widthAt s a) (widthAt s d) p.toNat e with
  | some k => val k
  | none => (elemOf s d e, noFlags)

theorem fmtUsed_le (f : Fmt) : fmtUsed f ≤ 32 := by cases f <;> decide

theorem vecPair_completes (hrun : exec i s = vecPair F okF d a p m s) (hok : okF (vop s.th d).fmt = true)
    (hfits : partFits (widthAt s a) (widthAt s d) p.toNat)
    (hval : ∀ k, SameResult (widthAt s d) (F (vop s.th d) (vop s.th a) (elemOf s a k)) (val k))
    (hw : InWindow s [d, a]) (hr : Ready s [.v (spec s.th d), .v (spec s.th a), .m (m.zeroExtend 4)]) :
    ∃ x fl, writesVector s i d x fl ∧ VForm.Holds s ⟨d, [a], [], m, .either, pairedVal s d a p val⟩ x fl := by
  have hgood : (okF (vop s.th d).fmt && partOk (vop s.th a).width (vop s.th d).width p.toNat) = true := by
    rw [hok, Bool.true_and]
    exact partOk_iff.mpr hfits
  refine ⟨_, _, hrun.trans (conclude_done hw hr (by simp only [vecPlan, hgood]; rfl) (fun _ h => absurd h List.not_mem_nil) rfl), ?_⟩
  have hpairs : paired (vop s.th a).width (vop s.th d).width p.toNat (vop s.th a).els =
      (List.range' 0 (2048 / widthAt s d)).map (fun e => (pairedWith (widthAt s a) (widthAt s d) p.toNat e).map (elemOf s a)) := by
    rw [vop_els]
    exact paired_eq_map (fmtWidth_pos _) (fmtWidth_pos _) hfits _
  rw [hpairs]
  refine elementwise_holds ⟨d, [a], [], m, .either, pairedVal s d a p val⟩ _ _ (fun e _ => ?_)
  simp only [pairedVal]
  cases pairedWith (widthAt s a) (widthAt s d) p.toNat e with
  | none => exact .refl ..
  | some k => exact hval k

theorem vecPair_traps (hrun : exec i s = vecPair F okF d a p m s)
    (hbad : okF (vop s.th d).fmt = false ∨ ¬ partFits (widthAt s a) (widthAt s d) p.toNat)
    (hw : InWindow s [d, a]) (hr : Ready s [.v (spec s.th d), .v (spec s.th a), .m (m.zeroExtend 4)]) :
    exec i s = trapsWith s .format 0 := by
  have hfail : (okF (vop s.th d).fmt && partOk (vop s.th a).width (vop s.th d).width p.toNat) = false := by
    rw [Bool.and_eq_false_iff]
    exact hbad.imp_right (fun h => Bool.eq_false_iff.mpr (fun hp => h (partOk_iff.mp hp)))
  exact hrun.trans (conclude_trap hw hr (by simp only [vecPlan, hfail]; rfl))

/-- An instruction of R150 or R151 is the operation on paired elements, with these results for the source elements. -/
def MovesPairs (s : State) (i : Instr) (d a : BitVec 8) (p : BitVec 3) (m : BitVec 2) (ok : Bool) (val : Nat → Nat × Flags) : Prop :=
  ∃ F okF, exec i s = vecPair F okF d a p m s ∧ okF (vop s.th d).fmt = ok ∧
    ∀ k, SameResult (widthAt s d) (F (vop s.th d) (vop s.th a) (elemOf s a k)) (val k)

theorem vmov_movesPairs (r : Rnd) (sat : Bool) : MovesPairs s (.vmov d a p r sat m) d a p m
    (decide ((vop s.th d).fmt ≠ .cb4 ∧ ((vop s.th d).fmt ≠ .e8m0 ∨ r = .rne)))
    (fun k => ((convertNum (vop s.th a).fmt (vop s.th d).fmt r sat (valueAt s a k)).1 % 2 ^ fmtUsed (vop s.th d).fmt,
      (convertNum (vop s.th a).fmt (vop s.th d).fmt r sat (valueAt s a k)).2)) := by
  have hrun : exec (.vmov d a p r sat m) s = execVmov d a p r sat m s := rfl
  exact ⟨_, _, hrun, by simp only [Bool.decide_and, Bool.decide_or], fun k => .refl ..⟩

theorem vpack_movesPairs : MovesPairs s (.vpack d a p m) d a p m true (fun k =>
    (if widthAt s a = widthAt s d then elemAt (widthAt s a) (rdV s.th (spec s.th a)) k
      else codeAt s a k % 2 ^ fmtUsed (vop s.th d).fmt, noFlags)) := by
  have hrun : exec (.vpack d a p m) s = execVpack d a p m s := rfl
  exact ⟨_, _, hrun, rfl, fun k => .refl ..⟩

/-- The number that `VUNPK` makes of a source element's encoding: with `SX` its top bit is the sign (R151). -/
def unpackedCode (s : State) (a : BitVec 8) (sx : Bool) (k : Nat) : Int :=
  if sx && 2 ^ (fmtUsed (vop s.th a).fmt - 1) ≤ codeAt s a k then (codeAt s a k : Int) - 2 ^ fmtUsed (vop s.th a).fmt else codeAt s a k

theorem writeCode_extend (f : Fmt) (sx : Bool) (k : Nat) :
    writeCode f (if sx then extendCode (fmtUsed (vop s.th a).fmt) 32 (codeAt s a k) else codeAt s a k) =
      (unpackedCode s a sx k % 2 ^ fmtUsed f).toNat := by
  cases sx with
  | true => simpa [writeCode, unpackedCode] using extendCode_mod (fmtUsed_le f)
  | false => exact_mod_cast (Int.toNat_natCast (codeAt s a k % 2 ^ fmtUsed f)).symm

theorem vunpk_movesPairs (sx : Bool) : MovesPairs s (.vunpk d a p sx m) d a p m true (fun k =>
    (if widthAt s a = widthAt s d then elemAt (widthAt s a) (rdV s.th (spec s.th a)) k
      else (unpackedCode s a sx k % 2 ^ fmtUsed (vop s.th d).fmt).toNat, noFlags)) := by
  have hrun : exec (.vunpk d a p sx m) s = execVunpk d a p sx m s := rfl
  refine ⟨_, _, hrun, rfl, fun k => ?_⟩
  simp only [readCode_elemOf, writeCode_extend]
  exact .refl ..

theorem moveForm_movesPairs {ok : Bool} (h : moveForm s i = some (d, a, p, m, ok, val)) : MovesPairs s i d a p m ok val := by
  cases i <;> cases h
  case vmov => exact vmov_movesPairs ..
  case vpack => exact vpack_movesPairs
  case vunpk => exact vunpk_movesPairs ..

end
end Sys2Proof.Machine

open Sys2Proof Sys2Proof.Machine in
/-- Settles O31: the three moves are one operation on the paired elements; a number of the format lies on the grid to which it is rounded. -/
theorem movesAndRounding : Obligations.MovesAndRounding := by
  unfold Obligations.MovesAndRounding
  refine ⟨fun s i d a p m ok val h hw hr => ?_, fun f mode sat x hf hx hnan hinf => roundTo_decodeFloat mode sat hf hx hnan hinf⟩
  obtain ⟨F, okF, hrun, rfl, hval⟩ := moveForm_movesPairs h
  refine ⟨fun hok hfits => ?_, fun hbad => vecPair_traps hrun hbad hw hr⟩
  obtain ⟨x, fl, hx, hmix, -⟩ := vecPair_completes hrun hok hfits hval hw hr
  refine ⟨x, fl, hx, fun e he => (hmix e he).trans ?_⟩
  simp only [pairedVal]
  cases pairedWith (widthAt s a) (widthAt s d) p.toNat e with
  | some k => rfl
  | none =>
    split
    · exact Nat.mod_eq_of_lt (elemAt_lt ..)
    · rfl

namespace Sys2Proof.Machine
open Sys2Proof

/-! ### Tables as lists -/

/-- The list of a table's first values reads each of them. -/
theorem denseFrom_eq_map {α : Type} (d : α) (n i : Nat) {m : Sparse α} (hr : srising m = true) (hi : ∀ e ∈ m, i ≤ e.1) :
    denseFrom d n i m = (List.range' i n).map (sget d m) := by
  induction n generalizing i m with
  | zero => rfl
  | succ n ih =>
    rw [List.range'_succ, List.map_cons]
    cases m with
    | nil => exact congrArg (d :: ·) (ih (i + 1) rfl (fun _ h => absurd h List.not_mem_nil))
    | cons e r =>
      obtain ⟨k, v⟩ := e
      have hk : i ≤ k := hi _ (List.mem_cons_self ..)
      have habove := srising_above hr
      by_cases heq : k = i
      · subst heq
        have hrest : (List.range' (k + 1) n).map (sget d ((k, v) :: r)) = (List.range' (k + 1) n).map (sget d r) := by
          refine List.map_congr_left (fun e he => if_neg ?_)
          obtain ⟨hlow, -⟩ := List.mem_range'_1.mp he
          omega
        rw [denseFrom, if_pos rfl, ih (k + 1) (srising_tail hr) habove, hrest, sget, if_pos rfl]
      · have hnext : ∀ e ∈ (k, v) :: r, i + 1 ≤ e.1 := by
          intro e he
          obtain rfl | he := List.mem_cons.mp he
          · omega
          · have := habove e he
            omega
        have hfree : sget d ((k, v) :: r) i = d := sget_of_above (fun e he => by have := hnext e he; omega)
        rw [denseFrom, if_neg heq, ih (i + 1) hr hnext, hfree]

/-- The values of a canonical table from its first key on. -/
theorem denseFrom_zero {α : Type} [DecidableEq α] (d : α) (n : Nat) {m : Sparse α} (h : swf d m = true) :
    denseFrom d n 0 m = (List.range n).map (sget d m) := by
  simp only [swf, Bool.and_eq_true] at h
  obtain ⟨hrising, -⟩ := h
  rw [denseFrom_eq_map d n 0 hrising (fun _ _ => Nat.zero_le _), List.range_eq_range']

theorem sget_zipIdx {α : Type} [DecidableEq α] (d : α) (l : List α) (k i : Nat) :
    sget d ((l.zipIdx k).filterMap (fun e => if e.1 = d then none else some (e.2, e.1))) (k + i) = l.getD i d := by
  induction l generalizing k i with
  | nil => rfl
  | cons x r ih =>
    have hnext (i : Nat) := ih (k + 1) i
    rw [List.zipIdx_cons, List.filterMap_cons]
    cases i with
    | zero =>
      have hlate : ∀ e ∈ (r.zipIdx (k + 1)).filterMap (fun e => if e.1 = d then none else some (e.2, e.1)), e.1 ≠ k := by
        intro e he
        obtain ⟨⟨y, j⟩, hm, hy⟩ := List.mem_filterMap.mp he
        obtain ⟨hj, -⟩ := List.mem_zipIdx hm
        split at hy
        · cases hy
        · cases hy
          omega
      by_cases hx : x = d
      · simp [hx, sget_of_above hlate]
      · simp [hx, sget]
    | succ i =>
      have hi : k + (i + 1) = k + 1 + i := by omega
      rw [hi]
      by_cases hx : x = d
      · simpa [hx] using hnext i
      · have hne : k ≠ k + 1 + i := by omega
        simpa [hx, sget, hne] using hnext i

/-- The table of a list reads each value of it. -/
theorem sget_sparseOf {α : Type} [DecidableEq α] (d : α) (l : List α) (i : Nat) : sget d (sparseOf d l) i = l.getD i d := by
  have h := sget_zipIdx d l 0 i
  rwa [Nat.zero_add] at h

/-- An element of a list of rows of one length. -/
theorem getElem?_rows {α : Type} (g : Nat → Nat → α) {n : Nat} (a c : Nat) {r i : Nat} (hr : r < c) (hi : i < n) :
    ((List.range' a c).flatMap (fun r => (List.range n).map (g r)))[n * r + i]? = some (g (a + r) i) := by
  induction c generalizing a r with
  | zero => omega
  | succ c ih =>
    rw [List.range'_succ, List.flatMap_cons, List.getElem?_append]
    cases r with
    | zero => simp [hi]
    | succ r =>
      have hout : ¬ n * (r + 1) + i < n := by rw [Nat.mul_succ]; omega
      have hsub : n * (r + 1) + i - n = n * r + i := by rw [Nat.mul_succ]; omega
      simp only [List.length_map, List.length_range, if_neg hout, hsub]
      rw [ih (a + 1) (by omega), Nat.add_assoc, Nat.add_comm 1]

/-- Pieces of a table's values. -/
theorem piecesBy_map {α : Type} (f : Nat → α) (n k a c : Nat) (h : n * k ≤ c) :
    piecesBy n k ((List.range' a c).map f) = (List.range k).map (fun i => (List.range n).map (fun j => f (a + i * n + j))) := by
  induction k generalizing a c with
  | zero => rfl
  | succ k ih =>
    have hc : n + n * k ≤ c := by rw [Nat.mul_succ] at h; omega
    have htake : ((List.range' a c).map f).take n = (List.range n).map (fun j => f (a + j)) := by
      refine List.ext_getElem (by simp; omega) (fun i _ _ => ?_)
      simp
    have hdrop : ((List.range' a c).map f).drop n = (List.range' (a + n) (c - n)).map f := by
      refine List.ext_getElem (by simp) (fun i _ _ => ?_)
      simp [Nat.add_assoc]
    rw [piecesBy, htake, hdrop, ih (a + n) (c - n) (by omega), List.range_succ_eq_map, List.map_cons, List.map_map, Nat.zero_mul]
    congr 1
    refine List.map_congr_left (fun i _ => List.map_congr_left (fun j _ => congrArg f ?_))
    simp only [Nat.succ_mul]
    omega

end Sys2Proof.Machine

namespace Sys2Proof.Machine
open Sys2Proof

/-! ### Rows and scales of an operand slot (R61, R62) -/

section
variable {x y : OpSlot}

/-- The stretch of a slot's bytes that a row takes. -/
theorem rowBytes_eq (m : Sparse Byte) {w n r : Nat} (hm : swf 0 m = true) (hin : w * r + w ≤ n) :
    ((denseFrom (0 : Byte) n 0 m).drop (w * r)).take w = (List.range w).map (fun i => sget 0 m (w * r + i)) := by
  rw [denseFrom_zero 0 n hm, slice_map_range _ hin]

/-- Each row is the list of its elements. -/
theorem slotRows_eq (h : SlotWf x) :
    slotRows x = (List.range 128).map (fun r => (List.range (operandShape (slotFmt x)).1).map (slotElem x r)) := by
  obtain ⟨hdata, -⟩ := h
  unfold slotRows
  rw [upFrom_zero]
  refine List.map_congr_left (fun r hr => ?_)
  have hlt := List.mem_range.mp hr
  have helems (z : Nat) := elemsFrom_eq_map (fmtWidth (slotFmt x)) z 0 (operandShape (slotFmt x)).1
  simp only [Nat.mul_zero, pow_zero, Nat.div_one, ← List.range_eq_range'] at helems
  rw [rowBytes_eq x.data hdata (by omega), helems]
  rfl

/-- The scale of a granule of a row: a slot holds four for each (R62). -/
def granuleScale (x : OpSlot) (r g : Nat) : Nat := if g < 4 then (sget (0 : Byte) x.scale (4 * r + g)).toNat else 0

theorem slotScales_eq (h : SlotWf x) :
    slotScales x = (List.range 128).map (fun r => (List.range 4).map (fun g => (sget (0 : Byte) x.scale (4 * r + g)).toNat)) := by
  obtain ⟨-, hscale, -⟩ := h
  unfold slotScales
  rw [upFrom_zero]
  refine List.map_congr_left (fun r hr => ?_)
  have hlt := List.mem_range.mp hr
  rw [rowBytes_eq x.scale hscale (by omega), List.map_map]
  rfl

theorem getD_map_range (f : Nat → Nat) (n i : Nat) : ((List.range n).map f).getD i 0 = if i < n then f i else 0 := by
  rw [List.getD_eq_getElem?_getD]
  split <;> next h => simp [h]

/-! ### A K-step, element by element (R63) -/

/-- The value of an element of a slot. -/
def slotValue (x : OpSlot) (r k : Nat) : Exact := decodeElem (slotFmt x) (slotBook x) (slotElem x r k)

theorem blockOf_eq (x y : OpSlot) (r c blk gran k0 : Nat) : blockOf x y r c blk gran k0 =
    blockSum ((List.range blk).map (fun i => slotValue x r (k0 + i))) ((List.range blk).map (fun i => slotValue y c (k0 + i)))
      (if x.mx then some (granuleScale x r (k0 / gran), granuleScale y c (k0 / gran)) else none) := rfl

/-- The shapes that R60 pairs, and `INT8` with itself alone. -/
theorem pairOk_shapes (h : pairOk x y = true) :
    (operandShape (slotFmt y)).1 = (operandShape (slotFmt x)).1 ∧ (slotFmt x = .int8 → slotFmt y = .int8) := by
  simp only [pairOk, Bool.and_eq_true, decide_eq_true_eq, beq_iff_eq] at h
  obtain ⟨⟨⟨hshape, hint⟩, -⟩, -⟩ := h
  exact ⟨hshape.symm, fun hx => of_decide_eq_true (hint ▸ decide_eq_true hx)⟩

/-- The rows of the tile, each with its elements. -/
theorem tileRows_eq {t : Tile} (h : TileWf t) :
    piecesBy 128 128 (denseFrom (0 : BitVec 32) 16384 0 t.elems) =
      (List.range 128).map (fun r => (List.range 128).map (fun c => sget 0 t.elems (128 * r + c))) := by
  rw [denseFrom_zero 0 16384 h, List.range_eq_range', piecesBy_map _ 128 128 0 16384 (by norm_num)]
  refine List.map_congr_left (fun r _ => List.map_congr_left (fun c _ => congrArg _ ?_))
  omega

/-- The tile after a K-step: the table of its elements, each as R63 computes it from its two rows. -/
def steppedTile (t : Tile) (x y : OpSlot) : Sparse (BitVec 32) :=
  sparseOf 0 ((List.range 128).flatMap (fun r => (List.range 128).map (fun c => stepElem x y (sget 0 t.elems (128 * r + c)) r c)))

theorem kStepTile_int {t : Tile} (hx : SlotWf x) (hy : SlotWf y) (ht : TileWf t) (hfx : slotFmt x = .int8) (hfy : slotFmt y = .int8) :
    kStepTile t x y = steppedTile t x y := by
  have hk : (operandShape .int8).1 = 128 := rfl
  simp only [kStepTile, slotRows_eq hx, slotRows_eq hy, tileRows_eq ht, List.map_map, List.zip_map', List.flatMap_map,
    steppedTile, stepElem, hfx, hfy, hk, Function.comp_def, kStepInt]
  rfl

/-- The blocks of a pair of rows, one after another. -/
theorem blocks_eq (x y : OpSlot) (r c : Nat) {k blk gran : Nat} (hk : blk * (k / blk) ≤ k) :
    (((piecesBy blk (k / blk) ((List.range k).map (slotValue x r))).zip (piecesBy blk (k / blk) ((List.range k).map (slotValue y c)))).zip
      ((List.range (k / blk)).map (fun i => if x.mx then some (granuleScale x r (i * blk / gran), granuleScale y c (i * blk / gran)) else none))).map
      (fun z => blockSum z.1.1 z.1.2 z.2) = (List.range (k / blk)).map (fun i => blockOf x y r c blk gran (i * blk)) := by
  rw [List.range_eq_range' (n := k), piecesBy_map _ blk (k / blk) 0 k hk, piecesBy_map _ blk (k / blk) 0 k hk, List.zip_map', List.zip_map',
    List.map_map]
  simp only [blockOf_eq, Nat.zero_add]
  rfl

theorem kStepTile_float {t : Tile} (hx : SlotWf x) (hy : SlotWf y) (ht : TileWf t) (hf : slotFmt x ≠ .int8)
    (hshape : (operandShape (slotFmt y)).1 = (operandShape (slotFmt x)).1) : kStepTile t x y = steppedTile t x y := by
  rcases hs : operandShape (slotFmt x) with ⟨k, blk, gran⟩
  rw [hs] at hshape
  simp only [kStepTile, if_neg hf, hs, hshape, slotRows_eq hx, slotRows_eq hy, slotScales_eq hx, slotScales_eq hy, tileRows_eq ht, upFrom_zero,
    List.map_map, List.zip_map', List.flatMap_map, steppedTile, stepElem, getD_map_range, Function.comp_def]
  refine congrArg _ (congrArg (fun f => (List.range 128).flatMap f) (funext fun r => List.map_congr_left (fun c _ => ?_)))
  exact congrArg (kStepFloat _) (blocks_eq x y r c (Nat.mul_div_le ..))

/-- Every element of the tile after a K-step of slots that R60 pairs. -/
theorem kStepTile_elem {t : Tile} (hx : SlotWf x) (hy : SlotWf y) (ht : TileWf t) (hok : pairOk x y = true) {r c : Nat} (hr : r < 128)
    (hc : c < 128) : sget 0 (kStepTile t x y) (128 * r + c) = stepElem x y (sget 0 t.elems (128 * r + c)) r c := by
  obtain ⟨hshape, hint⟩ := pairOk_shapes hok
  have htile : kStepTile t x y = steppedTile t x y := by
    by_cases hf : slotFmt x = .int8
    · exact kStepTile_int hx hy ht hf (hint hf)
    · exact kStepTile_float hx hy ht hf hshape
  have helem := getElem?_rows (fun r c => stepElem x y (sget 0 t.elems (128 * r + c)) r c) 0 128 hr hc
  rw [← List.range_eq_range', Nat.zero_add] at helem
  rw [htile, steppedTile, sget_sparseOf, List.getD_eq_getElem?_getD, helem, Option.getD_some]

end
end Sys2Proof.Machine

namespace Sys2Proof.Machine
open Sys2Proof

/-! ### Threads by name -/

section
variable {s : State} {h : Handle} {q : BitVec 16} {c : Command}

/-- A change of a thread that keeps it live and its name is what one finds afterwards. -/
theorem findThread_modThread {f : Thread → Thread} (hf : ∀ t, isLive (f t) = isLive t ∧ (f t).handle = t.handle) :
    findThread (modThread s h f) h = (findThread s h).map f := by
  have hpred : ((fun t => isLive t && decide (t.handle = h)) ∘ fun t => if isLive t && decide (t.handle = h) then f t else t) =
      fun t => isLive t && decide (t.handle = h) := by
    funext t
    obtain ⟨hl, hh⟩ := hf t
    simp only [Function.comp]
    split
    · rw [hl, hh]
    · rfl
  unfold findThread modThread
  obtain ⟨hl, hh⟩ := hf s.th
  by_cases hth : (isLive s.th && decide (s.th.handle = h)) = true
  · simp only [if_pos hth, hl, hh, Option.map_some]
  · simp only [if_neg hth, List.find?_map, hpred]
    cases hr : s.rest.find? (fun t => isLive t && decide (t.handle = h)) with
    | none => rfl
    | some t => exact congrArg some (if_pos (List.find?_some (p := fun t => isLive t && decide (t.handle = h)) hr))

/-- Of a thread that is not saved no image is written. -/
theorem writeImage_of_not_away (ha : ∀ t, findThread s h = some t → isAway t = false) : writeImage s h = s := by
  unfold writeImage
  cases ht : findThread s h with
  | none => rfl
  | some t =>
    dsimp only
    rw [ha t ht, Bool.false_and, if_neg Bool.false_ne_true]

theorem ringMod_keeps (t : Thread) (q : BitVec 16) (f : RingEntry → RingEntry) :
    (isLive (ringMod t q f) = isLive t ∧ (ringMod t q f).handle = t.handle) ∧ isAway (ringMod t q f) = isAway t := by
  unfold ringMod
  dsimp only
  split <;> exact ⟨⟨rfl, rfl⟩, rfl⟩

/-- The thread that is found after a change of its ring. -/
theorem findThread_modRing (s : State) (h : Handle) (q : BitVec 16) (f : RingEntry → RingEntry) :
    findThread (modThread s h (fun t => ringMod t q f)) h = (findThread s h).map (fun t => ringMod t q f) :=
  findThread_modThread (fun t => by obtain ⟨hkeeps, -⟩ := ringMod_keeps t q f; exact hkeeps)

theorem ringAt_ringMod {t : Thread} {f : RingEntry → RingEntry} (hs : (ringAt t q).state ≠ 0) (hq : (ringAt t q).seq = q) :
    ringAt (ringMod t q f) q = f (ringAt t q) := by
  have hmod : ringMod t q f = ringSet t q (f (ringAt t q)) := if_pos (by simpa [hq] using hs)
  rw [hmod]
  exact sget_sset_same

/-- The ring of a thread that is not saved changes in its record alone. -/
theorem modRing_of_not_away {f : RingEntry → RingEntry} (ha : ∀ t, findThread s h = some t → isAway t = false) :
    modRing s h (fun t => ringMod t q f) = modThread s h (fun t => ringMod t q f) := by
  refine writeImage_of_not_away (fun t ht => ?_)
  obtain ⟨v, hv, rfl⟩ := Option.map_eq_some_iff.mp ((findThread_modRing s h q f).symm.trans ht)
  obtain ⟨-, haway⟩ := ringMod_keeps v q f
  exact haway.trans (ha v hv)

theorem modThread_keeps (s : State) (h : Handle) (f : Thread → Thread) : (modThread s h f).units = s.units ∧ (modThread s h f).mem = s.mem ∧
    (modThread s h f).cmds = s.cmds := by
  unfold modThread
  split <;> exact ⟨rfl, rfl, rfl⟩

theorem findCmd_modThread (s : State) (h : Handle) (f : Thread → Thread) : findCmd (modThread s h f) h q = findCmd s h q := by
  obtain ⟨-, -, hcmds⟩ := modThread_keeps s h f
  exact congrArg (List.find? _) hcmds

theorem modRing_units (s : State) (h : Handle) (f : Thread → Thread) : (modRing s h f).units = s.units := by
  obtain ⟨hunits, -, -⟩ := modThread_keeps s h f
  exact (writeImage_beside _ h).units.trans hunits

theorem findCmd_modCmd_some {f : Command → Command} (hc : findCmd s h q = some c) (hf : ∀ c, isCmd h q (f c) = isCmd h q c) :
    findCmd (modCmd s h q f) h q = some (f c) := (findCmd_modCmd hf).trans (congrArg (Option.map f) hc)

/-! ### Commands of the unit: their end, and their faults -/

/-- The end of a command that is no network command leaves the units and the threads beside the one in focus alone. -/
theorem endCmd_units_rest (hnet : ∀ c, findCmd s h q = some c → c.net = none) (st : BitVec 8) (res : BitVec 32) :
    (endCmd s h q st res).units = s.units ∧ (endCmd s h q st res).rest = s.rest := by
  have hplain : endCmd s h q st res = endOne s h q st res := by
    have hbind : (findCmd s h q).bind (fun c => c.net) = none := Option.bind_eq_none_iff.mpr hnet
    simp only [endCmd, hbind]
  rw [hplain]
  obtain he | ⟨e, he⟩ := endOne_cases s h q st res <;> rw [he] <;> exact ⟨rfl, rfl⟩

/-- A thread past its exit is not saved. -/
theorem not_away_of_gone (hg : gone s h = true) {t : Thread} (ht : findThread s h = some t) : isAway t = false := by
  unfold gone at hg
  rw [ht] at hg
  unfold isAway
  cases hst : t.status with
  | away x => simp [hst] at hg
  | _ => simp

theorem gone_of_ready {t : Thread} (ht : findThread s h = some t) (hst : t.status = .ready) : gone s h = false := by
  unfold gone
  rw [ht]
  simp [hst]

/-! ### The K-step of a command, by its outcome (R240, R244) -/

/-- The slot of the A operand at the point of the nest (R240). -/
def slotOfA (c : Command) : Int := field (nthWord c.words 0) 14 6 + nestSum (nestPoint c) (mmaStrides c).1

/-- The slot of the B operand. -/
def slotOfB (c : Command) : Int := field (nthWord c.words 0) 20 6 + nestSum (nestPoint c) (mmaStrides c).2

/-- The tile of a command after a K-step of slots `x` and `y`: its elements, and the count (R63, R247). -/
def tileAfter (t : Tile) (c : Command) (x y : OpSlot) : Tile :=
  { t with elems := kStepTile t x y, cls := if slotFmt x = .int8 then 2 else 1, count := t.count + 1, lseq := c.seq }

/-- The command with one K-step more. -/
def counted (c : Command) : Command := { c with count := c.count + 1 }

/-- The state in which a command's tile has taken the K-step, and the command has counted it. -/
def afterKStep (s : State) (c : Command) : State :=
  let u := unitOf c.core
  let j := tileNum c.core
  modCmd (setTile s u j (tileAfter (tileAt s u j) c (slotAt s u (slotOfA c).toNat) (slotAt s u (slotOfB c).toNat))) c.handle c.seq counted

theorem runKStep_faults {f : RunFault} (h : kStepBad s c (slotOfA c) (slotOfB c) = some f) : runKStep s c = parkWith s c f := by
  unfold slotOfA slotOfB at h
  simp only [runKStep, h]

theorem runKStep_ends (h : kStepBad s c (slotOfA c) (slotOfB c) = none) (hv : nextVec c 2 = none) :
    runKStep s c = endCmd (afterKStep s c) c.handle c.seq 0 (BitVec.ofNat 32 (c.count + 1)) := by
  unfold slotOfA slotOfB at h
  simp only [runKStep, h, hv]
  rfl

theorem runKStep_goes_on {v : BitVec 64} (h : kStepBad s c (slotOfA c) (slotOfB c) = none) (hv : nextVec c 2 = some v) :
    runKStep s c = modCmd (afterKStep s c) c.handle c.seq (fun c => { c with vec := v }) := by
  unfold slotOfA slotOfB at h
  simp only [runKStep, h, hv]
  rfl

end
end Sys2Proof.Machine

namespace Sys2Proof.Machine
open Sys2Proof

section
variable {s s' t t' : State} {h : Handle} {q : BitVec 16} {c : Command} {u : BitVec 8} {k : UnitState} {f : RunFault}

/-! ### What the turns of a unit leave alone (R237) -/

/-- Threads and memory, the commands, and the slots and tiles of the unit are as they were, and no action is withdrawn. -/
structure TurnPasses (u : BitVec 8) (s t : State) : Prop extends OnlyAsks s t where
  cmds : t.cmds = s.cmds
  slots : (unitAt t u).slots = (unitAt s u).slots
  tiles : (unitAt t u).tiles = (unitAt s u).tiles

theorem TurnPasses.refl : TurnPasses u s s := ⟨.refl, rfl, rfl, rfl⟩

theorem unitAt_setUnit_same (s : State) (u : BitVec 8) (k : UnitState) : unitAt (setUnit s u k) u = k := sget_sset_same

theorem setUnit_turnPasses (hs : k.slots = (unitAt s u).slots) (ht : k.tiles = (unitAt s u).tiles) : TurnPasses u s (setUnit s u k) :=
  ⟨⟨rfl, rfl, rfl, fun _ h => h⟩, rfl, (congrArg _ (unitAt_setUnit_same s u k)).trans hs, (congrArg _ (unitAt_setUnit_same s u k)).trans ht⟩

theorem pend_turnPasses (s : State) (e : Event) : TurnPasses u s (pend s e) := ⟨pend_onlyAsks s e, rfl, rfl, rfl⟩

theorem nextBoundary_turnPasses (s : State) (u : BitVec 8) : TurnPasses u s (nextBoundary s u) := by
  unfold nextBoundary pendOnce
  split
  · split
    · exact .refl
    · exact pend_turnPasses ..
  · exact setUnit_turnPasses rfl rfl

/-- The arbiter's state is all that the choice of a turn changes. -/
theorem nextTurn_tables (h : nextTurn s u = some (c, k)) : k.slots = (unitAt s u).slots ∧ k.tiles = (unitAt s u).tiles := by
  unfold nextTurn at h
  dsimp only at h
  split at h
  · cases h
    exact ⟨rfl, rfl⟩
  · split at h
    · cases h
      exact ⟨rfl, rfl⟩
    · cases h

theorem TurnPasses.findCmd (p : TurnPasses u s t) : findCmd t h q = findCmd s h q := congrArg _ p.cmds

theorem TurnPasses.findThread (p : TurnPasses u s t) : findThread t h = findThread s h := by
  unfold Machine.findThread
  rw [p.th, p.rest]

theorem TurnPasses.slotAt (p : TurnPasses u s t) (i : Nat) : slotAt t u i = slotAt s u i := congrArg (sget _ · i) p.slots

theorem TurnPasses.tileAt (p : TurnPasses u s t) (j : Nat) : tileAt t u j = tileAt s u j := congrArg (sget _ · j) p.tiles

theorem TurnPasses.kStepBad (p : TurnPasses (unitOf c.core) s t) (a b : Int) : kStepBad t c a b = kStepBad s c a b := by
  unfold Machine.kStepBad
  simp only [p.slotAt, p.tileAt]

theorem TurnPasses.hasEnded (p : TurnPasses u s t) {st : BitVec 8} {res : BitVec 32} (he : hasEnded s h q st res) : hasEnded t h q st res := by
  obtain ⟨hp, hc⟩ := he
  exact ⟨p.pending _ hp, fun c hf => hc c (p.findCmd.symm.trans hf)⟩

theorem TurnPasses.parks (p : TurnPasses u s s') (r : TurnPasses u t' t) {cause : Cause} {sub : BitVec 8} {val : Word}
    (hk : parks s' t' c cause sub val) : parks s t c cause sub val := by
  intro x hx hready hstate hseq
  obtain ⟨hcmd, v, hv, hring⟩ := hk x (p.findThread.trans hx) hready hstate hseq
  exact ⟨fun d hd => hcmd d (r.findCmd.symm.trans hd), v, r.findThread.trans hv, hring⟩

/-! ### A K-step that fails a check (R197, R200, R244) -/

/-- The command with its fault. -/
def parkedWith (f : RunFault) (c : Command) : Command := { c with state := .parked, fault := some (causeCode f.cause, f.sub, f.val) }

/-- The ring entry of a command that is parked with the fault (R200). -/
def parkedEntry (f : RunFault) (c : Command) (e : RingEntry) : RingEntry := { e with state := 2, status := f.sub, vec := c.vec }

/-- The ring entry of a command that is parked no longer (R200). -/
def outstandingEntry (e : RingEntry) : RingEntry := { e with state := 1, status := 0, vec := 0 }

theorem askWalk_turnPasses (s : State) (c : BitVec 7) (asid : BitVec 12) (va : Nat) : TurnPasses u s (askWalk s c asid va) := by
  unfold askWalk
  split
  · exact .refl
  · exact pend_turnPasses ..

/-- Parking asks for a walk at most, and then parks the command by its name. -/
theorem parkWith_asks (u : BitVec 8) (s : State) (c : Command) (f : RunFault) :
    ∃ s', TurnPasses u s s' ∧ parkWith s c f = parkCmd s' c.handle c.seq f.cause f.sub f.val := by
  unfold parkWith
  dsimp only
  split
  · exact ⟨_, askWalk_turnPasses .., rfl⟩
  · exact ⟨_, .refl, rfl⟩

theorem parkCmd_gone (hc : findCmd s h q = some c) (hg : gone s h = true) : parkCmd s h q f.cause f.sub f.val = cancelCmd s c := by
  simp only [parkCmd, hc, hg, if_true]

/-- Of a thread that has left, the command is cancelled: its ring entry changes, and it ends. -/
theorem cancelCmd_gone (hg : gone s c.handle = true) : cancelCmd s c =
    endCmd (modThread s c.handle (fun t => ringMod t c.seq outstandingEntry)) c.handle c.seq 1 (countOf c) := by
  have hring := modRing_of_not_away (s := s) (h := c.handle) (q := c.seq) (f := outstandingEntry) (fun t ht => not_away_of_gone hg ht)
  exact congrArg (fun s => endCmd s c.handle c.seq 1 (countOf c)) hring

theorem parkCmd_here (hc : findCmd s h q = some c) (hg : gone s h = false) : parkCmd s h q f.cause f.sub f.val =
    modRing (modCmd s h q (parkedWith f)) h (fun t => ringMod t q (parkedEntry f c)) := by
  simp only [parkCmd, hc, hg]
  rfl

theorem parkCmd_parks (hc : findCmd s c.handle c.seq = some c) :
    parks s (parkCmd s c.handle c.seq f.cause f.sub f.val) c f.cause f.sub f.val := by
  intro x hx hready hstate hseq
  have haway : ∀ t, findThread (modCmd s c.handle c.seq (parkedWith f)) c.handle = some t → isAway t = false := by
    intro t ht
    cases hx.symm.trans ht
    simp [isAway, hready]
  have hcmd : findCmd (modCmd s c.handle c.seq (parkedWith f)) c.handle c.seq = some (parkedWith f c) :=
    findCmd_modCmd_some hc (fun _ => rfl)
  rw [parkCmd_here hc (gone_of_ready hx hready), modRing_of_not_away haway]
  refine ⟨fun d hd => ?_, _, (findThread_modRing ..).trans (congrArg _ hx), ringAt_ringMod hstate hseq⟩
  cases hcmd.symm.trans ((findCmd_modThread ..).symm.trans hd)
  exact ⟨rfl, rfl, rfl⟩

/-- Parking leaves the units alone, and memory where the command's thread is not saved. -/
theorem parkCmd_keeps (hc : findCmd s c.handle c.seq = some c) (hnet : c.net = none) :
    (parkCmd s c.handle c.seq f.cause f.sub f.val).units = s.units ∧
      ((∀ t, findThread s c.handle = some t → isAway t = false) → (parkCmd s c.handle c.seq f.cause f.sub f.val).mem = s.mem) := by
  cases hg : gone s c.handle with
  | true =>
    obtain ⟨hunits, hmem, -⟩ := modThread_keeps s c.handle (fun t => ringMod t c.seq outstandingEntry)
    have hplain : ∀ d, findCmd (modThread s c.handle (fun t => ringMod t c.seq outstandingEntry)) c.handle c.seq = some d → d.net = none := by
      intro d hd
      cases hc.symm.trans ((findCmd_modThread ..).symm.trans hd)
      exact hnet
    obtain ⟨hunits', -⟩ := endCmd_units_rest hplain 1 (countOf c)
    obtain ⟨-, -, hmem'⟩ := endCmd_ends hplain 1 (countOf c)
    rw [parkCmd_gone hc hg, cancelCmd_gone hg]
    exact ⟨hunits'.trans hunits, fun _ => hmem'.trans hmem⟩
  | false =>
    rw [parkCmd_here hc hg]
    refine ⟨modRing_units .., fun haway => ?_⟩
    obtain ⟨-, hmem, -⟩ := modThread_keeps (modCmd s c.handle c.seq (parkedWith f)) c.handle (fun t => ringMod t c.seq (parkedEntry f c))
    rw [modRing_of_not_away (s := modCmd s c.handle c.seq (parkedWith f)) haway]
    exact hmem

end
end Sys2Proof.Machine

namespace Sys2Proof.Machine
open Sys2Proof

section
variable {s t : State} {c : Command} {u : BitVec 8} {k : UnitState} {f : RunFault}

/-! ### A K-step that is made (R63, R237, R240) -/

/-- The tile of a core is of the core's unit. -/
theorem unitOf_tileCore (u : BitVec 8) {j : Nat} (hj : j < 8) : unitOf (tileCore u j) = u := by
  refine BitVec.eq_of_toNat_eq ?_
  have hu := u.isLt
  simp only [unitOf, tileCore, bits, BitVec.extractLsb'_toNat, BitVec.toNat_ofNat, Nat.shiftRight_eq_div_pow]
  omega

theorem firstFault_none {l : List (Bool × RunFault)} : firstFault l = none ↔ ∀ e ∈ l, e.1 = false := by
  simp only [firstFault, Option.map_eq_none_iff, List.find?_eq_none, Bool.not_eq_true]

/-- A K-step that no check stops reads two of the 64 slots, in formats that R60 pairs. -/
theorem kStepBad_none {a b : Int} (h : kStepBad s c a b = none) : a.toNat < 64 ∧ b.toNat < 64 ∧
    pairOk (slotAt s (unitOf c.core) a.toNat) (slotAt s (unitOf c.core) b.toNat) = true := by
  unfold kStepBad at h
  dsimp only at h
  split at h
  · cases h
  next hin =>
    rw [firstFault_none] at hin h
    simp only [List.forall_mem_cons, Bool.or_eq_false_iff, decide_eq_false_iff_not, Bool.not_eq_false'] at hin h
    obtain ⟨⟨ha, ha'⟩, ⟨hb, hb'⟩, -⟩ := hin
    obtain ⟨-, -, -, -, hpair, -⟩ := h
    exact ⟨by omega, by omega, hpair⟩

theorem tileAt_congr (h : t.units = s.units) (u : BitVec 8) (j : Nat) : tileAt t u j = tileAt s u j := by
  unfold tileAt unitAt
  rw [h]

theorem tileAt_setTile_same (s : State) (u : BitVec 8) (j : Nat) (x : Tile) : tileAt (setTile s u j x) u j = x := by
  unfold tileAt setTile
  rw [unitAt_setUnit_same]
  exact sget_sset_same

/-- What the K-step makes of the state (R63, R240): the tile has its new elements and counts; threads and memory are as they were. -/
theorem afterKStep_keeps (s : State) (c : Command) : (afterKStep s c).th = s.th ∧ (afterKStep s c).rest = s.rest ∧ (afterKStep s c).mem = s.mem ∧
    tileAt (afterKStep s c) (unitOf c.core) (tileNum c.core) = tileAfter (tileAt s (unitOf c.core) (tileNum c.core)) c
      (slotAt s (unitOf c.core) (slotOfA c).toNat) (slotAt s (unitOf c.core) (slotOfB c).toNat) :=
  ⟨rfl, rfl, rfl, tileAt_setTile_same ..⟩

theorem findCmd_afterKStep (hc : findCmd s c.handle c.seq = some c) : findCmd (afterKStep s c) c.handle c.seq = some (counted c) :=
  findCmd_modCmd_some (c := c) (f := counted) hc (fun _ => rfl)

/-- A state after a K-step of the command: threads and memory are as they were, the tile is changed, and the command goes on or has ended. -/
structure Stepped (s t : State) (c : Command) : Prop where
  th : t.th = s.th
  rest : t.rest = s.rest
  mem : t.mem = s.mem
  tile : tileAt t (unitOf c.core) (tileNum c.core) = tileAfter (tileAt s (unitOf c.core) (tileNum c.core)) c
    (slotAt s (unitOf c.core) (slotOfA c).toNat) (slotAt s (unitOf c.core) (slotOfB c).toNat)
  ended : nextVec c 2 = none → hasEnded t c.handle c.seq 0 (BitVec.ofNat 32 (c.count + 1))
  goesOn : ∀ v, nextVec c 2 = some v → ∀ d, findCmd t c.handle c.seq = some d → d.vec = v ∧ d.count = c.count + 1

theorem runKStep_stepped (hc : findCmd s c.handle c.seq = some c) (hnet : c.net = none)
    (hbad : kStepBad s c (slotOfA c) (slotOfB c) = none) : Stepped s (runKStep s c) c := by
  obtain ⟨hth, hrest, hmem, htile⟩ := afterKStep_keeps s c
  have hcmd := findCmd_afterKStep hc
  cases hv : nextVec c 2 with
  | none =>
    have hplain : ∀ d, findCmd (afterKStep s c) c.handle c.seq = some d → d.net = none := by
      intro d hd
      cases hcmd.symm.trans hd
      exact hnet
    obtain ⟨hended, hth', hmem'⟩ := endCmd_ends hplain 0 (BitVec.ofNat 32 (c.count + 1))
    obtain ⟨hunits, hrest'⟩ := endCmd_units_rest hplain 0 (BitVec.ofNat 32 (c.count + 1))
    rw [runKStep_ends hbad hv]
    refine ⟨hth'.trans hth, hrest'.trans hrest, hmem'.trans hmem, ?_, fun _ => hended, fun v h => ?_⟩
    · exact (tileAt_congr hunits ..).trans htile
    · rw [hv] at h
      cases h
  | some v =>
    have hmod := findCmd_modCmd_some (f := fun c => { c with vec := v }) hcmd (fun _ => rfl)
    rw [runKStep_goes_on hbad hv]
    refine ⟨hth, hrest, hmem, htile, fun h => ?_, fun w hw d hd => ?_⟩
    · rw [hv] at h
      cases h
    · cases hv.symm.trans hw
      cases hmod.symm.trans hd
      exact ⟨rfl, rfl⟩

theorem Stepped.of_passes {s' t' : State} (p : TurnPasses (unitOf c.core) s s') (h : Stepped s' t' c)
    (r : TurnPasses (unitOf c.core) t' t) : Stepped s t c where
  th := r.th.trans (h.th.trans p.th)
  rest := r.rest.trans (h.rest.trans p.rest)
  mem := r.mem.trans (h.mem.trans p.mem)
  tile := by
    have htile := (r.tileAt _).trans h.tile
    rwa [p.tileAt, p.slotAt, p.slotAt] at htile
  ended hv := r.hasEnded (h.ended hv)
  goesOn v hv d hd := h.goesOn v hv d (r.findCmd.symm.trans hd)

/-- A fault parks the command, leaves the tiles of its unit alone, and memory where its thread is not saved. -/
theorem parkWith_settles (hc : findCmd s c.handle c.seq = some c) (hnet : c.net = none) :
    parks s (parkWith s c f) c f.cause f.sub f.val ∧
      (∀ j, tileAt (parkWith s c f) (unitOf c.core) j = tileAt s (unitOf c.core) j) ∧
      ((∀ t, findThread s c.handle = some t → isAway t = false) → (parkWith s c f).mem = s.mem) := by
  obtain ⟨s', hasks, hpark⟩ := parkWith_asks (unitOf c.core) s c f
  have hc' := hasks.findCmd.trans hc
  obtain ⟨hunits, hmem⟩ := parkCmd_keeps (f := f) hc' hnet
  rw [hpark]
  refine ⟨hasks.parks .refl (parkCmd_parks hc'), fun j => (tileAt_congr hunits ..).trans (hasks.tileAt j), fun haway => ?_⟩
  exact (hmem (fun t ht => haway t (hasks.findThread.symm.trans ht))).trans hasks.mem

/-- A K-step of the unit is one of the command whose turn it is, with nothing else changed before and after. -/
theorem exec_kStep (h : nextTurn s u = some (c, k)) : ∃ s', TurnPasses u s s' ∧ TurnPasses u (runKStep s' c) (nextBoundary (runKStep s' c) u) ∧
    exec (.kStep u) s = .next (nextBoundary (runKStep s' c) u) := by
  obtain ⟨hslots, htiles⟩ := nextTurn_tables h
  have hrun : exec (.kStep u) s = execKStep u s := rfl
  refine ⟨setUnit s u k, setUnit_turnPasses hslots htiles, nextBoundary_turnPasses .., ?_⟩
  rw [hrun]
  simp only [execKStep, h]

end
end Sys2Proof.Machine

open Sys2Proof Sys2Proof.Machine in
/-- Settles O38: the arbiter changes no table of the unit; a K-step is then its tile's elements, one by one, or the parking of its command. -/
theorem kStepsAccumulate : Obligations.KStepsAccumulate := by
  unfold Obligations.KStepsAccumulate
  intro s u c k hwf hturn hc hcore hnet _ j a b x y
  have hj : j < 8 := Nat.mod_lt _ (by norm_num)
  have hu : u = unitOf c.core := by
    rw [hcore]
    exact (unitOf_tileCore u hj).symm
  obtain ⟨s', hbefore, hafter, hrun⟩ := exec_kStep hturn
  have hc' := hbefore.findCmd.trans hc
  subst hu
  refine ⟨fun hbad => ?_, fun f hbad => ?_⟩
  · obtain ⟨ha, hb, hpair⟩ := kStepBad_none hbad
    have hstep := (runKStep_stepped hc' hnet ((hbefore.kStepBad ..).trans hbad)).of_passes hbefore hafter
    obtain ⟨hslots, htiles⟩ := hwf
    refine ⟨_, _, hrun, ⟨hstep.th, hstep.rest⟩, hstep.mem, hstep.tile, rfl, rfl, rfl, rfl, fun r hr n hn => ?_, hstep.ended, hstep.goesOn⟩
    exact kStepTile_elem (hslots _ ha) (hslots _ hb) (htiles j hj) hpair hr hn
  · rw [runKStep_faults ((hbefore.kStepBad ..).trans hbad)] at hafter hrun
    obtain ⟨hparks, htile, hmem⟩ := parkWith_settles (f := f) hc' hnet
    refine ⟨_, hrun, hbefore.parks hafter hparks, (hafter.tileAt j).trans ((htile j).trans (hbefore.tileAt j)), fun haway => ?_⟩
    exact hafter.mem.trans ((hmem (fun t ht => haway t (hbefore.findThread.symm.trans ht))).trans hbefore.mem)

namespace Sys2Proof.Machine
open Sys2Proof

/-! ### A run of DRAIN while a landing is unanswered (R241) -/

/-- A command that its landing has not been answered for sends nothing: it is looked at again. -/
theorem drain_waits_for_answer {s : State} {core : BitVec 11} {c : Command} (hh : headCmd s core = some (c, true)) (hk : c.kind = 2)
    (ha : c.acks ≠ 0) : exec (.drain core) s = .next (pend s (.drain core)) := by
  have hrun : exec (.drain core) s = execDrain core s := rfl
  simp only [hrun, execDrain, hh, hk, ne_eq, not_true_eq_false, if_false, if_neg ha]

/-- `DRAIN` of one FP32 element of row 0 to lane 0 of `V4`, in its queue; the landing of an earlier run is not answered. -/
def drainUnanswered : Command :=
  { (default : Command) with port := .e0, kind := 2, words := [0x00020402, 0x5000000000020000, 0, 0], acks := 1 }

/-- The device with that command, tile 0 of unit 0 being its thread's. -/
def drainingUnanswered : State :=
  { State.reset with cmds := [drainUnanswered]
                     units := [(0, { UnitState.init with tiles := [(0, { Tile.init with owner := some 0 })] })] }

end Sys2Proof.Machine
open Sys2Proof Sys2Proof.Machine
open Sys2Proof Sys2Proof.Machine in
/-- Refutes O39: its second part does not ask that the landing of the run before is answered, and until it is `DRAIN` sends nothing (R241). -/
theorem not_matrixCommands : ¬ Obligations.MatrixCommands := by
  unfold Obligations.MatrixCommands
  rintro ⟨-, hdrain, -⟩
  have hhead : headCmd drainingUnanswered 0 = some (drainUnanswered, true) := by decide
  obtain ⟨t, ht, -, -, -, ⟨p, hp, -⟩, -⟩ := hdrain drainingUnanswered 0 drainUnanswered hhead rfl rfl rfl rfl rfl (by decide) (by decide)
    .fp32 .rne (by decide) (by decide) (by decide) (by decide) (by decide) rfl (by decide)
  obtain rfl := Host.Outcome.next.inj ((drain_waits_for_answer hhead rfl (by decide)).symm.trans ht)
  exact List.not_mem_nil hp

namespace Sys2Proof.Machine
open Sys2Proof
set_option Elab.async false

section
variable {s : State} {slot : Slot} {p : Plan}

/-! ### Byte strings (R2) -/

theorem leBytes_length (n x : Nat) : (leBytes n x).length = n := by
  induction n generalizing x with
  | zero => rfl
  | succ n ih => rw [leBytes, List.length_cons, ih]

/-! ### What a fence holds (R168) -/

/-- A bundle whose checks pass, and that may not be sent, is held. -/
theorem conclude_held (hw : InWindow s p.specs) (hn : Ready s p.needs) (hb : p.bad = none) (hl : Ready s p.late) (hh : p.hold = true) :
    conclude slot p s = .next { s with last := .held } := by
  simp only [conclude, outside_eq_none hw, all_present hn, hb, all_present hl, hh, if_true]

theorem InWindow.nil : InWindow s [] := fun _ h => absurd h List.not_mem_nil

theorem Ready.nil : Ready s [] := fun _ h => absurd h List.not_mem_nil

/-- A plan of a memory instruction that a fence names is held once its operands are present and its checks have passed. -/
theorem memPlan_fenced {specs : List (BitVec 8)} {needs : List Reg} {rw' : BitVec 4} {next : State} (hw : InWindow s specs)
    (hn : Ready s needs) (hf : fenced s s.th rw' = true) :
    conclude slot (memPlan s specs needs rw' none next) s = .next { s with last := .held } := by
  refine conclude_held hw hn rfl Ready.nil ?_
  rw [memPlan, hf, Bool.or_true]

/-- What is outstanding in a set of R76 is outstanding. -/
theorem outstanding_subset (s : State) (o : Origin) (set : BitVec 4) : outstanding s o set ⊆ outstanding s o 0xF := by
  have h0 : bit (0xF : BitVec 4) 0 = true := rfl
  have h1 : bit (0xF : BitVec 4) 1 = true := rfl
  have h2 : bit (0xF : BitVec 4) 2 = true := rfl
  have h3 : bit (0xF : BitVec 4) 3 = true := rfl
  intro n hn
  simp only [outstanding, List.mem_append, List.mem_filterMap, or_assoc, h0, h1, h2, h3] at hn ⊢
  rcases hn with ⟨e, he, hs⟩ | ⟨q, hq, hs⟩ | ⟨c, hc, hs⟩
  · refine .inl ⟨e, he, ?_⟩
    split at hs
    · simp_all
    · simp_all
    · simp_all
    · split at hs <;> simp_all
  · exact .inr (.inl ⟨q, hq, by simp_all⟩)
  · exact .inr (.inr ⟨c, hc, by simp_all⟩)

/-- Is an event that a fence names not yet performed? -/
def standing (s : State) (f : BitVec 4 × List Nat) : Bool := f.2.any (fun n => (outstanding s (senderOf s s.th) 0xF).contains n)

/-- The fences of the thread once one more has been met: those that stand, and the new one where it has anything to hold or to wait for. -/
def fencesAfter (s : State) (u p : BitVec 4) : List (BitVec 4 × List Nat) :=
  if outstanding s (senderOf s s.th) p = [] || u = 0 then s.th.fences.filter (standing s)
  else s.th.fences.filter (standing s) ++ [(u, outstanding s (senderOf s s.th) p)]

theorem fenced_of_fences (l : List (BitVec 4 × List Nat)) (set : BitVec 4) :
    fenced s { s.th with fences := l } set = l.any (fun f => decide (f.1 &&& set ≠ 0) && standing s f) := rfl

theorem exec_fence (sc : Scope) (u p : BitVec 4) : exec (.fence false sc u p) s = becomes s { advance s.th with fences := fencesAfter s u p } :=
  conclude_done (s := s) (slot := .c)
    (p := { specs := [], needs := [], bad := none, hold := false, next := setTh s { advance s.th with fences := fencesAfter s u p } })
    InWindow.nil Ready.nil rfl Ready.nil rfl

theorem exec_fence_fetch {sc : Scope} {u p : BitVec 4} (h : outstanding s (senderOf s s.th) p = []) :
    exec (.fence true sc u p) s = becomes s { advance s.th with fences := fencesAfter s u p, fetched := [] } := by
  have hrun : exec (.fence true sc u p) s = conclude .c { specs := [], needs := [], bad := none
                                                          hold := true && outstanding s (senderOf s s.th) p ≠ []
                                                          next := setTh s { advance s.th with fences := fencesAfter s u p, fetched := [] } } s := rfl
  exact hrun.trans (conclude_done InWindow.nil Ready.nil rfl Ready.nil (by simp [h]))

theorem exec_fence_fetch_waits {sc : Scope} {u p : BitVec 4} (h : outstanding s (senderOf s s.th) p ≠ []) :
    exec (.fence true sc u p) s = .next { s with last := .held } := by
  have hrun : exec (.fence true sc u p) s = conclude .c { specs := [], needs := [], bad := none
                                                          hold := true && outstanding s (senderOf s s.th) p ≠ []
                                                          next := setTh s { advance s.th with fences := fencesAfter s u p, fetched := [] } } s := rfl
  exact hrun.trans (conclude_held InWindow.nil Ready.nil rfl Ready.nil (by simp [h]))

/-- A fence whose events are all performed holds nothing, so that it may be dropped. -/
theorem fenced_standing (set : BitVec 4) : fenced s { s.th with fences := s.th.fences.filter (standing s) } set = fenced s s.th set := by
  rw [fenced_of_fences, fenced_of_fences (s := s) s.th.fences, List.any_filter]
  refine congrArg (List.any s.th.fences) (funext fun f => ?_)
  rw [Bool.and_left_comm, Bool.and_self]

/-- A fence that has anything to wait for stands. -/
theorem standing_of_outstanding (u : BitVec 4) {p : BitVec 4} (h : outstanding s (senderOf s s.th) p ≠ []) :
    standing s (u, outstanding s (senderOf s s.th) p) = true := by
  obtain ⟨n, hn⟩ := List.exists_mem_of_ne_nil _ h
  exact List.any_eq_true.mpr ⟨n, hn, List.contains_iff_mem.mpr (outstanding_subset s _ p hn)⟩

/-- What the fences hold then: what they held, and the successor set of the new one, where anything of its predecessor set is not performed. -/
theorem fenced_fencesAfter (u p set : BitVec 4) : fenced s { s.th with fences := fencesAfter s u p } set = true ↔
    fenced s s.th set = true ∨ (u &&& set ≠ 0 ∧ outstanding s (senderOf s s.th) p ≠ []) := by
  by_cases hmine : outstanding s (senderOf s s.th) p = []
  · simp [fencesAfter, hmine, fenced_standing]
  · by_cases hu : u = 0
    · simp [fencesAfter, hu, fenced_standing]
    · have hafter : fencesAfter s u p = s.th.fences.filter (standing s) ++ [(u, outstanding s (senderOf s s.th) p)] := by
        rw [fencesAfter, decide_eq_false hmine, decide_eq_false hu, Bool.or_self, if_neg Bool.false_ne_true]
      rw [← fenced_standing, hafter, fenced_of_fences, fenced_of_fences, List.any_append, List.any_cons, List.any_nil, Bool.or_false,
        Bool.or_eq_true, standing_of_outstanding u hmine, Bool.and_true, decide_eq_true_eq]
      simp only [hmine, ne_eq, not_false_eq_true, and_true]

/-! ### Landings in registers -/

theorem accessBad_nil (t : Thread) : accessBad s t [] [] = none := rfl

theorem laAlign_register {la : Word} (h : laSpace la = 1) (n : Nat) : laAlign la n = [] := by
  simp [laAlign, h]

theorem laChunks_register {la : Word} (h : laSpace la = 1) (n : Nat) : laChunks la n = [] := by
  simp [laChunks, h]

theorem laBad_register {la : Word} {n : Nat} {lamk cond : Bool} (h : laSpace la = 1) (hm : laMalformed la = false) (hd : laDev la = s.dev)
    (hc : laCrosses la n lamk = false) : laBad s la n lamk cond = none := by
  simp [laBad, h, hm, hc, laUnreachable, hd]

/-- A landing instruction to a register of this device is held by a fence that names landings. -/
theorem landNow_fenced {specs : List (BitVec 8)} {needs : List Reg} {la : Word} {payload : List Byte} {mask : Option Word} {cond rel : Bool}
    (hw : InWindow s specs) (hn : Ready s needs) (h : laSpace la = 1) (hm : laMalformed la = false) (hd : laDev la = s.dev)
    (hc : laCrosses la payload.length mask.isSome = false) (hf : fenced s s.th 4 = true) :
    landNow slot specs needs la payload mask cond rel s = .next { s with last := .held } := by
  simp only [landNow, laAlign_register h, laChunks_register h, accessBad_nil, laBad_register h hm hd hc]
  exact memPlan_fenced hw hn hf

/-! ### What a fence holds, by form -/

section
variable {i : Instr} {d a b c : BitVec 6} {wd : Width} {off : Word} {x q : Bool}

theorem widthBytes_eq (wd : Width) : widthBytes wd = sizeOf' wd := by
  cases wd <;> rfl

/-- `LDL` with a register of this device as target is held by a fence that names reads or landings. -/
theorem landLoad_fenced (hn : Ready s [.s d, .s a]) (h : laSpace (rdS s.th d) = 1) (hm : laMalformed (rdS s.th d) = false)
    (hd : laDev (rdS s.th d) = s.dev)
    (hc : laCrosses (rdS s.th d) (if wd = .d ∨ laClass (rdS s.th d) ≠ 1 then 8 else 4) false = false)
    (hok : accessBad s s.th [((rdS s.th a + off).toNat, sizeOf' wd)] (chunks .r (rdS s.th a + off).toNat (sizeOf' wd) 0) = none)
    (hf : fenced s s.th 5 = true) : landLoad d a wd off q s = .next { s with last := .held } := by
  have hlen : (ldlPayload (rdS s.th d) (List.replicate (sizeOf' wd) 0)).length = if wd = .d ∨ laClass (rdS s.th d) ≠ 1 then 8 else 4 := by
    cases wd <;> by_cases hclass : laClass (rdS s.th d) = 1 <;> simp [ldlPayload, h, hclass, sizeOf', leBytes_length]
  rw [← hlen] at hc
  simp only [landLoad, widthBytes_eq, laAlign_register h, laChunks_register h, List.append_nil, hok, laBad_register h hm hd hc]
  exact memPlan_fenced InWindow.nil hn hf

/-- A scalar load is held by a fence that names reads. -/
theorem load_fenced (hi : loadForm i = some (d, a, wd, off, x, q)) (hn : Ready s [.s d, .s a])
    (hok : accessBad s s.th [((rdS s.th a + off).toNat, sizeOf' wd)] (chunks .r (rdS s.th a + off).toNat (sizeOf' wd) 0) = none)
    (hf : fenced s s.th 1 = true) : exec i s = .next { s with last := .held } := by
  have hheld : loadScalar d a wd off x q s = .next { s with last := .held } := by
    simp only [loadScalar, widthBytes_eq, hok]
    exact memPlan_fenced InWindow.nil hn hf
  cases i <;> cases hi <;> exact hheld

/-- A scalar store is held by a fence that names writes. -/
theorem store_fenced (hi : storeForm i = some (d, a, wd, off, q)) (hn : Ready s [.s d, .s a])
    (hok : accessBad s s.th [((rdS s.th a + off).toNat, sizeOf' wd)] (chunks .w (rdS s.th a + off).toNat (sizeOf' wd) 0) = none)
    (hf : fenced s s.th 2 = true) : exec i s = .next { s with last := .held } := by
  have hheld : storeScalar d a wd off q s = .next { s with last := .held } := by
    simp only [storeScalar, widthBytes_eq, hok]
    exact memPlan_fenced InWindow.nil hn hf
  cases i <;> cases hi <;> exact hheld

/-- An atomic is held by a fence that names reads or writes. -/
theorem amo_fenced {op : AmoOp} {ord : BitVec 2} (hn : Ready s [.s d, .s a, .s b, .s c])
    (hok : accessBad s s.th [((rdS s.th a).toNat, if x then 8 else 4)] (chunks .w (rdS s.th a).toNat (if x then 8 else 4) 0) = none)
    (hf : fenced s s.th 3 = true) : exec (.amo d a b c op x ord) s = .next { s with last := .held } := by
  have hrun : exec (.amo d a b c op x ord) s = execAmo d a b c op x ord s := rfl
  rw [hrun, execAmo]
  refine conclude_held InWindow.nil (fun r hr => hn r ?_) hok (fun r hr => hn r ?_) ?_
  · simp only [memPlan] at hr
    split at hr
    · exact List.mem_cons_of_mem _ hr
    · exact List.mem_cons_of_mem _ (List.mem_append_left [Reg.s c] hr)
  · simp_all
  · simp only [memPlan, hf, Bool.or_true]

/-- `LDL` is held so too. -/
theorem landLoadForm_fenced (hi : landLoadForm i = some (d, a, wd, off, q)) (hheld : landLoad d a wd off q s = .next { s with last := .held }) :
    exec i s = .next { s with last := .held } := by
  cases i <;> cases hi <;> exact hheld

theorem putLanes_eq (n : BitVec 2) : putLanes n = Sys2Proof.lanesOf n := by
  revert n; decide

/-- A landing instruction is the landing that its form names. -/
theorem exec_landingForm {specs : List (BitVec 8)} {needs : List Reg} {la : Word} {payload : List Byte} {mask : Option Word} {cond rel : Bool}
    (hi : landingForm s.th i = some (specs, needs, la, payload, mask, cond, rel)) (hwf : wf i = true) :
    ∃ slot, exec i s = landNow slot specs needs la payload mask cond rel s := by
  cases i <;> simp only [landingForm, reduceCtorEq, Option.some.injEq, Prod.mk.injEq] at hi
  case vputl v l e r n f =>
    obtain ⟨rfl, rfl, rfl, rfl, rfl, rfl, rfl⟩ := hi
    have hlanes : f.toNat + Sys2Proof.lanesOf n ≤ 64 := by simpa [wf] using hwf
    refine ⟨.c, ?_⟩
    rw [← slice_eq_take (by rw [leBytes_length]; omega), ← putLanes_eq]
    rfl
  all_goals
    obtain ⟨rfl, rfl, rfl, rfl, rfl, rfl, rfl⟩ := hi
    exact ⟨.c, rfl⟩

end

end
end Sys2Proof.Machine

open Sys2Proof Sys2Proof.Machine in
/-- Settles O26: of the fences before it one that is met keeps those that stand; what a fence names is then held in the plan of each instruction. -/
theorem fencesHoldLaterEvents : Obligations.FencesHoldLaterEvents := by
  unfold Obligations.FencesHoldLaterEvents
  intro s sc u p mine
  refine ⟨⟨_, exec_fence sc u p, fenced_fencesAfter u p⟩, fun h => ⟨_, exec_fence_fetch h⟩, exec_fence_fetch_waits, ?_⟩
  intro i d a b c wd off x q hready held va may
  have htwo : Ready s [.s d, .s a] := fun r hr => hready r (List.mem_append_left [Reg.s b, .s c] hr)
  refine ⟨fun hi hok hf => load_fenced hi htwo hok hf, fun hi hok hf => store_fenced hi htwo hok hf, ?_, ?_, ?_⟩
  · rintro op ord rfl rfl hok hf
    have hva : va = (rdS s.th a).toNat := congrArg BitVec.toNat (BitVec.add_zero _)
    simp only [may, hva] at hok
    exact amo_fenced hready hok hf
  · exact fun hi hspace hform hdev hends hok hf => landLoadForm_fenced hi (landLoad_fenced htwo hspace hform hdev hends hok hf)
  · intro specs needs la payload mask cond rel hi hw hn hspace hform hends hdev hwf hf
    obtain ⟨slot, hrun⟩ := exec_landingForm hi hwf
    exact hrun.trans (landNow_fenced hw hn hspace hform hdev hends hf)

namespace Sys2Proof.Machine
open Sys2Proof
set_option Elab.async false

/-! ### What a sender leaves as it was (R82, R157, R176) -/

/-- The machine `s` once the requests and landings of `t` are under way: actions that wait, copies that are kept, the numbers and the tables of
their senders. -/
def underWayOf (t s : State) : State :=
  { s with pending := t.pending, copies := t.copies, heldBack := t.heldBack, cores := t.cores, clusters := t.clusters, agentLocs := t.agentLocs,
           stamp := t.stamp }

/-- Between `s` and `t` something has been asked for or sent, and nothing else has happened. -/
def Sent (s t : State) : Prop := t = underWayOf t s

section
variable {s t u : State}

theorem Sent.refl : Sent s s := rfl

theorem Sent.trans (h : Sent s t) (k : Sent t u) : Sent s u := Eq.trans k (congrArg (underWayOf u) h :)

theorem Sent.th (h : Sent s t) : t.th = s.th := (congrArg State.th h :)
theorem Sent.rest (h : Sent s t) : t.rest = s.rest := (congrArg State.rest h :)
theorem Sent.mem (h : Sent s t) : t.mem = s.mem := (congrArg State.mem h :)
theorem Sent.dev (h : Sent s t) : t.dev = s.dev := (congrArg State.dev h :)
theorem Sent.cmds (h : Sent s t) : t.cmds = s.cmds := (congrArg State.cmds h :)
theorem Sent.locks (h : Sent s t) : t.locks = s.locks := (congrArg State.locks h :)
theorem Sent.units (h : Sent s t) : t.units = s.units := (congrArg State.units h :)
theorem Sent.gmem (h : Sent s t) : t.gmem = s.gmem := (congrArg State.gmem h :)
theorem Sent.launches (h : Sent s t) : t.launches = s.launches := (congrArg State.launches h :)

theorem findThread_congr (hth : t.th = s.th) (hrest : t.rest = s.rest) (n : Handle) : findThread t n = findThread s n := by
  unfold findThread
  rw [hth, hrest]

theorem Sent.findThread (h : Sent s t) (n : Handle) : findThread t n = findThread s n := findThread_congr h.th h.rest n

theorem Sent.findCmd (h : Sent s t) (n : Handle) (q : BitVec 16) : findCmd t n q = findCmd s n q := congrArg _ h.cmds

theorem pend_sent (s : State) (e : Event) : Sent s (pend s e) := rfl

theorem setLoc_sent (s : State) (g : Agent) (l : List (Handle × Option (BitVec 11))) : Sent s (setLoc s g l) := by
  cases g <;> rfl

theorem askWalk_sent (s : State) (c : BitVec 7) (asid : BitVec 12) (va : Nat) : Sent s (askWalk s c asid va) := by
  unfold askWalk
  split <;> rfl

theorem useTlb_sent (s : State) (c : BitVec 11) (engine : Bool) (asid : BitVec 12) (va : Nat) : Sent s (useTlb s c engine asid va) := by
  unfold useTlb
  dsimp only
  split
  · rfl
  · split
    · split <;> rfl
    · exact askWalk_sent ..

theorem foldl_sent {α : Type} {f : State → α → State} (hf : ∀ s x, Sent s (f s x)) (l : List α) (s : State) : Sent s (l.foldl f s) := by
  induction l generalizing s with
  | nil => exact .refl
  | cons x r ih => exact (hf s x).trans (ih (f s x))

theorem engineTlbs_sent (s : State) (c : Command) (cs : List Chunk) : Sent s (engineTlbs s c cs) := foldl_sent (fun s _ => useTlb_sent s ..) _ s

theorem cmdOrigin_sent (s : State) (h : Handle) (w : World) (core : BitVec 11) (q : BitVec 16) (g : Agent) : Sent s (cmdOrigin s h w core q g).1 := rfl

theorem transmit_sent (s : State) (p : Packet) : Sent s (transmit s p) := by
  have hput (v : Option (BitVec 11)) (e : Event) : Sent s (pend (locPut s p.o.agent (laHandle p.la) v) e) := (setLoc_sent s ..).trans (pend_sent _ e)
  unfold transmit
  split
  · exact pend_sent ..
  · split
    · exact pend_sent ..
    · split
      · split
        · exact hput ..
        · exact hput ..
        · exact pend_sent ..
      · split <;> exact pend_sent ..

theorem sendOut_sent (s : State) (p : Packet) : Sent s (sendOut s p) := by
  unfold sendOut
  split
  · rfl
  · exact Sent.trans (t := { s with copies := s.copies ++ [p] }) rfl (transmit_sent _ p)

theorem sendLanding_sent (s : State) (p : Packet) : Sent s (sendLanding s p) := sendOut_sent s _

theorem answerTo_sent (s : State) (o : Origin) (g : Agent) (r : Reg) (v : Word) (c : Bool) : Sent s (answerTo s o g r v c) := sendLanding_sent ..

end
/-! ### What an access to memory, and the report of an error, leave as they were (R223, R374) -/

/-- The machine `s` with the memory, its buffers and the log of errors of `t`. -/
def accessOf (t s : State) : State :=
  { s with mem := t.mem, buffers := t.buffers, corrected := t.corrected, marked := t.marked, errLog := t.errLog, elHead := t.elHead,
           elLost := t.elLost, ringMem := t.ringMem, mevHead := t.mevHead, outbox := t.outbox, msixPending := t.msixPending }

/-- Between `s` and `t` memory has been read or written, or an error logged, and nothing else has happened. -/
def Accessed (s t : State) : Prop := t = accessOf t s

section
variable {s t u : State}

theorem Accessed.refl : Accessed s s := rfl

theorem Accessed.trans (h : Accessed s t) (k : Accessed t u) : Accessed s u := Eq.trans k (congrArg (accessOf u) h :)

theorem Accessed.th (h : Accessed s t) : t.th = s.th := (congrArg State.th h :)
theorem Accessed.rest (h : Accessed s t) : t.rest = s.rest := (congrArg State.rest h :)
theorem Accessed.cmds (h : Accessed s t) : t.cmds = s.cmds := (congrArg State.cmds h :)
theorem Accessed.locks (h : Accessed s t) : t.locks = s.locks := (congrArg State.locks h :)
theorem Accessed.gmem (h : Accessed s t) : t.gmem = s.gmem := (congrArg State.gmem h :)
theorem Accessed.launches (h : Accessed s t) : t.launches = s.launches := (congrArg State.launches h :)

theorem Accessed.findThread (h : Accessed s t) (n : Handle) : findThread t n = findThread s n := findThread_congr h.th h.rest n

theorem Accessed.findCmd (h : Accessed s t) (n : Handle) (q : BitVec 16) : findCmd t n q = findCmd s n q := congrArg _ h.cmds

theorem wrBytes_accessed (s : State) (a : Nat) (b : List Byte) : Accessed s (wrBytes s a b) := rfl

theorem logError_accessed (s : State) (k : BitVec 16) (w : World) (d : BitVec 32) (a q : Word) : Accessed s (logError s k w d a q) := by
  unfold logError
  dsimp only
  split <;> rfl

theorem foldl_accessed {α : Type} {f : State → α → State} (hf : ∀ s x, Accessed s (f s x)) (l : List α) (s : State) : Accessed s (l.foldl f s) := by
  induction l generalizing s with
  | nil => exact .refl
  | cons x r ih => exact (hf s x).trans (ih (f s x))

theorem correction_accessed (s : State) (a b : Nat) : Accessed s (correction s a b) := by
  unfold correction
  extract_lets n s1
  have h1 : Accessed s s1 := Accessed.trans (t := { s with corrected := sset 0 s.corrected b n }) rfl (logError_accessed ..)
  clear_value s1
  split
  · exact (h1.trans (u := { s1 with marked := s1.marked ++ [b] }) rfl).trans (logError_accessed ..)
  · exact h1

theorem correctRead_accessed (s : State) (a n : Nat) : Accessed s (correctRead s a n) := foldl_accessed (fun s (e : Nat × Nat) => correction_accessed s e.1 e.2) _ s

theorem dropLine_accessed (s : State) (x : BufLine) : Accessed s (dropLine s x) := by
  unfold dropLine
  split <;> rfl

theorem fillLine_accessed (s : State) (l : Nat) (k : Option (BitVec 13)) : Accessed s (fillLine s l k).1 := by
  cases k <;> rfl

theorem Accessed.buffers (h : Accessed s t) (b : Sparse (List BufLine)) : Accessed s { t with buffers := b } := h.trans (u := { t with buffers := b }) rfl

theorem touchLine_accessed (s : State) (a : Nat) (k : Option (BitVec 13)) (w : Bool) : Accessed s (touchLine s a k w) := by
  unfold touchLine
  split
  · exact .refl
  · dsimp only
    split
    · split
      · rfl
      · exact ((dropLine_accessed ..).trans (fillLine_accessed ..)).buffers _
    · exact ((foldl_accessed dropLine_accessed ..).trans (fillLine_accessed ..)).buffers _

theorem touchLines_accessed (s : State) (a n : Nat) (k : Option (BitVec 13)) (w : Bool) : Accessed s (touchLines s a n k w) :=
  foldl_accessed (fun s _ => touchLine_accessed s ..) _ s

theorem rdPiece_accessed (s : State) (p : Piece) : Accessed s (rdPiece s p).1 := (touchLine_accessed ..).trans (correctRead_accessed ..)

theorem writeImage_accessed (s : State) (h : Handle) : Accessed s (writeImage s h) := by
  unfold writeImage
  split
  · exact .refl
  · dsimp only
    split
    · exact ((((touchLines_accessed ..).trans (wrBytes_accessed ..)).trans (touchLines_accessed ..)).trans (wrBytes_accessed ..))
    · exact .refl

end
end Sys2Proof.Machine

namespace Sys2Proof.Machine
open Sys2Proof
set_option Elab.async false

/-! ### The completion words of a thread (R172 to R174) -/

section
variable {α : Type} {key : α → Nat}

/-- Of two that wait the one that has the greater key, the one held where they are equal. -/
def later (key : α → Nat) (b : Option α) (e : α) : Option α :=
  match b with
  | none => some e
  | some o => if key o < key e then some e else b

theorem foldl_later_some (l : List α) (o : α) : ∃ m, l.foldl (later key) (some o) = some m ∧ m ∈ o :: l ∧ ∀ f ∈ o :: l, key f ≤ key m := by
  induction l generalizing o with
  | nil => exact ⟨o, rfl, List.mem_singleton_self o, fun f hf => by rw [List.mem_singleton.mp hf]⟩
  | cons e r ih =>
    obtain ⟨b, hb, hmem, hmax⟩ : ∃ b, later key (some o) e = some b ∧ b ∈ [o, e] ∧ ∀ f ∈ [o, e], key f ≤ key b := by
      simp only [later]
      split
      · exact ⟨e, rfl, by simp, by simp; omega⟩
      · exact ⟨o, rfl, by simp, by simp; omega⟩
    obtain ⟨m, hm, hin, hle⟩ := ih b
    refine ⟨m, by rw [List.foldl_cons, hb, hm], ?_, fun f hf => ?_⟩
    · simp only [List.mem_cons, List.not_mem_nil, or_false] at hin hmem ⊢
      rcases hin with rfl | hin
      · exact hmem.imp_right .inl
      · exact .inr (.inr hin)
    · have hbm : key b ≤ key m := hle b List.mem_cons_self
      rcases List.mem_cons.mp hf with rfl | hf
      · exact (hmax _ (by simp)).trans hbm
      · rcases List.mem_cons.mp hf with rfl | hf
        · exact (hmax _ (by simp)).trans hbm
        · exact hle f (List.mem_cons_of_mem _ hf)

/-- Of a list with anything in it one is found, whose key is the greatest. -/
theorem foldl_later {l : List α} (h : l ≠ []) : ∃ m ∈ l, l.foldl (later key) none = some m ∧ ∀ f ∈ l, key f ≤ key m := by
  cases l with
  | nil => exact absurd rfl h
  | cons o r =>
    obtain ⟨m, hm, hin, hle⟩ := foldl_later_some (key := key) r o
    exact ⟨m, hin, hm, hle⟩

end

section
variable {s : State} {t : Thread} {d : BitVec 6} {p : Port}

/-- The ring entries of a port that hold a completion word. -/
def wordsAt (t : Thread) (p : Port) : List RingEntry := (t.ring.map (·.2)).filter (fun e => e.state = 4 ∧ e.port = portNum p)

/-- The commands of the engines of a port that are not complete. -/
def openAt (t : Thread) (p : Port) : List RingEntry :=
  (t.ring.map (·.2)).filter (fun e => (e.state = 1 ∨ e.state = 2 ∨ e.state = 3) ∧ e.port = portNum p ∧ e.kind.toNat < 0x20)

theorem incomplete_iff (e : RingEntry) : incomplete e = true ↔ e.state = 1 ∨ e.state = 2 ∨ e.state = 3 := by
  simp [incomplete, or_assoc]

theorem firstWord_eq (t : Thread) (p : Port) : firstWord t p = (wordsAt t p).foldl (later (fun e => (t.cord - e.cord).toNat)) none := by
  simp only [wordsAt, Bool.decide_and, firstWord]
  congr 1
  funext b e
  cases b <;> rfl

theorem oldest_eq (t : Thread) (p : Port) : oldest t (fun e => incomplete e && e.port = portNum p && e.kind.toNat < 0x20) =
    (openAt t p).foldl (later (fun e => (t.dseqNext - e.seq).toNat)) none := by
  have hsame : (t.ring.map (·.2)).filter (fun e => e.state ≠ 0 && (incomplete e && e.port = portNum p && e.kind.toNat < 0x20)) = openAt t p := by
    refine List.filter_congr fun e _ => ?_
    rw [Bool.eq_iff_iff]
    simp only [Bool.and_eq_true, decide_eq_true_eq, incomplete_iff, and_assoc]
    refine ⟨fun h => h.2, fun h => ⟨?_, h⟩⟩
    obtain ⟨hs | hs | hs, -⟩ := h <;> rw [hs] <;> decide
  rw [← hsame, oldest]
  congr 1
  funext b e
  cases b <;> rfl

theorem completes_completionWord (q : BitVec 16) (st : BitVec 8) (port : BitVec 2) (res : BitVec 32) :
    completes (completionWord q st port res) q st port res := by
  have hport : (0#6 ++ port).cast (by decide) = port.zeroExtend 8 := by revert port; decide
  refine ⟨?_, ?_, ?_, ?_⟩
  · exact (bits_cast _).trans ((bits_append_low (by decide)).trans bits_all)
  · exact (bits_cast _).trans ((bits_append_high (by decide)).trans ((bits_append_low (by decide)).trans bits_all))
  · refine (bits_cast _).trans ((bits_append_high (by decide)).trans ((bits_append_high (by decide)).trans ((bits_append_low (by decide)).trans ?_)))
    exact bits_all.trans hport
  · refine (bits_cast _).trans ((bits_append_high (by decide)).trans ((bits_append_high (by decide)).trans ((bits_append_high (by decide)).trans ?_)))
    exact bits_all

theorem wrS_advance (t : Thread) (d : BitVec 6) (v : Word) : wrS (advance t) d v = advance (wrS t d v) := by
  unfold wrS
  split <;> rfl

/-- An instruction that needs its register alone, which is present, takes effect. -/
theorem plain_done {slot : Slot} {next : State} (h : present s.th (.s d) = true) :
    conclude slot (plainPlan [.s d] next) s = .next (finish next) :=
  conclude_done InWindow.nil (fun r hr => by rw [List.mem_singleton.mp hr]; exact h) rfl Ready.nil rfl

/-- `POP` with a completion word at its port takes the oldest. -/
theorem pop_takes (h : present s.th (.s d) = true) (hw : wordsAt s.th p ≠ []) : ∃ e w, e ∈ wordsAt s.th p ∧
    (∀ f ∈ wordsAt s.th p, (s.th.cord - f.cord).toNat ≤ (s.th.cord - e.cord).toNat) ∧ completes w e.seq e.status e.port (e.vec.truncate 32) ∧
    exec (.pop d p) s = becomes s { advance (wrS s.th d w) with ring := sset RingEntry.free s.th.ring (e.seq.toNat % 64) RingEntry.free } := by
  obtain ⟨e, hmem, hfirst, holdest⟩ := foldl_later (key := fun e => (s.th.cord - e.cord).toNat) hw
  rw [← firstWord_eq] at hfirst
  have hword : firstWord (advance s.th) p = some e := hfirst
  refine ⟨e, _, hmem, holdest, completes_completionWord _ _ _ _, ?_⟩
  have hrun : exec (.pop d p) s = execPop d p s := rfl
  rw [hrun, execPop]
  simp only [hword, plain_done h, takeWord, ringSet, wrS_advance]
  rw [show (advance (wrS s.th d (completionWord e.seq e.status e.port (bits e.vec 0 32)))).ring = s.th.ring from wrS_ring ..]
  rfl

theorem pop_sleeps (h : present s.th (.s d) = true) (hw : wordsAt s.th p = []) :
    exec (.pop d p) s = becomes s { advance s.th with status := .sleeping (.pop p d) } := by
  have hnone : firstWord (advance s.th) p = none := by
    have := firstWord_eq s.th p
    rw [hw] at this
    exact this
  have hrun : exec (.pop d p) s = execPop d p s := rfl
  rw [hrun, execPop]
  simp only [hnone, plain_done h]
  rfl

/-- The sequence number that `PORTST` reads: that of the oldest of the open commands, else the next (log 23). -/
def oldestOpen (t : Thread) (p : Port) : BitVec 16 :=
  match (openAt t p).foldl (later (fun e => (t.dseqNext - e.seq).toNat)) none with
  | some e => e.seq
  | none => t.dseqNext

/-- The word that `PORTST` reads. -/
def portWord (s : State) (p : Port) : Word :=
  (0#32 ++ oldestOpen s.th p ++ BitVec.ofNat 8 (wordsAt s.th p).length ++
    BitVec.ofNat 8 (min 255 (portDepth p - queueUsed s s.th.core p))).cast (by decide)

theorem exec_portst (h : present s.th (.s d) = true) : exec (.portst d p) s = becomes s (advance (wrS s.th d (portWord s p))) := by
  have hrun : exec (.portst d p) s = execPortst d p s := rfl
  have hwords : (s.th.ring.filter (fun e => e.2.state = 4 && e.2.port = portNum p)).length = (wordsAt s.th p).length := by
    simp only [wordsAt, List.filter_map, List.length_map, Bool.decide_and]
    rfl
  rw [hrun, execPortst]
  simp only [hwords, oldest_eq, plain_done h]
  rfl

theorem portWord_fields (s : State) (p : Port) : bits (portWord s p) 0 8 = BitVec.ofNat 8 (min 255 (portDepth p - queueUsed s s.th.core p)) ∧
    bits (portWord s p) 8 8 = BitVec.ofNat 8 (wordsAt s.th p).length ∧ bits (portWord s p) 16 16 = oldestOpen s.th p ∧ bits (portWord s p) 32 32 = 0 := by
  refine ⟨?_, ?_, ?_, ?_⟩
  · exact (bits_cast _).trans ((bits_append_low (by decide)).trans bits_all)
  · exact (bits_cast _).trans ((bits_append_high (by decide)).trans ((bits_append_low (by decide)).trans bits_all))
  · exact (bits_cast _).trans ((bits_append_high (by decide)).trans ((bits_append_high (by decide)).trans ((bits_append_low (by decide)).trans bits_all)))
  · exact (bits_cast _).trans ((bits_append_high (by decide)).trans ((bits_append_high (by decide)).trans ((bits_append_high (by decide)).trans bits_all)))

theorem oldestOpen_none (h : openAt s.th p = []) : oldestOpen s.th p = s.th.dseqNext := by
  rw [oldestOpen, h]
  rfl

theorem oldestOpen_some (h : openAt s.th p ≠ []) :
    ∃ e ∈ openAt s.th p, oldestOpen s.th p = e.seq ∧ ∀ f ∈ openAt s.th p, (s.th.dseqNext - f.seq).toNat ≤ (s.th.dseqNext - e.seq).toNat := by
  obtain ⟨e, he, hfold, hle⟩ := foldl_later (key := fun e => (s.th.dseqNext - e.seq).toNat) h
  exact ⟨e, he, by rw [oldestOpen, hfold], hle⟩

/-- Is a command of the ring up to this sequence number not complete (R174)? -/
def opensUpTo (t : Thread) (q : BitVec 16) : Bool := t.ring.any (fun e => incomplete e.2 && (q - e.2.seq).toNat < 2 ^ 15)

theorem seqwait_goes_on (h : present s.th (.s d) = true) (ho : opensUpTo s.th ((rdS s.th d).truncate 16) = false) :
    exec (.seqwait d) s = becomes s (advance s.th) :=
  conclude_done (slot := .c) (p := { specs := [], needs := [.s d], bad := none, hold := opensUpTo s.th (bits (rdS s.th d) 0 16), next := setTh s (advance s.th) })
    InWindow.nil (fun r hr => by rw [List.mem_singleton.mp hr]; exact h) rfl Ready.nil ho

theorem seqwait_held (h : present s.th (.s d) = true) (ho : opensUpTo s.th ((rdS s.th d).truncate 16) = true) :
    exec (.seqwait d) s = .next { s with last := .held } :=
  conclude_held (slot := .c) (p := { specs := [], needs := [.s d], bad := none, hold := opensUpTo s.th (bits (rdS s.th d) 0 16), next := setTh s (advance s.th) })
    InWindow.nil (fun r hr => by rw [List.mem_singleton.mp hr]; exact h) rfl Ready.nil ho

end

end Sys2Proof.Machine

namespace Sys2Proof.Machine
open Sys2Proof
set_option Elab.async false

/-! ### The completion of a command (R172, R200) -/

section
variable {s t u : State} {h : Handle} {q : BitVec 16}

/-- What the thread of a command keeps while a completion lands or fails: all that a completion reads of it. -/
def KeepsRing (f : Thread → Thread) : Prop :=
  ∀ t, (f t).status = t.status ∧ (f t).ring = t.ring ∧ (f t).cord = t.cord ∧ isAway (f t) = isAway t

/-- What the landing of a completion leaves as it was. -/
structure CompletionSent (h : Handle) (s t : State) : Prop where
  cmds : t.cmds = s.cmds
  locks : t.locks = s.locks
  thread : ∃ f, KeepsRing f ∧ findThread t h = (findThread s h).map f
  mem : (∀ x, findThread s h = some x → isAway x = false) → t.mem = s.mem

theorem keepsRing_id : KeepsRing id := fun _ => ⟨rfl, rfl, rfl, rfl⟩

theorem Sent.completionSent (k : Sent s t) : CompletionSent h s t :=
  ⟨k.cmds, k.locks, ⟨id, keepsRing_id, by rw [k.findThread, Option.map_id, id]⟩, fun _ => k.mem⟩

/-- What is sent before the landing is no part of it. -/
theorem CompletionSent.after (hk : Sent s t) (k : CompletionSent h t u) : CompletionSent h s u := by
  obtain ⟨hcmds, hlocks, ⟨f, hf, hthread⟩, hmem⟩ := k
  exact ⟨hcmds.trans hk.cmds, hlocks.trans hk.locks, ⟨f, hf, by rw [hthread, hk.findThread]⟩,
    fun ha => (hmem (fun x hx => ha x ((hk.findThread h).symm.trans hx))).trans hk.mem⟩

theorem receiveFailure_keepsRing (la : Word) (sub : BitVec 8) (seq : BitVec 32) : KeepsRing (fun t => (receiveFailure t la sub seq).1) := by
  intro t
  simp only [receiveFailure]
  split <;> exact ⟨rfl, rfl, rfl, rfl⟩

theorem receiveFailure_live (la : Word) (sub : BitVec 8) (seq : BitVec 32) (t : Thread) :
    isLive (receiveFailure t la sub seq).1 = isLive t ∧ (receiveFailure t la sub seq).1.handle = t.handle := by
  rw [receiveFailure_fails]
  obtain ⟨hl, hh, -⟩ := fails_keeps t la sub seq
  exact ⟨hl, hh⟩

theorem findThread_named {x : Thread} (hx : findThread s h = some x) : isLive x = true ∧ x.handle = h := by
  have hp : (isLive x && decide (x.handle = h)) = true := by
    unfold findThread at hx
    split at hx
    · obtain rfl := Option.some.inj hx
      assumption
    · exact List.find?_some (p := fun t => isLive t && decide (t.handle = h)) hx
  simpa using hp

theorem modThread_locks (s : State) (h : Handle) (f : Thread → Thread) : (modThread s h f).locks = s.locks := by
  unfold modThread
  split <;> rfl

/-- A thread's record that is put in place of the one found is found afterwards. -/
theorem findThread_modThread_const {x y : Thread} (hx : findThread s h = some x) (hl : isLive y = true) (hh : y.handle = h) :
    findThread (modThread s h (fun _ => y)) h = some y := by
  have hy : (isLive y && decide (y.handle = h)) = true := by simp [hl, hh]
  have hpred : ((fun t => isLive t && decide (t.handle = h)) ∘ fun t => if isLive t && decide (t.handle = h) then y else t) =
      fun t => isLive t && decide (t.handle = h) := by
    funext t
    simp only [Function.comp]
    split
    · rename_i ht
      rw [hy, ht]
    · rfl
  unfold findThread at hx ⊢
  unfold modThread
  by_cases hth : (isLive s.th && decide (s.th.handle = h)) = true
  · simp only [if_pos hth, if_pos hy]
  · simp only [if_neg hth, List.find?_map, hpred] at hx ⊢
    rw [hx]
    exact congrArg some (if_pos (List.find?_some (p := fun t => isLive t && decide (t.handle = h)) hx))

/-- A change of a thread that keeps its ring is its record's change, and its image's. -/
theorem imageOf_modThread {f g : Thread → Thread} (hf : ∀ t, isAway (f t) = isAway t)
    (hfound : findThread (modThread s h g) h = (findThread s h).map f) :
    (writeImage (modThread s h g) h).cmds = s.cmds ∧ (writeImage (modThread s h g) h).locks = s.locks ∧
      findThread (writeImage (modThread s h g) h) h = (findThread s h).map f ∧
      ((∀ x, findThread s h = some x → isAway x = false) → (writeImage (modThread s h g) h).mem = s.mem) := by
  have hi := writeImage_accessed (modThread s h g) h
  obtain ⟨-, hmem, hcmds⟩ := modThread_keeps s h g
  refine ⟨hi.cmds.trans hcmds, hi.locks.trans (modThread_locks ..), (hi.findThread h).trans hfound, fun ha => ?_⟩
  rw [writeImage_of_not_away, hmem]
  intro x hx
  obtain ⟨y, hy, rfl⟩ := Option.map_eq_some_iff.mp (hfound.symm.trans hx)
  exact (hf y).trans (ha y hy)

theorem Accessed.completionSent_of (k : CompletionSent h s t) (ha : Accessed t u) (hm : u.mem = t.mem) : CompletionSent h s u := by
  obtain ⟨hcmds, hlocks, ⟨f, hf, hthread⟩, hmem⟩ := k
  exact ⟨ha.cmds.trans hcmds, ha.locks.trans hlocks, ⟨f, hf, (ha.findThread h).trans hthread⟩, fun hx => hm.trans (hmem hx)⟩

theorem failLanding_completionSent (s : State) (h : Handle) (w : World) (la : Word) (sub : BitVec 8) (seq : BitVec 32) :
    CompletionSent h s (failLanding s h w la sub seq) := by
  unfold failLanding
  split
  · exact Accessed.completionSent_of Sent.refl.completionSent (logError_accessed ..) (logError_mem ..)
  · rename_i x hx
    obtain ⟨hl, hh⟩ := receiveFailure_live la sub seq x
    obtain ⟨hlive, hname⟩ := findThread_named hx
    have hfound : findThread (modThread s h (fun _ => (receiveFailure x la sub seq).1)) h =
        (findThread s h).map (fun t => (receiveFailure t la sub seq).1) := by
      rw [hx, findThread_modThread_const hx (hl.trans hlive) (hh.trans hname), Option.map_some]
    obtain ⟨hcmds, hlocks, hthread, hmem⟩ := imageOf_modThread (fun t => (receiveFailure_keepsRing la sub seq t).2.2.2) hfound
    have hw : CompletionSent h s (writeImage (modThread s h (fun _ => (receiveFailure x la sub seq).1)) h) :=
      ⟨hcmds, hlocks, ⟨_, receiveFailure_keepsRing la sub seq, hthread⟩, hmem⟩
    dsimp only
    split
    · exact Accessed.completionSent_of hw (logError_accessed ..) (logError_mem ..)
    · exact hw

/-- A completion is sent as one landing, or its landing fails; neither touches commands or locks. -/
theorem landCompletion_completionSent (s : State) (c : Command) (w : Word) : CompletionSent c.handle s (landCompletion s c w) := by
  unfold landCompletion
  extract_lets go
  have hgo (s : State) (la : Word) : CompletionSent c.handle s (go s la) := by
    simp only [go]
    split
    · have htlb := useTlb_sent (cmdOrigin s c.handle c.world c.core c.seq (cmdAgent c)).1 c.core true c.asid (laVa la)
      split
      · exact (((cmdOrigin_sent s ..).trans htlb).trans (sendLanding_sent ..)).completionSent
      · exact .after ((cmdOrigin_sent s ..).trans htlb) (failLanding_completionSent ..)
    · exact ((cmdOrigin_sent s ..).trans (sendLanding_sent ..)).completionSent
  clear_value go
  split
  · split
    · exact Sent.refl.completionSent
    · exact hgo ..
  · exact hgo ..
  · exact Sent.refl.completionSent

/-- What becomes of a sleeper that a completion word awakes: it is awake, as its other fields show. -/
theorem wakePop_keeps (t : Thread) : (isLive (wakePop t) = isLive t ∧ (wakePop t).handle = t.handle) ∧ isAway (wakePop t) = isAway t := by
  unfold wakePop
  split
  · rename_i p d hst
    split
    · refine ⟨⟨?_, ?_⟩, ?_⟩
      all_goals simp [isLive, isAway, takeWord, ringSet, hst]
    · exact ⟨⟨rfl, rfl⟩, rfl⟩
  · exact ⟨⟨rfl, rfl⟩, rfl⟩

theorem ringComplete_keeps (t : Thread) (q : BitVec 16) (st : BitVec 8) (res : BitVec 32) :
    (isLive (ringComplete t q st res) = isLive t ∧ (ringComplete t q st res).handle = t.handle) ∧ isAway (ringComplete t q st res) = isAway t := by
  unfold ringComplete
  dsimp only
  split
  · exact ⟨⟨rfl, rfl⟩, rfl⟩
  · split
    · exact wakePop_keeps _
    · exact ⟨⟨rfl, rfl⟩, rfl⟩

theorem ringAt_ringSet_same (t : Thread) (q : BitVec 16) (e : RingEntry) : ringAt (ringSet t q e) q = e := sget_sset_same

theorem wakePop_of_ready {t : Thread} (h : t.status = .ready) : wakePop t = t := by
  simp only [wakePop, h]

/-- The ring entry of a command that completes with a completion word (R172). -/
def wordEntry (t : Thread) (q : BitVec 16) (st : BitVec 8) (res : BitVec 32) : RingEntry :=
  { ringAt t q with state := 4, status := st, cord := t.cord, vec := res.zeroExtend 64 }

/-- The thread once its ring holds that word. -/
def withWord (t : Thread) (q : BitVec 16) (st : BitVec 8) (res : BitVec 32) : Thread :=
  { ringSet t q (wordEntry t q st res) with cord := t.cord + 1 }

theorem ringComplete_live {t : Thread} (st : BitVec 8) (res : BitVec 32) (hs : (ringAt t q).state ≠ 0) (hq : (ringAt t q).seq = q) :
    ringComplete t q st res = if (ringAt t q).q then wakePop (withWord t q st res) else ringSet t q RingEntry.free := by
  have hlive : (decide ((ringAt t q).state = 0) || decide ((ringAt t q).seq ≠ q)) = false := by
    rw [decide_eq_false hs, hq, Bool.false_or]
    exact decide_eq_false (not_not_intro rfl)
  simp only [ringComplete, hlive, Bool.false_eq_true, if_false]
  rfl

/-- What the ring of a thread that does not sleep shows once a command of it is complete (R172). -/
theorem ringComplete_shows {t : Thread} (st : BitVec 8) (res : BitVec 32) (hst : t.status = .ready) (hs : (ringAt t q).state ≠ 0)
    (hq : (ringAt t q).seq = q) :
    ((ringAt t q).q = false → ringAt (ringComplete t q st res) q = RingEntry.free) ∧
    ((ringAt t q).q = true → ringAt (ringComplete t q st res) q = wordEntry t q st res ∧ (ringComplete t q st res).cord = t.cord + 1) := by
  have hawake : (withWord t q st res).status = .ready := hst
  rw [ringComplete_live st res hs hq]
  refine ⟨fun hno => ?_, fun hyes => ?_⟩
  · rw [hno, if_neg Bool.false_ne_true, ringAt_ringSet_same]
  · rw [if_pos hyes, wakePop_of_ready hawake]
    exact ⟨ringAt_ringSet_same t q (wordEntry t q st res), rfl⟩

theorem findCmd_dropCmd (s : State) (h : Handle) (q : BitVec 16) : findCmd (dropCmd s h q) h q = none := by
  refine List.find?_eq_none.mpr fun c hc => ?_
  have hkept := (List.mem_filter.mp hc).2
  simpa only [Bool.not_eq_true, Bool.not_eq_eq_eq_not, Bool.not_true] using hkept

theorem dropClaimsIfIdle_keeps (s : State) (h : Handle) : (dropClaimsIfIdle s h).cmds = s.cmds ∧ (dropClaimsIfIdle s h).locks = s.locks ∧
    (dropClaimsIfIdle s h).mem = s.mem ∧ (dropClaimsIfIdle s h).th = s.th ∧ (dropClaimsIfIdle s h).rest = s.rest := by
  unfold dropClaimsIfIdle dropClaims
  split <;> exact ⟨rfl, rfl, rfl, rfl, rfl⟩

/-- The device once a command with this completion word has ended (R172, R218). -/
def completed (s : State) (c : Command) (w : Word) (st : BitVec 8) (res : BitVec 32) : State :=
  modRing (landCompletion (unlock s c.handle c.seq) c w) c.handle (fun t => ringComplete t c.seq st res)

/-- What remains once a command has ended: no lock of it, and its completion in the ring of its thread. -/
theorem completed_keeps (s : State) (c : Command) (w : Word) (st : BitVec 8) (res : BitVec 32) :
    (∀ l ∈ (completed s c w st res).locks, l.owner ≠ .cmd c.handle c.seq) ∧
    ((∀ x, findThread s c.handle = some x → isAway x = false) → (completed s c w st res).mem = s.mem) ∧
    ∀ x, findThread s c.handle = some x → ∃ y, findThread (completed s c w st res) c.handle = some (ringComplete y c.seq st res) ∧
      y.status = x.status ∧ y.ring = x.ring ∧ y.cord = x.cord := by
  obtain ⟨-, hlocks, ⟨f, hf, hthread⟩, hmem⟩ := landCompletion_completionSent (unlock s c.handle c.seq) c w
  obtain ⟨-, hlocks', hthread', hmem'⟩ := imageOf_modThread (f := fun t => ringComplete t c.seq st res)
    (fun t => (ringComplete_keeps t c.seq st res).2) (findThread_modThread (s := landCompletion (unlock s c.handle c.seq) c w) (h := c.handle)
      (fun t => (ringComplete_keeps t c.seq st res).1))
  refine ⟨fun l hl => ?_, fun ha => ?_, fun x hx => ?_⟩
  · have hunlocked : l ∈ (unlock s c.handle c.seq).locks := by
      rw [← hlocks, ← hlocks']
      exact hl
    exact of_decide_eq_true (List.mem_filter.mp hunlocked).2
  · refine (hmem' (fun x hx => ?_)).trans (hmem ha)
    obtain ⟨y, hy, rfl⟩ := Option.map_eq_some_iff.mp (hthread.symm.trans hx)
    exact (hf y).2.2.2.trans (ha y hy)
  · obtain ⟨hst, hring, hcord, -⟩ := hf x
    refine ⟨f x, ?_, hst, hring, hcord⟩
    rw [completed, modRing, hthread', hthread, show findThread (unlock s c.handle c.seq) c.handle = some x from hx]
    rfl

/-- The record of a command that has ended goes, and with it perhaps the claims of its thread. -/
theorem dropped_keeps (ht : t = dropCmd s h q ∨ t = dropClaimsIfIdle (dropCmd s h q) h) :
    findCmd t h q = none ∧ t.locks = s.locks ∧ t.mem = s.mem ∧ ∀ n, findThread t n = findThread s n := by
  rcases ht with rfl | rfl
  · exact ⟨findCmd_dropCmd s h q, rfl, rfl, fun _ => rfl⟩
  · obtain ⟨hcmds, hlocks, hmem, hth, hrest⟩ := dropClaimsIfIdle_keeps (dropCmd s h q) h
    exact ⟨(congrArg _ hcmds).trans (findCmd_dropCmd s h q), hlocks, hmem, findThread_congr hth hrest⟩

theorem exec_completionLanding_waits {c : Command} {st : BitVec 8} {res : BitVec 32} (hc : findCmd s h q = some c) (hfin : c.fin = some (st, res))
    (hw : c.acks ≠ 0 ∨ completionWaits s c = true) : exec (.completionLanding h q) s = .next (pend s (.completionLanding h q)) := by
  have hrun : exec (.completionLanding h q) s = execCompletionLanding h q s := rfl
  rw [hrun, execCompletionLanding, hc]
  dsimp only
  rw [hfin]
  dsimp only
  rw [if_pos]
  rcases hw with hw | hw <;> simp [hw]

theorem exec_completionLanding {c : Command} {st : BitVec 8} {res : BitVec 32} (hc : findCmd s h q = some c) (hfin : c.fin = some (st, res))
    (ha : c.acks = 0) (hb : behindEnded s c = false) (hw : completionWaits s c = false) (hr : c.refused = false) :
    ∃ t, exec (.completionLanding h q) s = .next t ∧ (t = dropCmd (completed s c (completionWord q st (portNum c.port) res) st res) h q ∨
      t = dropClaimsIfIdle (dropCmd (completed s c (completionWord q st (portNum c.port) res) st res) h q) h) := by
  have hrun : exec (.completionLanding h q) s = execCompletionLanding h q s := rfl
  obtain ⟨rfl, rfl⟩ := findCmd_key hc
  rw [hrun, execCompletionLanding, hc]
  dsimp only
  rw [hfin]
  simp only [ha, hb, hw, hr, Bool.and_false, Bool.false_and, ne_eq, not_true_eq_false, decide_false, Bool.or_self, Bool.false_eq_true, if_false]
  refine ⟨_, rfl, ?_⟩
  split
  · exact .inr rfl
  · exact .inl rfl

end
end Sys2Proof.Machine

open Sys2Proof Sys2Proof.Machine in
/-- Settles O34: the oldest of a list is found by one pass over it; an ended command is unlocked, its completion lands or fails, and its ring entry
and its record go. -/
theorem completionsAreRead : Obligations.CompletionsAreRead := by
  unfold Obligations.CompletionsAreRead
  refine ⟨?_, ?_⟩
  · intro s d p hd words open'
    obtain ⟨hfree, hwords, hold, hzero⟩ := portWord_fields s p
    refine ⟨pop_takes hd, pop_sleeps hd, ⟨_, exec_portst hd, hfree, hwords, hzero, fun hnone => hold.trans (oldestOpen_none hnone), fun hsome => ?_⟩, ?_, ?_⟩
    · obtain ⟨e, he, hseq, hle⟩ := oldestOpen_some hsome
      exact ⟨e, he, hold.trans hseq, hle⟩
    · intro hdone
      refine seqwait_goes_on hd (List.any_eq_false.mpr fun e he hboth => ?_)
      obtain ⟨hopen, hnear⟩ := Bool.and_eq_true_iff.mp hboth
      exact absurd (of_decide_eq_true hnear) (Nat.not_lt.mpr (hdone e.2 (List.mem_map_of_mem he) ((incomplete_iff e.2).mp hopen)))
    · intro e he hopen hnear
      obtain ⟨x, hx, rfl⟩ := List.mem_map.mp he
      exact seqwait_held hd (List.any_eq_true.mpr ⟨x, hx, Bool.and_eq_true_iff.mpr ⟨(incomplete_iff x.2).mpr hopen, decide_eq_true hnear⟩⟩)
  · intro s h q c st res hc hfin
    refine ⟨fun ha => exec_completionLanding_waits hc hfin (.inl ha), fun hw => exec_completionLanding_waits hc hfin (.inr hw), ?_⟩
    intro ha hb hw hr
    obtain ⟨t, hrun, ht⟩ := exec_completionLanding hc hfin ha hb hw hr
    obtain ⟨rfl, rfl⟩ := findCmd_key hc
    obtain ⟨hlocks, hmem, hthread⟩ := completed_keeps s c (completionWord c.seq st (portNum c.port) res) st res
    obtain ⟨hgone, hl, hm, hfound⟩ := dropped_keeps ht
    refine ⟨t, hrun, hgone, hl ▸ hlocks, fun haway => hm.trans (hmem haway), fun u hu hready hstate hseq => ?_⟩
    obtain ⟨y, hy, hst, hring, hcord⟩ := hthread u hu
    have hat : ringAt y c.seq = ringAt u c.seq := congrArg (sget _ · _) hring
    obtain ⟨hfree, hword⟩ := ringComplete_shows st res (hst.trans hready) (hat ▸ hstate) (hat ▸ hseq)
    rw [hat] at hfree hword
    rw [wordEntry, hat, hcord] at hword
    exact ⟨_, (hfound _).trans hy, hfree, hword⟩

namespace Sys2Proof.Machine
open Sys2Proof
set_option Elab.async false

section
variable {s t : State} {h : Handle} {q : BitVec 16} {c : Command} {i : Instr} {f g : Fmt}

/-! ### The acceptance of a copy (R210, R217 to R220) -/

theorem exec_copy (hi : i = .copy h q ∨ i = .copyf h q) (s : State) : exec i s = .next (copyStep h q s) := by
  rcases hi with rfl | rfl <;> rfl

/-- The entries that a copy asks for meet no live lock that forbids them, and the table of its die has room. -/
def LocksMayBeTaken (s : State) (c : Command) : Prop :=
  (∀ a ∈ copyLocks c, ∀ b ∈ s.locks, a.world = b.world → a.lo < b.hi → b.lo < a.hi → a.dst = false ∧ b.dst = false) ∧
    (s.locks.filter (fun l => l.die = dieOf c.core)).length + (copyLocks c).length ≤ 1024

theorem locksFree_iff : locksFree s (dieOf c.core) (copyLocks c) = true ↔ LocksMayBeTaken s c := by
  simp only [locksFree, LocksMayBeTaken, lockMeets, Bool.and_eq_true, List.all_eq_true, Bool.not_eq_eq_eq_not, Bool.not_true, List.any_eq_false,
    Bool.or_eq_true, decide_eq_true_eq, not_and, not_or, Bool.not_eq_true, and_imp]

/-- A copy whose turn has come and whose ranges are free (R210, R218, R220). -/
def CopyMayStart (s : State) (c : Command) : Prop :=
  queuedBefore s c = false ∧ cmdFree s c = true ∧ LocksMayBeTaken s c ∧ ∀ a ∈ copyLocks c, accessesInside s a = false

/-- The device once one of the eight engines of a die has accepted a copy. -/
def copyAccepted (s : State) (c : Command) : State :=
  pend { modCmd s c.handle c.seq (fun d => { d with state := .running, engine := BitVec.ofNat 5 (8 * (dieOf c.core).toNat + choose s 8) }) with
    locks := s.locks ++ copyLocks c } (cmdAction c)

theorem copyStep_queued (hc : findCmd s h q = some c) (hfin : c.fin = none) (hq : c.state = .queued) (hf : copyFieldsBad c = none) :
    (CopyMayStart s c → copyStep h q s = copyAccepted s c) ∧ (¬ CopyMayStart s c → copyStep h q s = pend s (cmdAction c)) := by
  obtain ⟨rfl, rfl⟩ := findCmd_key hc
  have hstep : copyStep c.handle c.seq s = if queuedBefore s c || !cmdFree s c then pend s (cmdAction c)
      else if !locksFree s (dieOf c.core) (copyLocks c) || (copyLocks c).any (accessesInside s) then pend s (cmdAction c) else copyAccepted s c := by
    rw [copyStep, hc]
    simp only [hfin, hq, hf]
    rfl
  have hstart : CopyMayStart s c ↔ ¬ (queuedBefore s c || !cmdFree s c) = true ∧
      ¬ (!locksFree s (dieOf c.core) (copyLocks c) || (copyLocks c).any (accessesInside s)) = true := by
    rw [CopyMayStart, ← locksFree_iff]
    simp only [Bool.or_eq_true, Bool.not_eq_true', not_or, Bool.not_eq_true, Bool.not_eq_false, List.any_eq_false, and_assoc]
  rw [hstart, hstep]
  refine ⟨fun ⟨hturn, hranges⟩ => by rw [if_neg hturn, if_neg hranges], fun hno => ?_⟩
  split
  · rfl
  · rename_i hturn
    rw [if_pos (not_not.mp fun hranges => hno ⟨hturn, hranges⟩)]

theorem copyAccepted_engine (s : State) (c : Command) :
    (BitVec.ofNat 5 (8 * (dieOf c.core).toNat + choose s 8)).toNat / 8 = (dieOf c.core).toNat := by
  have hlt : choose s 8 < 8 := choose_lt (by norm_num)
  have hdie : (dieOf c.core).toNat < 4 := (dieOf c.core).isLt
  rw [BitVec.toNat_ofNat]
  omega

/-! ### A run of a copy (R69, R200, R212) -/

/-- The fields and formats of a copy are in order (R211, R213). -/
structure CopyInOrder (c : Command) (f g : Fmt) : Prop where
  fields : copyFieldsBad c = none
  formats : firstFault (copyFmtBad (copySpec c)) = none
  src : (copySpec c).sf = some f
  dst : (copySpec c).df = some g

theorem CopyInOrder.noFault (k : CopyInOrder c f g) :
    firstFault (((copyFieldsBad c).map (fun e => (true, e))).toList ++ copyFmtBad (copySpec c)) = none := by
  rw [k.fields]
  exact k.formats

theorem copyRun_begins (k : CopyInOrder c f g) (hr : c.reads = none) :
    copyRun s c = copyBegin s c (copySpec c) (copySrc (copySpec c) (nestPoint c)) (copyAdv (copySpec c) (nestPoint c)) f g := by
  simp only [copyRun, k.noFault, k.src, k.dst, Option.getD_some, hr]

theorem copyRun_reads {l : List Piece} {got : List Byte} (k : CopyInOrder c f g) (hr : c.reads = some (l, got)) (hl : l ≠ []) :
    copyRun s c = copyRead s c l got := by
  obtain ⟨x, r, rfl⟩ := List.exists_cons_of_ne_nil hl
  simp only [copyRun, k.noFault, hr]

theorem copyRun_sends {got : List Byte} (k : CopyInOrder c f g) (hr : c.reads = some ([], got)) :
    copyRun s c = copySend s c (copySpec c) (copySrc (copySpec c) (nestPoint c)) (copyAdv (copySpec c) (nestPoint c)) f g got := by
  simp only [copyRun, k.noFault, k.src, k.dst, Option.getD_some, hr]

theorem copyStep_running (hc : findCmd s h q = some c) (hfin : c.fin = none) (hr : c.state = .running) : copyStep h q s = copyRun s c := by
  rw [copyStep, hc]
  simp only [hfin, hr]
  rfl

theorem recordFrames_sent (s : State) (own : LockOwner) (dst : Bool) (l : List Piece) :
    (recordFrames s own dst l).th = s.th ∧ (recordFrames s own dst l).rest = s.rest ∧ (recordFrames s own dst l).mem = s.mem ∧
      (recordFrames s own dst l).cmds = s.cmds := ⟨rfl, rfl, rfl, rfl⟩

/-- The command of a copy with what it has read of its run. -/
def goesOnWith (c : Command) (r : List Piece × List Byte) (t : State) : Prop :=
  findCmd t c.handle c.seq = some { c with reads := some r } ∧ cmdAction c ∈ t.pending

/-- The run begins: its places are those of the translation, and none of it is read. -/
theorem copyBegin_begins {so adv : Int} {p : CopySpec} (hc : findCmd s c.handle c.seq = some c) (ha : c.acks = 0)
    (hw : engineWaits s c (srcChunks p so f ++ dstChunks p.dst adv (runBytes g p.n)) = false) (hbad : copyRunBad s c p so adv f g = none) :
    SameThreads s (copyBegin s c p so adv f g) ∧ (copyBegin s c p so adv f g).mem = s.mem ∧
      goesOnWith c (enginePieces s c (srcChunks p so f), List.replicate (runBytes f p.n) 0) (copyBegin s c p so adv f g) := by
  have hsent := engineTlbs_sent s c (srcChunks p so f)
  have hno : ¬ (decide (c.acks ≠ 0) || engineWaits s c (srcChunks p so f ++ dstChunks p.dst adv (runBytes g p.n))) = true := by
    simp [ha, hw]
  simp only [copyBegin, if_neg hno, hbad]
  refine ⟨⟨hsent.th, hsent.rest⟩, hsent.mem, ?_, List.mem_cons_self⟩
  exact findCmd_modCmd_some ((hsent.findCmd c.handle c.seq).trans hc) (fun _ => rfl)

/-- One piece of the source is read, any of them. -/
theorem copyRead_reads {l : List Piece} (got : List Byte) (hc : findCmd s c.handle c.seq = some c) (hl : l ≠ []) (hk : ∀ x ∈ l, sameKey s x) :
    ∃ x r, l.Perm (x :: r) ∧ SameThreads s (copyRead s c l got) ∧ SameMemory s (copyRead s c l got) ∧
      goesOnWith c (r, patch got x.off (rdBytes s x.addr x.len)) (copyRead s c l got) := by
  obtain ⟨x, r, htake, hperm⟩ := takeAt_choose (s := s) hl
  have hkey : sameKey s x := hk x (hperm.mem_iff.mpr List.mem_cons_self)
  have hread := rdPiece_accessed s x
  refine ⟨x, r, hperm, ?_⟩
  simp only [copyRead, htake, rdPiece_bytes hkey]
  refine ⟨⟨hread.th, hread.rest⟩, fun a => congrArg (sget _ · a) (rdPiece_mem hkey), ?_, List.mem_cons_self⟩
  exact findCmd_modCmd_some ((hread.findCmd c.handle c.seq).trans hc) (fun _ => rfl)

/-- An element of the run's source, or the constant of a fill. -/
def copyElem (p : CopySpec) (f : Fmt) (src : List Byte) (e : Nat) : Nat :=
  if p.fill then p.src.toNat % 2 ^ fmtWidth f else ofLe src / 2 ^ (fmtWidth f * e) % 2 ^ fmtWidth f

/-- What it is converted to. -/
def copyOut (p : CopySpec) (f g : Fmt) (src : List Byte) (e : Nat) : Nat :=
  if f = g then copyElem p f src e else (convertNum f g p.rnd p.sat (decodeElem f 0 (copyElem p f src e))).1

theorem copyBytes_eq (p : CopySpec) (f g : Fmt) (src : List Byte) : copyBytes p f g src = bytesOfElems g ((List.range p.n).map (copyOut p f g src)) := by
  have helems : (if p.fill then List.replicate p.n (p.src.toNat % 2 ^ fmtWidth f) else elemsOfBytes f p.n src) =
      (List.range p.n).map (copyElem p f src) := by
    unfold copyElem
    cases p.fill with
    | true => simp only [if_true, List.map_const', List.length_range]
    | false =>
      have h := elemsFrom_eq_map (fmtWidth f) (ofLe src) 0 p.n
      rw [Nat.mul_zero, pow_zero, Nat.div_one, ← List.range_eq_range'] at h
      exact h
  rw [copyBytes, helems, List.map_map]
  rfl

theorem copyBytes_length (p : CopySpec) (f g : Fmt) (src : List Byte) : (copyBytes p f g src).length = runBytes g p.n := by
  rw [copyBytes_eq, bytesOfElems, leBytes_length, List.length_map, List.length_range]

/-- One landing of a command counts as unanswered, and its bytes as sent. -/
def sentRun (n : Nat) (c : Command) : Command := { c with acks := c.acks + 1, count := c.count + n }

/-- The number of a run's landing, once its pages have used the TLB. -/
def runOrigin (s : State) (c : Command) (la : Word) (adv : Int) (b : List Byte) : State × Origin :=
  cmdOrigin (engineTlbs s c (dstChunks la adv b.length)) c.handle c.world c.core c.seq (cmdAgent c)

/-- The landing of a run. -/
def runPacket (s : State) (c : Command) (la : Word) (adv : Int) (b : List Byte) : Packet :=
  { packet (runOrigin s c la adv b).2 (runLa la adv) b with pieces := enginePieces s c (dstChunks la adv b.length) }

theorem sendRun_eq (s : State) (c : Command) (la : Word) (adv : Int) (b : List Byte) :
    sendRun s c la adv b = sendLanding (modCmd (runOrigin s c la adv b).1 c.handle c.seq (sentRun b.length)) (runPacket s c la adv b) := rfl

/-- What a run's landing leaves as it was, and what it sends (R82, R212). -/
structure RunSent (s t : State) (c d : Command) (la : Word) (b : List Byte) : Prop where
  th : t.th = s.th
  rest : t.rest = s.rest
  mem : t.mem = s.mem
  cmd : findCmd t c.handle c.seq = some d
  packet : ∃ x ∈ t.copies ++ t.heldBack, x.la = la ∧ x.payload = b ∧ x.o.by' = c.handle

theorem sendRun_sends {d : Command} (hc : findCmd s c.handle c.seq = some d) (la : Word) (adv : Int) (b : List Byte) :
    RunSent s (sendRun s c la adv b) c (sentRun b.length d) (runLa la adv) b := by
  have horigin : Sent s (runOrigin s c la adv b).1 := (engineTlbs_sent s c (dstChunks la adv b.length)).trans (cmdOrigin_sent ..)
  have hmod := findCmd_modCmd_some (f := sentRun b.length) ((horigin.findCmd c.handle c.seq).trans hc) (fun _ => rfl)
  have hsent := sendLanding_sent (modCmd (runOrigin s c la adv b).1 c.handle c.seq (sentRun b.length)) (runPacket s c la adv b)
  obtain ⟨x, hx⟩ := exists_copy_sendLanding (modCmd (runOrigin s c la adv b).1 c.handle c.seq (sentRun b.length)) (runPacket s c la adv b)
  rw [sendRun_eq]
  exact ⟨hsent.th.trans horigin.th, hsent.rest.trans horigin.rest, hsent.mem.trans horigin.mem, (hsent.findCmd ..).trans hmod, _, hx, rfl, rfl, rfl⟩

theorem endCmd_plain (hnet : ∀ d, findCmd s h q = some d → d.net = none) (st : BitVec 8) (res : BitVec 32) :
    endCmd s h q st res = endOne s h q st res := by
  have hbind : (findCmd s h q).bind (fun c => c.net) = none := Option.bind_eq_none_iff.mpr hnet
  simp only [endCmd, hbind]

/-- The end of a command that is no network command gives up no landing. -/
theorem endCmd_copies (hnet : ∀ d, findCmd s h q = some d → d.net = none) (st : BitVec 8) (res : BitVec 32) :
    (endCmd s h q st res).copies = s.copies ∧ (endCmd s h q st res).heldBack = s.heldBack := by
  rw [endCmd_plain hnet]
  obtain he | ⟨e, he⟩ := endOne_cases s h q st res <;> rw [he] <;> exact ⟨rfl, rfl⟩

/-- The destination bytes go as one landing; after the last run the command ends, else it stands at the next point of its nest. -/
theorem copySend_sends {so adv : Int} {p : CopySpec} (src : List Byte) (hc : findCmd s c.handle c.seq = some c) (hfin : c.fin = none)
    (hnet : c.net = none) (hbad : copyRunBad s c p so adv f g = none) :
    SameThreads s (copySend s c p so adv f g src) ∧ (copySend s c p so adv f g src).mem = s.mem ∧
      (∃ x ∈ (copySend s c p so adv f g src).copies ++ (copySend s c p so adv f g src).heldBack,
        x.la = runLa p.dst adv ∧ x.payload = copyBytes p f g src ∧ x.o.by' = c.handle) ∧
      (nextVec c 4 = none → hasEnded (copySend s c p so adv f g src) c.handle c.seq 0 (BitVec.ofNat 32 (c.count + runBytes g p.n))) ∧
      ∀ v, nextVec c 4 = some v → cmdAction c ∈ (copySend s c p so adv f g src).pending ∧
        ∀ d, findCmd (copySend s c p so adv f g src) c.handle c.seq = some d → d.vec = v ∧ d.fin = none ∧ d.reads = none := by
  have hread := findCmd_modCmd_some (f := fun d => { d with reads := none }) hc (fun _ => rfl)
  have hframes : findCmd (recordFrames (modCmd s c.handle c.seq (fun d => { d with reads := none })) (.cmd c.handle c.seq) true
      (enginePieces (modCmd s c.handle c.seq (fun d => { d with reads := none })) c (dstChunks p.dst adv (runBytes g p.n)))) c.handle c.seq =
      some { c with reads := none } := hread
  have hbad' : copyRunBad (modCmd s c.handle c.seq (fun d => { d with reads := none })) c p so adv f g = none := hbad
  have hrun := sendRun_sends hframes p.dst adv (copyBytes p f g src)
  simp only [copySend, hbad']
  generalize sendRun _ c p.dst adv (copyBytes p f g src) = t at hrun ⊢
  obtain ⟨hth, hrest, hmem, hcmd, hpacket⟩ := hrun
  cases hv : nextVec c 4 with
  | none =>
    have hnone : ∀ d, findCmd t c.handle c.seq = some d → d.net = none := by
      intro d hd
      obtain rfl := Option.some.inj (hcmd.symm.trans hd)
      exact hnet
    obtain ⟨hended, hth', hmem'⟩ := endCmd_ends hnone 0 (BitVec.ofNat 32 (c.count + (copyBytes p f g src).length))
    obtain ⟨-, hrest'⟩ := endCmd_units_rest hnone 0 (BitVec.ofNat 32 (c.count + (copyBytes p f g src).length))
    obtain ⟨hcopies, hheld⟩ := endCmd_copies hnone 0 (BitVec.ofNat 32 (c.count + (copyBytes p f g src).length))
    rw [copyBytes_length] at hended hth' hmem' hrest' hcopies hheld
    simp only [copyBytes_length, hcopies, hheld]
    exact ⟨⟨hth'.trans hth, hrest'.trans hrest⟩, hmem'.trans hmem, hpacket, fun _ => hended, fun v h => absurd h (by simp)⟩
  | some v =>
    refine ⟨⟨hth, hrest⟩, hmem, hpacket, fun h => absurd h (by simp), fun w hw => ⟨?_, fun d hd => ?_⟩⟩
    · exact List.mem_append_right _ (List.mem_singleton.mpr rfl)
    · have hvec := findCmd_modCmd_some (f := fun d => { d with vec := v }) hcmd (fun _ => rfl)
      obtain rfl := Option.some.inj (hvec.symm.trans hd)
      exact ⟨Option.some.inj hw, hfin, rfl⟩

end

end Sys2Proof.Machine

open Sys2Proof Sys2Proof.Machine in
/-- Settles O40: the acceptance by its conditions, and a run by what of it is still to be done: to begin, to read, to send. -/
theorem copiesConvertAndLand : Obligations.CopiesConvertAndLand := by
  unfold Obligations.CopiesConvertAndLand
  refine ⟨?_, ?_⟩
  · intro s h q c i hi hc hfin hq hf free
    obtain ⟨hstarts, hwaits⟩ := copyStep_queued hc hfin hq hf
    have hfree : free ↔ CopyMayStart s c := by simp only [free, CopyMayStart, LocksMayBeTaken, and_assoc]
    rw [hfree, exec_copy hi]
    obtain ⟨rfl, rfl⟩ := findCmd_key hc
    refine ⟨fun hmay => ?_, fun hno => by rw [hwaits hno]⟩
    rw [hstarts hmay]
    refine ⟨_, rfl, rfl, ⟨rfl, rfl⟩, rfl, List.mem_append_right _ (List.mem_singleton.mpr rfl), _, ?_, copyAccepted_engine s c⟩
    exact findCmd_modCmd_some hc (fun _ => rfl)
  · intro s h q c i f g hi hc hfin hr hport hnet p hf hfmt hsf hdf so adv places goesOn
    have hstep := copyStep_running hc hfin hr
    obtain ⟨rfl, rfl⟩ := findCmd_key hc
    have hok : CopyInOrder c f g := ⟨hf, hfmt, hsf, hdf⟩
    rw [exec_copy hi, hstep]
    refine ⟨fun hnone ha => ?_, fun hnone ha hw hbad => ?_, fun l got hreads hl hk => ?_, ?_⟩
    · have hwait : (decide (c.acks ≠ 0) || engineWaits s c (srcChunks p so f ++ dstChunks p.dst adv (runBytes g p.n))) = true := by
        rw [decide_eq_true ha, Bool.true_or]
      rw [copyRun_begins hok hnone, copyBegin, if_pos hwait]
    · rw [copyRun_begins hok hnone]
      obtain ⟨hthreads, hmem, hon⟩ := copyBegin_begins hc ha hw hbad
      exact ⟨_, rfl, hthreads, hmem, hon⟩
    · rw [copyRun_reads hok hreads hl]
      obtain ⟨x, r, hperm, hthreads, hmem, hon⟩ := copyRead_reads got hc hl hk
      exact ⟨_, x, r, rfl, hthreads, hmem, hperm, hon⟩
    · intro bytes hreads hbad elem out
      rw [copyRun_sends hok hreads]
      obtain ⟨hthreads, hmem, ⟨x, hx, hla, hpayload, hby⟩, hend, hnext⟩ := copySend_sends bytes hc hfin hnet hbad
      exact ⟨_, rfl, hthreads, hmem, ⟨x, hx, hla, hpayload.trans (copyBytes_eq ..), hby⟩, hend, hnext⟩

namespace Sys2Proof.Machine
open Sys2Proof
set_option Elab.async false

/-! ### A request of the thread in focus (R94, R159) -/

section
variable {s u : State} {d : BitVec 6} {reads : List Reg} {r : Reg} {slot : Slot}

/-- The request is counted and numbered, and its destination awaits one arrival. -/
def requested (s : State) (r : Reg) : State × Origin := newOrigin (setTh (countRequest s s.th) (advance (setCount s.th r 1))) s.th

theorem seq_extended (x : BitVec 31) : (0#1 ++ x : BitVec 32) = x.zeroExtend 32 := by
  refine BitVec.eq_of_toNat_eq ?_
  rw [toNat_append_add, BitVec.toNat_setWidth, Nat.mod_eq_of_lt (by omega)]
  simp

/-- What a request of a thread leaves as it was, and on whose behalf it goes. -/
structure Requested (s : State) (r : Reg) (t : State) : Prop where
  th : t.th = advance (setCount s.th r 1)
  rest : t.rest = s.rest
  pending : t.pending = s.pending
  mem : t.mem = s.mem
  clusters : t.clusters = s.clusters
  outst : (coreOf t s.th.core).outst = (coreOf s s.th.core).outst + 1

theorem requested_of_thread (hp : s.th.prog = none) (r : Reg) : Requested s r (requested s r).1 ∧ (requested s r).2 = itsOrigin s := by
  have hcount : countRequest s s.th = setCore s s.th.core { coreOf s s.th.core with outst := (coreOf s s.th.core).outst + 1 } := by
    rw [countRequest, hp]
    rfl
  have hcore : coreOf (setTh (countRequest s s.th) (advance (setCount s.th r 1))) s.th.core =
      { coreOf s s.th.core with outst := (coreOf s s.th.core).outst + 1 } := by
    rw [hcount]
    exact coreOf_setCore_same ..
  simp only [requested, newOrigin, hp, hcore]
  refine ⟨⟨rfl, ?_, ?_, ?_, ?_, ?_⟩, ?_⟩
  · rw [hcount]; rfl
  · rw [hcount]; rfl
  · rw [hcount]; rfl
  · rw [hcount]; rfl
  · exact congrArg CoreState.outst (coreOf_setCore_same ..)
  · rw [hcount, seq_extended]
    rfl

theorem requestsFull_thread (hp : s.th.prog = none) (ho : (coreOf s s.th.core).outst < 256) : requestsFull s s.th = false := by
  simp [requestsFull, hp, ho]

/-- A thread that may send a request to an engine: its core has room, and no fence holds the requests of engines (R159, R168). -/
structure MayAsk (s : State) : Prop where
  thread : s.th.prog = none
  room : (coreOf s s.th.core).outst < 256
  fence : fenced s s.th 8 = false

theorem MayAsk.hold (h : MayAsk s) : (requestsFull s s.th || fenced s s.th 8) = false := by
  rw [requestsFull_thread h.thread h.room, h.fence, Bool.or_self]

theorem commandPlan_next (s : State) (d : BitVec 6) (reads : List Reg) (e : Origin → Event) :
    commandPlan s d reads none (fun o s' => pend s' (e o)) =
      { specs := [], needs := .s d :: reads, bad := none, hold := requestsFull s s.th || fenced s s.th 8
        next := pend (requested s (.s d)).1 (e (requested s (.s d)).2) } := rfl

/-- A request to an engine is sent where its operands are present. -/
theorem commandPlan_asks (h : MayAsk s) (hn : Ready s (.s d :: reads)) (e : Origin → Event) :
    ∃ t, conclude slot (commandPlan s d reads none (fun o s' => pend s' (e o))) s = .next t ∧ requests s t d (e (itsOrigin s)) := by
  obtain ⟨hreq, hby⟩ := requested_of_thread h.thread (.s d)
  rw [commandPlan_next]
  refine ⟨_, conclude_done InWindow.nil hn rfl Ready.nil h.hold, ?_⟩
  rw [hby]
  exact ⟨hreq.th, hreq.rest, congrArg (· ++ _) hreq.pending, hreq.mem, hreq.outst, rfl⟩

end

/-! ### The instructions of a tree (R260 to R268) -/

section
variable {s : State} {d a b c : BitVec 6} {n : BitVec 4} {reads : List Reg} {op : TreeOp}

/-- The request of a tree instruction of the thread in focus (R259). -/
def treeRequest (s : State) (d : BitVec 6) (n : BitVec 4) (op : TreeOp) (begun : Bool) : TreeReq :=
  { o := itsOrigin s, d := d, cluster := clusterOf s.th.core, t := n, asid := s.th.asid, op := op, begun := begun }

theorem treePlan_asks (h : MayAsk s) (hn : Ready s (.s d :: reads)) :
    ∃ t, conclude .l (treePlan s d n reads op) s = .next t ∧ requests s t d (.treeAction (treeRequest s d n op false)) :=
  commandPlan_asks h hn (fun o => .treeAction (treeReq s.th o d n op))

theorem treeTold_asks (h : MayAsk s) (hn : Ready s (.s d :: reads)) :
    ∃ t, conclude .l (treeTold s d n reads op) s = .next t ∧ requests s t d (.treeAction (treeRequest s d n op true)) :=
  commandPlan_asks h hn (fun o => .treeAction { treeReq s.th o d n op with begun := true })

/-- `TRDN` awaits its record in a vector register. -/
theorem trdn_asks {v : BitVec 8} (h : MayAsk s) (hw : InWindow s [v]) (hn : Ready s [.v (spec s.th v), .s a]) :
    ∃ t, exec (.trdn v n a) s = .next t ∧ t.th = advance (setCount s.th (.v (spec s.th v)) 1) ∧ t.rest = s.rest ∧ t.mem = s.mem ∧
      .treeAction (treeRequest s 0 n (.read (rdS s.th a).toNat (spec s.th v)) false) ∈ t.pending := by
  obtain ⟨hreq, hby⟩ := requested_of_thread h.thread (.v (spec s.th v))
  have hrun : exec (.trdn v n a) s = conclude .l
      { specs := [v], needs := [.v (spec s.th v), .s a], bad := none, hold := requestsFull s s.th || fenced s s.th 8
        next := pend (requested s (.v (spec s.th v))).1
          (.treeAction (treeReq s.th (requested s (.v (spec s.th v))).2 0 n (.read (rdS s.th a).toNat (spec s.th v)))) } s := rfl
  refine ⟨_, hrun.trans (conclude_done hw hn rfl Ready.nil h.hold), hreq.th, hreq.rest, hreq.mem, ?_⟩
  rw [hby]
  exact List.mem_append_right _ (List.mem_singleton.mpr rfl)

theorem treeAt_setTree_same (s : State) (k : BitVec 7) (n : BitVec 4) (x : Option Tree) : treeAt (setTree s k n x) k n = x := by
  unfold treeAt setTree clusterAt setCluster
  rw [sget_sset_same]
  exact sget_sset_same

/-! ### Expansions under TREETRAP (R263) -/

/-- Does an expansion wait: for an earlier instruction of the thread on the tree, for an earlier event of the thread, or for a range lock? -/
def ExpansionWaits (s : State) (n : BitVec 4) (leaf : Nat) : Prop :=
  (∃ r, .treeAction r ∈ s.pending ∧ r.cluster = clusterOf s.th.core ∧ r.t = n ∧ r.o.by' = s.th.handle) ∨
    outstanding s (senderOf s s.th) 7 ≠ [] ∨
    ∃ x, treeAt s (clusterOf s.th.core) n = some x ∧ engLocked s x.world [(x.base.toNat + 32 * leaf, 32)] = true

theorem expandWaits_iff (s : State) (n : BitVec 4) (leaf : Nat) :
    expandWaits s (clusterOf s.th.core) n leaf = true ↔ ExpansionWaits s n leaf := by
  simp only [expandWaits, ExpansionWaits, Bool.or_eq_true, List.any_eq_true, or_assoc]
  refine or_congr ⟨?_, ?_⟩ (or_congr ?_ ?_)
  · rintro ⟨e, he, hq⟩
    split at hq
    · rename_i q
      simp only [Bool.and_eq_true, decide_eq_true_eq, and_assoc] at hq
      exact ⟨q, he, hq⟩
    · exact absurd hq Bool.false_ne_true
  · rintro ⟨q, hq, hk⟩
    exact ⟨_, hq, by simpa [and_assoc] using hk⟩
  · simp [allPerformed]
  · cases treeAt s (clusterOf s.th.core) n with
    | none => simp
    | some x => simp [recAt]

/-- The plan of `TEXPAND` under `TREETRAP`, by the engine's answer. -/
def answeredPlan (s : State) (d : BitVec 6) (n : BitVec 4) (a b c : BitVec 6) (x : ExpandAnswer) : Plan :=
  match x with
  | .status v => treeTold s d n [.s a, .s b, .s c] (.told v)
  | .free => treePlan s d n [.s a, .s b, .s c] (.expand (rdS s.th a).toNat (rdS s.th b) (field (rdS s.th c) 0 9) false)
  | .full => { treePlan s d n [.s a, .s b, .s c] (.expand (rdS s.th a).toNat (rdS s.th b) (field (rdS s.th c) 0 9) false) with
      bad := some (.trap .treeFault (word ((rdS s.th a).toNat % 2 ^ 32 + n.toNat * 2 ^ 32))) }
  | .room x => treeTold (setTree s (clusterOf s.th.core) n (some { x with reserved := x.reserved + 1 })) d n [.s a, .s b, .s c]
      (.expand (rdS s.th a).toNat (rdS s.th b) (field (rdS s.th c) 0 9) true)

theorem texpand_asks (h : MayAsk s) (hn : Ready s [.s d, .s a, .s b, .s c]) (hactl : s.th.actl.getLsbD 0 = false) :
    ∃ t, exec (.texpand d n a b c) s = .next t ∧ requests s t d
      (.treeAction (treeRequest s d n (.expand (rdS s.th a).toNat (rdS s.th b) (field (rdS s.th c) 0 9) false) false)) := by
  have hrun : exec (.texpand d n a b c) s = execTexpand d n a b c s := rfl
  have hbit : bit s.th.actl 0 = false := hactl
  rw [hrun, execTexpand]
  simp only [hbit, Bool.false_eq_true, if_false]
  exact treePlan_asks h hn

theorem texpand_waits (hn : Ready s [.s d, .s a, .s b, .s c]) (hactl : s.th.actl.getLsbD 0 = true)
    (hw : ExpansionWaits s n (rdS s.th a).toNat) : exec (.texpand d n a b c) s = .next { s with last := .held } := by
  have hrun : exec (.texpand d n a b c) s = execTexpand d n a b c s := rfl
  have hbit : bit s.th.actl 0 = true := hactl
  rw [hrun, execTexpand]
  simp only [hbit, (expandWaits_iff s n _).mpr hw, Bool.or_true, if_true]
  exact conclude_held InWindow.nil hn rfl Ready.nil rfl

theorem texpand_answered (h : MayAsk s) (hactl : s.th.actl.getLsbD 0 = true) (hw : ¬ ExpansionWaits s n (rdS s.th a).toNat) :
    exec (.texpand d n a b c) s = conclude .l
      (answeredPlan s d n a b c (expandAnswer s (clusterOf s.th.core) n (rdS s.th a).toNat (field (rdS s.th c) 0 9))) s := by
  have hrun : exec (.texpand d n a b c) s = execTexpand d n a b c s := rfl
  have hbit : bit s.th.actl 0 = true := hactl
  have hgo : expandWaits s (clusterOf s.th.core) n (rdS s.th a).toNat = false := by
    rw [← Bool.not_eq_true, expandWaits_iff]
    exact hw
  have hhold : (treePlan s d n [.s a, .s b, .s c] (.expand (rdS s.th a).toNat (rdS s.th b) (field (rdS s.th c) 0 9) false)).hold = false := h.hold
  rw [hrun, execTexpand]
  simp only [hbit, hgo, hhold, Bool.or_self, Bool.false_eq_true, if_false, if_true, answeredPlan] <;>
  cases expandAnswer s (clusterOf s.th.core) n (rdS s.th a).toNat (field (rdS s.th c) 0 9) <;> rfl

/-- With a block taken aside the expansion goes on (R263). -/
theorem room_asks {x : Tree} (h : MayAsk s) (hn : Ready s [.s d, .s a, .s b, .s c]) :
    ∃ t, conclude .l (answeredPlan s d n a b c (.room x)) s = .next t ∧ t.th = advance (setCount s.th (.s d) 1) ∧ t.mem = s.mem ∧
      treeAt t (clusterOf s.th.core) n = some { x with reserved := x.reserved + 1 } ∧
      .treeAction (treeRequest s d n (.expand (rdS s.th a).toNat (rdS s.th b) (field (rdS s.th c) 0 9) true) true) ∈ t.pending := by
  have hroom : MayAsk (setTree s (clusterOf s.th.core) n (some { x with reserved := x.reserved + 1 })) := ⟨h.thread, h.room, h.fence⟩
  obtain ⟨hreq, hby⟩ := requested_of_thread hroom.thread (.s d)
  refine ⟨_, conclude_done InWindow.nil hn rfl Ready.nil hroom.hold, hreq.th, hreq.mem, ?_, ?_⟩
  · exact (congrArg (fun k => sget none (sget ClusterState.init k _).trees _) hreq.clusters).trans (treeAt_setTree_same ..)
  · refine List.mem_append_right _ (List.mem_singleton.mpr ?_)
    exact congrArg (fun o => Event.treeAction { treeReq s.th o d n _ with begun := true }) hby.symm

/-! ### What the engine answers to an expansion (R263) -/

section
variable {k : BitVec 7} {leaf cnt : Nat} {x : Tree}

theorem expandAnswer_unbound (ht : treeAt s k n = none) : expandAnswer s k n leaf cnt = .status (-3) := by
  simp only [expandAnswer, ht]
  rfl

theorem expandAnswer_otherWorld (ht : treeAt s k n = some x) (hw : x.world ≠ s.th.world) : expandAnswer s k n leaf cnt = .status (-4) := by
  simp only [expandAnswer, ht, if_pos hw]
  rfl

theorem expandAnswer_beyond (ht : treeAt s k n = some x) (hw : x.world = s.th.world) (hl : x.cap * x.bs ≤ leaf) :
    expandAnswer s k n leaf cnt = .status (-5) := by
  simp only [expandAnswer, ht, if_neg (not_not_intro hw), poolSize, if_pos hl]
  rfl

theorem expandAnswer_large (ht : treeAt s k n = some x) (hw : x.world = s.th.world) (hl : leaf < x.cap * x.bs) (hc : x.bs < cnt) :
    expandAnswer s k n leaf cnt = .status (-10) := by
  simp only [expandAnswer, ht, if_neg (not_not_intro hw), poolSize, if_neg (Nat.not_le.mpr hl), if_pos hc]
  rfl

theorem expanded_or_terminal (y : Node) : (y.expanded || y.terminal) = true ↔ y.flags % 4 ≠ 0 := by
  simp only [Node.expanded, Node.terminal, Bool.or_eq_true, decide_eq_true_eq]
  omega

/-- A leaf in the pool, with a count that its block has room for: what remains depends on its flags, the count, and the blocks left. -/
theorem expandAnswer_leaf (ht : treeAt s k n = some x) (hw : x.world = s.th.world) (hl : leaf < x.cap * x.bs) (hc : cnt ≤ x.bs) :
    expandAnswer s k n leaf cnt = if (rdNode s x leaf).flags % 4 ≠ 0 then .status (-6) else if cnt = 0 then .free
      else if x.cap + x.nfree.toNat - x.bump.toNat - x.reserved = 0 then .full else .room x := by
  simp only [expandAnswer, ht, if_neg (not_not_intro hw), poolSize, if_neg (Nat.not_le.mpr hl), if_neg (Nat.not_lt.mpr hc), expanded_or_terminal,
    blocksLeft]
  rfl

end

end
end Sys2Proof.Machine

namespace Sys2Proof.Machine
open Sys2Proof
set_option Elab.async false

/-! ### The turn of a tree engine (R253, R259, R269) -/

section
variable {s u : State} {r : TreeReq} {x : Tree} {v : Word}

theorem treeStep_answers (h : treeOutcome s r = (u, .word v)) : treeStep r s = treeAnswer u r (.word v) := by
  rw [treeStep, h]

theorem treeStep_records {b : List Byte} (h : treeOutcome s r = (u, .record b)) : treeStep r s = treeAnswer u r (.record b) := by
  rw [treeStep, h]

theorem treeStep_behind (h : treeBehind s r = true) : treeStep r s = pend s (.treeAction r) := by
  have hwait : treeOutcome s r = (s, .wait) := by rw [treeOutcome, if_pos h]
  rw [treeStep, hwait]

theorem treeOutcome_told (h : treeBehind s r = false) (hop : r.op = .told v) : treeOutcome s r = (s, .word v) := by
  simp only [treeOutcome, h, hop, Bool.false_eq_true, if_false]

/-- An action on a tree that is not bound. -/
theorem treeOutcome_unbound (h : treeBehind s r = false) (hb : ∀ a i, r.op ≠ .bind a i) (hv : ∀ v, r.op ≠ .told v)
    (ht : treeAt s r.cluster r.t = none) : treeOutcome s r = (s, .word (-3)) := by
  simp only [treeOutcome, h, ht, Bool.false_eq_true, if_false]
  cases hop : r.op with
  | bind a i => exact absurd hop (hb a i)
  | told v => exact absurd hop (hv v)
  | _ => rfl

/-- An action on a tree of another world. -/
theorem treeOutcome_otherWorld (h : treeBehind s r = false) (hb : ∀ a i, r.op ≠ .bind a i) (hv : ∀ v, r.op ≠ .told v)
    (ht : treeAt s r.cluster r.t = some x) (hw : x.world ≠ r.o.world) : treeOutcome s r = (s, .word (-4)) := by
  simp only [treeOutcome, h, ht, Bool.false_eq_true, if_false]
  cases hop : r.op with
  | bind a i => exact absurd hop (hb a i)
  | told v => exact absurd hop (hv v)
  | _ => exact if_pos hw

/-- An action that may act does. -/
theorem treeOutcome_acts (h : ActsOn s r x) (hb : ∀ a i, r.op ≠ .bind a i) (hv : ∀ v, r.op ≠ .told v) : treeOutcome s r = treeAct s r x := by
  obtain ⟨hbound, hworld, hturn, hfree⟩ := h
  simp only [treeOutcome, hturn, hbound, Bool.false_eq_true, if_false]
  cases hop : r.op with
  | bind a i => exact absurd hop (hb a i)
  | told v => exact absurd hop (hv v)
  | _ => rw [hop] at hfree; simp only [if_neg (not_not_intro hworld), hfree, Bool.false_eq_true, if_false]

/-! ### Binding (R252, R253, R260) -/

theorem ofLe_lt (l : List Byte) : ofLe l < 256 ^ l.length := by
  induction l with
  | nil => exact Nat.one_pos
  | cons b l ih =>
    have hb := b.isLt
    rw [ofLe, List.length_cons, pow_succ]
    omega

/-- A field of a descriptor is no longer than its bytes. -/
theorem field_lt (b : List Byte) (off n : Nat) : ofLe (slice b off n) < 256 ^ n := by
  have h := ofLe_lt (slice b off n)
  rwa [slice_length] at h

theorem treeOf_base (b : List Byte) (desc : Word) (w : World) (asid : BitVec 12) : (treeOf b desc w asid).base.toNat = ofLe (slice b 0 8) := by
  simp only [treeOf, word, BitVec.toNat_ofNat]
  exact Nat.mod_eq_of_lt (field_lt b 0 8)

theorem treeOf_bump (b : List Byte) (desc : Word) (w : World) (asid : BitVec 12) : (treeOf b desc w asid).bump.toNat = ofLe (slice b 32 4) := by
  simp only [treeOf, BitVec.toNat_ofNat]
  exact Nat.mod_eq_of_lt (field_lt b 32 4)

/-- The engine's test of a descriptor is that of R252. -/
theorem descOk_iff (b : List Byte) (desc : Word) (w : World) (asid : BitVec 12) : descOk b (treeOf b desc w asid) = true ↔ goodDescriptor b := by
  simp only [descOk, goodDescriptor, treeOf_base, treeOf_bump, Bool.and_eq_true, decide_eq_true_eq, and_assoc]
  rfl

/-- The tree whose descriptor a binding reads. -/
def boundTree (s : State) (r : TreeReq) (addr : Word) : Tree := treeOf (engRead s r.asid addr.toNat 64).2 addr r.o.world r.asid

/-- The device with that descriptor marked as bound (R260). -/
def markedDescriptor (s : State) (r : TreeReq) (addr : Word) : State :=
  engWrite (engRead s r.asid addr.toNat 64).1 r.asid (addr.toNat + 54) (leBytes 1 (1 + 2 * r.cluster.toNat))

/-- The descriptor is aligned and its page open to the engine. -/
def DescriptorOpen (s : State) (r : TreeReq) (addr : Word) : Prop := addr.toNat % 64 = 0 ∧ engOk s r.asid [.r, .w] addr.toNat 64 = true

/-- It is in order, and so are the pages of its pool. -/
def DescriptorGood (s : State) (r : TreeReq) (addr : Word) : Prop :=
  goodDescriptor (engRead s r.asid addr.toNat 64).2 ∧
    engOk s r.asid [.r, .w] (ofLe (slice (engRead s r.asid addr.toNat 64).2 0 8)) (32 * ((boundTree s r addr).cap * (boundTree s r addr).bs)) = true

variable {addr : Word} {init : Bool}

theorem bindTree_taken (ht : treeAt s r.cluster r.t ≠ none) : bindTree s r addr init = (s, .word (-9)) := by
  rw [bindTree, if_pos (Option.isSome_iff_ne_none.mpr ht)]
  rfl

theorem bindTree_closed (ht : treeAt s r.cluster r.t = none) (ho : ¬ DescriptorOpen s r addr) : bindTree s r addr init = (s, .word (-8)) := by
  have hclosed : (decide (addr.toNat % 64 ≠ 0) || !engOk s r.asid [.r, .w] addr.toNat 64) = true := by
    rw [DescriptorOpen, not_and_or] at ho
    rcases ho with ho | ho <;> simp [ho]
  rw [bindTree, ht, if_neg (by simp), if_pos hclosed]
  rfl

theorem open_tests (ho : DescriptorOpen s r addr) : ¬ (decide (addr.toNat % 64 ≠ 0) || !engOk s r.asid [.r, .w] addr.toNat 64) = true := by
  obtain ⟨halign, hok⟩ := ho
  simp [halign, hok]

theorem bindTree_marked (ht : treeAt s r.cluster r.t = none) (ho : DescriptorOpen s r addr)
    (hm : ofLe (slice (engRead s r.asid addr.toNat 64).2 54 1) % 2 = 1) : bindTree s r addr init = (s, .word (-9)) := by
  rw [bindTree, ht, if_neg (by simp), if_neg (open_tests ho)]
  simp only [if_pos hm]
  rfl

/-- The engine's test of a descriptor and of the pages of its pool. -/
theorem descriptorGood_iff : DescriptorGood s r addr ↔
    ¬ (!descOk (engRead s r.asid addr.toNat 64).2 (boundTree s r addr) ||
      !engOk s r.asid [.r, .w] (boundTree s r addr).base.toNat (32 * poolSize (boundTree s r addr))) = true := by
  have hdesc : descOk (engRead s r.asid addr.toNat 64).2 (boundTree s r addr) = true ↔ goodDescriptor (engRead s r.asid addr.toNat 64).2 := descOk_iff ..
  have hbase : (boundTree s r addr).base.toNat = ofLe (slice (engRead s r.asid addr.toNat 64).2 0 8) := treeOf_base ..
  rw [DescriptorGood, ← hdesc, ← hbase, poolSize]
  simp only [Bool.or_eq_true, Bool.not_eq_true', not_or, Bool.not_eq_false]

theorem bindTree_bad (ht : treeAt s r.cluster r.t = none) (ho : DescriptorOpen s r addr)
    (hm : ofLe (slice (engRead s r.asid addr.toNat 64).2 54 1) % 2 = 0) (hg : ¬ DescriptorGood s r addr) :
    bindTree s r addr init = (s, .word (-8)) := by
  rw [descriptorGood_iff, not_not] at hg
  have hunmarked : ¬ ofLe (slice (engRead s r.asid addr.toNat 64).2 54 1) % 2 = 1 := by omega
  rw [bindTree, ht, if_neg (by simp), if_neg (open_tests ho)]
  simp only [if_neg hunmarked]
  exact if_pos hg

/-- The tree of a descriptor in order is bound, its block 0 written where the binding says so. -/
theorem bindTree_binds (ht : treeAt s r.cluster r.t = none) (ho : DescriptorOpen s r addr)
    (hm : ofLe (slice (engRead s r.asid addr.toNat 64).2 54 1) % 2 = 0) (hg : DescriptorGood s r addr) :
    bindTree s r addr init = if init then
        (setTree ((upFrom 1 ((boundTree s r addr).bs - 1)).foldl (fun u i => wrNode u (boundTree s r addr) i deadNode)
          (wrNode (markedDescriptor s r addr) (boundTree s r addr) 0
            { deadNode with flags := 8, first := 0xFFFFFFFF, parent := 0xFFFFFFFF, batch := 0xFFFFFFFF })) r.cluster r.t (some (initTree (boundTree s r addr))),
          .word 0)
      else (setTree (markedDescriptor s r addr) r.cluster r.t (some (boundTree s r addr)), .word 0) := by
  rw [descriptorGood_iff] at hg
  have hunmarked : ¬ ofLe (slice (engRead s r.asid addr.toNat 64).2 54 1) % 2 = 1 := by omega
  rw [bindTree, ht, if_neg (by simp), if_neg (open_tests ho)]
  simp only [if_neg hunmarked]
  exact if_neg hg

/-- A binding that no lock holds comes to what its engine finds. -/
theorem treeOutcome_bind (h : treeBehind s r = false) (hop : r.op = .bind addr init)
    (hl : engLocked s r.o.world (bindTouches s r addr init) = false) : treeOutcome s r = bindTree s r addr init := by
  simp only [treeOutcome, h, hop, hl, Bool.false_eq_true, if_false]

/-! ### Records and statistics (R267, R268) -/

theorem foldl_upFrom_one {α : Type} (f : α → Nat → α) (n : Nat) (x : α) :
    (upFrom 1 n).foldl f x = (List.range n).foldl (fun u i => f u (1 + i)) x := by
  rw [upFrom_eq_range', List.range'_eq_map_range, List.foldl_map]

theorem treeOutcome_read {i : Nat} {v : BitVec 9} (h : ActsOn s r x) (hop : r.op = .read i v) : treeOutcome s r =
    if x.cap * x.bs ≤ i then (s, .word (-5))
    else ((engRead s x.asid (x.base.toNat + 32 * i) 32).1, .record (engRead s x.asid (x.base.toNat + 32 * i) 32).2) := by
  rw [treeOutcome_acts h (by simp [hop]) (by simp [hop]), treeAct, hop]
  rfl

/-- A record is sent whole to its vector register. -/
theorem treeAnswer_record {i : Nat} {v : BitVec 9} (hop : r.op = .read i v) (b : List Byte) :
    ∃ p ∈ (treeAnswer u r (.record b)).copies ++ (treeAnswer u r (.record b)).heldBack, p.la = regLa r.o.dev r.o.by' (.v v) ∧ p.payload = b := by
  simp only [treeAnswer, hop]
  obtain ⟨k, hk⟩ := exists_copy_sendLanding u { packet { r.o with agent := .tree r.cluster } (regLa r.o.dev r.o.by' (.v v)) b with
    counted := true, reply := true }
  exact ⟨_, hk, rfl, rfl⟩

/-- A status goes there too, with zeros behind it. -/
theorem treeAnswer_status {i : Nat} {v : BitVec 9} (hop : r.op = .read i v) (w : Word) :
    ∃ p ∈ (treeAnswer u r (.word w)).copies ++ (treeAnswer u r (.word w)).heldBack, p.la = regLa r.o.dev r.o.by' (.v v) ∧
      p.payload = leBytes 8 w.toNat ++ List.replicate 24 0 := by
  have hsame : treeAnswer u r (.word w) = treeAnswer u r (.record (leBytes 8 w.toNat ++ List.replicate 24 0)) := by
    simp only [treeAnswer, hop]
  rw [hsame]
  exact treeAnswer_record hop _

theorem treeOutcome_stat {f : BitVec 3} (h : ActsOn s r x) (hop : r.op = .stat f) :
    treeOutcome s r = (setTree s r.cluster r.t (some (treeStat x f).1), .word (treeStat x f).2) := by
  rw [treeOutcome_acts h (by simp [hop]) (by simp [hop]), treeAct, hop]

theorem treeOutcome_unbind (h : ActsOn s r x) (hop : r.op = .unbind) :
    treeOutcome s r = (setTree (engWrite s x.asid x.desc.toNat (descBytes x)) r.cluster r.t none, .word 0) := by
  rw [treeOutcome_acts h (by simp [hop]) (by simp [hop]), treeAct, hop]

end
end Sys2Proof.Machine

open Sys2Proof Sys2Proof.Machine in
/-- Settles O53: an instruction is a request to its engine, under TREETRAP after the engine's answer; the engine's turn is then taken by cases. -/
theorem treesAreBoundAndAsked : Obligations.TreesAreBoundAndAsked := by
  unfold Obligations.TreesAreBoundAndAsked
  refine ⟨?_, ?_⟩
  · intro s d a b c v n init vl f hrun hroom hfence k request asks leaf op
    have h : MayAsk s := ⟨hrun.proper, hroom, hfence⟩
    refine ⟨treePlan_asks h, fun hn => ⟨treePlan_asks h hn, treePlan_asks h hn, treePlan_asks h hn⟩, treePlan_asks h,
      fun hn => ⟨treePlan_asks h hn, ?_⟩, trdn_asks h, ?_⟩
    · have hrun : exec (.tfree d n a) s = conclude .l (treePlan s d n [.s a] (.free (field (rdS s.th a) 0 32) 0)) s := rfl
      have hlow : field (rdS s.th a) 0 32 = leaf % 2 ^ 32 := by simp [field, leaf]
      rw [hlow] at hrun
      obtain ⟨t, ht, hreq⟩ := treePlan_asks (n := n) (op := .free (leaf % 2 ^ 32) 0) h hn
      exact ⟨t, hrun.trans ht, hreq⟩
    · intro hn behind exhausted locked waits' told
      refine ⟨texpand_asks h hn, texpand_waits hn, fun hactl hw => ?_⟩
      have hplan := texpand_answered (d := d) (b := b) (c := c) h hactl hw
      have htold (w : Word) (hx : expandAnswer s k n leaf (field (rdS s.th c) 0 9) = .status w) : told w := by
        rw [hx] at hplan
        obtain ⟨t, ht, hreq⟩ := treeTold_asks (op := .told w) (n := n) h hn
        exact ⟨t, hplan.trans ht, hreq⟩
      refine ⟨fun hnone => htold _ (expandAnswer_unbound hnone), fun x hx => ⟨fun hw => htold _ (expandAnswer_otherWorld hx hw), fun hworld => ?_⟩⟩
      refine ⟨fun hl => htold _ (expandAnswer_beyond hx hworld hl), fun hl hc => htold _ (expandAnswer_large hx hworld hl hc), fun hl hc => ?_⟩
      have hleaf := expandAnswer_leaf hx hworld hl hc
      refine ⟨fun hflags => htold _ (hleaf.trans (if_pos hflags)), fun hflags hzero => ?_, fun hflags hpos => ⟨fun hfull => ?_, fun hleft => ?_⟩⟩
      · rw [hleaf.trans ((if_neg (not_not_intro hflags)).trans (if_pos hzero))] at hplan
        obtain ⟨t, ht, hreq⟩ := treePlan_asks (n := n) (op := op false) h hn
        exact ⟨t, hplan.trans ht, hreq⟩
      · rw [hleaf.trans ((if_neg (not_not_intro hflags)).trans ((if_neg hpos.ne').trans (if_pos hfull)))] at hplan
        exact hplan.trans (conclude_trap InWindow.nil hn rfl)
      · rw [hleaf.trans ((if_neg (not_not_intro hflags)).trans ((if_neg hpos.ne').trans (if_neg hleft)))] at hplan
        obtain ⟨t, ht, hth, hmem, htree, hreq⟩ := room_asks (n := n) (b := b) (c := c) (x := x) h hn
        exact ⟨t, hplan.trans ht, hth, hmem, htree, hreq⟩
  · intro s r answers
    refine ⟨fun hturn v hop => treeStep_answers (treeOutcome_told hturn hop), fun hturn hb hv => ⟨fun ht => treeStep_answers (treeOutcome_unbound hturn hb hv ht),
      fun x ht hw => treeStep_answers (treeOutcome_otherWorld hturn hb hv ht hw)⟩, treeStep_behind, ?_, ?_⟩
    · intro addr init hop hturn hfree b f g open' x good marked
      have hbind := treeOutcome_bind hturn hop hfree
      refine ⟨fun ht => treeStep_answers (hbind.trans (bindTree_taken ht)), fun ht ho => treeStep_answers (hbind.trans (bindTree_closed ht ho)),
        fun ht ho hm => treeStep_answers (hbind.trans (bindTree_marked ht ho hm)), fun ht ho hm hg => treeStep_answers (hbind.trans (bindTree_bad ht ho hm hg)),
        fun ht ho hm hg => ?_⟩
      have hbinds := hbind.trans (bindTree_binds ht ho hm hg)
      refine ⟨fun hi => treeStep_answers (hbinds.trans (by rw [hi]; rfl)), fun hi => treeStep_answers (hbinds.trans ?_)⟩
      rw [hi, if_pos rfl, foldl_upFrom_one]
      rfl
    · intro x hact
      have hstat (f : BitVec 3) (hop : r.op = .stat f) := treeStep_answers (treeOutcome_stat hact hop)
      refine ⟨fun hop => ⟨_, treeStep_answers (treeOutcome_unbind hact hop), rfl⟩, fun i v hop hi _ => ?_, fun i v hop hi _ => ?_,
        hstat 0, hstat 1, hstat 2, hstat 3, hstat 4, hstat 5, hstat 6⟩
      · rw [treeStep_records ((treeOutcome_read hact hop).trans (if_neg (Nat.not_le.mpr hi)))]
        exact treeAnswer_record hop _
      · rw [treeStep_answers ((treeOutcome_read hact hop).trans (if_pos hi))]
        exact treeAnswer_status hop _

namespace Sys2Proof.Machine
open Sys2Proof
set_option Elab.async false

/-! ### Numbers in graph memory (R316 to R319) -/

section
variable {s t u : State} {g : BitVec 8} {a b n m v i : Nat}

theorem rdMem_congr {x y : Memory} (h : ∀ i < n, sget 0 y (a + i) = sget 0 x (a + i)) : rdMem y a n = rdMem x a n := by
  induction n generalizing a with
  | zero => rfl
  | succ n ih =>
    have hfirst : sget 0 y a = sget 0 x a := h 0 (by omega)
    rw [rdMem, rdMem, hfirst, ih (fun i hi => by rw [Nat.add_assoc, Nat.add_comm 1]; exact h (i + 1) (by omega))]

theorem ofLe_leBytes (n v : Nat) : ofLe (leBytes n v) = v % 256 ^ n := by
  induction n generalizing v with
  | zero => exact (Nat.mod_one v).symm
  | succ n ih =>
    rw [leBytes, ofLe, ih, BitVec.toNat_ofNat, pow_succ' 256, Nat.mod_mul]

theorem gRd_congr (h : ∀ i < n, sget 0 t.gmem (a + i) = sget 0 s.gmem (a + i)) : gRd t a n = gRd s a n := congrArg ofLe (rdMem_congr h)

theorem gRd_gWr_same (s : State) (a n v : Nat) : gRd (gWr s a n v) a n = v % 256 ^ n := by
  have h := rdMem_wrMem s.gmem a (leBytes n v)
  rw [leBytes_length] at h
  rw [gRd, show rdMem (gWr s a n v).gmem a n = leBytes n v from h, ofLe_leBytes]

theorem gWr_outside (s : State) (v : Nat) (h : b < a ∨ a + n ≤ b) : sget 0 (gWr s a n v).gmem b = sget 0 s.gmem b :=
  sget_wrMem_outside _ _ _ _ (by rwa [leBytes_length])

theorem gRd_gWr_apart (s : State) (v : Nat) (h : b + m ≤ a ∨ a + n ≤ b) : gRd (gWr s a n v) b m = gRd s b m :=
  gRd_congr (fun i hi => gWr_outside s v (by omega))

theorem gRd_lt (s : State) (a n : Nat) : gRd s a n < 256 ^ n := by
  have h := ofLe_lt (rdMem s.gmem a n)
  rwa [rdMem_length] at h

/-! ### What of graph memory describes its graphs, and what the dispatcher keeps there (R317 to R319) -/

/-- The bytes of a node that the dispatcher keeps: counter, teams done, teams placed, state. -/
def NodeStateByte (a : Nat) : Prop := ∃ j < 65536, 0x4000 + 96 * j + 48 ≤ a ∧ a < 0x4000 + 96 * j + 55

/-- The bytes of the graph table behind the host's: nodes left, status word, and what follows. -/
def EntryStateByte (a : Nat) : Prop := a < 0x4000 ∧ 16 ≤ a % 64

/-- The graphs are described as before. -/
def SameTasks (s t : State) : Prop := ∀ a, ¬ NodeStateByte a → ¬ EntryStateByte a → sget 0 t.gmem a = sget 0 s.gmem a

theorem SameTasks.refl : SameTasks s s := fun _ _ _ => rfl

theorem SameTasks.trans (h : SameTasks s t) (k : SameTasks t u) : SameTasks s u := fun a hn he => (k a hn he).trans (h a hn he)

theorem SameTasks.of_gmem (h : t.gmem = s.gmem) : SameTasks s t := fun _ _ _ => by rw [h]

theorem graphAt_lt (g : BitVec 8) : graphAt g + 64 ≤ 0x4000 := by
  have := g.isLt
  unfold graphAt
  omega

theorem SameTasks.entry (h : SameTasks s t) (g : BitVec 8) {off : Nat} (ho : off + n ≤ 16) : gRd t (graphAt g + off) n = gRd s (graphAt g + off) n := by
  have hg := g.isLt
  refine gRd_congr (fun i hi => h _ ?_ ?_)
  · rintro ⟨j, -, hj, -⟩
    unfold graphAt at hj
    omega
  · rintro ⟨-, hj⟩
    unfold graphAt at hj
    omega

theorem SameTasks.firstNode (h : SameTasks s t) (g : BitVec 8) : firstNode t g = firstNode s g := h.entry g (by norm_num)

theorem SameTasks.nodeCount (h : SameTasks s t) (g : BitVec 8) : nodeCount t g = nodeCount s g := h.entry g (by norm_num)

theorem SameTasks.graphWorld (h : SameTasks s t) (g : BitVec 8) : graphWorld t g = graphWorld s g := congrArg (BitVec.ofNat 16) (h.entry g (by norm_num))

theorem SameTasks.graphAsid (h : SameTasks s t) (g : BitVec 8) : graphAsid t g = graphAsid s g := h.entry g (by norm_num)

theorem SameTasks.nodeAt (h : SameTasks s t) (g : BitVec 8) (i : Nat) : nodeAt t g i = nodeAt s g i := by
  unfold Machine.nodeAt
  rw [h.firstNode]

theorem SameTasks.graphOk (h : SameTasks s t) (g : BitVec 8) : graphOk t g = graphOk s g := by
  have hvalid : gRd t (graphAt g) 1 = gRd s (graphAt g) 1 := h.entry g (off := 0) (by norm_num)
  unfold Machine.graphOk
  rw [hvalid, h.nodeCount, h.firstNode]

/-- A number of a node's description. -/
theorem SameTasks.node (h : SameTasks s t) (g : BitVec 8) (i : Nat) {off : Nat} (ho : off + n ≤ 48 ∨ 55 ≤ off ∧ off + n ≤ 96) :
    gRd t (Machine.nodeAt s g i + off) n = gRd s (Machine.nodeAt s g i + off) n := by
  unfold Machine.nodeAt
  generalize Machine.firstNode s g + i = k
  refine gRd_congr (fun i hi => h _ ?_ ?_)
  · rintro ⟨j, -, hj⟩
    omega
  · rintro ⟨hj, -⟩
    omega

/-- A number behind the nodes. -/
theorem SameTasks.pool (h : SameTasks s t) (ha : 0x604000 ≤ a) : gRd t a n = gRd s a n := by
  refine gRd_congr (fun i _ => h _ ?_ ?_)
  · rintro ⟨j, hj⟩
    omega
  · rintro ⟨hj, -⟩
    omega

theorem SameTasks.nodeTeams (h : SameTasks s t) (g : BitVec 8) (i : Nat) : nodeTeams t g i = nodeTeams s g i := by
  unfold Machine.nodeTeams
  rw [h.nodeAt, h.node g i (by norm_num)]

theorem SameTasks.nodeThreads (h : SameTasks s t) (g : BitVec 8) (i : Nat) : nodeThreads t g i = nodeThreads s g i := by
  unfold Machine.nodeThreads
  rw [h.nodeAt, h.node g i (by norm_num)]

theorem SameTasks.nodeWindow (h : SameTasks s t) (g : BitVec 8) (i : Nat) : nodeWindow t g i = nodeWindow s g i := by
  unfold Machine.nodeWindow
  rw [h.nodeAt, h.node g i (by norm_num)]

theorem SameTasks.nodeMode (h : SameTasks s t) (g : BitVec 8) (i : Nat) : nodeMode t g i = nodeMode s g i := by
  unfold Machine.nodeMode
  rw [h.nodeAt, h.node g i (by norm_num)]

theorem SameTasks.nodeDie (h : SameTasks s t) (g : BitVec 8) (i : Nat) : nodeDie t g i = nodeDie s g i := by
  funext d
  unfold Machine.nodeDie
  rw [h.nodeAt, h.node g i (by norm_num)]

theorem SameTasks.firstCount (h : SameTasks s t) (g : BitVec 8) (i : Nat) : firstCount t g i = firstCount s g i := by
  unfold Machine.firstCount
  rw [h.nodeAt, h.node g i (by norm_num)]

theorem SameTasks.successors (h : SameTasks s t) (g : BitVec 8) (i : Nat) : successors t g i = successors s g i := by
  unfold Machine.successors
  dsimp only
  rw [h.nodeAt, h.node g i (by norm_num), h.node g i (by norm_num)]
  exact List.map_congr_left fun k _ => h.pool (by omega)

theorem SameTasks.nodeOk (h : SameTasks s t) (g : BitVec 8) (i : Nat) : nodeOk t g i = nodeOk s g i := by
  unfold Machine.nodeOk
  simp only [h.nodeAt]
  rw [h.node g i (by norm_num), h.node g i (by norm_num), h.node g i (by norm_num), h.node g i (by norm_num), h.node g i (by norm_num),
    h.node g i (by norm_num), h.node g i (by norm_num), h.node g i (by norm_num), h.node g i (by norm_num), h.node g i (by norm_num),
    h.successors, h.nodeCount]

theorem SameTasks.nodeBad (h : SameTasks s t) (ha : t.asids = s.asids) (g : BitVec 8) : nodeBad t g = nodeBad s g := by
  have hworld : asidWorld t (BitVec.ofNat 12 (Machine.graphAsid s g)) = asidWorld s (BitVec.ofNat 12 (Machine.graphAsid s g)) := by
    unfold asidWorld
    rw [ha]
  have hnodes : Machine.nodeOk t g = Machine.nodeOk s g := funext (h.nodeOk g)
  unfold Machine.nodeBad
  simp only [h.graphAsid, h.graphWorld, h.nodeCount, hworld, hnodes]

theorem SameTasks.teamsOf (h : SameTasks s t) (g : BitVec 8) : teamsOf t g = teamsOf s g := by
  funext i
  unfold Machine.teamsOf
  rw [h.nodeTeams]

theorem SameTasks.launchable (h : SameTasks s t) (ha : t.asids = s.asids) (k : Launchable s g) : Launchable t g := by
  obtain ⟨hvalid, hnodes, hteams, i, hi, hfirst⟩ := k
  refine ⟨(h.graphOk g).trans hvalid, (h.nodeBad ha g).trans hnodes, fun j hj => ?_, i, ?_, (h.firstCount g i).trans hfirst⟩
  · rw [h.nodeTeams, h.nodeMode]
    exact hteams j ((h.nodeCount g) ▸ hj)
  · rwa [h.nodeCount]

/-- What has been set going of the one graph has been of the other, where they are described alike and the teams waiting are the same. -/
theorem SameTasks.released (h : SameTasks s t) (hq : t.queue = s.queue) (k : Released t u g) : Released s u g := by
  obtain ⟨hleft, hnodes, hqueue, hplace⟩ := k
  have hcount : Machine.firstCount t g = Machine.firstCount s g := funext (h.firstCount g)
  rw [h.nodeCount, hcount, h.teamsOf, hq] at hqueue
  refine ⟨hleft.trans (h.nodeCount g), fun i hi => ?_, hqueue, hplace⟩
  have hnode := hnodes i (by rwa [h.nodeCount])
  rwa [hcount] at hnode

end
end Sys2Proof.Machine

namespace Sys2Proof.Machine
open Sys2Proof
set_option Elab.async false

/-! ### Channels and triggers (R320, R321, R334) -/

section
variable {s t : State} {c : BitVec 4} {g : BitVec 8} {v : Word} {rest : List Word} {d a b : BitVec 6}

theorem chanAt_setChan_same (s : State) (c : BitVec 4) (k : Channel) : chanAt (setChan s c k) c = k := Vector.getElem_set_self ..

theorem chanAt_congr (h : t.channels = s.channels) (c : BitVec 4) : chanAt t c = chanAt s c := by
  unfold chanAt
  rw [h]

theorem pendOnce_sent (s : State) (e : Event) : Sent s (pendOnce s e) := by
  unfold pendOnce
  split <;> rfl

theorem mem_pendOnce (s : State) (e : Event) : e ∈ (pendOnce s e).pending := by
  unfold pendOnce
  split
  · rename_i h
    exact List.contains_iff_mem.mp h
  · exact List.mem_append_right _ (List.mem_singleton.mpr rfl)

/-- A channel that takes a trigger: enabled, with room, of an interface that is not locked, in phase 2 or 3 (R321). -/
def ChannelTakes (s : State) (c : BitVec 4) : Prop :=
  (chanAt s c).en = true ∧ (chanAt s c).fifo.length < 16 ∧ (funcAt s (chanAt s c).func).tdisp ≠ .locked ∧ (s.phase = 2 ∨ s.phase = 3)

theorem trigger_taken (h : ChannelTakes s c) (v : Word) :
    trigger s c v = (pendOnce (setChan s c { chanAt s c with fifo := (chanAt s c).fifo ++ [v] }) (.launchStart c), true) := by
  obtain ⟨hen, hroom, hopen, hphase⟩ := h
  unfold trigger
  rw [if_pos (by simpa [hen, hroom, hopen] using hphase)]

theorem trigger_dropped (h : ¬ ChannelTakes s c) (v : Word) : trigger s c v = (setChan s c { chanAt s c with drop := true }, false) := by
  unfold trigger
  rw [if_neg (fun hyes => h (by simpa [ChannelTakes, and_assoc] using hyes))]

theorem trigger_th (s : State) (c : BitVec 4) (v : Word) : (trigger s c v).1.th = s.th := by
  by_cases h : ChannelTakes s c
  · rw [trigger_taken h]
    exact (pendOnce_sent ..).th
  · rw [trigger_dropped h]
    rfl

theorem chanAt_trigger_taken (h : ChannelTakes s c) (v : Word) :
    chanAt (trigger s c v).1 c = { chanAt s c with fifo := (chanAt s c).fifo ++ [v] } := by
  rw [trigger_taken h]
  have hsent := pendOnce_sent (setChan s c { chanAt s c with fifo := (chanAt s c).fifo ++ [v] }) (.launchStart c)
  exact (chanAt_congr (congrArg State.channels hsent :) c).trans (chanAt_setChan_same ..)

theorem chanAt_trigger_dropped (h : ¬ ChannelTakes s c) (v : Word) : chanAt (trigger s c v).1 c = { chanAt s c with drop := true } := by
  rw [trigger_dropped h]
  exact chanAt_setChan_same ..

theorem ChannelTakes.congr (hc : t.channels = s.channels) (hf : t.funcs = s.funcs) (hp : t.phase = s.phase) : ChannelTakes t c ↔ ChannelTakes s c := by
  have hfunc (f : BitVec 6) : funcAt t f = funcAt s f := congrArg (sget Func.init · f.toNat) hf
  simp only [ChannelTakes, chanAt_congr hc, hfunc, hp]

theorem exec_chtrig_error (h : (funcAt s (chanAt s c).func).tdisp = .error) (v : Word) : exec (.chtrig c v) s = .next s := by
  have hrun : exec (.chtrig c v) s = execChtrig c v s := rfl
  rw [hrun, execChtrig, if_pos h]

theorem exec_chtrig (h : (funcAt s (chanAt s c).func).tdisp ≠ .error) (v : Word) : exec (.chtrig c v) s = .next (trigger s c v).1 := by
  have hrun : exec (.chtrig c v) s = execChtrig c v s := rfl
  rw [hrun, execChtrig, if_neg h]

theorem chtrig_taken (h : (funcAt s (chanAt s c).func).tdisp ≠ .error) (ht : ChannelTakes s c) (v : Word) :
    ∃ t, exec (.chtrig c v) s = .next t ∧ SameThreads s t ∧ t.mem = s.mem ∧ chanAt t c = { chanAt s c with fifo := (chanAt s c).fifo ++ [v] } ∧
      .launchStart c ∈ t.pending := by
  have hchan := chanAt_trigger_taken ht v
  have hsent := pendOnce_sent (setChan s c { chanAt s c with fifo := (chanAt s c).fifo ++ [v] }) (.launchStart c)
  refine ⟨_, exec_chtrig h v, ?_⟩
  rw [trigger_taken ht] at hchan ⊢
  exact ⟨⟨hsent.th, hsent.rest⟩, hsent.mem, hchan, mem_pendOnce ..⟩

/-! ### LAUNCH (R334) -/

/-- The state once `LAUNCH` has left: its request counted, the trigger at its channel, the answer on its way. -/
def launched (s : State) (d : BitVec 6) (c : BitVec 4) (v : Word) : State :=
  answerTo (trigger (requested s (.s d)).1 c v).1 (requested s (.s d)).2 .dispatcher (.s d) (boolWord (!(trigger (requested s (.s d)).1 c v).2)) true

theorem exec_launch (s : State) (d a b : BitVec 6) (hc : bits (rdS s.th a) 0 4 = c) : exec (.launch d a b) s = conclude .l
    { specs := [], needs := [.s a, .s b], late := [.s d], hold := requestsFull s s.th || !allAccepted s s.th
      bad := if !(chanAt s c).devl || (chanAt s c).world ≠ s.th.world then some (Bad.trap .protect (zext64 c)) else none
      next := launched s d c (rdS s.th b) } s := by
  subst hc
  rfl

theorem launch_protect (hn : Ready s [.s a, .s b]) (hc : bits (rdS s.th a) 0 4 = c) (hk : (chanAt s c).devl = false ∨ (chanAt s c).world ≠ s.th.world) :
    exec (.launch d a b) s = trapsWith s .protect (zext64 c) := by
  rw [exec_launch s d a b hc]
  refine conclude_trap InWindow.nil hn (if_pos ?_)
  rcases hk with hk | hk <;> simp [hk]

theorem requested_sent (hp : s.th.prog = none) (r : Reg) : Sent (setTh s (advance (setCount s.th r 1))) (requested s r).1 := by
  simp only [requested, newOrigin, countRequest, hp]
  rfl

theorem launch_answers (hrun : s.th.prog = none) (hn : Ready s [.s d, .s a, .s b]) (hc : bits (rdS s.th a) 0 4 = c)
    (hroom : (coreOf s s.th.core).outst < 256) (hdone : outstanding s (senderOf s s.th) 0xF = []) (hdevl : (chanAt s c).devl = true)
    (hworld : (chanAt s c).world = s.th.world) :
    exec (.launch d a b) s = .next (finish (launched s d c (rdS s.th b))) := by
  have hhold : (requestsFull s s.th || !allAccepted s s.th) = false := by
    rw [requestsFull_thread hrun hroom, allAccepted, hdone]
    rfl
  rw [exec_launch s d a b hc]
  refine conclude_done InWindow.nil (fun r hr => hn r (List.mem_cons_of_mem _ hr)) (if_neg ?_) (fun r hr => hn r ?_) hhold
  · simp [hdevl, hworld]
  · rw [List.mem_singleton.mp hr]
    exact List.mem_cons_self

/-- What becomes of the channel, and what `LAUNCH` is answered. -/
theorem launched_shows (hp : s.th.prog = none) (d : BitVec 6) (c : BitVec 4) (v : Word) :
    (launched s d c v).th = advance (setCount s.th (.s d) 1) ∧
    (ChannelTakes s c → chanAt (launched s d c v) c = { chanAt s c with fifo := (chanAt s c).fifo ++ [v] } ∧ answersWith (launched s d c v) (itsOrigin s) d 0) ∧
    (¬ ChannelTakes s c → chanAt (launched s d c v) c = { chanAt s c with drop := true } ∧ answersWith (launched s d c v) (itsOrigin s) d 1) := by
  obtain ⟨-, hby⟩ := requested_of_thread hp (.s d)
  have hreq := requested_sent hp (.s d)
  have hchan : (requested s (.s d)).1.channels = s.channels := (congrArg State.channels hreq :)
  have htakes := ChannelTakes.congr (c := c) hchan (congrArg State.funcs hreq :) (congrArg State.phase hreq :)
  have hsent := answerTo_sent (trigger (requested s (.s d)).1 c v).1 (requested s (.s d)).2 .dispatcher (.s d)
    (boolWord (!(trigger (requested s (.s d)).1 c v).2)) true
  have hanswer := answerTo_answersWith (trigger (requested s (.s d)).1 c v).1 (requested s (.s d)).2 .dispatcher d
    (boolWord (!(trigger (requested s (.s d)).1 c v).2))
  have hchanAt : chanAt (launched s d c v) c = chanAt (trigger (requested s (.s d)).1 c v).1 c := chanAt_congr (congrArg State.channels hsent :) c
  refine ⟨hsent.th.trans ((trigger_th ..).trans hreq.th), fun hyes => ⟨?_, ?_⟩, fun hno => ⟨?_, ?_⟩⟩
  · rw [hchanAt, chanAt_trigger_taken (htakes.mpr hyes), chanAt_congr hchan]
  · rw [hby, trigger_taken (htakes.mpr hyes)] at hanswer
    rw [launched, hby, trigger_taken (htakes.mpr hyes)]
    exact hanswer
  · rw [hchanAt, chanAt_trigger_dropped (fun h => hno (htakes.mp h)), chanAt_congr hchan]
  · rw [hby, trigger_dropped (fun h => hno (htakes.mp h))] at hanswer
    rw [launched, hby, trigger_dropped (fun h => hno (htakes.mp h))]
    exact hanswer

/-! ### The start of a launch: refused, put off, or begun (R321, R363) -/

theorem launchesStart_of_phase (hp : s.phase = 3) : launchesStart s = true := by
  simp [launchesStart, hp]

/-- The trigger at the head of a channel, for a graph that does not run. -/
structure HeadTrigger (s : State) (c : BitVec 4) (v : Word) (rest : List Word) (g : BitVec 8) : Prop where
  free : (chanAt s c).running = none
  head : (chanAt s c).fifo = v :: rest
  phase : s.phase = 3
  graph : bits v 0 8 = g
  idle : launchOf s g = none

theorem HeadTrigger.exec_eq (h : HeadTrigger s c v rest g) : exec (.launchStart c) s =
    if graphOk s g = false then .next (refuseTrigger s c rest 1)
    else if graphWorld s g ≠ (chanAt s c).world then .next (refuseTrigger s c rest 2)
    else if worldLeaving s (chanAt s c).world then .next (pend s (.launchStart c))
    else .next (launch (setChan s c { chanAt s c with fifo := rest, running := some g }) g (some c) none (v &&& ~~~0xFF)) := by
  obtain ⟨hr, hf, hp, hg, hl⟩ := h
  have hrun : exec (.launchStart c) s = execLaunchStart c s := rfl
  subst hg
  simp only [hrun, execLaunchStart, hr, hf, launchesStart_of_phase hp, hl, Bool.not_true, Option.isSome_none, Bool.or_self, Bool.false_eq_true,
    if_false, Bool.not_eq_true']

theorem refuseTrigger_shows (s : State) (c : BitVec 4) (rest : List Word) (err : BitVec 2) :
    SameThreads s (refuseTrigger s c rest err) ∧ chanAt (refuseTrigger s c rest err) c = { chanAt s c with fifo := rest, ended := true, err := err } ∧
      .msix (chanAt s c).vec ∈ (refuseTrigger s c rest err).outbox := by
  have hchan := chanAt_setChan_same s c { chanAt s c with fifo := rest, ended := true, err := err }
  have hout : OutMsg.msix (chanAt s c).vec ∈ (msix (setChan s c { chanAt s c with fifo := rest, ended := true, err := err }) (chanAt s c).vec).outbox :=
    List.mem_append_right _ (List.mem_singleton.mpr rfl)
  have hsent := pendOnce_sent (msix (setChan s c { chanAt s c with fifo := rest, ended := true, err := err }) (chanAt s c).vec) (.launchStart c)
  unfold refuseTrigger
  split
  · exact ⟨⟨rfl, rfl⟩, hchan, hout⟩
  · refine ⟨⟨hsent.th, hsent.rest⟩, (chanAt_congr (congrArg State.channels hsent :) c).trans hchan, ?_⟩
    rw [(congrArg State.outbox hsent :)]
    exact hout

theorem HeadTrigger.refused (h : HeadTrigger s c v rest g) {err : BitVec 2}
    (hbad : (err = 1 ∧ graphOk s g = false) ∨ (err = 2 ∧ graphOk s g = true ∧ graphWorld s g ≠ (chanAt s c).world)) :
    exec (.launchStart c) s = .next (refuseTrigger s c rest err) := by
  rw [h.exec_eq]
  rcases hbad with ⟨rfl, hbad⟩ | ⟨rfl, hok, hworld⟩
  · rw [if_pos hbad]
  · rw [if_neg (by simp [hok]), if_pos hworld]

theorem HeadTrigger.put_off (h : HeadTrigger s c v rest g) (hok : graphOk s g = true) (hw : graphWorld s g = (chanAt s c).world)
    (hgo : worldLeaving s (chanAt s c).world = true) : exec (.launchStart c) s = .next (pend s (.launchStart c)) := by
  rw [h.exec_eq, if_neg (by simp [hok]), if_neg (not_not.mpr hw), if_pos hgo]

theorem low_byte_only {v : Word} (h : v.toNat < 2 ^ 8) : v &&& ~~~0xFF = 0 := by
  have hmask : ∀ j < 8, (~~~0xFF : Word).getLsbD j = false := by decide
  refine BitVec.eq_of_getLsbD_eq fun i hi => ?_
  by_cases hlow : i < 8
  · rw [BitVec.getLsbD_and, hmask i hlow, Bool.and_false]
    exact BitVec.getLsbD_zero.symm
  · have hclear : v.getLsbD i = false := Nat.testBit_lt_two_pow (h.trans_le (Nat.pow_le_pow_right (by norm_num) (by omega)))
    simp [hclear]

theorem HeadTrigger.begun (h : HeadTrigger s c v rest g) (hok : graphOk s g = true) (hw : graphWorld s g = (chanAt s c).world)
    (hgo : worldLeaving s (chanAt s c).world = false) (hv : v.toNat < 2 ^ 8) : exec (.launchStart c) s =
      .next (launch (setChan s c { chanAt s c with fifo := rest, running := some g }) g (some c) none 0) := by
  rw [h.exec_eq, if_neg (by simp [hok]), if_neg (not_not.mpr hw), if_neg (by simp [hgo]), low_byte_only hv]

end
end Sys2Proof.Machine

namespace Sys2Proof.Machine
open Sys2Proof
set_option Elab.async false

/-! ### What the start of a launch writes (R318, R323) -/

section
variable {s t u : State} {g : BitVec 8} {i j : Nat} {l : Launch} {L : List Nat}

/-- Of the state, only graph memory, the waiting teams and the events to come are others. -/
def OnlyTasks (s t : State) : Prop := t = { s with gmem := t.gmem, queue := t.queue, pending := t.pending }

theorem OnlyTasks.refl (s : State) : OnlyTasks s s := rfl

theorem OnlyTasks.trans (h : OnlyTasks s t) (k : OnlyTasks t u) : OnlyTasks s u := by
  unfold OnlyTasks at *
  rw [k, h]

theorem OnlyTasks.launches (h : OnlyTasks s t) : t.launches = s.launches := (congrArg State.launches h :)

theorem OnlyTasks.launchOf (h : OnlyTasks s t) (g : BitVec 8) : launchOf t g = launchOf s g := by
  unfold Machine.launchOf
  rw [h.launches]

theorem onlyTasks_gWr (s : State) (a n v : Nat) : OnlyTasks s (gWr s a n v) := rfl

/-- The graph table is as before. -/
def SameTable (s t : State) : Prop := ∀ a < 0x4000, sget 0 t.gmem a = sget 0 s.gmem a

theorem SameTable.trans (h : SameTable s t) (k : SameTable t u) : SameTable s u := fun a ha => (k a ha).trans (h a ha)

theorem SameTable.entry (h : SameTable s t) (g : BitVec 8) {off n : Nat} (ho : off + n ≤ 64) : gRd t (graphAt g + off) n = gRd s (graphAt g + off) n := by
  have hg := graphAt_lt g
  exact gRd_congr fun k hk => h _ (by omega)

theorem SameTable.of_gWr (s : State) {a : Nat} (ha : 0x4000 ≤ a) (n v : Nat) : SameTable s (gWr s a n v) :=
  fun b hb => gWr_outside s v (.inl (by omega))

theorem nodeAt_ge (s : State) (g : BitVec 8) (i : Nat) : 0x4000 ≤ nodeAt s g i := Nat.le_add_right ..

/-- A write to what the dispatcher keeps of a node leaves the graphs' descriptions. -/
theorem sameTasks_gWr_node (hi : firstNode s g + i < 65536) {off n : Nat} (ho : 48 ≤ off ∧ off + n ≤ 55) (v : Nat) :
    SameTasks s (gWr s (nodeAt s g i + off) n v) := by
  refine fun a hn _ => gWr_outside s v ?_
  by_contra hin
  refine hn ⟨firstNode s g + i, hi, ?_, ?_⟩ <;>
  · unfold nodeAt at hin
    omega

theorem sameTasks_gWr_remaining (s : State) (g : BitVec 8) (v : Nat) : SameTasks s (gWr s (graphAt g + 16) 4 v) := by
  refine fun a _ he => gWr_outside s v ?_
  by_contra hin
  have hg := g.isLt
  refine he ⟨?_, ?_⟩ <;>
  · unfold graphAt at hin
    omega

theorem gRd_gWr_other_node (hij : i ≠ j) {off n off' m : Nat} (ho : off + n ≤ 96) (ho' : off' + m ≤ 96) (v : Nat) :
    gRd (gWr s (nodeAt s g i + off) n v) (nodeAt s g j + off') m = gRd s (nodeAt s g j + off') m := by
  refine gRd_gWr_apart s v ?_
  unfold nodeAt
  rcases Nat.lt_or_gt_of_ne hij with h | h
  · right
    omega
  · left
    omega

theorem SameTable.nodeAt (h : SameTable s t) (g : BitVec 8) (i : Nat) : nodeAt t g i = nodeAt s g i := by
  have hfirst : firstNode t g = firstNode s g := h.entry g (by norm_num)
  unfold Machine.nodeAt
  rw [hfirst]

theorem nodeAt_gWr_node (s : State) (g : BitVec 8) (i off n v j : Nat) : nodeAt (gWr s (nodeAt s g i + off) n v) g j = nodeAt s g j :=
  (SameTable.of_gWr s (by have := nodeAt_ge s g i; omega) n v).nodeAt g j

/-- A number of a node beside the one that is written. -/
theorem node_gWr_node (s : State) (g : BitVec 8) (i v : Nat) {off n off' m : Nat} (ho : off' + m ≤ off ∨ off + n ≤ off') :
    gRd (gWr s (nodeAt s g i + off) n v) (nodeAt (gWr s (nodeAt s g i + off) n v) g i + off') m = gRd s (nodeAt s g i + off') m := by
  rw [nodeAt_gWr_node]
  exact gRd_gWr_apart s v (by omega)

/-! ### A node begins -/

/-- What step 3 of a launch writes for a node: its first count, no team done, none placed, waiting. -/
def beginNode (s : State) (g : BitVec 8) (i : Nat) : State :=
  let a := nodeAt s g i
  gWr (gWr (gWr (gWr s (a + 48) 2 (gRd s (a + 24) 2)) (a + 50) 2 0) (a + 52) 2 0) (a + 54) 1 0

/-- A node that has begun and is not released. -/
def Begun (s : State) (g : BitVec 8) (i : Nat) : Prop := nodeCounter s g i = firstCount s g i ∧ nodeState s g i = 0

theorem beginNode_onlyTasks (s : State) (g : BitVec 8) (i : Nat) : OnlyTasks s (beginNode s g i) :=
  (((onlyTasks_gWr ..).trans (onlyTasks_gWr ..)).trans (onlyTasks_gWr ..)).trans (onlyTasks_gWr ..)

theorem beginNode_queue (s : State) (g : BitVec 8) (i : Nat) : (beginNode s g i).queue = s.queue := by
  simp only [beginNode, gWr]

theorem beginNode_outside {a : Nat} (h : a < nodeAt s g i + 48 ∨ nodeAt s g i + 55 ≤ a) : sget 0 (beginNode s g i).gmem a = sget 0 s.gmem a := by
  unfold beginNode
  dsimp only
  rw [gWr_outside _ _ (by omega), gWr_outside _ _ (by omega), gWr_outside _ _ (by omega), gWr_outside _ _ (by omega)]

theorem beginNode_sameTable (s : State) (g : BitVec 8) (i : Nat) : SameTable s (beginNode s g i) :=
  fun a ha => beginNode_outside (.inl (by have := nodeAt_ge s g i; omega))

theorem beginNode_sameTasks (hi : firstNode s g + i < 65536) : SameTasks s (beginNode s g i) := by
  refine fun a hn _ => beginNode_outside ?_
  by_contra hin
  unfold nodeAt at hin
  exact hn ⟨firstNode s g + i, hi, by omega, by omega⟩

theorem beginNode_other (hij : i ≠ j) {off n : Nat} (ho : off + n ≤ 96) : gRd (beginNode s g i) (nodeAt s g j + off) n = gRd s (nodeAt s g j + off) n := by
  refine gRd_congr fun k hk => beginNode_outside ?_
  unfold nodeAt
  rcases Nat.lt_or_gt_of_ne hij with h | h
  · right
    omega
  · left
    omega

theorem beginNode_begun (hi : firstNode s g + i < 65536) : Begun (beginNode s g i) g i := by
  have hsame := beginNode_sameTasks hi
  have hlt : gRd s (nodeAt s g i + 24) 2 < 256 ^ 2 := gRd_lt ..
  refine ⟨?_, ?_⟩
  · rw [hsame.firstCount, nodeCounter, hsame.nodeAt, firstCount]
    unfold beginNode
    dsimp only
    rw [gRd_gWr_apart _ _ (by omega), gRd_gWr_apart _ _ (by omega), gRd_gWr_apart _ _ (by omega), gRd_gWr_same, Nat.mod_eq_of_lt hlt]
  · rw [nodeState, hsame.nodeAt]
    exact gRd_gWr_same ..

theorem beginNode_keeps (hi : firstNode s g + i < 65536) (h : Begun s g j) : Begun (beginNode s g i) g j := by
  by_cases hij : i = j
  · exact hij ▸ beginNode_begun hi
  obtain ⟨hcount, hstate⟩ := h
  have hsame := beginNode_sameTasks hi
  refine ⟨?_, ?_⟩
  · rw [hsame.firstCount, ← hcount, nodeCounter, hsame.nodeAt, beginNode_other hij (by norm_num), nodeCounter]
  · rw [← hstate, nodeState, hsame.nodeAt, beginNode_other hij (by norm_num), nodeState]

/-- What the nodes listed begin with. -/
theorem foldl_beginNode (s : State) (g : BitVec 8) (L : List Nat) (hL : ∀ i ∈ L, firstNode s g + i < 65536) (t : State)
    (ht : t = L.foldl (fun s i => beginNode s g i) s) :
    OnlyTasks s t ∧ SameTable s t ∧ SameTasks s t ∧ t.queue = s.queue ∧ ∀ i, i ∈ L ∨ Begun s g i → Begun t g i := by
  induction L generalizing s with
  | nil =>
    subst ht
    exact ⟨.refl _, fun _ _ => rfl, .refl, rfl, fun i hi => hi.resolve_left List.not_mem_nil⟩
  | cons k L ih =>
    rw [List.foldl_cons] at ht
    have hk := hL k List.mem_cons_self
    have hsame := beginNode_sameTasks hk
    obtain ⟨honly, htable, htasks, hqueue, hbegun⟩ := ih (beginNode s g k) (fun i hi => by
      rw [hsame.firstNode]
      exact hL i (List.mem_cons_of_mem _ hi)) ht
    refine ⟨(beginNode_onlyTasks s g k).trans honly, (beginNode_sameTable s g k).trans htable, hsame.trans htasks,
      hqueue.trans (beginNode_queue s g k), fun i hi => hbegun i ?_⟩
    rcases hi with hi | hi
    · rcases List.mem_cons.mp hi with rfl | hi
      · exact .inr (beginNode_begun hk)
      · exact .inl hi
    · exact .inr (beginNode_keeps hk hi)

/-! ### A node is released -/

/-- A released node and its teams, which wait for placement (R323). -/
def releaseNode (s : State) (g : BitVec 8) (i : Nat) : State :=
  pendOnce { gWr s (nodeAt s g i + 54) 1 1 with queue := s.queue ++ teamsOf s g i } .teamPlacement

theorem releaseNode_gmem (s : State) (g : BitVec 8) (i : Nat) : (releaseNode s g i).gmem = (gWr s (nodeAt s g i + 54) 1 1).gmem :=
  (pendOnce_sent ..).gmem

theorem releaseNode_queue (s : State) (g : BitVec 8) (i : Nat) : (releaseNode s g i).queue = s.queue ++ teamsOf s g i :=
  (congrArg State.queue (pendOnce_sent { gWr s (nodeAt s g i + 54) 1 1 with queue := s.queue ++ teamsOf s g i } .teamPlacement) :)

theorem releaseNode_onlyTasks (s : State) (g : BitVec 8) (i : Nat) : OnlyTasks s (releaseNode s g i) := by
  unfold releaseNode pendOnce
  split <;> rfl

theorem releaseNode_gRd (s : State) (g : BitVec 8) (i a n : Nat) : gRd (releaseNode s g i) a n = gRd (gWr s (nodeAt s g i + 54) 1 1) a n :=
  congrArg (fun x => ofLe (rdMem x a n)) (releaseNode_gmem s g i)

theorem releaseNode_sameTable (s : State) (g : BitVec 8) (i : Nat) : SameTable s (releaseNode s g i) := fun a ha => by
  rw [releaseNode_gmem]
  exact SameTable.of_gWr s (by have := nodeAt_ge s g i; omega) 1 1 a ha

theorem releaseNode_sameTasks (hi : firstNode s g + i < 65536) : SameTasks s (releaseNode s g i) :=
  (sameTasks_gWr_node hi (by norm_num) 1).trans (.of_gmem (releaseNode_gmem s g i))

theorem releaseNode_nodeAt (s : State) (g : BitVec 8) (i j : Nat) : nodeAt (releaseNode s g i) g j = nodeAt s g j :=
  (releaseNode_sameTable s g i).nodeAt g j

theorem releaseNode_counter (s : State) (g : BitVec 8) (i j : Nat) : nodeCounter (releaseNode s g i) g j = nodeCounter s g j := by
  rw [nodeCounter, releaseNode_nodeAt, releaseNode_gRd, nodeCounter]
  by_cases hij : i = j
  · subst hij
    exact gRd_gWr_apart s 1 (.inl (by omega))
  · exact gRd_gWr_other_node hij (by norm_num) (by norm_num) 1

theorem releaseNode_state (s : State) (g : BitVec 8) (i j : Nat) : nodeState (releaseNode s g i) g j = if i = j then 1 else nodeState s g j := by
  rw [nodeState, releaseNode_nodeAt, releaseNode_gRd, nodeState]
  split
  · rename_i hij
    subst hij
    exact gRd_gWr_same ..
  · rename_i hij
    exact gRd_gWr_other_node hij (by norm_num) (by norm_num) 1

/-- What the release of the nodes listed leaves. -/
theorem foldl_releaseNode (s : State) (g : BitVec 8) (L : List Nat) (hL : ∀ i ∈ L, firstNode s g + i < 65536) (t : State)
    (ht : t = L.foldl (fun s i => releaseNode s g i) s) :
    OnlyTasks s t ∧ SameTable s t ∧ SameTasks s t ∧ t.queue = s.queue ++ L.flatMap (teamsOf s g) ∧ (L ≠ [] ∨ .teamPlacement ∈ s.pending → .teamPlacement ∈ t.pending) ∧
      ∀ j, nodeCounter t g j = nodeCounter s g j ∧ nodeState t g j = if j ∈ L then 1 else nodeState s g j := by
  induction L generalizing s with
  | nil =>
    subst ht
    exact ⟨.refl _, fun _ _ => rfl, .refl, (List.append_nil _).symm, fun h => h.resolve_left (fun h => h rfl), fun j => ⟨rfl, rfl⟩⟩
  | cons k L ih =>
    have hk := hL k List.mem_cons_self
    have hsame := releaseNode_sameTasks hk
    obtain ⟨honly, htable, htasks, hqueue, hplace, hnodes⟩ := ih (releaseNode s g k) (fun i hi => by
      rw [hsame.firstNode]
      exact hL i (List.mem_cons_of_mem _ hi)) ht
    refine ⟨(releaseNode_onlyTasks s g k).trans honly, (releaseNode_sameTable s g k).trans htable, hsame.trans htasks, ?_,
      fun _ => hplace (.inr (mem_pendOnce ..)), fun j => ?_⟩
    · rw [hqueue, releaseNode_queue, hsame.teamsOf, List.flatMap_cons, List.append_assoc]
    · obtain ⟨hcount, hstate⟩ := hnodes j
      refine ⟨hcount.trans (releaseNode_counter s g k j), hstate.trans ?_⟩
      rw [releaseNode_state s g k j]
      by_cases hj : j ∈ L
      · simp [hj]
      · simp [hj, eq_comm]

/-! ### The work of a launch (R323) -/

theorem aborting_false (hl : launchOf s g = some l) (ha : l.aborting = none) : aborting s g = false := by
  simp [aborting, hl, ha]

theorem map_teamWait (s : State) (g : BitVec 8) (i : Nat) :
    (upFrom 0 (nodeTeams s g i)).map (fun j => ({ graph := g, node := BitVec.ofNat 16 i, team := j } : TeamWait)) = teamsOf s g i := by
  rw [upFrom_zero]
  rfl

theorem oneWork_rel (hteams : 1 ≤ nodeTeams s g i) (hmode : nodeMode s g i ≠ 2) : oneWork s g (.rel i) = (releaseNode s g i, []) := by
  have hteams' : nodeTeams (gWr s (nodeAt s g i + 54) 1 1) g i = nodeTeams s g i := node_gWr_node s g i 1 (.inl (by norm_num))
  have hmode' : nodeMode (gWr s (nodeAt s g i + 54) 1 1) g i = nodeMode s g i := congrArg (· % 4) (node_gWr_node s g i 1 (.inl (by norm_num)))
  have hqueue : queueTeams (gWr s (nodeAt s g i + 54) 1 1) g i = releaseNode s g i := by
    rw [queueTeams, if_neg (hmode' ▸ hmode), releaseNode, ← map_teamWait, ← hteams']
    rfl
  simp only [oneWork, hteams', if_neg (Nat.one_le_iff_ne_zero.mp hteams), hqueue]

theorem runWork_done (n : Nat) (s : State) (g : BitVec 8) : runWork n s g [] = s := by
  cases n <;> rfl

/-- The nodes listed are released one after another. -/
theorem runWork_releases (hl : launchOf s g = some l) (ha : l.aborting = none)
    (hL : ∀ i ∈ L, firstNode s g + i < 65536 ∧ 1 ≤ nodeTeams s g i ∧ nodeMode s g i ≠ 2) {n : Nat} (hn : L.length ≤ n) :
    runWork n s g (L.map .rel) = L.foldl (fun s i => releaseNode s g i) s := by
  induction L generalizing s n with
  | nil => exact runWork_done n s g
  | cons k L ih =>
    obtain ⟨hk, hteams, hmode⟩ := hL k List.mem_cons_self
    have hsame := releaseNode_sameTasks hk
    cases n with
    | zero => simp at hn
    | succ n =>
      have hrest := ih (s := releaseNode s g k) (((releaseNode_onlyTasks s g k).launchOf g).trans hl) (fun i hi => by
        rw [hsame.firstNode, hsame.nodeTeams, hsame.nodeMode]
        exact hL i (List.mem_cons_of_mem _ hi)) (Nat.le_of_succ_le_succ hn)
      rw [List.map_cons, runWork, aborting_false hl ha, oneWork_rel hteams hmode]
      exact hrest

/-- A launch that has nodes left, and threads or waiting teams, goes on. -/
theorem settleLaunch_goes_on (hl : launchOf s g = some l) (ha : l.aborting = none) (hp : l.patch = none) (hleft : gRd s (graphAt g + 16) 4 ≠ 0)
    (hbusy : launchThreads s g ≠ [] ∨ ∃ q ∈ s.queue, q.graph = g) : settleLaunch s g = s := by
  have hidle : ¬ ((launchThreads s g = [] && !s.queue.any (fun q => q.graph = g)) = true) := by
    rw [Bool.and_eq_true, decide_eq_true_eq, Bool.not_eq_true', not_and, Bool.not_eq_false]
    intro hnone
    obtain ⟨q, hq, hg⟩ := hbusy.resolve_left (fun h => h hnone)
    exact List.any_eq_true.mpr ⟨q, hq, decide_eq_true hg⟩
  simp only [settleLaunch, hl, ha, hp, Option.isSome_none, Bool.false_eq_true, if_false, if_neg hleft, if_neg hidle]

theorem mem_upFrom_zero {n : Nat} : i ∈ upFrom 0 n ↔ i < n := by
  rw [upFrom_zero, List.mem_range]

/-- The state of a launch once its nodes are as they begin and the number left is written. -/
def nodesBegun (s : State) (g : BitVec 8) : State :=
  gWr ((upFrom 0 (nodeCount s g)).foldl (fun s i => beginNode s g i) s) (graphAt g + 16) 4 (nodeCount s g)

/-- The nodes that a launch releases at once. -/
def firstNodes (s : State) (g : BitVec 8) : List Nat := (upFrom 0 (nodeCount s g)).filter (fun i => firstCount s g i = 0)

theorem graphOk_bounds (h : graphOk s g = true) : 1 ≤ nodeCount s g ∧ firstNode s g + nodeCount s g ≤ 65536 := by
  simp only [graphOk, Bool.and_eq_true, decide_eq_true_eq] at h
  exact ⟨h.1.2, h.2⟩

/-- What the nodes hold before the first is released. -/
theorem nodesBegun_shows (hok : graphOk s g = true) : OnlyTasks s (nodesBegun s g) ∧ SameTasks s (nodesBegun s g) ∧ (nodesBegun s g).queue = s.queue ∧
    graphStatus (nodesBegun s g) g = graphStatus s g ∧ gRd (nodesBegun s g) (graphAt g + 16) 4 = nodeCount s g ∧
    ∀ i < nodeCount s g, Begun (nodesBegun s g) g i := by
  obtain ⟨-, hbound⟩ := graphOk_bounds hok
  obtain ⟨honly, htable, htasks, hqueue, hbegun⟩ := foldl_beginNode s g (upFrom 0 (nodeCount s g)) (fun i hi => by
    have := mem_upFrom_zero.mp hi
    omega) _ rfl
  have hleft := sameTasks_gWr_remaining ((upFrom 0 (nodeCount s g)).foldl (fun s i => beginNode s g i) s) g (nodeCount s g)
  have htable' := graphAt_lt g
  refine ⟨honly.trans (onlyTasks_gWr ..), htasks.trans hleft, hqueue, ?_, ?_, fun i hi => ?_⟩
  · rw [graphStatus, nodesBegun, gRd_gWr_apart _ _ (.inr (by omega)), htable.entry g (by norm_num), graphStatus]
  · rw [nodesBegun, gRd_gWr_same, Nat.mod_eq_of_lt (by omega)]
  · obtain ⟨hcount, hstate⟩ := hbegun i (.inl (mem_upFrom_zero.mpr hi))
    have hnode := nodeAt_ge ((upFrom 0 (nodeCount s g)).foldl (fun s i => beginNode s g i) s) g i
    refine ⟨?_, ?_⟩
    · rw [nodesBegun, hleft.firstCount, ← hcount, nodeCounter, hleft.nodeAt, gRd_gWr_apart _ _ (.inr (by omega)), nodeCounter]
    · rw [nodesBegun, nodeState, hleft.nodeAt, gRd_gWr_apart _ _ (.inr (by omega)), ← nodeState, hstate]

theorem firstNodes_begun (hok : graphOk s g = true) :
    (upFrom 0 (nodeCount s g)).filter (fun i => nodeCounter (nodesBegun s g) g i = 0) = firstNodes s g := by
  obtain ⟨-, hsame, -, -, -, hbegun⟩ := nodesBegun_shows hok
  refine List.filter_congr fun i hi => ?_
  obtain ⟨hcount, -⟩ := hbegun i (mem_upFrom_zero.mp hi)
  rw [hcount, hsame.firstCount]

theorem launchNodes_begin (hok : graphOk s g = true) (hnodes : nodeBad s g = none) :
    launchNodes s g = workAnd (nodesBegun s g) g ((firstNodes s g).map .rel) := by
  rw [← firstNodes_begun hok]
  simp only [launchNodes, hnodes]
  rfl

theorem mem_firstNodes : i ∈ firstNodes s g ↔ i < nodeCount s g ∧ firstCount s g i = 0 := by
  rw [firstNodes, List.mem_filter, mem_upFrom_zero, decide_eq_true_eq]

theorem firstNodes_length (s : State) (g : BitVec 8) : (firstNodes s g).length ≤ nodeCount s g := by
  refine (List.length_filter_le ..).trans ?_
  rw [upFrom_eq_range', List.length_range']

theorem exists_mem_teamsOf (h : 1 ≤ nodeTeams s g i) : ∃ q ∈ teamsOf s g i, q.graph = g :=
  ⟨_, List.mem_map.mpr ⟨0, List.mem_range.mpr h, rfl⟩, rfl⟩

/-- Steps 3 to 5 of the launch of a graph in order. -/
theorem launchNodes_releases (hk : Launchable s g) (hl : launchOf s g = some l) (ha : l.aborting = none) (hp : l.patch = none) :
    OnlyTasks s (launchNodes s g) ∧ Released s (launchNodes s g) g ∧ graphStatus (launchNodes s g) g = graphStatus s g := by
  obtain ⟨hok, hnodes, hteams, i, hi, hfirst⟩ := hk
  obtain ⟨hsome, hbound⟩ := graphOk_bounds hok
  obtain ⟨honly, hsame, hqueue, hstatus, hleft, hbegun⟩ := nodesBegun_shows hok
  have hl' : launchOf (nodesBegun s g) g = some l := (honly.launchOf g).trans hl
  have hlist : ∀ i ∈ firstNodes s g, firstNode (nodesBegun s g) g + i < 65536 ∧ 1 ≤ nodeTeams (nodesBegun s g) g i ∧ nodeMode (nodesBegun s g) g i ≠ 2 := by
    intro i hi
    obtain ⟨hi, -⟩ := mem_firstNodes.mp hi
    obtain ⟨hteam, hmode⟩ := hteams i hi
    rw [hsame.firstNode, hsame.nodeTeams, hsame.nodeMode]
    exact ⟨by omega, hteam, hmode⟩
  have hwork := runWork_releases hl' ha hlist (n := workBound) (by
    have := firstNodes_length s g
    unfold workBound
    omega)
  obtain ⟨honly', htable', hsame', hqueue', hplace', hnodes'⟩ := foldl_releaseNode (nodesBegun s g) g (firstNodes s g) (fun i hi => (hlist i hi).1) _ rfl
  rw [← hwork] at honly' htable' hsame' hqueue' hplace' hnodes'
  have hleft' := (htable'.entry g (off := 16) (n := 4) (by norm_num)).trans hleft
  have hteam := (hlist i (mem_firstNodes.mpr ⟨hi, hfirst⟩)).2.1
  have hgo : launchNodes s g = runWork workBound (nodesBegun s g) g ((firstNodes s g).map .rel) := by
    rw [launchNodes_begin hok hnodes, workAnd]
    refine settleLaunch_goes_on ((honly'.launchOf g).trans hl') ha hp (by omega) (.inr ?_)
    obtain ⟨q, hq, hg⟩ := exists_mem_teamsOf hteam
    exact ⟨q, hqueue' ▸ List.mem_append_right _ (List.mem_flatMap.mpr ⟨i, mem_firstNodes.mpr ⟨hi, hfirst⟩, hq⟩), hg⟩
  rw [hgo]
  refine ⟨honly.trans honly', ⟨hleft', fun j hj => ?_, ?_, hplace' (.inl (List.ne_nil_of_mem (mem_firstNodes.mpr ⟨hi, hfirst⟩)))⟩, ?_⟩
  · obtain ⟨hcount, hstate⟩ := hbegun j hj
    obtain ⟨hcount', hstate'⟩ := hnodes' j
    rw [hstate] at hstate'
    refine ⟨hcount'.trans (hcount.trans (hsame.firstCount g j)), hstate'.trans ?_⟩
    simp [mem_firstNodes, hj]
  · rw [hqueue', hqueue, hsame.teamsOf, firstNodes, upFrom_zero]
  · rw [← hstatus]
    exact congrArg word (htable'.entry g (by norm_num))

end
end Sys2Proof.Machine

namespace Sys2Proof.Machine
open Sys2Proof
set_option Elab.async false

/-! ### A launch starts (R323) -/

section
variable {s t u : State} {g : BitVec 8} {i j : Nat} {chan : Option (BitVec 4)} {grun : Option (Handle × BitVec 16)} {c : BitVec 4} {v : Word} {rest : List Word}

/-- The record of a launch, as it starts. -/
def newLaunch (s : State) (g : BitVec 8) (chan : Option (BitVec 4)) (grun : Option (Handle × BitVec 16)) : Launch :=
  let k := (chan.map (chanAt s)).getD Channel.init
  { graph := g, chan := chan, grun := grun, asid := BitVec.ofNat 12 (graphAsid s g), world := graphWorld s g, pmax := k.pmax
    wdk := k.wdk, progthr := k.progthr, patch := none, aborting := none }

/-- The status word of a graph that runs. -/
def runningStatus (s : State) (g : BitVec 8) : Word := (bits (graphStatus s g) 32 32 ++ 1#32).cast (by decide)

/-- The state in which a launch is on record. -/
def recorded (s : State) (g : BitVec 8) (chan : Option (BitVec 4)) (grun : Option (Handle × BitVec 16)) : State :=
  { setStatus s g (runningStatus s g) with launches := s.launches ++ [newLaunch s g chan grun] }

theorem launch_unpatched (s : State) (g : BitVec 8) (chan : Option (BitVec 4)) (grun : Option (Handle × BitVec 16)) :
    launch s g chan grun 0 = launchNodes (recorded s g chan grun) g := rfl

theorem recorded_launchOf (hl : launchOf s g = none) : launchOf (recorded s g chan grun) g = some (newLaunch s g chan grun) := by
  have hnone : s.launches.find? (fun l => l.graph = g) = none := hl
  have hown : decide ((newLaunch s g chan grun).graph = g) = true := decide_eq_true rfl
  simp only [launchOf, recorded, List.find?_append, hnone, Option.none_or, List.find?_cons, hown]

theorem recorded_sameTasks : SameTasks s (recorded s g chan grun) := by
  refine fun a _ he => gWr_outside s _ ?_
  by_contra hin
  have hg := g.isLt
  refine he ⟨?_, ?_⟩ <;>
  · unfold graphAt at hin
    omega

theorem recorded_status : graphStatus (recorded s g chan grun) g = runningStatus s g := by
  have h : gRd (recorded s g chan grun) (graphAt g + 24) 8 = (runningStatus s g).toNat % 256 ^ 8 := gRd_gWr_same ..
  rw [graphStatus, h, Nat.mod_eq_of_lt (show _ < 256 ^ 8 from (runningStatus s g).isLt)]
  exact BitVec.ofNat_toNat ..|>.trans (BitVec.setWidth_eq _)

theorem runningStatus_state (s : State) (g : BitVec 8) : field (runningStatus s g) 0 4 = 1 := by
  have hlow : bits (runningStatus s g) 0 4 = bits (1#32) 0 4 := (bits_cast ..).trans (bits_append_low (by norm_num))
  exact (congrArg BitVec.toNat hlow).trans rfl

/-- The launch of a graph in order without a patch list. -/
theorem launch_launched (hk : Launchable s g) (hl : launchOf s g = none) :
    Launched s (launch s g chan grun 0) g ∧ (launch s g chan grun 0).channels = s.channels ∧ (launch s g chan grun 0).cmds = s.cmds := by
  have hsame := recorded_sameTasks (s := s) (g := g) (chan := chan) (grun := grun)
  have hl' := recorded_launchOf (chan := chan) (grun := grun) hl
  obtain ⟨honly, hreleased, hstatus⟩ := launchNodes_releases (hsame.launchable rfl hk) hl' rfl rfl
  rw [launch_unpatched]
  refine ⟨⟨?_, hsame.released rfl hreleased, (congrArg State.mem honly :), _, (honly.launchOf g).trans hl', rfl, rfl, rfl⟩,
    (congrArg State.channels honly :), (congrArg State.cmds honly :)⟩
  rw [graphState, hstatus, recorded_status, runningStatus_state]

theorem HeadTrigger.launches (h : HeadTrigger s c v rest g) (hk : Launchable s g) (hw : graphWorld s g = (chanAt s c).world)
    (hgo : worldLeaving s (chanAt s c).world = false) (hv : v.toNat < 2 ^ 8) :
    ∃ t, exec (.launchStart c) s = .next t ∧ Launched s t g ∧ chanAt t c = { chanAt s c with fifo := rest, running := some g } := by
  have hsame : SameTasks s (setChan s c { chanAt s c with fifo := rest, running := some g }) := .of_gmem rfl
  obtain ⟨⟨hstate, hreleased, hmem, l, hl⟩, hchan, -⟩ := launch_launched (chan := some c) (grun := none) (hsame.launchable rfl hk) h.idle
  exact ⟨_, h.begun hk.valid hw hgo hv, ⟨hstate, hsame.released rfl hreleased, hmem, l, hl⟩, (chanAt_congr hchan c).trans (chanAt_setChan_same ..)⟩

end
end Sys2Proof.Machine

namespace Sys2Proof.Machine
open Sys2Proof
set_option Elab.async false

/-! ### What the end of commands and of threads leaves of the dispatcher's state (R119, R200, R301) -/

/-- The same command, gone further; one that is no network command stays so. -/
structure KeptCommand (c d : Command) : Prop where
  handle : d.handle = c.handle
  seq : d.seq = c.seq
  accz : d.accz = c.accz
  net : c.net = none → d.net = none

/-- Launches and graph memory are as before, and every command is still there. -/
structure Ending (s t : State) : Prop where
  launches : t.launches = s.launches
  gmem : t.gmem = s.gmem
  cmds : ∃ f, (∀ c, KeptCommand c (f c)) ∧ t.cmds = s.cmds.map f

section
variable {s t u : State} {h : Handle} {q : BitVec 16} {g : BitVec 8}

theorem KeptCommand.refl (c : Command) : KeptCommand c c := ⟨rfl, rfl, rfl, id⟩

theorem KeptCommand.trans {c d e : Command} (h : KeptCommand c d) (k : KeptCommand d e) : KeptCommand c e :=
  ⟨k.handle.trans h.handle, k.seq.trans h.seq, k.accz.trans h.accz, fun hn => k.net (h.net hn)⟩

theorem Ending.same (hl : t.launches = s.launches) (hg : t.gmem = s.gmem) (hc : t.cmds = s.cmds) : Ending s t :=
  ⟨hl, hg, id, .refl, hc.trans (List.map_id _).symm⟩

theorem Ending.refl : Ending s s := .same rfl rfl rfl

theorem Ending.trans (h : Ending s t) (k : Ending t u) : Ending s u := by
  obtain ⟨hl, hg, e, he, hc⟩ := h
  obtain ⟨kl, kg, f, hf, kc⟩ := k
  exact ⟨kl.trans hl, kg.trans hg, f ∘ e, fun c => (he c).trans (hf (e c)), by rw [kc, hc, List.map_map]⟩

theorem Ending.foldl {α : Type} {f : State → α → State} (hf : ∀ s x, Ending s (f s x)) (l : List α) (s : State) : Ending s (l.foldl f s) := by
  induction l generalizing s with
  | nil => exact .refl
  | cons x r ih => exact (hf s x).trans (ih (f s x))

theorem Ending.launchOf (h : Ending s t) (g : BitVec 8) : launchOf t g = launchOf s g := by
  unfold Machine.launchOf
  rw [h.launches]

theorem Ending.gRd (h : Ending s t) (a n : Nat) : gRd t a n = gRd s a n := congrArg (fun m => ofLe (rdMem m a n)) h.gmem

/-- No network command has this number. -/
def NoNetCommand (s : State) (h : Handle) (q : BitVec 16) : Prop := ∀ c, findCmd s h q = some c → c.net = none

theorem Ending.noNet (k : Ending s t) (hn : NoNetCommand s h q) : NoNetCommand t h q := by
  obtain ⟨-, -, f, hf, hc⟩ := k
  intro d hd
  have hpred : (isCmd h q ∘ f) = isCmd h q := funext fun c => by
    simp only [Function.comp, isCmd, (hf c).handle, (hf c).seq, (hf c).accz]
  have hfind : findCmd t h q = (findCmd s h q).map f := by
    rw [show findCmd t h q = t.cmds.find? (isCmd h q) from rfl, hc, List.find?_map, hpred]
    rfl
  rw [hfind] at hd
  obtain ⟨c, hc, rfl⟩ := Option.map_eq_some_iff.mp hd
  exact (hf c).net (hn c hc)

theorem Sent.ending (h : Sent s t) : Ending s t := .same h.launches h.gmem h.cmds

theorem Accessed.ending (h : Accessed s t) : Ending s t := .same h.launches h.gmem h.cmds

theorem modCmd_ending {f : Command → Command} (hf : ∀ c, KeptCommand c (f c)) (s : State) (h : Handle) (q : BitVec 16) : Ending s (modCmd s h q f) := by
  refine ⟨rfl, rfl, fun c => if c.handle = h && c.seq = q && c.accz.isNone then f c else c, fun c => ?_, rfl⟩
  dsimp only
  split
  · exact hf c
  · exact .refl c

theorem nextHead_ending (s : State) (core : BitVec 11) : Ending s (nextHead s core) := by
  rcases nextHead_cases s core with h | ⟨e, h⟩
  · rw [h]
    exact .refl
  · rw [h]
    exact .same rfl rfl rfl

theorem endOne_ending (s : State) (h : Handle) (q : BitVec 16) (st : BitVec 8) (res : BitVec 32) : Ending s (endOne s h q st res) := by
  have hmod := modCmd_ending (f := fun c => { c with state := .running, fault := none, reads := none, fin := some (st, res) })
    (fun c => ⟨rfl, rfl, rfl, id⟩) s h q
  have hpend := hmod.trans (Sent.ending (pend_sent _ (.completionLanding h q)))
  unfold endOne
  dsimp only
  split
  · exact hpend.trans (nextHead_ending ..)
  · exact hpend

theorem releaseHeld_sent (s : State) : Sent s (releaseHeld s) := by
  unfold releaseHeld
  exact Sent.trans (t := { s with heldBack := [] }) rfl (foldl_sent sendOut_sent _ _)

theorem dropCopy_ending (s : State) (p : Packet) : Ending s (dropCopy s p) := by
  unfold dropCopy
  split
  · exact .refl
  · refine Ending.trans ?_ (releaseHeld_sent _).ending
    exact .same rfl rfl rfl

theorem dropLanding_ending (s : State) (h : Handle) (q : BitVec 16) : Ending s (dropLanding s h q) := by
  unfold dropLanding
  split
  · refine (dropCopy_ending ..).trans (modCmd_ending ?_ ..)
    exact fun c => ⟨rfl, rfl, rfl, id⟩
  · exact .refl

theorem breakCmd_ending (s : State) (c : Command) : Ending s (breakCmd s c) := by
  unfold breakCmd
  split
  · split
    · refine modCmd_ending ?_ ..
      exact fun c => ⟨rfl, rfl, rfl, fun hn => congrArg (Option.map _) hn⟩
    · refine (Ending.trans ?_ (endOne_ending ..)).trans (.same rfl rfl rfl)
      split
      · exact dropLanding_ending ..
      · exact .refl
  · exact .refl

theorem pendOnce_ending (s : State) (e : Event) : Ending s (pendOnce s e) := (pendOnce_sent s e).ending

theorem abandon_ending (s : State) (dst : BitVec 12) (cls : BitVec 4) (m : NetMode) (c : BitVec 32) : Ending s (abandon s dst cls m c) := by
  unfold abandon
  dsimp only
  split
  · refine Ending.trans ?_ (.foldl (fun s p => pendOnce_ending s (.orderedPacketRelease p)) _ _)
    exact .same rfl rfl rfl
  · exact .same rfl rfl rfl

theorem endCmd_ending (s : State) (h : Handle) (q : BitVec 16) (st : BitVec 8) (res : BitVec 32) : Ending s (endCmd s h q st res) := by
  have hone := endOne_ending s h q st res
  unfold endCmd
  dsimp only
  split
  · exact hone
  · rename_i n _
    have hfree : Ending s (freeTag (endOne s h q st res) n) := hone.trans (.same rfl rfl rfl)
    split
    · exact hfree
    · refine Ending.trans ?_ (.foldl breakCmd_ending _ _)
      refine Ending.trans ?_ (abandon_ending ..)
      exact hfree.trans (.same rfl rfl rfl)

theorem modThread_ending (s : State) (h : Handle) (f : Thread → Thread) : Ending s (modThread s h f) := by
  unfold modThread
  split <;> exact .same rfl rfl rfl

theorem cancelCmd_ending (s : State) (c : Command) : Ending s (cancelCmd s c) := by
  unfold cancelCmd
  exact ((modThread_ending ..).trans (writeImage_accessed ..).ending).trans (endCmd_ending ..)

theorem beginExit_ending (s : State) (h : Handle) : Ending s (beginExit s h) := by
  unfold beginExit
  have hcancel : Ending s (cancelParked s h) := .foldl cancelCmd_ending _ _
  have hleave : Ending (cancelParked s h) (leaveQueue (cancelParked s h) h) := .same rfl rfl rfl
  exact ((hcancel.trans hleave).trans (modThread_ending ..)).trans (pend_sent ..).ending

/-! ### The end and the abort of a launch (R327, R328) -/

/-- The bytes of graph memory outside the status word of a graph are as before. -/
def SameButStatus (g : BitVec 8) (s t : State) : Prop :=
  ∀ a, a < graphAt g + 24 ∨ graphAt g + 32 ≤ a → sget 0 t.gmem a = sget 0 s.gmem a

/-- What the end of a launch, or its abort, leaves. -/
structure Concluding (g : BitVec 8) (s t : State) : Prop where
  gmem : SameButStatus g s t
  noNet : ∀ h q, NoNetCommand s h q → NoNetCommand t h q

theorem Concluding.refl : Concluding g s s := ⟨fun _ _ => rfl, fun _ _ => id⟩

theorem Concluding.trans (h : Concluding g s t) (k : Concluding g t u) : Concluding g s u :=
  ⟨fun a ha => (k.gmem a ha).trans (h.gmem a ha), fun n q hn => k.noNet n q (h.noNet n q hn)⟩

theorem Ending.concluding (h : Ending s t) : Concluding g s t := ⟨fun _ _ => by rw [h.gmem], fun _ _ => h.noNet⟩

/-- The status word as the end of a launch leaves it. -/
def endStatus (w : Word) : Option (BitVec 8 × BitVec 16) → Word
  | none => ((bits w 32 32 + 1) ++ bits w 28 4 ++ 0#16 ++ 0#8 ++ 2#4).cast (by decide)
  | some (r, n) => (bits w 32 32 ++ bits w 28 4 ++ n ++ r ++ 3#4).cast (by decide)

/-- The launch is struck out, and its graph's status written. -/
def struckOut (s : State) (g : BitVec 8) (why : Option (BitVec 8 × BitVec 16)) : State :=
  { setStatus s g (endStatus (graphStatus s g) why) with launches := s.launches.filter (fun l => l.graph ≠ g)
                                                         queue := s.queue.filter (fun q => q.graph ≠ g) }

theorem endLaunch_ending {l : Launch} (hl : launchOf s g = some l) (why : Option (BitVec 8 × BitVec 16)) :
    Ending (struckOut s g why) (endLaunch s g why) := by
  unfold endLaunch
  rw [hl]
  dsimp only
  refine Ending.trans ?_ (.foldl (fun s c => ?_) _ _)
  · split
    · split
      · refine Ending.trans ?_ (endCmd_ending ..)
        split <;> exact .same rfl rfl rfl
      · refine Ending.trans ?_ (endCmd_ending ..)
        split <;> exact .same rfl rfl rfl
    · split <;> exact .same rfl rfl rfl
  · split
    · exact .refl
    · exact pendOnce_ending ..

theorem launchOf_graph {l : Launch} (hl : launchOf s g = some l) : l.graph = g := by
  have hown := List.find?_some hl
  exact of_decide_eq_true hown

theorem endLaunch_none (hl : launchOf s g = none) (why : Option (BitVec 8 × BitVec 16)) : endLaunch s g why = s := by
  simp only [endLaunch, hl]

theorem struckOut_concluding (s : State) (g : BitVec 8) (why : Option (BitVec 8 × BitVec 16)) : Concluding g s (struckOut s g why) :=
  ⟨fun _ ha => gWr_outside s _ ha, fun _ _ => id⟩

theorem endLaunch_concluding (s : State) (g : BitVec 8) (why : Option (BitVec 8 × BitVec 16)) : Concluding g s (endLaunch s g why) := by
  cases hl : launchOf s g with
  | none =>
    rw [endLaunch_none hl]
    exact .refl
  | some l => exact (struckOut_concluding s g why).trans (endLaunch_ending hl why).concluding

theorem struckOut_launchOf (s : State) (g : BitVec 8) (why : Option (BitVec 8 × BitVec 16)) : launchOf (struckOut s g why) g = none := by
  refine List.find?_eq_none.mpr fun l hl => ?_
  have hne : l.graph ≠ g := of_decide_eq_true (List.mem_filter.mp hl).2
  simpa using hne

theorem endLaunch_launchOf (s : State) (g : BitVec 8) (why : Option (BitVec 8 × BitVec 16)) : launchOf (endLaunch s g why) g = none := by
  cases hl : launchOf s g with
  | none => rwa [endLaunch_none hl]
  | some l => exact ((endLaunch_ending hl why).launchOf g).trans (struckOut_launchOf s g why)

/-- The launches of a graph, marked as on their way to their end. -/
def marked (g : BitVec 8) (why : BitVec 8 × BitVec 16) (l : Launch) : Launch := if l.graph = g then { l with aborting := some why } else l

/-- The launch is marked, and none of its teams waits for placement. -/
def withMark (s : State) (g : BitVec 8) (why : BitVec 8 × BitVec 16) : State :=
  { s with launches := s.launches.map (marked g why), queue := s.queue.filter (fun q => q.graph ≠ g) }

/-- A thread of an aborted launch that stands at a boundary, or is saved, begins its exit. -/
def abortThread (s : State) (t : Thread) : State :=
  match t.status with
  | .saving _ => s
  | .restoring _ => s
  | .exiting _ => s
  | _ => beginExit s t.handle

theorem abortThread_ending (s : State) (t : Thread) : Ending s (abortThread s t) := by
  unfold abortThread
  split
  · exact .refl
  · exact .refl
  · exact .refl
  · exact beginExit_ending ..

/-- The state once the threads of an aborted launch have begun their exit. -/
def threadsAborted (s : State) (g : BitVec 8) (why : BitVec 8 × BitVec 16) : State :=
  (launchThreads (withMark s g why) g).foldl abortThread (withMark s g why)

theorem abortLaunch_none (hl : launchOf s g = none) (r : BitVec 8) (n : BitVec 16) : abortLaunch s g r n = s := by
  simp only [abortLaunch, hl]

theorem abortLaunch_again {l : Launch} (hl : launchOf s g = some l) (ha : l.aborting ≠ none) (r : BitVec 8) (n : BitVec 16) : abortLaunch s g r n = s := by
  have hsome : l.aborting.isSome = true := Option.isSome_iff_ne_none.mpr ha
  simp only [abortLaunch, hl, hsome, if_true]

theorem abortLaunch_first {l : Launch} (hl : launchOf s g = some l) (ha : l.aborting = none) (r : BitVec 8) (n : BitVec 16) :
    abortLaunch s g r n = if launchThreads (threadsAborted s g (r, n)) g = [] then endLaunch (threadsAborted s g (r, n)) g (some (r, n))
      else threadsAborted s g (r, n) := by
  simp only [abortLaunch, hl, ha, Option.isSome_none, Bool.false_eq_true, if_false]
  rfl

theorem threadsAborted_ending (s : State) (g : BitVec 8) (why : BitVec 8 × BitVec 16) : Ending (withMark s g why) (threadsAborted s g why) :=
  .foldl abortThread_ending _ _

theorem withMark_launchOf (s : State) (g : BitVec 8) (why : BitVec 8 × BitVec 16) : launchOf (withMark s g why) g = (launchOf s g).map (marked g why) := by
  have hpred : ((fun l : Launch => decide (l.graph = g)) ∘ marked g why) = fun l => decide (l.graph = g) := by
    funext l
    simp only [Function.comp, marked]
    split <;> rfl
  exact (List.find?_map ..).trans (by rw [hpred]; rfl)

theorem withMark_aborts (s : State) (g : BitVec 8) (why : BitVec 8 × BitVec 16) : Aborts (withMark s g why) g := by
  intro m hm
  rw [withMark_launchOf] at hm
  obtain ⟨l, hl, rfl⟩ := Option.map_eq_some_iff.mp hm
  have hown : l.graph = g := launchOf_graph hl
  rw [marked, if_pos hown]
  exact Option.some_ne_none _

theorem withMark_concluding (s : State) (g : BitVec 8) (why : BitVec 8 × BitVec 16) : Concluding g s (withMark s g why) := ⟨fun _ _ => rfl, fun _ _ => id⟩

theorem threadsAborted_concluding (s : State) (g : BitVec 8) (why : BitVec 8 × BitVec 16) : Concluding g s (threadsAborted s g why) :=
  (withMark_concluding s g why).trans (threadsAborted_ending s g why).concluding

/-- A launch that is aborted is over, or on its way to its end. -/
theorem abortLaunch_aborts (s : State) (g : BitVec 8) (r : BitVec 8) (n : BitVec 16) : Aborts (abortLaunch s g r n) g := by
  cases hl : launchOf s g with
  | none =>
    rw [abortLaunch_none hl]
    exact fun l hl' => absurd (hl'.symm.trans hl) (Option.some_ne_none l)
  | some l =>
    by_cases ha : l.aborting = none
    · rw [abortLaunch_first hl ha]
      split
      · exact fun l hl' => absurd (hl'.symm.trans (endLaunch_launchOf ..)) (Option.some_ne_none l)
      · exact fun m hm => withMark_aborts s g (r, n) m (((threadsAborted_ending s g (r, n)).launchOf g).symm.trans hm)
    · rw [abortLaunch_again hl ha]
      exact fun m hm => Option.some.inj (hl.symm.trans hm) ▸ ha

theorem abortLaunch_concluding (s : State) (g : BitVec 8) (r : BitVec 8) (n : BitVec 16) : Concluding g s (abortLaunch s g r n) := by
  have hthreads := threadsAborted_concluding s g (r, n)
  cases hl : launchOf s g with
  | none =>
    rw [abortLaunch_none hl]
    exact .refl
  | some l =>
    by_cases ha : l.aborting = none
    · rw [abortLaunch_first hl ha]
      split
      · exact hthreads.trans (endLaunch_concluding ..)
      · exact hthreads
    · rw [abortLaunch_again hl ha]
      exact .refl

theorem settleLaunch_concluding (s : State) (g : BitVec 8) : Concluding g s (settleLaunch s g) := by
  unfold settleLaunch
  split
  · exact .refl
  · split
    · split
      · exact endLaunch_concluding ..
      · exact .refl
    · split
      · exact .refl
      · split
        · exact endLaunch_concluding ..
        · split
          · exact abortLaunch_concluding ..
          · exact .refl

end
end Sys2Proof.Machine

namespace Sys2Proof.Machine
open Sys2Proof
set_option Elab.async false

/-! ### GRUN and DEPDEC (R325, R335) -/

section
variable {s t u : State} {h : Handle} {q : BitVec 16} {c : Command} {g : BitVec 8} {i : Nat} {l : Launch}

/-- A command of port E2 that has not ended, and that no earlier event holds. -/
structure FreeCommand (s : State) (h : Handle) (q : BitVec 16) (c : Command) : Prop where
  found : findCmd s h q = some c
  going : c.fin = none
  free : cmdFree s c = true
  net : c.net = none

theorem FreeCommand.noNet (k : FreeCommand s h q c) : NoNetCommand s h q := fun _ hd => Option.some.inj (k.found.symm.trans hd) ▸ k.net

/-- What waits goes on waiting as a command ends. -/
theorem endCmd_keeps (hnet : NoNetCommand s h q) (st : BitVec 8) (res : BitVec 32) :
    (endCmd s h q st res).queue = s.queue ∧ ∀ e ∈ s.pending, e ∈ (endCmd s h q st res).pending := by
  rw [endCmd_plain hnet]
  obtain he | ⟨e, he⟩ := endOne_cases s h q st res
  · rw [he]
    exact ⟨rfl, fun e h => List.mem_append_left _ h⟩
  · rw [he]
    exact ⟨rfl, fun e h => List.mem_append_left _ (List.mem_append_left _ h)⟩

/-! ### GRUN -/

/-- The graph that a command of GRUN names. -/
def grunGraph (c : Command) : BitVec 8 := bits (nthWord c.words 0) 10 8

theorem exec_grun_refused (k : FreeCommand s h q c) (hq : c.state = .queued)
    (hbad : graphOk s (grunGraph c) = false ∨ graphWorld s (grunGraph c) ≠ c.world ∨ launchOf s (grunGraph c) ≠ none ∨ worldLeaving s c.world = true) :
    exec (.grun h q) s = .next (endCmd s h q 2 0) := by
  have hrun : exec (.grun h q) s = execGrun h q s := rfl
  have hcond : (!graphOk s (grunGraph c) || decide (graphWorld s (grunGraph c) ≠ c.world) || (launchOf s (grunGraph c)).isSome || worldLeaving s c.world) = true := by
    simpa [or_assoc, Option.isSome_iff_ne_none] using hbad
  simp only [hrun, execGrun, k.found, k.going, hq, k.free, Option.isSome_none, Bool.false_or, ne_eq, not_true, decide_false, Bool.false_eq_true, if_false,
    Bool.not_true]
  exact if_pos hcond

/-- A GRUN whose graph may run. -/
structure GrunRuns (s : State) (c : Command) : Prop where
  ok : graphOk s (grunGraph c) = true
  world : graphWorld s (grunGraph c) = c.world
  idle : launchOf s (grunGraph c) = none
  stays : worldLeaving s c.world = false
  phase : s.phase = 3

theorem exec_grun_unpatched (k : FreeCommand s h q c) (hq : c.state = .queued) (r : GrunRuns s c) (hlist : nthWord c.words 1 = 0) :
    exec (.grun h q) s = .next (launch (modCmd s h q (fun c => { c with state := .running })) (grunGraph c) none (some (h, q)) 0) := by
  have hrun : exec (.grun h q) s = execGrun h q s := rfl
  obtain ⟨hok, hworld, hidle, hstays, hphase⟩ := r
  unfold grunGraph at hok hworld hidle
  simp only [hrun, execGrun, k.found, k.going, hq, k.free, hok, hworld, hidle, hstays, launchesStart_of_phase hphase, hlist, Option.isSome_none,
    Bool.or_self, ne_eq, not_true, decide_false, Bool.false_eq_true, if_false, Bool.not_true, if_true, grunGraph]

theorem exec_grun_bad (k : FreeCommand s h q c) (hq : c.state = .queued) (r : GrunRuns s c) (hlist : nthWord c.words 1 ≠ 0) {n : Nat}
    (hbad : patchList s (grunGraph c) (graphAsid s (grunGraph c)) (nthWord c.words 1).toNat = (t, .bad n)) :
    exec (.grun h q) s = .next (endCmd t h q 4 0) := by
  have hrun : exec (.grun h q) s = execGrun h q s := rfl
  obtain ⟨hok, hworld, hidle, hstays, hphase⟩ := r
  unfold grunGraph at hok hworld hidle hbad
  simp only [hrun, execGrun, k.found, k.going, hq, k.free, hok, hworld, hidle, hstays, launchesStart_of_phase hphase, if_neg hlist, hbad,
    Option.isSome_none, Bool.or_self, ne_eq, not_true, decide_false, Bool.false_eq_true, if_false, Bool.not_true]

theorem readList_nowhere (s : State) {a : Nat} (ha : 4096 ≤ a) (va n : Nat) : readList s a va n = (s, .bad) := by
  simp only [readList, if_pos ha]

theorem patchList_nowhere (s : State) (g : BitVec 8) {a : Nat} (ha : 4096 ≤ a) (va : Nat) : patchList s g a va = (s, .bad 0) := by
  simp only [patchList, readList_nowhere s ha]

/-- The launch of a graph by GRUN. -/
theorem grun_launches (k : FreeCommand s h q c) (hq : c.state = .queued) (r : GrunRuns s c) (hk : Launchable s (grunGraph c))
    (hlist : nthWord c.words 1 = 0) :
    ∃ t, exec (.grun h q) s = .next t ∧ Launched s t (grunGraph c) ∧ findCmd t h q = some { c with state := .running } := by
  have hsame : SameTasks s (modCmd s h q (fun c => { c with state := .running })) := .of_gmem rfl
  obtain ⟨⟨hstate, hreleased, hmem, l, hl⟩, -, hcmds⟩ := launch_launched (chan := none) (grun := some (h, q)) (hsame.launchable rfl hk) r.idle
  refine ⟨_, exec_grun_unpatched k hq r hlist, ⟨hstate, hsame.released rfl hreleased, hmem, l, hl⟩, ?_⟩
  exact (congrArg _ hcmds).trans (findCmd_modCmd_some k.found (fun _ => rfl))

theorem grun_without_space (k : FreeCommand s h q c) (hq : c.state = .queued) (r : GrunRuns s c) (hlist : nthWord c.words 1 ≠ 0)
    (ha : 4096 ≤ graphAsid s (grunGraph c)) : ∃ t, exec (.grun h q) s = .next t ∧ hasEnded t h q 4 0 ∧ t.gmem = s.gmem :=
  ⟨_, exec_grun_bad k hq r hlist (patchList_nowhere s _ ha _), (endCmd_ends k.noNet 4 0).1, (endCmd_ending ..).gmem⟩

/-! ### DEPDEC -/

/-- The graph that a command of DEPDEC names. -/
def depdecGraph (c : Command) : BitVec 8 := bits (nthWord c.words 1) 16 8

/-- The node that it names. -/
def depdecNode (c : Command) : Nat := field (nthWord c.words 1) 0 16

theorem exec_depdec_idle (k : FreeCommand s h q c) (hl : launchOf s (depdecGraph c) = none) : exec (.depdec h q) s = .next (endCmd s h q 2 0) := by
  have hrun : exec (.depdec h q) s = execDepdec h q s := rfl
  unfold depdecGraph at hl
  simp only [hrun, execDepdec, k.found, k.going, k.free, hl, Option.isSome_none, Bool.false_eq_true, if_false, Bool.not_true]

/-- A DEPDEC of a node of a running graph of its world. -/
structure DepdecActs (s : State) (c : Command) (g : BitVec 8) (i : Nat) (l : Launch) : Prop where
  graph : depdecGraph c = g
  node : depdecNode c = i
  launch : launchOf s g = some l
  begun : l.patch = none
  world : graphWorld s g = c.world
  inside : i < nodeCount s g

theorem exec_depdec (k : FreeCommand s h q c) (r : DepdecActs s c g i l) : exec (.depdec h q) s =
    if nodeCounter s g i = 0 then .next (endCmd (abortLaunch s g 1 (BitVec.ofNat 16 i)) h q 3 0)
    else if l.aborting.isSome then .next (endCmd (gWr s (nodeAt s g i + 48) 2 (nodeCounter s g i - 1)) h q 0 0)
    else .next (endCmd (workAnd s g [.dec i]) h q 0 0) := by
  have hrun : exec (.depdec h q) s = execDepdec h q s := rfl
  obtain ⟨rfl, rfl, hl, hp, hw, hi⟩ := r
  unfold depdecGraph at hl hw
  unfold depdecGraph depdecNode at hi
  simp only [hrun, execDepdec, k.found, k.going, k.free, hl, hp, hw, Nat.not_le.mpr hi, Option.isSome_none, Bool.false_eq_true, if_false, Bool.not_true, ne_eq,
    not_true, decide_false, Bool.or_self, depdecGraph, depdecNode] <;> rfl

theorem runWork_one (ha : aborting s g = false) {w : Work} (hw : oneWork s g w = (t, [])) : runWork workBound s g [w] = t := by
  have hstep (n : Nat) : runWork (n + 1) s g [w] = t := by
    simp only [runWork, ha, hw, Bool.false_eq_true, if_false, List.append_nil]
    exact runWork_done n t g
  exact hstep (2 ^ 34 - 1)

theorem runWork_two (ha : aborting s g = false) {w x : Work} (hw : oneWork s g w = (t, [x])) (hb : aborting t g = false) (hx : oneWork t g x = (u, [])) :
    runWork workBound s g [w] = u := by
  have hstep (n : Nat) : runWork (n + 2) s g [w] = u := by
    simp only [runWork, ha, hw, hb, hx, Bool.false_eq_true, if_false, List.append_nil]
    exact runWork_done n u g
  exact hstep (2 ^ 34 - 2)

theorem Concluding.gRd (h : Concluding g s t) {a n : Nat} (ha : a + n ≤ graphAt g + 24 ∨ graphAt g + 32 ≤ a) : gRd t a n = gRd s a n :=
  gRd_congr fun k hk => h.gmem _ (by omega)

theorem Concluding.nodeAt (h : Concluding g s t) (i : Nat) : nodeAt t g i = nodeAt s g i := by
  have hfirst : firstNode t g = firstNode s g := h.gRd (.inl (by omega))
  unfold Machine.nodeAt
  rw [hfirst]

theorem Concluding.counter (h : Concluding g s t) (i : Nat) : nodeCounter t g i = nodeCounter s g i := by
  have hnode := nodeAt_ge s g i
  have hgraph := graphAt_lt g
  rw [nodeCounter, h.nodeAt, h.gRd (.inr (by omega)), nodeCounter]

/-- The counter of a node, as it is written. -/
theorem counter_gWr (s : State) (g : BitVec 8) (i : Nat) {n : Nat} (hn : n < 65536) : nodeCounter (gWr s (nodeAt s g i + 48) 2 n) g i = n := by
  rw [nodeCounter, nodeAt_gWr_node, gRd_gWr_same, Nat.mod_eq_of_lt (by omega)]

theorem counter_lt (s : State) (g : BitVec 8) (i : Nat) : nodeCounter s g i < 65536 := gRd_lt ..

theorem depdec_counts (k : FreeCommand s h q c) (r : DepdecActs s c g i l) (hc : 1 < nodeCounter s g i) :
    ∃ t, exec (.depdec h q) s = .next t ∧ hasEnded t h q 0 0 ∧ nodeCounter t g i = nodeCounter s g i - 1 := by
  have hwritten : nodeCounter (gWr s (nodeAt s g i + 48) 2 (nodeCounter s g i - 1)) g i = nodeCounter s g i - 1 :=
    counter_gWr s g i ((Nat.sub_le ..).trans_lt (counter_lt s g i))
  have hend : ∀ u, Concluding g (gWr s (nodeAt s g i + 48) 2 (nodeCounter s g i - 1)) u → hasEnded (endCmd u h q 0 0) h q 0 0 ∧
      nodeCounter (endCmd u h q 0 0) g i = nodeCounter s g i - 1 := fun u hu =>
    ⟨(endCmd_ends (hu.noNet h q k.noNet) 0 0).1, ((hu.trans (endCmd_ending ..).concluding).counter i).trans hwritten⟩
  rw [exec_depdec k r, if_neg (by omega)]
  cases ha : l.aborting with
  | some why => exact ⟨_, rfl, hend _ .refl⟩
  | none =>
    have hone : oneWork s g (.dec i) = (gWr s (nodeAt s g i + 48) 2 (nodeCounter s g i - 1), []) := by
      simp only [oneWork, if_neg (show nodeCounter s g i ≠ 0 by omega), if_neg (show nodeCounter s g i ≠ 1 by omega)]
    refine ⟨_, rfl, hend _ ?_⟩
    rw [workAnd, runWork_one (aborting_false r.launch ha) hone]
    exact settleLaunch_concluding ..

/-- A counter that goes from 1 to 0, and the node that it releases. -/
def depdecReleased (s : State) (g : BitVec 8) (i : Nat) : State := releaseNode (gWr s (nodeAt s g i + 48) 2 0) g i

theorem depdecReleased_onlyTasks (s : State) (g : BitVec 8) (i : Nat) : OnlyTasks s (depdecReleased s g i) :=
  (onlyTasks_gWr ..).trans (releaseNode_onlyTasks ..)

theorem depdecReleased_sameTable (s : State) (g : BitVec 8) (i : Nat) : SameTable s (depdecReleased s g i) :=
  SameTable.trans (SameTable.of_gWr s (by have := nodeAt_ge s g i; omega) 2 0) (releaseNode_sameTable _ g i)

theorem depdecReleased_queue (s : State) (g : BitVec 8) (i : Nat) : (depdecReleased s g i).queue = s.queue ++ teamsOf s g i := by
  have hteams : nodeTeams (gWr s (nodeAt s g i + 48) 2 0) g i = nodeTeams s g i := node_gWr_node s g i 0 (.inl (by norm_num))
  have hsame : teamsOf (gWr s (nodeAt s g i + 48) 2 0) g i = teamsOf s g i := by
    unfold teamsOf
    rw [hteams]
  rw [depdecReleased, releaseNode_queue, hsame]
  rfl

theorem depdecReleased_node (s : State) (g : BitVec 8) (i : Nat) : nodeCounter (depdecReleased s g i) g i = 0 ∧ nodeState (depdecReleased s g i) g i = 1 :=
  ⟨(releaseNode_counter ..).trans (counter_gWr s g i (by norm_num)), (releaseNode_state ..).trans (if_pos rfl)⟩

theorem depdec_work (hl : launchOf s g = some l) (ha : l.aborting = none) (hc : nodeCounter s g i = 1) (hteams : 1 ≤ nodeTeams s g i)
    (hmode : nodeMode s g i ≠ 2) : runWork workBound s g [.dec i] = depdecReleased s g i := by
  have hteams' : nodeTeams (gWr s (nodeAt s g i + 48) 2 0) g i = nodeTeams s g i := node_gWr_node s g i 0 (.inl (by norm_num))
  have hmode' : nodeMode (gWr s (nodeAt s g i + 48) 2 0) g i = nodeMode s g i := congrArg (· % 4) (node_gWr_node s g i 0 (.inl (by norm_num)))
  have hdec : oneWork s g (.dec i) = (gWr s (nodeAt s g i + 48) 2 0, [.rel i]) := by
    simp only [oneWork, hc, Nat.one_ne_zero, if_false, if_true, Nat.sub_self]
  exact runWork_two (aborting_false hl ha) hdec (aborting_false (s := gWr s (nodeAt s g i + 48) 2 0) hl ha) (oneWork_rel (hteams' ▸ hteams) (hmode' ▸ hmode))

theorem depdec_releases (k : FreeCommand s h q c) (r : DepdecActs s c g i l) (hc : nodeCounter s g i = 1) (ha : l.aborting = none)
    (hteams : 1 ≤ nodeTeams s g i) (hmode : nodeMode s g i ≠ 2) (hleft : gRd s (graphAt g + 16) 4 ≠ 0) :
    ∃ t, exec (.depdec h q) s = .next t ∧ hasEnded t h q 0 0 ∧ nodeCounter t g i = 0 ∧ nodeState t g i = 1 ∧ t.queue = s.queue ++ teamsOf s g i ∧
      .teamPlacement ∈ t.pending := by
  have honly := depdecReleased_onlyTasks s g i
  have hqueue := depdecReleased_queue s g i
  obtain ⟨hcount, hstate⟩ := depdecReleased_node s g i
  have hgo : workAnd s g [.dec i] = depdecReleased s g i := by
    rw [workAnd, depdec_work r.launch ha hc hteams hmode]
    obtain ⟨w, hw, hown⟩ := exists_mem_teamsOf hteams
    have hleft' := (depdecReleased_sameTable s g i).entry g (off := 16) (n := 4) (by norm_num)
    exact settleLaunch_goes_on ((honly.launchOf g).trans r.launch) ha r.begun (hleft' ▸ hleft) (.inr ⟨w, hqueue ▸ List.mem_append_right _ hw, hown⟩)
  have hnet : NoNetCommand (depdecReleased s g i) h q := fun d hd => k.noNet d ((congrArg (·.find? (isCmd h q)) (congrArg State.cmds honly :)).symm.trans hd)
  obtain ⟨hqueue', hpending⟩ := endCmd_keeps hnet 0 0
  have hend := endCmd_ending (depdecReleased s g i) h q 0 0
  have hnode : nodeAt (endCmd (depdecReleased s g i) h q 0 0) g i = nodeAt (depdecReleased s g i) g i := hend.concluding.nodeAt i
  rw [exec_depdec k r, if_neg (by omega), ha, if_neg (by simp), hgo]
  refine ⟨_, rfl, (endCmd_ends hnet 0 0).1, ?_, ?_, hqueue'.trans hqueue, hpending _ (mem_pendOnce ..)⟩
  · rw [nodeCounter, hnode, hend.gRd]
    exact hcount
  · rw [nodeState, hnode, hend.gRd]
    exact hstate

theorem depdec_aborts (k : FreeCommand s h q c) (r : DepdecActs s c g i l) (hc : nodeCounter s g i = 0) :
    ∃ t, exec (.depdec h q) s = .next t ∧ hasEnded t h q 3 0 ∧ nodeCounter t g i = 0 ∧ Aborts t g := by
  have habort := abortLaunch_concluding s g 1 (BitVec.ofNat 16 i)
  have hend := endCmd_ending (abortLaunch s g 1 (BitVec.ofNat 16 i)) h q 3 0
  rw [exec_depdec k r, if_pos hc]
  exact ⟨_, rfl, (endCmd_ends (habort.noNet h q k.noNet) 3 0).1, ((habort.trans hend.concluding).counter i).trans hc,
    fun m hm => abortLaunch_aborts s g 1 (BitVec.ofNat 16 i) m ((hend.launchOf g).symm.trans hm)⟩

end
end Sys2Proof.Machine

namespace Sys2Proof.Machine
open Sys2Proof
set_option Elab.async false

/-! ### Byte strings that are alike up to zeros behind them (R322) -/

section
variable {s t u : State} {g : BitVec 8} {l m : List Byte}

theorem ofLe_zeros (h : ∀ i, l.getD i 0 = 0) : ofLe l = 0 := by
  induction l with
  | nil => rfl
  | cons b r ih =>
    have hb : b = 0 := h 0
    rw [ofLe, hb, ih fun i => h (i + 1)]
    rfl

theorem ofLe_congr (h : ∀ i, l.getD i 0 = m.getD i 0) : ofLe l = ofLe m := by
  induction l generalizing m with
  | nil => exact (ofLe_zeros fun i => (h i).symm).symm
  | cons b r ih =>
    cases m with
    | nil => exact ofLe_zeros h
    | cons c q =>
      have hfirst : b = c := h 0
      rw [ofLe, ofLe, hfirst, ih fun i => h (i + 1)]

theorem getD_take (l : List Byte) (n i : Nat) : (l.take n).getD i 0 = if i < n then l.getD i 0 else 0 := by
  rw [List.getD_eq_getElem?_getD, List.getElem?_take, List.getD_eq_getElem?_getD]
  split <;> rfl

theorem getD_slice (l : List Byte) (off n i : Nat) : (slice l off n).getD i 0 = if i < n then l.getD (off + i) 0 else 0 := by
  have hdrop : (l.drop off).getD i 0 = l.getD (off + i) 0 := by
    rw [List.getD_eq_getElem?_getD, List.getD_eq_getElem?_getD, List.getElem?_drop]
  unfold slice
  by_cases hi : i < ((l.drop off).take n).length
  · rw [List.getD_append _ _ _ _ hi, getD_take, hdrop]
  · rw [List.getD_append_right _ _ _ _ (Nat.le_of_not_lt hi)]
    have hzero (k j : Nat) : (List.replicate k (0 : Byte)).getD j 0 = 0 := by
      rw [List.getD_eq_getElem?_getD, List.getElem?_replicate]
      split <;> rfl
    rw [hzero]
    split
    · rw [List.length_take, List.length_drop] at hi
      exact (List.getD_eq_default _ _ (by omega)).symm
    · rfl

theorem patchEntry_congr (h : ∀ i, l.getD i 0 = m.getD i 0) : patchEntry l = patchEntry m := by
  have hslice (off n : Nat) : ofLe (slice l off n) = ofLe (slice m off n) := ofLe_congr fun i => by rw [getD_slice, getD_slice, h]
  have htake : ofLe (l.take 4) = ofLe (m.take 4) := ofLe_congr fun i => by rw [getD_take, getD_take, h]
  simp only [patchEntry, hslice, htake]

theorem patchEntry_slice (x : List Byte) (off : Nat) : patchEntry (slice x off 16) = patchEntry ((x.drop off).take 16) := by
  refine patchEntry_congr fun i => ?_
  rw [getD_slice, getD_take, List.getD_eq_getElem?_getD, List.getD_eq_getElem?_getD, List.getElem?_drop]


end
/-! ### A launch that waits for its patch list (R83, R322) -/

section
variable {s t u : State} {g : BitVec 8} {c : BitVec 4} {list : Word} {l : Launch} {a va n : Nat} {b x : List Byte}

theorem rdPieces_accessed (s : State) (l : List Piece) : Accessed s (rdPieces s l).1 := by
  induction l generalizing s with
  | nil => exact .refl
  | cons p r ih => exact (rdPiece_accessed s p).trans (ih _)

theorem readList_accessed {r : ListRead} (h : readList s a va n = (t, r)) : Accessed s t := by
  have hread : Accessed s (readList s a va n).1 := by
    unfold readList
    dsimp only
    split
    · exact .refl
    · split
      · exact .refl
      · exact rdPieces_accessed ..
  rwa [h] at hread

/-- The launches of a graph wait for a patch list, or no longer. -/
def withPatch (s : State) (g : BitVec 8) (w : Option Word) : State :=
  { s with launches := s.launches.map (fun l => if l.graph = g then { l with patch := w } else l) }

theorem withPatch_launchOf (s : State) (g : BitVec 8) (w : Option Word) :
    launchOf (withPatch s g w) g = (launchOf s g).map (fun l => { l with patch := w }) := by
  have hpred : ((fun l : Launch => decide (l.graph = g)) ∘ fun l => if l.graph = g then { l with patch := w } else l) = fun l => decide (l.graph = g) := by
    funext l
    simp only [Function.comp]
    split <;> rfl
  have hfind : launchOf (withPatch s g w) g = (launchOf s g).map (fun l => if l.graph = g then { l with patch := w } else l) :=
    (List.find?_map ..).trans (by rw [hpred]; rfl)
  rw [hfind]
  cases hl : launchOf s g with
  | none => rfl
  | some l => simp only [Option.map_some, if_pos (launchOf_graph hl)]

/-- A launch that waits for its patch list, in the channel that runs it. -/
structure WaitsForPatches (s : State) (c : BitVec 4) (g : BitVec 8) (l : Launch) (list : Word) : Prop where
  running : (chanAt s c).running = some g
  launch : launchOf s g = some l
  chan : l.chan = some c
  going : l.aborting = none
  patch : l.patch = some list
  list : list ≠ 0

theorem WaitsForPatches.exec_eq (h : WaitsForPatches s c g l list) : exec (.launchStart c) s = .next (launchOn s g list) := by
  have hrun : exec (.launchStart c) s = execLaunchStart c s := rfl
  simp only [hrun, execLaunchStart, h.running, h.launch, h.going, h.patch, Option.bind_some, Option.isNone_none, if_true]

theorem launchOn_page (hlist : list ≠ 0) (h : patchList s g (graphAsid s g) list.toNat = (t, .page va)) : launchOn s g list =
    askMmp (withPatch t g (some list)) (BitVec.ofNat 12 (graphAsid t g)) va (fun f => { f with launches := f.launches ++ [g] }) := by
  simp only [launchOn, if_neg hlist, h]
  rfl

theorem launchOn_locked (hlist : list ≠ 0) (h : patchList s g (graphAsid s g) list.toNat = (t, .locked)) (hl : launchOf t g = some l)
    (hc : l.chan = some c) : launchOn s g list = pendOnce (withPatch t g (some list)) (.launchStart c) := by
  simp only [launchOn, if_neg hlist, h, hl, hc, Option.bind_some]
  rfl

theorem launchOn_bad (hlist : list ≠ 0) (h : patchList s g (graphAsid s g) list.toNat = (t, .bad n)) :
    launchOn s g list = abortLaunch (withPatch t g none) g 5 (BitVec.ofNat 16 n) := by
  simp only [launchOn, if_neg hlist, h]
  rfl

theorem launchOn_entries (hlist : list ≠ 0) {es : List PatchEntry} (h : patchList s g (graphAsid s g) list.toNat = (t, .entries es)) :
    launchOn s g list = launchNodes (es.foldl (fun s e => patchNode s g e) (withPatch t g none)) g := by
  simp only [launchOn, if_neg hlist, h]
  rfl

theorem askMmp_asks (s : State) (asid : BitVec 12) (va : Nat) (add : PageFault → PageFault) :
    (askMmp s asid va add).launches = s.launches ∧ (askMmp s asid va add).gmem = s.gmem ∧ ∃ f, add f ∈ (askMmp s asid va add).pageFaults := by
  unfold askMmp
  dsimp only
  split
  · rename_i hany
    obtain ⟨f, hf, hmine⟩ := List.any_eq_true.mp hany
    exact ⟨rfl, rfl, f, List.mem_map.mpr ⟨f, hf, if_pos hmine⟩⟩
  · exact ⟨rfl, rfl, _, List.mem_append_right _ (List.mem_singleton.mpr rfl)⟩

theorem WaitsForPatches.still (h : WaitsForPatches s c g l list) (hacc : Accessed s t) : launchOf (withPatch t g (some list)) g = some l := by
  have hl : launchOf t g = some l := (congrArg (·.find? (fun l => l.graph = g)) hacc.launches).trans h.launch
  rw [withPatch_launchOf, hl, Option.map_some, ← h.patch]

theorem WaitsForPatches.page (h : WaitsForPatches s c g l list) (hp : patchList s g (graphAsid s g) list.toNat = (t, .page va)) (hacc : Accessed s t) :
    ∃ u, exec (.launchStart c) s = .next u ∧ launchOf u g = some l ∧ u.gmem = s.gmem ∧ ∃ f ∈ u.pageFaults, g ∈ f.launches := by
  obtain ⟨hl, hg, f, hf⟩ := askMmp_asks (withPatch t g (some list)) (BitVec.ofNat 12 (graphAsid t g)) va (fun f => { f with launches := f.launches ++ [g] })
  refine ⟨_, h.exec_eq.trans (congrArg _ (launchOn_page h.list hp)), (congrArg (·.find? (fun l => l.graph = g)) hl).trans (h.still hacc), hg.trans hacc.gmem, _, hf, ?_⟩
  exact List.mem_append_right _ (List.mem_singleton.mpr rfl)

theorem WaitsForPatches.locked (h : WaitsForPatches s c g l list) (hp : patchList s g (graphAsid s g) list.toNat = (t, .locked)) (hacc : Accessed s t) :
    ∃ u, exec (.launchStart c) s = .next u ∧ launchOf u g = some l ∧ u.gmem = s.gmem ∧ .launchStart c ∈ u.pending := by
  have hl : launchOf t g = some l := (congrArg (·.find? (fun l => l.graph = g)) hacc.launches).trans h.launch
  have hsent := pendOnce_sent (withPatch t g (some list)) (.launchStart c)
  exact ⟨_, h.exec_eq.trans (congrArg _ (launchOn_locked h.list hp hl h.chan)),
    (congrArg (·.find? (fun l => l.graph = g)) hsent.launches).trans (h.still hacc), hsent.gmem.trans hacc.gmem, mem_pendOnce ..⟩

theorem WaitsForPatches.bad (h : WaitsForPatches s c g l list) (hp : patchList s g (graphAsid s g) list.toNat = (t, .bad n)) :
    ∃ u, exec (.launchStart c) s = .next u ∧ Aborts u g :=
  ⟨_, h.exec_eq.trans (congrArg _ (launchOn_bad h.list hp)), abortLaunch_aborts _ _ _ _⟩

/-! ### The list as it is found (R322) -/

theorem patchList_page {w : Nat} (h : readList s a va 8 = (t, .page w)) : patchList s g a va = (t, .page w) := by simp only [patchList, h]

theorem patchList_locked (h : readList s a va 8 = (t, .locked)) : patchList s g a va = (t, .locked) := by simp only [patchList, h]

theorem patchList_bad (h : readList s a va 8 = (t, .bad)) : patchList s g a va = (t, .bad 0) := by simp only [patchList, h]

theorem patchList_long (h : readList s a va 8 = (t, .bytes b)) (hn : 4096 < ofLe b) : patchList s g a va = (t, .bad 0) := by
  simp only [patchList, h, if_pos hn]

/-- The entries of a list, in order. -/
def entriesOf (x : List Byte) (n : Nat) : List PatchEntry := (List.range n).map (fun i => patchEntry ((x.drop (16 * i)).take 16))

theorem entriesOf_upFrom (x : List Byte) (n : Nat) : (upFrom 0 n).map (fun k => patchEntry (slice x (16 * k) 16)) = entriesOf x n := by
  rw [upFrom_zero]
  exact List.map_congr_left fun k _ => patchEntry_slice x (16 * k)

theorem patchList_entries (h : readList s a va 8 = (t, .bytes b)) (hn : ofLe b ≤ 4096)
    (hx : readList t a (va + 8) (16 * ofLe b) = (u, .bytes x)) (hok : ∀ e ∈ entriesOf x (ofLe b), patchOk (nodeCount u g) e = true) :
    patchList s g a va = (u, .entries (entriesOf x (ofLe b))) := by
  have hnone : (entriesOf x (ofLe b)).find? (fun e => !patchOk (nodeCount u g) e) = none :=
    List.find?_eq_none.mpr fun e he => by simp [hok e he]
  simp only [patchList, h, if_neg (Nat.not_lt.mpr hn), hx, entriesOf_upFrom, hnone]

theorem patchList_wrong (h : readList s a va 8 = (t, .bytes b)) (hn : ofLe b ≤ 4096)
    (hx : readList t a (va + 8) (16 * ofLe b) = (u, .bytes x)) (hbad : ∃ e ∈ entriesOf x (ofLe b), patchOk (nodeCount u g) e = false) :
    ∃ n, patchList s g a va = (u, .bad n) := by
  obtain ⟨e, he, hwrong⟩ := hbad
  obtain ⟨f, hf⟩ := Option.isSome_iff_exists.mp (List.find?_isSome (p := fun e => !patchOk (nodeCount u g) e).mpr ⟨e, he, by simp [hwrong]⟩)
  refine ⟨if f.node < nodeCount u g then f.node else 0, ?_⟩
  simp only [patchList, h, if_neg (Nat.not_lt.mpr hn), hx, entriesOf_upFrom, hf]

/-! ### A graph that is patched (R322) -/

/-- The graph with the entries written, in order. -/
def patched (s : State) (g : BitVec 8) (es : List PatchEntry) : State := es.foldl (fun s e => patchNode s g e) s

theorem patchNode_gmem (s : State) (g : BitVec 8) (e : PatchEntry) : patchNode s g e = { s with gmem := (patchNode s g e).gmem } := by
  unfold patchNode
  dsimp only
  split
  · rfl
  · split
    · rfl
    · split <;> rfl

theorem patchNode_congr (h : t.gmem = s.gmem) (e : PatchEntry) : (patchNode t g e).gmem = (patchNode s g e).gmem := by
  have hnode : nodeAt t g e.node = nodeAt s g e.node := (SameTasks.of_gmem h).nodeAt g e.node
  unfold patchNode
  rw [hnode]
  dsimp only
  split
  · exact congrArg (wrMem · _ _) h
  · split
    · exact congrArg (wrMem · _ _) h
    · split <;> exact congrArg (wrMem · _ _) h

theorem patched_gmem (s : State) (g : BitVec 8) (es : List PatchEntry) : patched s g es = { s with gmem := (patched s g es).gmem } := by
  induction es generalizing s with
  | nil => rfl
  | cons e r ih => exact (ih (patchNode s g e)).trans (congrArg (fun x : State => { x with gmem := (patched s g (e :: r)).gmem }) (patchNode_gmem s g e))

theorem patched_congr (h : t.gmem = s.gmem) (es : List PatchEntry) : (patched t g es).gmem = (patched s g es).gmem := by
  induction es generalizing s t with
  | nil => exact h
  | cons e r ih => exact ih (patchNode_congr h e)

theorem WaitsForPatches.launches (h : WaitsForPatches s c g l list) {es : List PatchEntry}
    (hp : patchList s g (graphAsid s g) list.toNat = (t, .entries es)) (hacc : Accessed s t) (hk : Launchable (patched s g es) g) :
    ∃ u, exec (.launchStart c) s = .next u ∧ Released (patched s g es) u g ∧ ∃ m, launchOf u g = some m ∧ m.aborting = none ∧ m.patch = none := by
  have hl : launchOf t g = some l := (congrArg (·.find? (fun l => l.graph = g)) hacc.launches).trans h.launch
  have hs := patched_gmem s g es
  have ht := patched_gmem (withPatch t g none) g es
  have hsame : SameTasks (patched s g es) (patched (withPatch t g none) g es) := .of_gmem (patched_congr (t := withPatch t g none) hacc.gmem es)
  have hasids : (patched (withPatch t g none) g es).asids = (patched s g es).asids :=
    (congrArg State.asids ht).trans ((congrArg State.asids hacc :).trans (congrArg State.asids hs).symm)
  have hqueue : (patched (withPatch t g none) g es).queue = (patched s g es).queue :=
    (congrArg State.queue ht).trans ((congrArg State.queue hacc :).trans (congrArg State.queue hs).symm)
  have hlaunch : launchOf (patched (withPatch t g none) g es) g = some { l with patch := none } :=
    (congrArg (fun x : State => launchOf x g) ht).trans ((withPatch_launchOf t g none).trans (congrArg _ hl))
  obtain ⟨honly, hreleased, -⟩ := launchNodes_releases (hsame.launchable hasids hk) hlaunch h.going rfl
  exact ⟨_, h.exec_eq.trans (congrArg _ (launchOn_entries h.list hp)), hsame.released hqueue hreleased, _, (honly.launchOf g).trans hlaunch, h.going, rfl⟩

/-- What an entry of a patch list writes. -/
theorem patchNode_patches (s : State) (g : BitVec 8) (e : PatchEntry) : patches s (patchNode s g e) g e := by
  unfold patches patchNode
  dsimp only
  by_cases h0 : e.what = 0
  · simp only [if_pos h0]
    exact ⟨gRd_gWr_same .., fun b hb => gWr_outside s _ hb, rfl⟩
  by_cases h1 : e.what = 1
  · simp only [if_neg h0, if_pos h1]
    exact ⟨gRd_gWr_same .., fun b hb => gWr_outside s _ hb, rfl⟩
  by_cases h2 : e.what = 2
  · simp only [if_neg h0, if_neg h1, if_pos h2]
    exact ⟨gRd_gWr_same .., fun b hb => gWr_outside s _ hb, rfl⟩
  · simp only [if_neg h0, if_neg h1, if_neg h2]
    exact ⟨gRd_gWr_same .., fun b hb => gWr_outside s _ hb, rfl⟩

end
end Sys2Proof.Machine

namespace Sys2Proof.Machine
open Sys2Proof
set_option Elab.async false

/-! ### Room for the threads of a team (R329, R330) -/

section
variable {s t : State} {k : BitVec 7} {c d : BitVec 11} {wb n : Nat} {x : Thread} {slot : BitVec 3}

theorem inSlot_stays {u : Thread} (h : inSlot u = true) : (decide (u.status ≠ .ended) && decide (u.status ≠ .idle)) = true := by
  simp only [inSlot, isLive, Bool.and_eq_true, decide_eq_true_eq] at h
  obtain ⟨⟨⟨-, hidle⟩, hended⟩, -⟩ := h
  simp [hidle, hended]

theorem threadsOn_addThread (s : State) (x : Thread) (c : BitVec 11) :
    threadsOn (addThread s x) c = threadsOn s c ++ [x].filter (fun t => inSlot t && t.core = c) := by
  have hrest : (s.rest.filter (fun u => u.status ≠ .ended && u.status ≠ .idle)).filter (fun t => inSlot t && t.core = c) =
      s.rest.filter (fun t => inSlot t && t.core = c) := by
    rw [List.filter_filter]
    refine List.filter_congr fun u _ => ?_
    cases hu : inSlot u with
    | false => rfl
    | true => rw [inSlot_stays hu, Bool.and_true]
  simp only [threadsOn, allThreads, addThread, List.filter_cons (x := s.th), List.filter_append, hrest]
  split <;> rfl

theorem threadsOn_addThread_other (h : x.core ≠ c) : threadsOn (addThread s x) c = threadsOn s c := by
  rw [threadsOn_addThread, List.filter_singleton]
  simp [h]

theorem threadsOn_addThread_here (h : x.core = c) (hx : inSlot x = true) : threadsOn (addThread s x) c = threadsOn s c ++ [x] := by
  rw [threadsOn_addThread, List.filter_singleton]
  simp [h, hx]

theorem roomOn_congr (h : threadsOn t c = threadsOn s c) (wb : Nat) : roomOn t c wb = roomOn s c wb := by
  simp only [roomOn, idleSlots, freeBanks, h]

theorem idleSlots_nodup (s : State) (c : BitVec 11) : (idleSlots s c).Nodup := by
  have hall : ((upFrom 0 8).map (BitVec.ofNat 3)).Nodup := by decide
  unfold idleSlots
  exact hall.filter _

/-- One slot less is idle on a core that takes a thread. -/
theorem idleSlots_addThread (h : x.core = c) (hx : inSlot x = true) : (idleSlots s c).length ≤ (idleSlots (addThread s x) c).length + 1 := by
  have hnew : idleSlots (addThread s x) c = (idleSlots s c).filter (fun k => k ≠ x.slot) := by
    simp only [idleSlots, threadsOn_addThread_here h hx, List.any_append, List.any_cons, List.any_nil, Bool.or_false, Bool.not_or, List.filter_filter]
    refine List.filter_congr fun k _ => ?_
    rw [Bool.and_comm]
    congr 1
    simp [eq_comm]
  have herase : (idleSlots s c).filter (fun k => k ≠ x.slot) = (idleSlots s c).erase x.slot := by
    rw [(idleSlots_nodup s c).erase_eq_filter]
    exact List.filter_congr fun k _ => by rw [Bool.eq_iff_iff]; simp
  rw [hnew, herase, List.length_erase]
  split <;> omega

/-- Its window's banks are taken. -/
theorem freeBanks_addThread (h : x.core = c) (hx : inSlot x = true) : freeBanks (addThread s x) c = freeBanks s c - x.win.toNat := by
  rw [freeBanks, threadsOn_addThread_here h hx, List.foldl_append, List.foldl_cons, List.foldl_nil, freeBanks, Nat.sub_sub]

theorem roomOn_addThread_here (h : x.core = c) (hx : inSlot x = true) (hw : x.win.toNat = wb) : roomOn s c wb ≤ roomOn (addThread s x) c wb + 1 := by
  have hslots := idleSlots_addThread (s := s) h hx
  have hbanks : freeBanks s c / wb ≤ (freeBanks s c - wb) / wb + 1 := by
    rw [Nat.div_eq]
    split
    · exact le_rfl
    · exact Nat.zero_le _
  rw [roomOn, roomOn, freeBanks_addThread h hx, hw]
  omega


/-! ### The room of a cluster -/

/-- Threads of a window that a cluster can take. -/
def clusterRoom (s : State) (k : BitVec 7) (wb : Nat) : Nat := ((coresOf k).map (fun c => roomOn s c wb)).sum

theorem foldl_add_eq_sum (f : BitVec 11 → Nat) (L : List (BitVec 11)) (n : Nat) : L.foldl (fun m c => m + f c) n = n + (L.map f).sum := by
  induction L generalizing n with
  | nil => rfl
  | cons c r ih => rw [List.foldl_cons, ih, List.map_cons, List.sum_cons, Nat.add_assoc]

theorem clusterHolds_iff : clusterHolds s k n wb = true ↔ n ≤ clusterRoom s k wb := by
  rw [clusterHolds, decide_eq_true_eq, foldl_add_eq_sum, Nat.zero_add]
  rfl

theorem coresOf_nodup (k : BitVec 7) : (coresOf k).Nodup := by
  have hk := k.isLt
  refine List.Nodup.map_on (fun i hi j hj hij => ?_) (by rw [upFrom_zero]; exact List.nodup_range)
  rw [mem_upFrom_zero] at hi hj
  have hval := congrArg BitVec.toNat hij
  rw [BitVec.toNat_ofNat, BitVec.toNat_ofNat] at hval
  omega

/-- Where one core loses room for one thread at most, so does the sum. -/
theorem sum_room_drop {L : List (BitVec 11)} {f f' : BitVec 11 → Nat} (hL : L.Nodup) (hother : ∀ d ∈ L, d ≠ c → f d = f' d) (hc : f c ≤ f' c + 1) :
    (L.map f).sum ≤ (L.map f').sum + 1 := by
  induction L with
  | nil => exact Nat.zero_le _
  | cons d r ih =>
    obtain ⟨hd, hr⟩ := List.nodup_cons.mp hL
    simp only [List.map_cons, List.sum_cons]
    by_cases hdc : d = c
    · subst hdc
      have hrest : r.map f = r.map f' := List.map_congr_left fun e he => hother e (List.mem_cons_of_mem _ he) fun h => hd (h ▸ he)
      rw [hrest]
      omega
    · have hsame := hother d List.mem_cons_self hdc
      have hrest := ih hr fun e he => hother e (List.mem_cons_of_mem _ he)
      omega

/-- A thread that is added to a core takes room for one thread of its cluster at most. -/
theorem clusterRoom_addThread (hx : inSlot x = true) (hw : x.win.toNat = wb) : clusterRoom s k wb ≤ clusterRoom (addThread s x) k wb + 1 :=
  sum_room_drop (coresOf_nodup k) (fun _ _ hd => roomOn_congr (threadsOn_addThread_other (Ne.symm hd)).symm wb) (roomOn_addThread_here rfl hx hw)

theorem clusterRoom_congr (hth : t.th = s.th) (hrest : t.rest = s.rest) (k : BitVec 7) (wb : Nat) : clusterRoom t k wb = clusterRoom s k wb := by
  have hall : allThreads t = allThreads s := by rw [allThreads, hth, hrest, allThreads]
  have hroom (c : BitVec 11) : roomOn t c wb = roomOn s c wb := roomOn_congr (by rw [threadsOn, hall, threadsOn]) wb
  simp only [clusterRoom, hroom]

theorem greatest_mem {α : Type} (f : α → Nat) {L : List α} {y : α} (h : greatest f L = some y) : y ∈ L := by
  induction L generalizing y with
  | nil => exact absurd h (by simp [greatest])
  | cons x r ih =>
    rw [greatest] at h
    split at h
    · exact Option.some.inj h ▸ List.mem_cons_self
    · rename_i z hz
      split at h
      · exact Option.some.inj h ▸ List.mem_cons_of_mem _ (ih hz)
      · exact Option.some.inj h ▸ List.mem_cons_self

theorem greatest_some {α : Type} (f : α → Nat) {L : List α} (h : L ≠ []) : ∃ y, greatest f L = some y := by
  cases L with
  | nil => exact absurd rfl h
  | cons x r =>
    rw [greatest]
    split
    · exact ⟨_, rfl⟩
    · split <;> exact ⟨_, rfl⟩

/-- A cluster with room has a slot for a thread. -/
theorem slotIn_some (h : 1 ≤ clusterRoom s k wb) : ∃ c slot, slotIn s k wb = some (c, slot) := by
  obtain ⟨n, hn, hpos⟩ : ∃ n ∈ (coresOf k).map (fun c => roomOn s c wb), n ≠ 0 := by
    by_contra hnone
    push Not at hnone
    have := List.sum_eq_zero hnone
    unfold clusterRoom at h
    omega
  obtain ⟨c, hc, rfl⟩ := List.mem_map.mp hn
  obtain ⟨d, hd⟩ := greatest_some (fun c => (idleSlots s c).length) (L := (coresOf k).filter (fun c => 0 < roomOn s c wb))
    (List.ne_nil_of_mem (List.mem_filter.mpr ⟨hc, decide_eq_true (Nat.pos_of_ne_zero hpos)⟩))
  have hroom : 0 < roomOn s d wb := of_decide_eq_true (List.mem_filter.mp (greatest_mem _ hd)).2
  have hidle : idleSlots s d ≠ [] := by
    intro hnil
    rw [roomOn, hnil, List.length_nil] at hroom
    omega
  obtain ⟨i, r, hi⟩ := List.exists_cons_of_ne_nil hidle
  exact ⟨d, i, by simp only [slotIn, hd, hi, List.head?_cons, Option.map_some]⟩

theorem clusterFor_holds {ok : BitVec 2 → Bool} (h : clusterFor s ok n wb = some k) : n ≤ clusterRoom s k wb := by
  obtain ⟨-, hk⟩ := List.mem_filter.mp (greatest_mem _ h)
  simp only [Bool.and_eq_true] at hk
  exact clusterHolds_iff.mp hk.2

/-! ### Free indices of the directory (R181, R330) -/

theorem freeFrom_none {i : Nat} (h : freeFrom s n i = none) : ∀ m < n, (dirOf s (BitVec.ofNat 16 (i + m))).state ≠ 0 := by
  induction n generalizing i with
  | zero => exact fun m hm => absurd hm (Nat.not_lt_zero m)
  | succ n ih =>
    rw [freeFrom] at h
    split at h
    · exact absurd h (Option.some_ne_none _)
    · rename_i hbusy
      intro m hm
      cases m with
      | zero => exact hbusy
      | succ m =>
        rw [show i + (m + 1) = i + 1 + m by omega]
        exact ih h m (by omega)

/-- What a table reads at a key is its default, or stands there. -/
theorem sget_default_or_mem {α : Type} (d : α) (m : Sparse α) (k : Nat) : sget d m k = d ∨ (k, sget d m k) ∈ m := by
  induction m with
  | nil => exact .inl rfl
  | cons e r ih =>
    obtain ⟨j, v⟩ := e
    rw [sget]
    split
    · rename_i hj
      exact .inr (hj ▸ List.mem_cons_self)
    · exact ih.imp_right (List.mem_cons_of_mem _)

/-- The entries of indices that are not Free. -/
def busyEntries (s : State) : List (Nat × DirEntry) := s.dir.filter (fun e => e.2.state ≠ 0)

theorem mem_busyEntries {i : BitVec 16} (h : (dirOf s i).state ≠ 0) : i.toNat ∈ (busyEntries s).map (·.1) := by
  have hlisted : dirOf s i = DirEntry.init ∨ (i.toNat, dirOf s i) ∈ s.dir := sget_default_or_mem ..
  refine List.mem_map.mpr ⟨_, List.mem_filter.mpr ⟨hlisted.resolve_left fun hinit => h (by rw [hinit]; rfl), decide_eq_true h⟩, rfl⟩

/-- Where the directory has a Free index, one is found. -/
theorem freeIndex_some (h : 1 ≤ freeIndices s) : ∃ i, freeIndex s = some i := by
  cases hfree : freeIndex s with
  | some i => exact ⟨i, rfl⟩
  | none =>
    have hbusy := freeFrom_none hfree
    have hnodup : ((List.range (min 65536 (s.dir.length + 1))).map (fun m => (BitVec.ofNat 16 (choose s 65536 + m)).toNat)).Nodup := by
      refine List.Nodup.map_on (fun i hi j hj hij => ?_) List.nodup_range
      rw [List.mem_range] at hi hj
      rw [BitVec.toNat_ofNat, BitVec.toNat_ofNat] at hij
      omega
    have hsub : ((List.range (min 65536 (s.dir.length + 1))).map (fun m => (BitVec.ofNat 16 (choose s 65536 + m)).toNat)) ⊆ (busyEntries s).map (·.1) := by
      intro k hk
      obtain ⟨m, hm, rfl⟩ := List.mem_map.mp hk
      exact mem_busyEntries (hbusy m (List.mem_range.mp hm))
    have hlen := (hnodup.subperm hsub).length_le
    have hle : (busyEntries s).length ≤ s.dir.length := List.length_filter_le ..
    have hcount : 1 ≤ 65536 - (busyEntries s).length := h
    rw [List.length_map, List.length_map, List.length_range] at hlen
    omega

theorem filter_sput_length {α : Type} (p : Nat × α → Bool) (m : Sparse α) (k : Nat) (v : α) :
    ((sput m k v).filter p).length ≤ (m.filter p).length + 1 := by
  have hone (e : Nat × α) (r : Sparse α) : ((e :: r).filter p).length ≤ (r.filter p).length + 1 := by
    rw [List.filter_cons]
    split
    · exact le_rfl
    · exact Nat.le_succ _
  induction m with
  | nil => exact hone (k, v) []
  | cons e r ih =>
    rw [sput]
    split
    · exact (hone (k, v) r).trans (Nat.add_le_add_right ((List.sublist_cons_self e r).filter p).length_le 1)
    · split
      · exact hone ..
      · rw [List.filter_cons, List.filter_cons]
        split
        · exact Nat.add_le_add_right ih 1
        · exact ih

/-- One index less is Free once a thread has it. -/
theorem freeIndices_takeIndex (s : State) (i : BitVec 16) (w : World) (c : BitVec 11) (slot : BitVec 3) :
    freeIndices s ≤ freeIndices (takeIndex s i w c slot).1 + 1 := by
  have hput : (takeIndex s i w c slot).1.dir =
      sput s.dir i.toNat { dirOf s i with state := 1, gen := (dirOf s i).gen + 1, world := w, core := c, slot := slot, image := 0 } := by
    have hset : (takeIndex s i w c slot).1.dir = sset DirEntry.init s.dir i.toNat
        { dirOf s i with state := 1, gen := (dirOf s i).gen + 1, world := w, core := c, slot := slot, image := 0 } := rfl
    rw [hset, sset, if_neg]
    intro h
    exact absurd (congrArg DirEntry.state h) (show (1 : BitVec 2) ≠ 0 by decide)
  have hcount := filter_sput_length (fun e : Nat × DirEntry => e.2.state ≠ 0) s.dir i.toNat
    { dirOf s i with state := 1, gen := (dirOf s i).gen + 1, world := w, core := c, slot := slot, image := 0 }
  rw [← hput] at hcount
  unfold freeIndices
  omega

end
end Sys2Proof.Machine

namespace Sys2Proof.Machine
open Sys2Proof
set_option Elab.async false

/-! ### A team placed whole (R329, R330) -/

section
variable {s t u : State} {g : BitVec 8} {i j n team : Nat} {k : BitVec 7} {l : Launch} {ix : BitVec 16} {c : BitVec 11} {slot : BitVec 3} {L : List Nat}

/-- While threads are placed, the dispatcher's own tables are as they were. -/
structure Placing (s t : State) : Prop where
  gmem : t.gmem = s.gmem
  launches : t.launches = s.launches
  queue : t.queue = s.queue

theorem Placing.refl : Placing s s := ⟨rfl, rfl, rfl⟩

theorem Placing.trans (h : Placing s t) (k : Placing t u) : Placing s u :=
  ⟨k.gmem.trans h.gmem, k.launches.trans h.launches, k.queue.trans h.queue⟩

theorem entryPc_accessed (s : State) (asid : BitVec 12) (va : Nat) : Accessed s (entryPc s asid va).1 := by
  unfold entryPc
  dsimp only
  split
  · exact rdPieces_accessed ..
  · exact .refl

/-- Some thread of a graph's launch is there, beside the one in focus. -/
def HasThread (s : State) (g : BitVec 8) : Prop := ∃ u ∈ s.rest, isLive u = true ∧ u.graph = g

/-- The machine once the index and the entry point of a thread are found. -/
def memberReady (s : State) (g : BitVec 8) (i : Nat) (l : Launch) (j : Nat) (c : BitVec 11) (slot : BitVec 3) (ix : BitVec 16) : State :=
  (entryPc (takeIndex s ix l.world c slot).1 l.asid (gRd (takeIndex s ix l.world c slot).1 (nodeAt s g i + 8) 8 + 8 * j)).1

/-- The record of a team's thread. -/
def memberThread (s : State) (g : BitVec 8) (i : Nat) (l : Launch) (team j : Nat) (c : BitVec 11) (slot : BitVec 3) (ix : BitVec 16) : Thread :=
  let s1 := (takeIndex s ix l.world c slot).1
  let h := (takeIndex s ix l.world c slot).2
  let s2 := memberReady s g i l j c slot ix
  newThread h l.world l.asid (taskPriority s2 g i) g (BitVec.ofNat 16 i) team (some (BitVec.ofNat 4 j)) c slot
    (BitVec.ofNat 5 (nodeWindow s2 g i)) (entryPc s1 l.asid (gRd s1 (nodeAt s g i + 8) 8 + 8 * j)).2 (word (gRd s2 (nodeAt s g i) 8))

/-- One thread of a team placed. -/
def placeMember (s : State) (g : BitVec 8) (i : Nat) (l : Launch) (team j : Nat) (c : BitVec 11) (slot : BitVec 3) (ix : BitVec 16) : State :=
  addThread (memberReady s g i l j c slot ix) (memberThread s g i l team j c slot ix)

theorem placeMembers_cons (hs : slotIn s k (nodeWindow s g i) = some (c, slot)) (hix : freeIndex s = some ix) :
    placeMembers s g i l team k (j :: L) = ((placeMembers (placeMember s g i l team j c slot ix) g i l team k L).1,
      (takeIndex s ix l.world c slot).2 :: (placeMembers (placeMember s g i l team j c slot ix) g i l team k L).2) := by
  simp only [placeMembers, hs, hix]
  rfl

theorem memberReady_accessed (s : State) (g : BitVec 8) (i : Nat) (l : Launch) (j : Nat) (c : BitVec 11) (slot : BitVec 3) (ix : BitVec 16) :
    Accessed (takeIndex s ix l.world c slot).1 (memberReady s g i l j c slot ix) := entryPc_accessed ..

theorem takeIndex_leaves (s : State) (ix : BitVec 16) (w : World) (c : BitVec 11) (slot : BitVec 3) :
    Placing s (takeIndex s ix w c slot).1 ∧ (takeIndex s ix w c slot).1.th = s.th ∧ (takeIndex s ix w c slot).1.rest = s.rest := ⟨⟨rfl, rfl, rfl⟩, rfl, rfl⟩

theorem Accessed.placing (h : Accessed s t) : Placing s t := ⟨h.gmem, h.launches, (congrArg State.queue h :)⟩

theorem memberReady_threads (s : State) (g : BitVec 8) (i : Nat) (l : Launch) (j : Nat) (c : BitVec 11) (slot : BitVec 3) (ix : BitVec 16) :
    (memberReady s g i l j c slot ix).th = s.th ∧ (memberReady s g i l j c slot ix).rest = s.rest := by
  obtain ⟨-, hth, hrest⟩ := takeIndex_leaves s ix l.world c slot
  have hacc := memberReady_accessed s g i l j c slot ix
  exact ⟨hacc.th.trans hth, hacc.rest.trans hrest⟩

theorem addThread_placing (s : State) (x : Thread) : Placing s (addThread s x) := ⟨rfl, rfl, rfl⟩

theorem memberReady_placing (s : State) (g : BitVec 8) (i : Nat) (l : Launch) (j : Nat) (c : BitVec 11) (slot : BitVec 3) (ix : BitVec 16) :
    Placing s (memberReady s g i l j c slot ix) := by
  obtain ⟨htake, -, -⟩ := takeIndex_leaves s ix l.world c slot
  exact htake.trans (memberReady_accessed s g i l j c slot ix).placing

theorem placeMember_placing (s : State) (g : BitVec 8) (i : Nat) (l : Launch) (team j : Nat) (c : BitVec 11) (slot : BitVec 3) (ix : BitVec 16) :
    Placing s (placeMember s g i l team j c slot ix) := (memberReady_placing s g i l j c slot ix).trans (addThread_placing _ _)

theorem placeMember_hasThread (s : State) (g : BitVec 8) (i : Nat) (l : Launch) (team j : Nat) (c : BitVec 11) (slot : BitVec 3) (ix : BitVec 16) :
    HasThread (placeMember s g i l team j c slot ix) g :=
  ⟨_, List.mem_append_right _ (List.mem_singleton.mpr rfl), rfl, rfl⟩

theorem placeMember_freeIndices : freeIndices s ≤ freeIndices (placeMember s g i l team j c slot ix) + 1 := by
  have hready : (memberReady s g i l j c slot ix).dir = (takeIndex s ix l.world c slot).1.dir :=
    (congrArg State.dir (memberReady_accessed s g i l j c slot ix) :)
  have hdir : (placeMember s g i l team j c slot ix).dir = (memberReady s g i l j c slot ix).dir := rfl
  have htake := freeIndices_takeIndex s ix l.world c slot
  have hsame : freeIndices (placeMember s g i l team j c slot ix) = freeIndices (takeIndex s ix l.world c slot).1 := by
    rw [freeIndices, hdir, hready, freeIndices]
  omega

theorem placeMember_room (hw : nodeWindow s g i ≤ 16) :
    clusterRoom s k (nodeWindow s g i) ≤ clusterRoom (placeMember s g i l team j c slot ix) k (nodeWindow s g i) + 1 := by
  obtain ⟨hth, hrest⟩ := memberReady_threads s g i l j c slot ix
  have hwin : nodeWindow (memberReady s g i l j c slot ix) g i = nodeWindow s g i :=
    (SameTasks.of_gmem (memberReady_placing s g i l j c slot ix).gmem).nodeWindow g i
  rw [← clusterRoom_congr hth hrest]
  refine clusterRoom_addThread rfl ?_
  have hown : (memberThread s g i l team j c slot ix).win.toNat = nodeWindow (memberReady s g i l j c slot ix) g i % 2 ^ 5 := rfl
  rw [hown, hwin, Nat.mod_eq_of_lt (by omega)]

/-- Where the cluster has room and the directory indices for all of them, all threads of a team are placed. -/
theorem placeMembers_all (hw : nodeWindow s g i ≤ 16) (hroom : L.length ≤ clusterRoom s k (nodeWindow s g i)) (hfree : L.length ≤ freeIndices s) :
    Placing s (placeMembers s g i l team k L).1 ∧ (placeMembers s g i l team k L).2.length = L.length ∧
      (HasThread s g ∨ L ≠ [] → HasThread (placeMembers s g i l team k L).1 g) := by
  induction L generalizing s with
  | nil => exact ⟨.refl, rfl, fun h => h.resolve_right (fun h => h rfl)⟩
  | cons j L ih =>
    rw [List.length_cons] at hroom hfree
    obtain ⟨c, slot, hs⟩ := slotIn_some (Nat.le_of_add_left_le hroom)
    obtain ⟨ix, hix⟩ := freeIndex_some (Nat.le_of_add_left_le hfree)
    have hplacing := placeMember_placing s g i l team j c slot ix
    have hwin := (SameTasks.of_gmem hplacing.gmem).nodeWindow g i
    have hroom' := placeMember_room (k := k) (l := l) (team := team) (j := j) (c := c) (slot := slot) (ix := ix) hw
    have hfree' := placeMember_freeIndices (s := s) (g := g) (i := i) (l := l) (team := team) (j := j) (c := c) (slot := slot) (ix := ix)
    obtain ⟨hrest, hlen, hthread⟩ := ih (s := placeMember s g i l team j c slot ix) (by omega) (by rw [hwin]; omega) (by omega)
    rw [placeMembers_cons hs hix]
    exact ⟨hplacing.trans hrest, congrArg (· + 1) hlen, fun _ => hthread (.inl (placeMember_hasThread ..))⟩

/-- What a placed team leaves. -/
structure TeamPlaced (s t : State) (g : BitVec 8) (i : Nat) (k : BitVec 7) : Prop where
  launch : launchOf t g = launchOf s g
  queue : t.queue = s.queue
  state : nodeState t g i = nodeState s g i
  remaining : gRd t (graphAt g + 16) 4 = gRd s (graphAt g + 16) 4
  team : ∃ m, teamAt t s.teamNext = some m ∧ m.home = k ∧ m.members.length = nodeThreads s g i
  thread : HasThread t g

/-- A team of a node, as it is placed. -/
def newTeam (s : State) (g : BitVec 8) (i : Nat) (k : BitVec 7) (hs : List Handle) : Team :=
  { graph := g, node := BitVec.ofNat 16 i, home := k, members := hs, left := [], arrived := [], alive := hs.length, placed := s.placedNext, acted := s.clock }

/-- The machine in which a node counts one placed team more. -/
def nodeCounted (s : State) (g : BitVec 8) (i : Nat) : State := gWr s (nodeAt s g i + 52) 2 (gRd s (nodeAt s g i + 52) 2 + 1)

theorem nodeCounted_placing (s : State) (g : BitVec 8) (i : Nat) :
    (nodeCounted s g i).launches = s.launches ∧ (nodeCounted s g i).queue = s.queue ∧ (nodeCounted s g i).rest = s.rest := by
  unfold nodeCounted gWr
  exact ⟨rfl, rfl, rfl⟩

/-- The machine in which the team is on record and its node counts it. -/
def teamOnRecord (s : State) (g : BitVec 8) (i team : Nat) (k : BitVec 7) (hs : List Handle) : State :=
  { setTeam (nodeCounted s g i) team (some (newTeam s g i k hs)) with placedNext := s.placedNext + 1 }

/-- The machine in which the next team number is taken. -/
def numberTaken (s : State) : State := { s with teamNext := s.teamNext + 1 }

/-- The threads of a team, placed under the next team number. -/
def membersPlaced (s : State) (g : BitVec 8) (i : Nat) (l : Launch) (k : BitVec 7) : State × List Handle :=
  placeMembers (numberTaken s) g i l s.teamNext k (upFrom 0 (nodeThreads s g i))

theorem placeTeam_eq (hl : launchOf s g = some l) (hk : clusterFor s (nodeDie s g i) (nodeThreads s g i) (nodeWindow s g i) = some k)
    (hfree : nodeThreads s g i ≤ freeIndices s) :
    placeTeam s g i = some (teamOnRecord (membersPlaced s g i l k).1 g i s.teamNext k (membersPlaced s g i l k).2) := by
  simp only [placeTeam, if_neg (Nat.not_lt.mpr hfree), hl, hk]
  rfl

theorem membersPlaced_all (l : Launch) (hw : nodeWindow s g i ≤ 16) (hn : 1 ≤ nodeThreads s g i) (hroom : nodeThreads s g i ≤ clusterRoom s k (nodeWindow s g i))
    (hfree : nodeThreads s g i ≤ freeIndices s) :
    Placing s (membersPlaced s g i l k).1 ∧ (membersPlaced s g i l k).2.length = nodeThreads s g i ∧ HasThread (membersPlaced s g i l k).1 g := by
  have htaken : Placing s (numberTaken s) := ⟨rfl, rfl, rfl⟩
  have hwin := (SameTasks.of_gmem htaken.gmem).nodeWindow g i
  have hcluster : clusterRoom (numberTaken s) k (nodeWindow s g i) = clusterRoom s k (nodeWindow s g i) := clusterRoom_congr rfl rfl ..
  have hindices : freeIndices (numberTaken s) = freeIndices s := rfl
  have hcount : (upFrom 0 (nodeThreads s g i)).length = nodeThreads s g i := by rw [upFrom_zero, List.length_range]
  obtain ⟨hplacing, hlen, hthread⟩ := placeMembers_all (s := numberTaken s) (k := k) (l := l) (team := s.teamNext) (L := upFrom 0 (nodeThreads s g i))
    (hwin ▸ hw) (by rw [hcount, hwin, hcluster]; exact hroom) (by rw [hcount, hindices]; exact hfree)
  exact ⟨htaken.trans hplacing, hlen.trans hcount, hthread (.inr (List.ne_nil_of_length_pos (by omega)))⟩

theorem gRd_of_gmem (h : t.gmem = s.gmem) (a n : Nat) : gRd t a n = gRd s a n := congrArg (fun m => ofLe (rdMem m a n)) h

theorem nodeState_of_gmem (h : t.gmem = s.gmem) (g : BitVec 8) (i : Nat) : nodeState t g i = nodeState s g i := by
  rw [nodeState, (SameTasks.of_gmem h).nodeAt, gRd_of_gmem h, nodeState]

theorem nodeCounted_node (s : State) (g : BitVec 8) (i : Nat) : nodeState (nodeCounted s g i) g i = nodeState s g i :=
  node_gWr_node s g i _ (.inr (by norm_num))

theorem nodeCounted_remaining (s : State) (g : BitVec 8) (i : Nat) : gRd (nodeCounted s g i) (graphAt g + 16) 4 = gRd s (graphAt g + 16) 4 := by
  have hnode := nodeAt_ge s g i
  have hgraph := graphAt_lt g
  exact gRd_gWr_apart s _ (.inl (by omega))

/-- What stands on record, and what the record leaves. -/
theorem teamOnRecord_shows (s : State) (g : BitVec 8) (i team : Nat) (k : BitVec 7) (hs : List Handle) :
    (teamOnRecord s g i team k hs).gmem = (nodeCounted s g i).gmem ∧ (teamOnRecord s g i team k hs).launches = s.launches ∧
      (teamOnRecord s g i team k hs).queue = s.queue ∧ (teamOnRecord s g i team k hs).rest = s.rest ∧
      teamAt (teamOnRecord s g i team k hs) team = some (newTeam s g i k hs) := by
  obtain ⟨hl, hq, hr⟩ := nodeCounted_placing s g i
  unfold teamOnRecord
  generalize nodeCounted s g i = x at hl hq hr ⊢
  exact ⟨rfl, hl, hq, hr, sget_sset_same (d := none) (m := x.teams) (k := team) (v := some (newTeam s g i k hs))⟩

theorem placeTeam_places (hl : launchOf s g = some l) (hw : nodeWindow s g i ≤ 16) (hn : 1 ≤ nodeThreads s g i)
    (hk : clusterFor s (nodeDie s g i) (nodeThreads s g i) (nodeWindow s g i) = some k) (hfree : nodeThreads s g i ≤ freeIndices s) :
    ∃ t, placeTeam s g i = some t ∧ TeamPlaced s t g i k := by
  obtain ⟨hplaced, hlen, hthread⟩ := membersPlaced_all l hw hn (clusterFor_holds hk) hfree
  obtain ⟨hg, hl', hq, hr, hteam⟩ := teamOnRecord_shows (membersPlaced s g i l k).1 g i s.teamNext k (membersPlaced s g i l k).2
  refine ⟨_, placeTeam_eq hl hk hfree, ?_, hq.trans hplaced.queue, ?_, ?_, ⟨_, hteam, rfl, hlen⟩, ?_⟩
  · exact congrArg (·.find? (fun l => l.graph = g)) (hl'.trans hplaced.launches)
  · rw [nodeState_of_gmem hg, nodeCounted_node, nodeState_of_gmem hplaced.gmem]
  · rw [gRd_of_gmem hg, nodeCounted_remaining, gRd_of_gmem hplaced.gmem]
  · rwa [HasThread, hr]

theorem placeTeam_without_room (hk : clusterFor s (nodeDie s g i) (nodeThreads s g i) (nodeWindow s g i) = none) : placeTeam s g i = none := by
  unfold placeTeam
  split
  · rfl
  · rw [hk]

end
end Sys2Proof.Machine

namespace Sys2Proof.Machine
open Sys2Proof
set_option Elab.async false

/-! ### A graph of one concurrent node (R323, R329) -/

section
variable {s t u : State} {g : BitVec 8} {i n : Nat} {k : BitVec 7} {l : Launch} {c : BitVec 4} {v : Word} {rest : List Word}

/-- Threads, clusters present, directory and team numbers are as before. -/
structure SamePlaces (s t : State) : Prop where
  th : t.th = s.th
  rest : t.rest = s.rest
  capcl : t.capcl = s.capcl
  dir : t.dir = s.dir
  teamNext : t.teamNext = s.teamNext

theorem SamePlaces.trans (h : SamePlaces s t) (k : SamePlaces t u) : SamePlaces s u :=
  ⟨k.th.trans h.th, k.rest.trans h.rest, k.capcl.trans h.capcl, k.dir.trans h.dir, k.teamNext.trans h.teamNext⟩

theorem OnlyTasks.samePlaces (h : OnlyTasks s t) : SamePlaces s t :=
  ⟨(congrArg State.th h :), (congrArg State.rest h :), (congrArg State.capcl h :), (congrArg State.dir h :), (congrArg State.teamNext h :)⟩

theorem SamePlaces.allThreads (h : SamePlaces s t) : allThreads t = allThreads s := by rw [Machine.allThreads, h.th, h.rest, Machine.allThreads]

theorem SamePlaces.launchThreads (h : SamePlaces s t) (g : BitVec 8) : launchThreads t g = launchThreads s g := by
  rw [Machine.launchThreads, h.allThreads, Machine.launchThreads]

theorem SamePlaces.freeIndices (h : SamePlaces s t) : freeIndices t = freeIndices s := by rw [Machine.freeIndices, h.dir, Machine.freeIndices]

theorem SamePlaces.clusterFor (h : SamePlaces s t) (f : BitVec 2 → Bool) (n wb : Nat) : clusterFor t f n wb = clusterFor s f n wb := by
  have hall := h.allThreads
  have hidle : idleIn t = idleIn s := funext fun k => by rw [idleIn, hall, idleIn]
  have hholds (k : BitVec 7) : clusterHolds t k n wb = clusterHolds s k n wb := by
    have hroom (c : BitVec 11) : roomOn t c wb = roomOn s c wb := roomOn_congr (by rw [threadsOn, hall, threadsOn]) wb
    simp only [clusterHolds, hroom]
  have hpresent (k : BitVec 7) : clusterPresent t k = clusterPresent s k := by rw [clusterPresent, h.capcl, clusterPresent]
  simp only [Machine.clusterFor, hidle, hholds, hpresent]

/-- A valid graph of one node, which is concurrent and waits for no other. -/
structure OneConcurrent (s : State) (g : BitVec 8) : Prop where
  ok : graphOk s g = true
  nodes : nodeBad s g = none
  one : nodeCount s g = 1
  first : firstCount s g 0 = 0
  mode : nodeMode s g 0 = 2

theorem SameTasks.oneConcurrent (h : SameTasks s t) (ha : t.asids = s.asids) (k : OneConcurrent s g) : OneConcurrent t g :=
  ⟨(h.graphOk g).trans k.ok, (h.nodeBad ha g).trans k.nodes, (h.nodeCount g).trans k.one, (h.firstCount g 0).trans k.first, (h.nodeMode g 0).trans k.mode⟩

theorem nodeBad_none (h : nodeBad s g = none) (hi : i < nodeCount s g) : nodeOk s g i = true := by
  unfold nodeBad at h
  dsimp only at h
  split at h
  · exact absurd h (Option.some_ne_none _)
  · have hi' := List.find?_eq_none.mp h i (mem_upFrom_zero.mpr hi)
    simpa using hi'

theorem nodeOk_threads (h : nodeOk s g i = true) : 1 ≤ nodeThreads s g i ∧ nodeThreads s g i ≤ 16 ∧ 1 ≤ nodeWindow s g i ∧ nodeWindow s g i ≤ 16 := by
  simp only [nodeOk, Bool.and_eq_true, decide_eq_true_eq] at h
  obtain ⟨⟨⟨⟨⟨⟨⟨⟨⟨⟨⟨hn, hn'⟩, hw⟩, hw'⟩, -⟩, -⟩, -⟩, -⟩, -⟩, -⟩, -⟩, -⟩ := h
  exact ⟨hn, hn', hw, hw'⟩

/-- The machine once the node is released, before its teams are placed. -/
def nodeReleased (s : State) (g : BitVec 8) : State := gWr (nodesBegun s g) (nodeAt (nodesBegun s g) g 0 + 54) 1 1

/-- What the machine holds then. -/
structure JustReleased (s t : State) (g : BitVec 8) : Prop where
  only : OnlyTasks s t
  tasks : SameTasks s t
  queue : t.queue = s.queue
  remaining : gRd t (graphAt g + 16) 4 = 1
  state : nodeState t g 0 = 1

theorem nodeReleased_shows (h : OneConcurrent s g) : JustReleased s (nodeReleased s g) g := by
  obtain ⟨-, hbound⟩ := graphOk_bounds h.ok
  obtain ⟨honly, htasks, hqueue, -, hleft, -⟩ := nodesBegun_shows h.ok
  have hnode := nodeAt_ge (nodesBegun s g) g 0
  have hgraph := graphAt_lt g
  have hone := h.one
  refine ⟨honly.trans (onlyTasks_gWr ..), htasks.trans (sameTasks_gWr_node ?_ (by norm_num) 1), hqueue, ?_, ?_⟩
  · rw [htasks.firstNode]
    omega
  · rw [nodeReleased, gRd_gWr_apart _ _ (.inl (by omega)), hleft, h.one]
  · rw [nodeReleased, nodeState, nodeAt_gWr_node]
    exact gRd_gWr_same ..

theorem launchNodes_oneConcurrent (h : OneConcurrent s g) : launchNodes s g = workAnd (nodesBegun s g) g [.rel 0] := by
  have hlist : firstNodes s g = [0] := by
    rw [firstNodes, h.one]
    simp [upFrom, h.first]
  rw [launchNodes_begin h.ok h.nodes, hlist]
  rfl

theorem oneWork_concurrent (h : OneConcurrent s g) (ht : 1 ≤ nodeTeams s g 0) :
    oneWork (nodesBegun s g) g (.rel 0) = (queueTeams (nodeReleased s g) g 0, []) := by
  have hteams : nodeTeams (nodeReleased s g) g 0 = nodeTeams s g 0 := (nodeReleased_shows h).tasks.nodeTeams g 0
  exact if_neg (by rw [← nodeReleased, hteams]; omega)

theorem queueTeams_placed (hm : nodeMode s g i = 2) (hp : placeAll s g i (nodeTeams s g i) = some t) : queueTeams s g i = t := by
  simp only [queueTeams, if_pos hm, hp]

theorem queueTeams_aborts (hm : nodeMode s g i = 2) (hp : placeAll s g i (nodeTeams s g i) = none) :
    queueTeams s g i = abortLaunch s g 2 (BitVec.ofNat 16 i) := by
  simp only [queueTeams, if_pos hm, hp]

theorem HasThread.launchThreads (h : HasThread s g) : launchThreads s g ≠ [] := by
  obtain ⟨u, hu, hlive, hg⟩ := h
  exact List.ne_nil_of_mem (List.mem_filter.mpr ⟨List.mem_cons_of_mem _ hu, by rw [hlive, hg]; simp⟩)

theorem launchNodes_places (h : OneConcurrent s g) (hl : launchOf s g = some l) (ha : l.aborting = none) (hp : l.patch = none)
    (ht : nodeTeams s g 0 = 1) (hk : clusterFor s (nodeDie s g 0) (nodeThreads s g 0) (nodeWindow s g 0) = some k)
    (hfree : nodeThreads s g 0 ≤ freeIndices s) :
    nodeState (launchNodes s g) g 0 = 1 ∧ (launchNodes s g).queue = s.queue ∧
      ∃ m, teamAt (launchNodes s g) s.teamNext = some m ∧ m.home = k ∧ m.members.length = nodeThreads s g 0 := by
  obtain ⟨honly, htasks, hqueue, hleft, hstate⟩ := nodeReleased_shows h
  have hmachine := honly.samePlaces
  obtain ⟨hn, -, -, hw⟩ := nodeOk_threads (nodeBad_none h.nodes (i := 0) (by rw [h.one]; exact Nat.one_pos))
  have hbegun := (nodesBegun_shows h.ok).1
  obtain ⟨t, hplace, hplaced⟩ := placeTeam_places (s := nodeReleased s g) (g := g) (i := 0) (k := k) ((honly.launchOf g).trans hl)
    (by rw [htasks.nodeWindow]; exact hw) (by rw [htasks.nodeThreads]; exact hn)
    (by rw [htasks.nodeWindow, htasks.nodeThreads, htasks.nodeDie, hmachine.clusterFor]; exact hk)
    (by rw [htasks.nodeThreads, hmachine.freeIndices]; exact hfree)
  obtain ⟨hlaunch, hqueue', hstate', hleft', ⟨m, hm, hhome, hmembers⟩, hthread⟩ := hplaced
  have hall : placeAll (nodeReleased s g) g 0 (nodeTeams (nodeReleased s g) g 0) = some t := by
    rw [htasks.nodeTeams, ht, placeAll, hplace]
    rfl
  have hwork := oneWork_concurrent h (by omega)
  rw [queueTeams_placed ((htasks.nodeMode g 0).trans h.mode) hall] at hwork
  have hgo : launchNodes s g = t := by
    rw [launchNodes_oneConcurrent h, workAnd, runWork_one (aborting_false ((hbegun.launchOf g).trans hl) ha) hwork]
    exact settleLaunch_goes_on (hlaunch.trans ((honly.launchOf g).trans hl)) ha hp (by rw [hleft', hleft]; exact Nat.one_ne_zero) (.inl hthread.launchThreads)
  rw [hgo]
  exact ⟨hstate'.trans hstate, hqueue'.trans hqueue, m, hmachine.teamNext ▸ hm, hhome, hmembers.trans (htasks.nodeThreads g 0)⟩

theorem settleLaunch_none (hl : launchOf s g = none) : settleLaunch s g = s := by
  simp only [settleLaunch, hl]

/-- A launch without threads ends as it is aborted. -/
theorem abortLaunch_ends (hl : launchOf s g = some l) (ha : l.aborting = none) (hnone : launchThreads s g = []) (r : BitVec 8) (n : BitVec 16) :
    abortLaunch s g r n = endLaunch (withMark s g (r, n)) g (some (r, n)) := by
  have hsame : launchThreads (withMark s g (r, n)) g = [] := hnone
  have hthreads : threadsAborted s g (r, n) = withMark s g (r, n) := by
    rw [threadsAborted, hsame]
    rfl
  rw [abortLaunch_first hl ha, hthreads, if_pos hsame]

theorem endStatus_aborted (w : Word) (r : BitVec 8) (n : BitVec 16) :
    field (endStatus w (some (r, n))) 0 4 = 3 ∧ bits (endStatus w (some (r, n))) 4 8 = r := by
  have hstate : bits (endStatus w (some (r, n))) 0 4 = 3#4 := by
    rw [endStatus, bits_cast, bits_append_low (by norm_num), bits_all]
  have hreason : bits (endStatus w (some (r, n))) 4 8 = r := by
    rw [endStatus, bits_cast, bits_append_high (by norm_num), bits_append_low (by norm_num), bits_all]
  exact ⟨congrArg BitVec.toNat hstate, hreason⟩

theorem endLaunch_status (hl : launchOf s g = some l) (why : Option (BitVec 8 × BitVec 16)) :
    graphStatus (endLaunch s g why) g = endStatus (graphStatus s g) why := by
  have h : gRd (struckOut s g why) (graphAt g + 24) 8 = (endStatus (graphStatus s g) why).toNat % 256 ^ 8 := gRd_gWr_same ..
  rw [graphStatus, (endLaunch_ending hl why).gRd, h, Nat.mod_eq_of_lt (show _ < 256 ^ 8 from (endStatus (graphStatus s g) why).isLt)]
  exact (BitVec.ofNat_toNat ..).trans (BitVec.setWidth_eq _)

theorem launchNodes_without_room (h : OneConcurrent s g) (hl : launchOf s g = some l) (ha : l.aborting = none) (ht : 1 ≤ nodeTeams s g 0)
    (hk : clusterFor s (nodeDie s g 0) (nodeThreads s g 0) (nodeWindow s g 0) = none) (hnone : launchThreads s g = []) :
    launchOf (launchNodes s g) g = none ∧ graphState (launchNodes s g) g = 3 ∧ bits (graphStatus (launchNodes s g) g) 4 8 = 2 := by
  obtain ⟨honly, htasks, -, -, -⟩ := nodeReleased_shows h
  have hmachine := honly.samePlaces
  have hbegun := (nodesBegun_shows h.ok).1
  have hplace : placeTeam (nodeReleased s g) g 0 = none :=
    placeTeam_without_room (by rw [htasks.nodeWindow, htasks.nodeThreads, htasks.nodeDie, hmachine.clusterFor]; exact hk)
  have hall : placeAll (nodeReleased s g) g 0 (nodeTeams (nodeReleased s g) g 0) = none := by
    obtain ⟨n, hn⟩ := Nat.exists_eq_add_of_le' ((htasks.nodeTeams g 0).symm ▸ ht)
    rw [hn, placeAll, hplace]
    rfl
  have hl' : launchOf (nodeReleased s g) g = some l := (honly.launchOf g).trans hl
  have hmark : launchOf (withMark (nodeReleased s g) g (2, BitVec.ofNat 16 0)) g = some (marked g (2, BitVec.ofNat 16 0) l) := by
    rw [withMark_launchOf, hl']
    rfl
  have hwork := oneWork_concurrent h ht
  rw [queueTeams_aborts ((htasks.nodeMode g 0).trans h.mode) hall, abortLaunch_ends hl' ha ((hmachine.launchThreads g).trans hnone)] at hwork
  have hgo : launchNodes s g = endLaunch (withMark (nodeReleased s g) g (2, BitVec.ofNat 16 0)) g (some (2, BitVec.ofNat 16 0)) := by
    rw [launchNodes_oneConcurrent h, workAnd, runWork_one (aborting_false ((hbegun.launchOf g).trans hl) ha) hwork]
    exact settleLaunch_none (endLaunch_launchOf ..)
  obtain ⟨hstate, hreason⟩ := endStatus_aborted (graphStatus (withMark (nodeReleased s g) g (2, BitVec.ofNat 16 0)) g) 2 (BitVec.ofNat 16 0)
  rw [hgo, graphState, endLaunch_status hmark]
  exact ⟨endLaunch_launchOf .., hstate, hreason⟩

/-! ### A trigger for it -/

/-- The machine in which a channel's launch is on record. -/
def channelRecorded (s : State) (c : BitVec 4) (rest : List Word) (g : BitVec 8) : State :=
  recorded (setChan s c { chanAt s c with fifo := rest, running := some g }) g (some c) none

theorem recorded_samePlaces (s : State) (g : BitVec 8) (chan : Option (BitVec 4)) (grun : Option (Handle × BitVec 16)) :
    SamePlaces s (recorded s g chan grun) := ⟨rfl, rfl, rfl, rfl, rfl⟩

theorem channelRecorded_samePlaces (s : State) (c : BitVec 4) (rest : List Word) (g : BitVec 8) : SamePlaces s (channelRecorded s c rest g) :=
  SamePlaces.trans (t := setChan s c { chanAt s c with fifo := rest, running := some g }) ⟨rfl, rfl, rfl, rfl, rfl⟩ (recorded_samePlaces ..)

theorem channelRecorded_sameTasks (s : State) (c : BitVec 4) (rest : List Word) (g : BitVec 8) : SameTasks s (channelRecorded s c rest g) :=
  SameTasks.trans (t := setChan s c { chanAt s c with fifo := rest, running := some g }) (.of_gmem rfl) recorded_sameTasks

theorem recorded_leaves (s : State) (g : BitVec 8) (chan : Option (BitVec 4)) (grun : Option (Handle × BitVec 16)) :
    (recorded s g chan grun).asids = s.asids ∧ (recorded s g chan grun).queue = s.queue := ⟨rfl, rfl⟩

theorem setChan_leaves (s : State) (c : BitVec 4) (k : Channel) :
    (setChan s c k).asids = s.asids ∧ (setChan s c k).queue = s.queue ∧ launchOf (setChan s c k) g = launchOf s g := ⟨rfl, rfl, rfl⟩

theorem channelRecorded_leaves (s : State) (c : BitVec 4) (rest : List Word) (g : BitVec 8) :
    (channelRecorded s c rest g).asids = s.asids ∧ (channelRecorded s c rest g).queue = s.queue := by
  obtain ⟨hasids, hqueue, -⟩ := setChan_leaves (g := g) s c { chanAt s c with fifo := rest, running := some g }
  obtain ⟨hasids', hqueue'⟩ := recorded_leaves (setChan s c { chanAt s c with fifo := rest, running := some g }) g (some c) none
  exact ⟨hasids'.trans hasids, hqueue'.trans hqueue⟩

theorem channelRecorded_launchOf (hl : launchOf s g = none) :
    ∃ l, launchOf (channelRecorded s c rest g) g = some l ∧ l.aborting = none ∧ l.patch = none := by
  obtain ⟨-, -, hsame⟩ := setChan_leaves (g := g) s c { chanAt s c with fifo := rest, running := some g }
  exact ⟨_, recorded_launchOf (hsame.trans hl), rfl, rfl⟩

theorem HeadTrigger.begins (h : HeadTrigger s c v rest g) (k : OneConcurrent s g) (hw : graphWorld s g = (chanAt s c).world)
    (hgo : worldLeaving s (chanAt s c).world = false) (hv : v.toNat < 2 ^ 8) :
    exec (.launchStart c) s = .next (launchNodes (channelRecorded s c rest g) g) ∧ OneConcurrent (channelRecorded s c rest g) g := by
  obtain ⟨hasids, -⟩ := channelRecorded_leaves s c rest g
  exact ⟨(h.begun k.ok hw hgo hv).trans (congrArg _ (launch_unpatched ..)), (channelRecorded_sameTasks s c rest g).oneConcurrent hasids k⟩

theorem HeadTrigger.aborted (h : HeadTrigger s c v rest g) (k : OneConcurrent s g) (hw : graphWorld s g = (chanAt s c).world)
    (hgo : worldLeaving s (chanAt s c).world = false) (hv : v.toNat < 2 ^ 8) (ht : 1 ≤ nodeTeams s g 0)
    (hroom : clusterFor s (nodeDie s g 0) (nodeThreads s g 0) (nodeWindow s g 0) = none)
    (hnone : ∀ u ∈ allThreads s, isLive u = true → u.graph ≠ g) :
    ∃ t, exec (.launchStart c) s = .next t ∧ launchOf t g = none ∧ graphState t g = 3 ∧ bits (graphStatus t g) 4 8 = 2 := by
  obtain ⟨hrun, k'⟩ := h.begins k hw hgo hv
  obtain ⟨l, hl, ha, -⟩ := channelRecorded_launchOf (c := c) (rest := rest) h.idle
  have htasks := channelRecorded_sameTasks s c rest g
  have hplaces := channelRecorded_samePlaces s c rest g
  refine ⟨_, hrun, launchNodes_without_room k' hl ha (by rw [htasks.nodeTeams]; exact ht)
    (by rw [htasks.nodeWindow, htasks.nodeThreads, htasks.nodeDie, hplaces.clusterFor]; exact hroom) ?_⟩
  rw [hplaces.launchThreads]
  exact List.filter_eq_nil_iff.mpr fun u hu hboth => hnone u hu (Bool.and_eq_true_iff.mp hboth).1 (of_decide_eq_true (Bool.and_eq_true_iff.mp hboth).2)

theorem HeadTrigger.placed (h : HeadTrigger s c v rest g) (k : OneConcurrent s g) (hw : graphWorld s g = (chanAt s c).world)
    (hgo : worldLeaving s (chanAt s c).world = false) (hv : v.toNat < 2 ^ 8) (ht : nodeTeams s g 0 = 1) {j : BitVec 7}
    (hroom : clusterFor s (nodeDie s g 0) (nodeThreads s g 0) (nodeWindow s g 0) = some j) (hfree : nodeThreads s g 0 ≤ freeIndices s) :
    ∃ t m, exec (.launchStart c) s = .next t ∧ nodeState t g 0 = 1 ∧ teamAt t s.teamNext = some m ∧ m.home = j ∧
      m.members.length = nodeThreads s g 0 ∧ t.queue = s.queue := by
  obtain ⟨hrun, k'⟩ := h.begins k hw hgo hv
  obtain ⟨l, hl, ha, hp⟩ := channelRecorded_launchOf (c := c) (rest := rest) h.idle
  obtain ⟨-, hqueued⟩ := channelRecorded_leaves s c rest g
  have htasks := channelRecorded_sameTasks s c rest g
  have hplaces := channelRecorded_samePlaces s c rest g
  obtain ⟨hstate, hqueue, m, hm, hhome, hmembers⟩ := launchNodes_places k' hl ha hp ((htasks.nodeTeams g 0).trans ht)
    (by rw [htasks.nodeWindow, htasks.nodeThreads, htasks.nodeDie, hplaces.clusterFor]; exact hroom)
    (by rw [htasks.nodeThreads, hplaces.freeIndices]; exact hfree)
  exact ⟨_, m, hrun, hstate, hplaces.teamNext ▸ hm, hhome, hmembers.trans (htasks.nodeThreads g 0), hqueue.trans hqueued⟩

end
end Sys2Proof.Machine

open Sys2Proof Sys2Proof.Machine in
/-- Settles O45: the launch, step by step, over graph memory; the teams of a concurrent node are placed while the cluster's room and the
directory's Free indices last. -/
theorem launchesAndGraphs : Obligations.LaunchesAndGraphs := by
  unfold Obligations.LaunchesAndGraphs
  refine ⟨?_, ⟨?_, fun s g e => patchNode_patches s g e⟩, ?_⟩
  · intro s c v rest d a b k taken g
    refine ⟨fun herr => exec_chtrig_error herr v, fun ht herr => chtrig_taken herr ht v, fun ht herr => ?_, fun hn hc hk => launch_protect hn hc hk, ?_, ?_⟩
    · rw [exec_chtrig herr, trigger_dropped ht]
    · intro hrun hn hc hroom hdone hdevl hworld
      exact ⟨_, launch_answers hrun.proper hn hc hroom hdone hdevl hworld, launched_shows hrun.proper d c (rdS s.th b)⟩
    · intro hfree hhead hphase hidle
      have htrig : HeadTrigger s c v rest g := ⟨hfree, hhead, hphase, rfl, hidle⟩
      refine ⟨fun err hbad => ⟨_, htrig.refused hbad, refuseTrigger_shows ..⟩, htrig.put_off, fun hw hgo hv => ⟨fun hk => htrig.launches hk hw hgo hv, ?_⟩⟩
      intro hok hnodes hone hfirst hmode n room
      have hconc : OneConcurrent s g := ⟨hok, hnodes, hone, hfirst, hmode⟩
      exact ⟨fun hroom ht hnone => htrig.aborted hconc hw hgo hv ht hroom hnone, fun j hroom ht hfree => htrig.placed hconc hw hgo hv ht hroom hfree⟩
  · intro s c g l list hrunning hl hchan ha hpatch hlist a
    have hwait : WaitsForPatches s c g l list := ⟨hrunning, hl, hchan, ha, hpatch, hlist⟩
    refine ⟨fun s1 va hr => hwait.page (patchList_page hr) (readList_accessed hr), fun s1 hr => hwait.locked (patchList_locked hr) (readList_accessed hr),
      fun s1 hr => hwait.bad (patchList_bad hr), fun s1 b hr => ⟨fun hlong => hwait.bad (patchList_long hr hlong), ?_⟩⟩
    intro s2 x hshort hx entry
    have hacc := (readList_accessed hr).trans (readList_accessed hx)
    have hcount : nodeCount s2 g = nodeCount s g := (SameTasks.of_gmem hacc.gmem).nodeCount g
    refine ⟨fun hbad => ?_, fun hgood => ?_⟩
    · obtain ⟨i, hi, hwrong⟩ := hbad
      obtain ⟨n, hn⟩ := patchList_wrong hr hshort hx (g := g) ⟨entry i, List.mem_map_of_mem (List.mem_range.mpr hi), hcount ▸ hwrong⟩
      exact hwait.bad hn
    · intro p hk
      refine hwait.launches (patchList_entries hr hshort hx fun e he => ?_) hacc hk
      obtain ⟨i, hi, rfl⟩ := List.mem_map.mp he
      exact hcount ▸ hgood i (List.mem_range.mp hi)
  · intro s h q c hfound hgoing hfree hqueued hnet g i k
    have hcmd : FreeCommand s h q c := ⟨hfound, hgoing, hfree, hnet⟩
    refine ⟨fun hbad => ⟨_, exec_grun_refused hcmd hqueued hbad, (endCmd_ends hcmd.noNet 2 0).1⟩,
      fun hk hw hl hstays hlist hphase => grun_launches hcmd hqueued ⟨hk.valid, hw, hl, hstays, hphase⟩ hk hlist,
      fun hok hw hl hstays hlist hphase ha => grun_without_space hcmd hqueued ⟨hok, hw, hl, hstays, hphase⟩ hlist ha,
      fun hl => ⟨_, exec_depdec_idle hcmd hl, (endCmd_ends hcmd.noNet 2 0).1⟩, ?_⟩
    intro l hl hp hw hi
    have hacts : DepdecActs s c k i l := ⟨rfl, rfl, hl, hp, hw, hi⟩
    exact ⟨depdec_counts hcmd hacts, depdec_releases hcmd hacts, depdec_aborts hcmd hacts⟩

namespace Sys2Proof.Machine
open Sys2Proof
set_option Elab.async false

/-! ### The agreements that a thread to be saved leaves (R282) -/

/-- What leaving an agreement leaves as it was; the actions that wait stay. -/
structure LeavesThreads (s t : State) : Prop where
  th : t.th = s.th
  rest : t.rest = s.rest
  mem : t.mem = s.mem
  dir : t.dir = s.dir
  pending : s.pending ⊆ t.pending

section
variable {s t u : State}

theorem LeavesThreads.refl : LeavesThreads s s := ⟨rfl, rfl, rfl, rfl, List.Subset.refl _⟩

theorem LeavesThreads.trans (h : LeavesThreads s t) (k : LeavesThreads t u) : LeavesThreads s u :=
  ⟨k.th.trans h.th, k.rest.trans h.rest, k.mem.trans h.mem, k.dir.trans h.dir, List.Subset.trans h.pending k.pending⟩

theorem LeavesThreads.foldl {α : Type} {f : State → α → State} (hf : ∀ s x, LeavesThreads s (f s x)) (l : List α) (s : State) :
    LeavesThreads s (l.foldl f s) := by
  induction l generalizing s with
  | nil => exact .refl
  | cons x r ih => exact (hf s x).trans (ih (f s x))

theorem LeavesThreads.bonds (h : LeavesThreads s t) (b : Sparse (Option BondEntry)) : LeavesThreads s { t with bonds := b } :=
  ⟨h.th, h.rest, h.mem, h.dir, h.pending⟩

theorem pend_leavesThreads (s : State) (e : Event) : LeavesThreads s (pend s e) := ⟨rfl, rfl, rfl, rfl, List.subset_append_left ..⟩

theorem pendOnce_leavesThreads (s : State) (e : Event) : LeavesThreads s (pendOnce s e) := by
  unfold pendOnce
  split
  · exact .refl
  · exact pend_leavesThreads s e

theorem modBond_leavesThreads (s : State) (e : BitVec 12) (f : BondEntry → BondEntry) : LeavesThreads s (modBond s e f) := by
  unfold modBond
  split
  · exact LeavesThreads.refl.bonds _
  · exact .refl

theorem takeBack_leavesThreads (s : State) (n : Announcement) : LeavesThreads s (takeBack s n) := by
  unfold takeBack
  split <;> exact ⟨rfl, rfl, rfl, rfl, List.Subset.refl _⟩

theorem dropWait_leavesThreads (s : State) (w : BondWait) : LeavesThreads s (dropWait s w) := by
  have hwait : LeavesThreads s { s with bondWaits := s.bondWaits.erase w } := ⟨rfl, rfl, rfl, rfl, List.Subset.refl _⟩
  have hentry := hwait.trans (modBond_leavesThreads _ w.entry (fun b => { b with announced := false }))
  unfold dropWait
  dsimp only
  split
  · exact hentry
  · exact hentry.trans ⟨rfl, rfl, rfl, rfl, List.Subset.refl _⟩

theorem withdraw_leavesThreads (s : State) (w : BondWait) (st : BitVec 8) : LeavesThreads s (withdraw s w st) := by
  unfold withdraw
  dsimp only
  split
  · exact dropWait_leavesThreads ..
  · split
    · exact (takeBack_leavesThreads ..).trans (dropWait_leavesThreads ..)
    · split
      · exact .refl
      · refine LeavesThreads.trans ?_ (pendOnce_leavesThreads ..)
        exact ⟨rfl, rfl, rfl, rfl, List.subset_append_left ..⟩

theorem leaveAgreements_leavesThreads (s : State) (h : Handle) : LeavesThreads s (leaveAgreements s h) := by
  refine .foldl (fun s w => ?_) _ s
  split
  · exact ⟨rfl, rfl, rfl, rfl, List.Subset.refl _⟩
  · exact withdraw_leavesThreads ..

end

/-! ### A save begins (R201, R370) -/

section
variable {s : State} {h : Handle} {a : Nat}

theorem imagePlaces_free {d n : Nat} (ha : a ∈ imagePlaces s d n) : (reserveOf s d).1 ≤ a ∧ a + n ≤ (reserveOf s d).1 + (reserveOf s d).2 ∧
    ∀ x ∈ reserveTaken s, x.1 + x.2 ≤ a ∨ a + n ≤ x.1 := by
  have hfree := List.of_mem_filter (List.mem_eraseDups.mp ha)
  simp only [Bool.and_eq_true, decide_eq_true_eq, List.all_eq_true, Bool.or_eq_true] at hfree
  obtain ⟨⟨hlow, hhigh⟩, htaken⟩ := hfree
  have hbase : (reserveOf s d).1 ≤ shareBase s d := Nat.le_add_right ..
  exact ⟨by omega, hhigh, htaken⟩

theorem imagePlace_free {x : Thread} (ha : imagePlace s x = some a) : (reserveOf s (dieOf x.core).toNat).1 ≤ a ∧
    a + imageSize x ≤ (reserveOf s (dieOf x.core).toNat).1 + (reserveOf s (dieOf x.core).toNat).2 ∧
    ∀ y ∈ reserveTaken s, y.1 + y.2 ≤ a ∨ a + imageSize x ≤ y.1 := imagePlaces_free (List.mem_of_getElem? ha)

theorem dirOf_setDir_same (s : State) (i : BitVec 16) (e : DirEntry) : dirOf (setDir s i e) i = e := sget_sset_same

theorem Focused.findThread (hf : Focused s h) : findThread s h = some s.th := findThread_here hf.1 hf.2

theorem Focused.modThread (hf : Focused s h) (f : Thread → Thread) : modThread s h f = setTh s (f s.th) := modThread_here hf.1 hf.2

/-- The directory says where the image of the thread is to lie (R201). -/
def withImage (s : State) (h : Handle) (a : Word) : State := setDir s (hIndex h) { dirOf s (hIndex h) with image := a }

/-- The save of the thread in focus has begun. -/
theorem beginSave_focused (hf : Focused s h) (a : Nat) :
    LeavesThreads (pend (setTh (withImage s h (word (fabric s a))) (startSave s.th)) (.saveReport h)) (beginSave s s.th a) := by
  have hplaced : Focused (withImage s h (word (fabric s a))) h := hf
  have hbegin : beginSave s s.th a = leaveAgreements (pend (modThread (withImage s h (word (fabric s a))) h startSave) (.saveReport h)) h := by
    rw [← hf.2]
    rfl
  rw [hbegin, hplaced.modThread]
  exact leaveAgreements_leavesThreads ..

theorem execSaveStart_begins (hf : Focused s h) (hb : atBoundary s.th = true) (hw : s.th.save.isSome = true) (ha : imagePlace s s.th = some a) :
    exec (.saveStart h) s = .next (beginSave s s.th a) := by
  have hrun : exec (.saveStart h) s = execSaveStart h s := rfl
  simp only [hrun, execSaveStart, hf.findThread, hb, hw, ha, Bool.and_self, if_true]

theorem execSaveStart_waits (hf : Focused s h) (hb : atBoundary s.th = true) (hw : s.th.save.isSome = true) (ha : imagePlace s s.th = none) :
    exec (.saveStart h) s = .next s := by
  have hrun : exec (.saveStart h) s = execSaveStart h s := rfl
  simp only [hrun, execSaveStart, hf.findThread, hb, hw, ha, Bool.and_self, if_true]

/-- A save that begins: the thread keeps its wait, its report waits to be made, and its image has its place. -/
theorem execSaveStart_saves (hf : Focused s h) (hb : atBoundary s.th = true) (hw : s.th.save.isSome = true) (ha : imagePlace s s.th = some a) :
    ∃ t, exec (.saveStart h) s = .next t ∧ t.rest = s.rest ∧ t.mem = s.mem ∧ .saveReport h ∈ t.pending ∧
      (dirOf t (hIndex h)).image = word (fabric s a) ∧ t.th = startSave s.th := by
  have hl := beginSave_focused hf a
  have hdir : dirOf (beginSave s s.th a) (hIndex h) = { dirOf s (hIndex h) with image := word (fabric s a) } :=
    (congrArg (fun d => sget DirEntry.init d (hIndex h).toNat) hl.dir).trans (dirOf_setDir_same ..)
  exact ⟨_, execSaveStart_begins hf hb hw ha, hl.rest, hl.mem, hl.pending (List.mem_append_right _ (List.mem_singleton_self _)),
    congrArg DirEntry.image hdir, hl.th⟩

end

/-! ### Image and record in memory (R102, R103) -/

section
variable {s : State} {h : Handle}

theorem NoKeys.bufferSet (hk : NoKeys s) (a : Nat) : ∀ x ∈ bufferSet s a, x.key = none := by
  unfold Machine.bufferSet
  split
  · exact sget_of_all (P := fun l : List BufLine => ∀ x ∈ l, x.key = none) (fun x hx => absurd hx List.not_mem_nil) hk
  · exact fun x hx => absurd hx List.not_mem_nil

theorem NoKeys.touchLine_mem (hk : NoKeys s) (a : Nat) (w : Bool) : (touchLine s a none w).mem = s.mem :=
  Machine.touchLine_mem (p := { va := 0, addr := a, len := 0, off := 0, key := none }) (.inr (.inr ⟨rfl, hk.bufferSet a⟩))

theorem foldl_dropLine_buffers (l : List BufLine) (s : State) : (l.foldl dropLine s).buffers = s.buffers := by
  induction l generalizing s with
  | nil => rfl
  | cons x r ih =>
    rw [List.foldl_cons, ih, dropLine]
    split <;> rfl

theorem NoKeys.put (hk : NoKeys s) (i : Nat) {l : List BufLine} (hl : ∀ x ∈ l, x.key = none) (t : State) (ht : t.buffers = s.buffers) :
    NoKeys { t with buffers := sset [] t.buffers i l } := by
  intro e he
  rcases mem_sset he with rfl | he
  · exact hl
  · exact hk e (ht ▸ he)

theorem NoKeys.touchLine (hk : NoKeys s) (a : Nat) (w : Bool) : NoKeys (touchLine s a none w) := by
  have hset := hk.bufferSet a
  unfold Machine.touchLine
  unfold Machine.bufferSet at hset
  cases hc : channelOf s a with
  | none => exact hk
  | some c =>
    rw [hc] at hset
    dsimp only at hset ⊢
    split
    · rename_i x hx
      have hkey : x.key = none := hset x (List.mem_of_find?_eq_some hx)
      rw [if_pos hkey]
      refine hk.put _ (fun y hy => ?_) s rfl
      rcases List.mem_cons.mp hy with rfl | hy
      · exact hkey
      · exact hset y (List.mem_of_mem_filter hy)
    · refine hk.put _ (fun y hy => ?_) _ (foldl_dropLine_buffers ..)
      rcases List.mem_cons.mp hy with rfl | hy
      · rfl
      · exact hset y (List.mem_of_mem_filter (List.mem_of_mem_take hy))

/-- Lines reached under no key, of which none stands under one, change no byte. -/
theorem NoKeys.touchLines (hk : NoKeys s) (a n : Nat) (w : Bool) :
    (touchLines s a n none w).mem = s.mem ∧ NoKeys (touchLines s a n none w) := by
  unfold Machine.touchLines
  generalize upFrom (a / 64) ((a + n + 63) / 64 - a / 64) = l
  induction l generalizing s with
  | nil => exact ⟨rfl, hk⟩
  | cons x r ih =>
    obtain ⟨hmem, hkeys⟩ := ih (hk.touchLine (64 * x) w)
    exact ⟨hmem.trans (hk.touchLine_mem (64 * x) w), hkeys⟩

/-- Bytes written under no key are the only ones that change. -/
theorem NoKeys.write (hk : NoKeys s) (a n : Nat) (b : List Byte) :
    (wrBytes (Machine.touchLines s a n none true) a b).mem = wrMem s.mem a b ∧ NoKeys (wrBytes (Machine.touchLines s a n none true) a b) := by
  obtain ⟨hmem, hkeys⟩ := hk.touchLines a n true
  exact ⟨congrArg (fun m => wrMem m a b) hmem, hkeys⟩

/-- What `writeImage` writes of the thread in focus: its image, then its record. -/
def savedMem (s : State) (image : Word) : Memory :=
  wrMem (wrMem s.mem (image.toNat % 2 ^ 45) (imageBytes s.th)) (recordPlace s (hIndex s.th.handle)) (recordBytes s.th image)

theorem writeImage_mem (hk : NoKeys s) (hf : Focused s h) (ha : isAway s.th = true) (hi : (dirOf s (hIndex h)).image ≠ 0) :
    (writeImage s h).mem = savedMem s (dirOf s (hIndex h)).image := by
  have hwrites : (isAway s.th && decide ((dirOf s (hIndex h)).image ≠ 0)) = true := by rw [ha, decide_eq_true hi, Bool.and_self]
  unfold writeImage savedMem
  rw [hf.findThread, hf.2]
  dsimp only
  rw [if_pos hwrites]
  generalize (dirOf s (hIndex h)).image.toNat % 2 ^ 45 = a
  obtain ⟨himage, hkeys⟩ := hk.write a (imageSize s.th) (imageBytes s.th)
  obtain ⟨hrecord, -⟩ := hkeys.write (recordPlace s (hIndex h)) 64 (recordBytes s.th (dirOf s (hIndex h)).image)
  rw [hrecord, himage]

theorem writeImage_noImage (hi : (dirOf s (hIndex h)).image = 0) : writeImage s h = s := by
  unfold writeImage
  split
  · rfl
  · dsimp only
    rw [if_neg (by simp [hi])]

theorem recordBytes_length (t : Thread) (image : Word) : (recordBytes t image).length = 64 := by
  simp only [recordBytes, List.length_append, leBytes_length]

/-- Image and record, which do not overlap, are read back. -/
theorem savedMem_reads {image : Word} (hd : image.toNat % 2 ^ 45 + (imageBytes s.th).length ≤ recordPlace s (hIndex s.th.handle) ∨
      recordPlace s (hIndex s.th.handle) + 64 ≤ image.toNat % 2 ^ 45) :
    rdMem (savedMem s image) (image.toNat % 2 ^ 45) (imageBytes s.th).length = imageBytes s.th ∧
      rdMem (savedMem s image) (recordPlace s (hIndex s.th.handle)) 64 = recordBytes s.th image ∧
      ∀ b, ¬ (image.toNat % 2 ^ 45 ≤ b ∧ b < image.toNat % 2 ^ 45 + (imageBytes s.th).length) →
        ¬ (recordPlace s (hIndex s.th.handle) ≤ b ∧ b < recordPlace s (hIndex s.th.handle) + 64) →
        sget 0 (savedMem s image) b = sget 0 s.mem b := by
  have hlen := recordBytes_length s.th image
  unfold savedMem
  generalize image.toNat % 2 ^ 45 = a at hd ⊢
  generalize recordPlace s (hIndex s.th.handle) = r at hd ⊢
  generalize recordBytes s.th image = rec at hlen ⊢
  generalize imageBytes s.th = img at hd ⊢
  refine ⟨?_, ?_, fun b hb hb' => ?_⟩
  · refine (rdMem_congr (fun i hi => sget_wrMem_outside _ _ _ _ ?_)).trans (rdMem_wrMem ..)
    omega
  · rw [← hlen]
    exact rdMem_wrMem ..
  · rw [sget_wrMem_outside _ _ _ _ (by omega), sget_wrMem_outside _ _ _ _ (by omega)]

end

/-! ### The report of a save (R201 steps 5 and 6) -/

section
variable {s t u : State} {h : Handle} {why : SaveWhy} {w : Option Wait}

/-- Where a thread that migrates goes. -/
def saveTarget : SaveWhy → Option (BitVec 11)
  | .migrate c => some c
  | _ => none

/-- The thread as its record has it (R102, R201). -/
def savedThread (t : Thread) (why : SaveWhy) (w : Option Wait) : Thread :=
  { t with awaited := (t.awaited.find? (fun r => !present t r)).toList, status := .away (savedWait t w), save := none, served := false
           runnable := savedRunnable t why w, cause := saveCause t why, core := (saveTarget why).getD t.core }

/-- The forwarding entry and the directory entry of a thread that leaves its slot (R190, R201). -/
def departed (s : State) (why : SaveWhy) : State :=
  let h := s.th.handle
  let k := coreOf s s.th.core
  let e := dirOf s (hIndex h)
  setDir (setCore s s.th.core { k with fwd := ((h, saveTarget why) :: k.fwd.filter (fun e => e.1 ≠ h)).take 16 }) (hIndex h)
    { e with state := if (saveTarget why).isSome then 3 else 2, core := (saveTarget why).getD e.core }

/-- The thread in focus has left its slot. -/
def outOfSlot (s : State) (why : SaveWhy) (w : Option Wait) : State := setTh (departed s why) (savedThread s.th why w)

theorem outOfSlot_focused (hf : Focused s h) (why : SaveWhy) (w : Option Wait) : Focused (outOfSlot s why w) h := by
  obtain ⟨hlive, hname⟩ := hf
  have hprog : s.th.prog.isNone = true := by
    simp only [isLive, Bool.and_eq_true] at hlive
    exact hlive.1.1
  refine ⟨?_, hname⟩
  simp [outOfSlot, savedThread, isLive, hprog]

theorem outOfSlot_away (hf : Focused s h) (why : SaveWhy) (w : Option Wait) : isAway (outOfSlot s why w).th = true := by
  obtain ⟨hlive, -⟩ := outOfSlot_focused hf why w
  unfold isAway
  rw [hlive]
  rfl

/-- Image and record are written, and the continuation is queued where it may run. -/
def queuedIfRuns (s : State) (h : Handle) (why : SaveWhy) (w : Option Wait) : State :=
  let u := writeImage (outOfSlot s why w) h
  if savedRunnable s.th why w then enqueueResume u h else u

/-- A saved thread whose launch is on its way to its end begins its exit (R328). -/
def exitIfAborted (s : State) (h : Handle) (g : BitVec 8) : State :=
  match launchOf s g with
  | some l => if l.aborting.isSome && (findThread s h).any isAway then beginExit s h else s
  | none => s

theorem exitIfAborted_ending (s : State) (h : Handle) (g : BitVec 8) : Ending s (exitIfAborted s h g) := by
  unfold exitIfAborted
  split
  · split
    · exact beginExit_ending ..
    · exact .refl
  · exact .refl

theorem exitIfAborted_going {g : BitVec 8} (hgoing : ∀ l, launchOf s g = some l → l.aborting = none) : exitIfAborted s h g = s := by
  unfold exitIfAborted
  split
  · rename_i l hl
    rw [hgoing l hl]
    rfl
  · rfl

theorem reportSave_eq (hf : Focused s h) : reportSave s s.th why w = pendOnce
    (exitIfAborted (if why = .fatal then recordFatal (queuedIfRuns s h why w) s.th else queuedIfRuns s h why w) h s.th.graph) .teamPlacement := by
  obtain ⟨hlive, rfl⟩ := hf
  have hmod : modThread (departed s why) s.th.handle (fun t => { savedThread t why w with runnable := savedRunnable s.th why w }) = outOfSlot s why w :=
    modThread_here hlive rfl
  unfold reportSave queuedIfRuns
  rw [← hmod]
  rfl

theorem pendOnce_tables (s : State) (e : Event) : (pendOnce s e).cores = s.cores ∧ (pendOnce s e).clusters = s.clusters := by
  unfold pendOnce
  split <;> exact ⟨rfl, rfl⟩

/-- The thread in focus enters its cluster's queue, and nothing else happens but that placement is due (R331). -/
theorem enqueueResume_focused (hf : Focused s h) : Sent s (enqueueResume s h) ∧ (enqueueResume s h).cores = s.cores ∧
    h ∈ (clusterAt (enqueueResume s h) (clusterOf s.th.core)).queue := by
  unfold enqueueResume
  rw [hf.findThread]
  dsimp only
  generalize hq : List.filter _ (clusterAt s (clusterOf s.th.core)).queue = before
  generalize hk : ClusterState.mk _ _ _ _ _ = k
  have hin : h ∈ k.queue := by
    rw [← hk]
    simp
  obtain ⟨hcores, hclusters⟩ := pendOnce_tables (setCluster s (clusterOf s.th.core) k) .teamPlacement
  refine ⟨Sent.trans (t := setCluster s (clusterOf s.th.core) k) rfl (pendOnce_sent ..), hcores, ?_⟩
  have hat : clusterAt (pendOnce (setCluster s (clusterOf s.th.core) k) .teamPlacement) (clusterOf s.th.core) = k := by
    unfold clusterAt
    rw [hclusters]
    exact sget_sset_same
  rwa [hat]

theorem queuedIfRuns_sent (hf : Focused s h) : Sent (writeImage (outOfSlot s why w) h) (queuedIfRuns s h why w) ∧
    (queuedIfRuns s h why w).cores = (writeImage (outOfSlot s why w) h).cores ∧
    (savedRunnable s.th why w = true → h ∈ (clusterAt (queuedIfRuns s h why w) (clusterOf (savedThread s.th why w).core)).queue) := by
  have hacc := writeImage_accessed (outOfSlot s why w) h
  have hu : Focused (writeImage (outOfSlot s why w) h) h := by
    unfold Focused
    rw [hacc.th]
    exact outOfSlot_focused hf why w
  obtain ⟨hsent, hcores, hin⟩ := enqueueResume_focused hu
  rw [hacc.th] at hin
  unfold queuedIfRuns
  dsimp only
  split
  · exact ⟨hsent, hcores, fun _ => hin⟩
  · rename_i hno
    exact ⟨.refl, rfl, fun hyes => absurd hyes hno⟩

theorem queuedIfRuns_ending (hf : Focused s h) : Ending s (queuedIfRuns s h why w) := by
  obtain ⟨hsent, -, -⟩ := queuedIfRuns_sent (why := why) (w := w) hf
  have hout : Ending s (outOfSlot s why w) := .same rfl rfl rfl
  exact (hout.trans (writeImage_accessed ..).ending).trans hsent.ending

/-- A thread that has been saved and reported: its record, the entries that name it, and its place in the queue. -/
structure SaveReported (s : State) (h : Handle) (why : SaveWhy) (w : Option Wait) (t : State) : Prop where
  th : t.th = savedThread s.th why w
  rest : t.rest = s.rest
  dir : t.dir = (departed s why).dir
  cores : t.cores = (departed s why).cores
  mem : t.mem = (writeImage (outOfSlot s why w) h).mem
  queue : savedRunnable s.th why w = true → h ∈ (clusterAt t (clusterOf (savedThread s.th why w).core)).queue

theorem reportSave_reported (hf : Focused s h) (hwhy : why ≠ .fatal) (hgoing : ∀ l, launchOf s s.th.graph = some l → l.aborting = none) :
    SaveReported s h why w (reportSave s s.th why w) := by
  have hreport : reportSave s s.th why w = pendOnce (queuedIfRuns s h why w) .teamPlacement := by
    have hlaunch := (queuedIfRuns_ending (why := why) (w := w) hf).launchOf s.th.graph
    rw [reportSave_eq hf, if_neg hwhy, exitIfAborted_going (hlaunch ▸ hgoing)]
  have hacc := writeImage_accessed (outOfSlot s why w) h
  obtain ⟨hsent, hcores, hqueue⟩ := queuedIfRuns_sent (why := why) (w := w) hf
  obtain ⟨hpcores, hpclusters⟩ := pendOnce_tables (queuedIfRuns s h why w) .teamPlacement
  have hall := hsent.trans (pendOnce_sent _ .teamPlacement)
  have hdir : (pendOnce (queuedIfRuns s h why w) .teamPlacement).dir = (writeImage (outOfSlot s why w) h).dir := (congrArg State.dir hall :)
  have hdeparted : (writeImage (outOfSlot s why w) h).dir = (departed s why).dir := (congrArg State.dir hacc :)
  have hforward : (writeImage (outOfSlot s why w) h).cores = (departed s why).cores := (congrArg State.cores hacc :)
  rw [hreport]
  refine ⟨hall.th.trans hacc.th, hall.rest.trans hacc.rest, hdir.trans hdeparted, (hpcores.trans hcores).trans hforward, hall.mem, fun hruns => ?_⟩
  unfold clusterAt
  rw [hpclusters]
  exact hqueue hruns

theorem outOfSlot_image (hf : Focused s h) (why : SaveWhy) (w : Option Wait) :
    (dirOf (outOfSlot s why w) (hIndex h)).image = (dirOf s (hIndex h)).image := by
  obtain ⟨-, rfl⟩ := hf
  exact (congrArg DirEntry.image (dirOf_setDir_same ..)).trans rfl

section
variable (hr : SaveReported s h why w t)
include hr

theorem SaveReported.entry (hf : Focused s h) : dirOf t (hIndex h) =
    { dirOf s (hIndex h) with state := if (saveTarget why).isSome then 3 else 2, core := (saveTarget why).getD (dirOf s (hIndex h)).core } := by
  obtain ⟨-, rfl⟩ := hf
  unfold dirOf
  rw [hr.dir]
  exact dirOf_setDir_same ..

theorem SaveReported.forward (hf : Focused s h) : (coreOf t s.th.core).fwd.head? = some (h, saveTarget why) := by
  obtain ⟨-, rfl⟩ := hf
  unfold coreOf
  rw [hr.cores]
  exact congrArg (fun k : CoreState => k.fwd.head?) (coreOf_setCore_same s s.th.core _)

theorem SaveReported.unwritten (hf : Focused s h) (hi : (dirOf s (hIndex h)).image = 0) : t.mem = s.mem := by
  rw [hr.mem, writeImage_noImage ((outOfSlot_image hf why w).trans hi)]
  rfl

theorem SaveReported.savedIn (hf : Focused s h) (hi : (dirOf s (hIndex h)).image ≠ 0) (hk : NoKeys s)
    (hd : (dirOf s (hIndex h)).image.toNat % 2 ^ 45 + (imageBytes t.th).length ≤ recordPlace s (hIndex h) ∨
      recordPlace s (hIndex h) + 64 ≤ (dirOf s (hIndex h)).image.toNat % 2 ^ 45) : SavedIn s t (dirOf s (hIndex h)).image := by
  have hout := outOfSlot_focused hf why w
  have haway := outOfSlot_away hf why w
  have hentry := outOfSlot_image hf why w
  obtain ⟨-, rfl⟩ := hf
  have hkeys : NoKeys (outOfSlot s why w) := hk
  have hmem := writeImage_mem hkeys hout haway (hentry ▸ hi)
  rw [hr.th] at hd
  obtain ⟨himage, hrecord, houtside⟩ := savedMem_reads (s := outOfSlot s why w) hd
  unfold SavedIn rdByte
  rw [hr.th, hr.mem, hmem, hentry]
  exact ⟨himage, hrecord, houtside⟩

end

/-- Why a thread that is to go on is saved, with its resume cause, the core on which it is to go on, and whether that is another (R102, R201). -/
def SavedToGoOn (x : Thread) (why : SaveWhy) (core : BitVec 11) (moves : Bool) (cause : BitVec 3) : Prop :=
  (why = .preempt ∧ cause = 1 ∧ core = x.core ∧ moves = false) ∨ (why = .yield ∧ cause = 3 ∧ core = x.core ∧ moves = false) ∨
    (why = .migrate core ∧ cause = 4 ∧ moves = true)

section
variable {core : BitVec 11} {moves : Bool} {cause : BitVec 3}

theorem SavedToGoOn.not_fatal {x : Thread} (hwhy : SavedToGoOn x why core moves cause) : why ≠ .fatal := by
  obtain ⟨rfl, -⟩ | ⟨rfl, -⟩ | ⟨rfl, -⟩ := hwhy <;> exact SaveWhy.noConfusion

theorem SavedToGoOn.target {x : Thread} (hwhy : SavedToGoOn x why core moves cause) : saveTarget why = if moves then some core else none := by
  obtain ⟨rfl, rfl, rfl, rfl⟩ | ⟨rfl, rfl, rfl, rfl⟩ | ⟨rfl, rfl, rfl⟩ := hwhy <;> rfl

/-- Such a thread's record has that cause and that core. -/
theorem SavedToGoOn.thread {x : Thread} (hwhy : SavedToGoOn x why core moves cause) (w : Option Wait) : savedThread x why w =
    { x with awaited := (x.awaited.find? (fun r => !present x r)).toList, status := .away (savedWait x w), save := none, served := false
             runnable := savedRunnable x .yield w, cause := cause, core := core } := by
  obtain ⟨rfl, rfl, rfl, rfl⟩ | ⟨rfl, rfl, rfl, rfl⟩ | ⟨rfl, rfl, rfl⟩ := hwhy <;> rfl

/-- One that waits for nothing is queued on the cluster of that core. -/
theorem SaveReported.queued (hr : SaveReported s h why none t) (hwhy : SavedToGoOn s.th why core moves cause) :
    h ∈ (clusterAt t (clusterOf core)).queue := by
  have hthread := hwhy.thread none
  have hruns : savedRunnable s.th why none = true := congrArg Thread.runnable hthread
  have hcore : (savedThread s.th why none).core = core := congrArg Thread.core hthread
  have hqueue := hr.queue hruns
  rwa [hcore] at hqueue

end

/-! ### A fatal one (R199, R317) -/

/-- The entry of a graph names the thread that has stopped in it (R317). -/
def fatalRecorded (s : State) (x : Thread) : State :=
  gWr (gWr (gWr (gWr s (graphAt x.graph + 32) 4 x.handle.toNat) (graphAt x.graph + 36) 1 (field x.tcause 0 8)) (graphAt x.graph + 40) 8 x.tepc.toNat)
    (graphAt x.graph + 48) 8 x.tval.toNat

theorem fatalRecorded_reads (s : State) (x : Thread) : gRd (fatalRecorded s x) (graphAt x.graph + 32) 4 = x.handle.toNat ∧
    gRd (fatalRecorded s x) (graphAt x.graph + 36) 1 = field x.tcause 0 8 ∧ gRd (fatalRecorded s x) (graphAt x.graph + 40) 8 = x.tepc.toNat ∧
    gRd (fatalRecorded s x) (graphAt x.graph + 48) 8 = x.tval.toNat := by
  have hcause : field x.tcause 0 8 < 256 ^ 1 := (bits x.tcause 0 8).isLt
  unfold fatalRecorded
  refine ⟨?_, ?_, ?_, ?_⟩
  · rw [gRd_gWr_apart _ _ (by omega), gRd_gWr_apart _ _ (by omega), gRd_gWr_apart _ _ (by omega), gRd_gWr_same]
    exact Nat.mod_eq_of_lt (x.handle.isLt.trans (by norm_num))
  · rw [gRd_gWr_apart _ _ (by omega), gRd_gWr_apart _ _ (by omega), gRd_gWr_same]
    exact Nat.mod_eq_of_lt hcause
  · rw [gRd_gWr_apart _ _ (by omega), gRd_gWr_same]
    exact Nat.mod_eq_of_lt (x.tepc.isLt.trans_eq (by norm_num))
  · rw [gRd_gWr_same]
    exact Nat.mod_eq_of_lt (x.tval.isLt.trans_eq (by norm_num))

/-- Neither the abort of the launch nor the thread's own exit touches that entry. -/
theorem reportSave_fatal (hf : Focused s h) {off n : Nat} (ho : 32 ≤ off) :
    gRd (reportSave s s.th .fatal w) (graphAt s.th.graph + off) n =
      gRd (fatalRecorded (queuedIfRuns s h .fatal w) s.th) (graphAt s.th.graph + off) n := by
  have habort : Concluding s.th.graph (fatalRecorded (queuedIfRuns s h .fatal w) s.th) (recordFatal (queuedIfRuns s h .fatal w) s.th) :=
    abortLaunch_concluding ..
  have hexit : Ending (recordFatal (queuedIfRuns s h .fatal w) s.th) (reportSave s s.th .fatal w) := by
    rw [reportSave_eq hf]
    exact (exitIfAborted_ending ..).trans (pendOnce_ending ..)
  rw [hexit.gRd]
  exact gRd_congr (fun i _ => habort.gmem _ (.inr (by omega)))

/-! ### The report by its cases -/

/-- A thread whose save may be reported: all of it is answered, and nothing is buffered (R201). -/
structure MayReport (s : State) (h : Handle) (why : SaveWhy) (w : Option Wait) : Prop where
  focus : Focused s h
  ordered : s.th.save = some why
  saving : s.th.status = .saving w
  drained : draining s s.th = false
  empty : mortarOf s s.th = []
  answered : unanswered s (senderOf s s.th) = false

theorem MayReport.reports (h' : MayReport s h why w) : exec (.saveReport h) s = .next (reportSave s s.th why w) := by
  have hrun : exec (.saveReport h) s = execSaveReport h s := rfl
  simp only [hrun, execSaveReport, h'.focus.findThread, h'.saving, h'.drained, h'.empty, h'.answered, h'.ordered, Option.getD_some,
    Bool.false_eq_true, if_false, ne_eq, not_true_eq_false]

theorem execSaveReport_drains (hf : Focused s h) (hs : s.th.status = .saving w) (hd : draining s s.th = true) :
    exec (.saveReport h) s = .next (pend s (.saveReport h)) := by
  have hrun : exec (.saveReport h) s = execSaveReport h s := rfl
  simp only [hrun, execSaveReport, hf.findThread, hs, hd, if_true]

end

/-! ### A restore (R203) -/

section
variable {s : State} {h : Handle} {w : Option Wait} {core : BitVec 11} {slot : BitVec 3}

theorem execResume_begins (hf : Focused s h) (hs : s.th.status = .away w) (hr : s.th.runnable = true) (hi : slot ∈ idleSlots s core)
    (hb : s.th.win.toNat ≤ freeBanks s core) : exec (.resume h core slot) s = .next (pend (beginRestore s h core slot) (.resume h core slot)) := by
  have hrun : exec (.resume h core slot) s = execResume h core slot s := rfl
  simp only [hrun, execResume, hf.findThread, hs, hr, List.contains_iff_mem.mpr hi, decide_eq_true hb, Bool.and_self, if_true]

/-- The entries of a thread that is given a slot (R189, R190): the core forwards its landings no more, the directory names the slot, and the
queue lets it go. -/
def admitted (s : State) (h : Handle) (core : BitVec 11) (slot : BitVec 3) : State :=
  let k := coreOf s core
  let s1 := setCore s core { k with fwd := k.fwd.filter (fun e => e.1 ≠ h) }
  let s2 := setDir s1 (hIndex h) { dirOf s1 (hIndex h) with state := 1, core := core, slot := slot }
  let q := clusterAt s2 (clusterOf s.th.core)
  setCluster s2 (clusterOf s.th.core) { q with queue := q.queue.filter (fun g => g ≠ h) }

theorem beginRestore_focused (hf : Focused s h) (hs : s.th.status = .away w) (core : BitVec 11) (slot : BitVec 3) :
    beginRestore s h core slot = setTh (admitted s h core slot) { s.th with status := .restoring w, core := core, slot := slot } := by
  have hadmitted : Focused (admitted s h core slot) h := hf
  simp only [beginRestore, hf.findThread, hs]
  exact hadmitted.modThread _

theorem dirOf_admitted (s : State) (h : Handle) (core : BitVec 11) (slot : BitVec 3) :
    dirOf (admitted s h core slot) (hIndex h) = { dirOf s (hIndex h) with state := 1, core := core, slot := slot } := by
  simp only [admitted, dirOf, setCluster_dir]
  exact dirOf_setDir_same ..

/-- A restored thread, whose image is no more. -/
def resumed (s : State) (h : Handle) (w : Option Wait) : State :=
  let s1 := emptyMortar s s.th
  setDir (setTh s1 (restored s.th w)) (hIndex h) { dirOf s (hIndex h) with image := 0 }

theorem not_aborting_of_going {g : BitVec 8} (hgoing : ∀ l, launchOf s g = some l → l.aborting = none) :
    (aborting s g && (launchOf s g).isSome) = false := by
  unfold aborting
  cases hl : launchOf s g with
  | none => rfl
  | some l => simp [hgoing l hl]

theorem execResume_ends (hf : Focused s h) (hs : s.th.status = .restoring w) (hm : mortarOf s s.th = [])
    (hgoing : ∀ l, launchOf s s.th.graph = some l → l.aborting = none) :
    exec (.resume h core slot) s = .next (resumed s h w) := by
  have hrun : exec (.resume h core slot) s = execResume h core slot s := rfl
  have hmod : modThread (emptyMortar s s.th) h (fun t => restored t w) = setTh (emptyMortar s s.th) (restored s.th w) := modThread_here hf.1 hf.2
  have hstays : ¬ (aborting (resumed s h w) s.th.graph && (launchOf (resumed s h w) s.th.graph).isSome) = true := by
    rw [not_aborting_of_going (s := resumed s h w) hgoing]
    exact Bool.false_ne_true
  simp only [hrun, execResume, hf.findThread, hs, hm, applyMortar, hmod]
  exact congrArg Host.Outcome.next (if_neg hstays)

end
end Sys2Proof.Machine

open Sys2Proof Sys2Proof.Machine in
/-- Settles O44: the save begins, is reported, and the continuation is restored, each as one operation on the thread in focus and on the entries
that name it. -/
theorem savesAndContinuations : Obligations.SavesAndContinuations := by
  unfold Obligations.SavesAndContinuations
  refine ⟨⟨?_, ?_⟩, ?_⟩
  · intro s h why hf hw
    have hsave : s.th.save.isSome = true := by rw [hw]; rfl
    refine ⟨fun a ha hst => ?_, fun ha hst => ?_⟩
    · have hb : atBoundary s.th = true := by
        obtain hst | ⟨w, hst⟩ | hst := hst <;> simp only [atBoundary, hst]
      obtain ⟨hlow, hhigh, hfree⟩ := imagePlace_free ha
      obtain ⟨t, hrun, hrest, hmem, hpending, himage, hth⟩ := execSaveStart_saves hf hb hsave ha
      refine ⟨t, hrun, hrest, hmem, hpending, himage, hlow, hhigh, hfree, fun hst => ?_, fun hst => ?_, fun w hst => ?_⟩ <;>
        simp [hth, startSave, waitOf, hst]
    · refine execSaveStart_waits hf ?_ hsave ha
      obtain hst | hst := hst <;> simp only [atBoundary, hst]
  · intro s h w why hf hw hst image lacks
    refine ⟨execSaveReport_drains hf hst, fun hdrain hempty hanswered hgoing => ?_⟩
    have hmay : MayReport s h why w := ⟨hf, hw, hst, hdrain, hempty, hanswered⟩
    refine ⟨fun to' moves cause hwhy => ?_, ?_⟩
    · have hon : SavedToGoOn s.th why to' moves cause := hwhy
      have hr := reportSave_reported (w := w) hf hon.not_fatal hgoing
      have hentry := hr.entry hf
      have hforward := hr.forward hf
      rw [hon.target] at hentry hforward
      have hthread := hr.th.trans (hon.thread w)
      refine ⟨_, hmay.reports, hr.rest, ?_, ?_, hr.unwritten hf, hr.savedIn hf, ?_, hforward, ?_, ?_⟩
      · rw [hentry]
        cases moves <;> rfl
      · rw [hentry]
      · rintro rfl
        rw [hentry]
        rfl
      · rintro rfl
        exact ⟨hthread, hr.queued hon⟩
      · rintro line rfl
        exact hthread
    · rintro rfl
      obtain ⟨hhandle, hcause, hepc, hval⟩ := fatalRecorded_reads (queuedIfRuns s h .fatal w) s.th
      refine ⟨_, hmay.reports, ?_, ?_, ?_, ?_⟩
      · rw [reportSave_fatal hf (by omega), hhandle, hf.2]
      · rw [reportSave_fatal hf (by omega), hcause]
      · rw [reportSave_fatal hf (by omega), hepc]
      · rw [reportSave_fatal hf (by omega), hval]
  · intro s h core slot w hf
    refine ⟨fun hst hruns hidle hbanks => ?_, fun hst hempty hgoing => ?_⟩
    · have hdir := dirOf_admitted s h core slot
      rw [execResume_begins hf hst hruns hidle hbanks, beginRestore_focused hf hst]
      exact ⟨_, rfl, rfl, rfl, rfl, congrArg DirEntry.state hdir, congrArg DirEntry.core hdir, congrArg DirEntry.slot hdir,
        List.mem_append_right _ (List.mem_singleton_self _)⟩
    · refine ⟨_, execResume_ends hf hst hempty hgoing, rfl, rfl, congrArg DirEntry.image (dirOf_setDir_same ..), ?_, ?_, ?_⟩
      · rintro (rfl | rfl) <;> rfl
      · rintro r q rfl
        simp only [resumed, restored, setDir_th, setTh_th]
        split <;> rfl
      · rintro line rfl
        rfl

namespace Sys2Proof.Machine
open Sys2Proof
set_option Elab.async false

/-! ### ILLEGAL of an instruction of one slot (R33) -/

section
variable {s : State} {i : Instr} {w : BitVec 32}

theorem illegalVal_word (code : BitVec 2) (w : BitVec 32) : illegalVal code (w.zeroExtend 57) = word (code.toNat * 2 ^ 62 + w.toNat) := by
  have hfits : w.toNat < 2 ^ 57 := w.isLt.trans (by norm_num)
  rw [illegalVal_eq_word, BitVec.toNat_setWidth, Nat.mod_eq_of_lt hfits]

theorem illegalVal_wordC (h : encodeC i = some w) : illegalVal 1 (wordC i) = word (2 ^ 62 + w.toNat) := by
  rw [wordC, h, Option.getD_some, illegalVal_word]
  rfl

theorem illegalNow_wordC (h : encodeC i = some w) (s : State) : illegalNow 1 (wordC i) s = illegalAt s w .window := by
  rw [illegalNow, illegalVal_wordC h]
  rfl

theorem illegalNow_wordA (h : encodeA i = some w) (s : State) : illegalNow 2 (wordA i) s =
    .next { trapFocus s .illegal (word (2 * 2 ^ 62 + w.toNat)) s.th.pc with last := .window } := by
  rw [illegalNow, wordA, h, Option.getD_some, illegalVal_word]
  rfl

theorem trapsWith_illegal (h : encodeC i = some w) (s : State) : trapsWith s .illegal (illegalVal 1 (wordC i)) = illegalAt s w .trapped := by
  have hmiss (v : Word) : missOf s .illegal v = s := by simp [missOf]
  rw [trapsWith, hmiss, illegalVal_wordC h]
  rfl

end

/-! ### Bank tags and codebooks (R152, R153) -/

section
variable {s : State} {b : BitVec 4} {f v : BitVec 8}

theorem exec_setbf (hb : b.toNat < s.th.win.toNat) (f : BitVec 8) : exec (.setbf b f) s = conclude .a
    { specs := [], needs := [], bad := formatBad (fmtOf f).isSome, hold := false, next := setTh s (advance (wrBfmt s.th b f)) } s := if_pos hb

theorem setbf_writes (hb : b.toNat < s.th.win.toNat) (hf : (fmtOf f).isSome = true) :
    exec (.setbf b f) s = becomes s (advance (wrBfmt s.th b f)) :=
  (exec_setbf hb f).trans (conclude_done InWindow.nil Ready.nil (if_pos hf) Ready.nil rfl)

theorem setbf_traps (hb : b.toNat < s.th.win.toNat) (hf : fmtOf f = none) : exec (.setbf b f) s = trapsWith s .format 0 :=
  (exec_setbf hb f).trans (conclude_trap InWindow.nil Ready.nil (by rw [hf]; rfl))

theorem ldcb_writes (hb : b.toNat < s.th.win.toNat) (hw : InWindow s [v]) (hv : present s.th (.v (spec s.th v)) = true) :
    exec (.ldcb b v) s = becomes s (advance (wrCbk s.th b ((rdV s.th (spec s.th v)).truncate 256))) := by
  have hrun : exec (.ldcb b v) s = conclude .a
      { specs := [v], needs := [.v (spec s.th v)], bad := none, hold := false
        next := setTh s (advance (wrCbk s.th b (bits (rdV s.th (spec s.th v)) 0 256))) } s := if_pos hb
  have hlow : bits (rdV s.th (spec s.th v)) 0 256 = (rdV s.th (spec s.th v)).truncate 256 := rfl
  rw [hrun, ← hlow]
  exact conclude_done hw (fun r hr => by rw [List.mem_singleton.mp hr]; exact hv) rfl Ready.nil rfl

theorem setbf_illegal (hb : s.th.win.toNat ≤ b.toNat) (f : BitVec 8) : exec (.setbf b f) s = illegalNow 2 (wordA (.setbf b f)) s :=
  if_neg (Nat.not_lt.mpr hb)

theorem ldcb_illegal (hb : s.th.win.toNat ≤ b.toNat) (v : BitVec 8) : exec (.ldcb b v) s = illegalNow 2 (wordA (.ldcb b v)) s :=
  if_neg (Nat.not_lt.mpr hb)

end
end Sys2Proof.Machine

open Sys2Proof Sys2Proof.Machine in
/-- Settles O32: a bank of the window is written, or its format code refused; a bank outside the window is ILLEGAL before any check. -/
theorem bankTagsAndCodebooks : Obligations.BankTagsAndCodebooks := by
  unfold Obligations.BankTagsAndCodebooks
  refine fun s b f v => ⟨setbf_writes, setbf_traps, ldcb_writes, fun hb i hi => ?_⟩
  simp only [List.mem_cons, List.not_mem_nil, or_false] at hi
  obtain rfl | rfl := hi
  · exact ⟨_, rfl, (setbf_illegal hb f).trans (illegalNow_wordA rfl s)⟩
  · exact ⟨_, rfl, (ldcb_illegal hb v).trans (illegalNow_wordA rfl s)⟩

namespace Sys2Proof.Machine
open Sys2Proof
set_option Elab.async false

/-! ### Digits of a byte string (R2) -/

section
variable {k n : Nat} {a b l : List Byte}

theorem ofLe_append (a b : List Byte) : ofLe (a ++ b) = ofLe a + 256 ^ a.length * ofLe b := by
  induction a with
  | nil => simp [ofLe]
  | cons x r ih =>
    rw [List.cons_append, ofLe, ofLe, ih, List.length_cons, pow_succ]
    ring

/-- A byte string cut in two: the parts are its remainder and its quotient. -/
theorem ofLe_cut (h : k ≤ l.length) : ofLe (l.take k) = ofLe l % 256 ^ k ∧ ofLe (l.drop k) = ofLe l / 256 ^ k := by
  have hsum := ofLe_append (l.take k) (l.drop k)
  have hlow := ofLe_lt (l.take k)
  rw [List.take_append_drop] at hsum
  rw [List.length_take, Nat.min_eq_left h] at hsum hlow
  have hpos : 0 < 256 ^ k := by positivity
  rw [hsum]
  exact ⟨by rw [Nat.add_mul_mod_self_left, Nat.mod_eq_of_lt hlow], by rw [Nat.add_mul_div_left _ _ hpos, Nat.div_eq_of_lt hlow, Nat.zero_add]⟩

/-- One digit of a number put in place of another leaves the other digits. -/
theorem digit_replaced (x : Nat) {v B : Nat} (hv : v < B) (q j : Nat) :
    (x % B ^ q + B ^ q * (v + B * (x / B ^ (q + 1)))) / B ^ j % B = if j = q then v else x / B ^ j % B := by
  have hB : 0 < B := by omega
  have hlow : x % B ^ q < B ^ q := Nat.mod_lt _ (by positivity)
  have hfrom : (x % B ^ q + B ^ q * (v + B * (x / B ^ (q + 1)))) / B ^ q = v + B * (x / B ^ (q + 1)) := by
    rw [Nat.add_mul_div_left _ _ (by positivity), Nat.div_eq_of_lt hlow, Nat.zero_add]
  obtain hlt | rfl | hgt := lt_trichotomy j q
  · obtain ⟨d, rfl⟩ : ∃ d, q = j + 1 + d := ⟨q - (j + 1), by omega⟩
    rw [if_neg (by omega), ← Nat.mod_mul_right_div_self, ← Nat.mod_mul_right_div_self x, ← pow_succ, pow_add, mul_assoc, Nat.add_mul_mod_self_left,
      Nat.mod_mul_right_mod]
  · rw [if_pos rfl, hfrom, Nat.add_mul_mod_self_left, Nat.mod_eq_of_lt hv]
  · obtain ⟨d, rfl⟩ : ∃ d, j = q + (1 + d) := ⟨j - (q + 1), by omega⟩
    have hpast (y : Nat) : y / B ^ (q + (1 + d)) = y / B ^ q / B / B ^ d := by
      rw [pow_add, pow_add, pow_one, Nat.div_div_eq_div_mul, Nat.div_div_eq_div_mul]
    rw [if_neg (by omega), hpast, hfrom, Nat.add_mul_div_left _ _ hB, Nat.div_eq_of_lt hv, Nat.zero_add, hpast x, pow_succ,
      ← Nat.div_div_eq_div_mul x (B ^ q) B]

end

/-! ### Parts of a codebook (R95) -/

theorem field_eq {w : Nat} (x : BitVec w) (lo n : Nat) : field x lo n = x.toNat / 2 ^ lo % 2 ^ n := by
  rw [field, BitVec.extractLsb'_toNat, Nat.shiftRight_eq_div_pow]

theorem bits_word (n : Nat) (x : BitVec n) (q : Nat) : word (x.toNat / 2 ^ q) = bits x q 64 := by
  refine BitVec.eq_of_toNat_eq ?_
  rw [word, BitVec.toNat_ofNat, BitVec.extractLsb'_toNat, Nat.shiftRight_eq_div_pow]

theorem setCbkPart_toNat (x : BitVec 256) {q : Nat} (hq : q < 4) (v : Word) :
    (setCbkPart x q v).toNat = x.toNat % (2 ^ 64) ^ q + (2 ^ 64) ^ q * (v.toNat + 2 ^ 64 * (x.toNat / (2 ^ 64) ^ (q + 1))) := by
  have hlen : (leBytes 32 x.toNat).length = 32 := leBytes_length ..
  have hpart : (leBytes 8 v.toNat).length = 8 := leBytes_length ..
  have hx : ofLe (leBytes 32 x.toNat) = x.toNat := (ofLe_leBytes ..).trans (Nat.mod_eq_of_lt (x.isLt.trans_eq (by norm_num)))
  have hv : ofLe (leBytes 8 v.toNat) = v.toNat := (ofLe_leBytes ..).trans (Nat.mod_eq_of_lt (v.isLt.trans_eq (by norm_num)))
  have hbyte (n : Nat) : 256 ^ (8 * n) = (2 ^ 64) ^ n := by rw [pow_mul]; norm_num
  obtain ⟨htake, -⟩ := ofLe_cut (l := leBytes 32 x.toNat) (k := 8 * q) (by omega)
  obtain ⟨-, hdrop⟩ := ofLe_cut (l := leBytes 32 x.toNat) (k := 8 * q + 8) (by omega)
  have hwhole : patch (leBytes 32 x.toNat) (8 * q) (leBytes 8 v.toNat) =
      (leBytes 32 x.toNat).take (8 * q) ++ (leBytes 8 v.toNat ++ (leBytes 32 x.toNat).drop (8 * q + 8)) := by
    rw [patch, hlen, hpart, List.take_of_length_le (l := leBytes 8 v.toNat) (by omega), List.append_assoc]
  have hfits : ofLe (patch (leBytes 32 x.toNat) (8 * q) (leBytes 8 v.toNat)) < 2 ^ 256 := by
    refine (ofLe_lt _).trans_eq ?_
    rw [hwhole, List.length_append, List.length_append, List.length_take, List.length_drop, hlen, hpart,
      show min (8 * q) 32 + (8 + (32 - (8 * q + 8))) = 32 by omega]
    norm_num
  rw [setCbkPart, BitVec.toNat_ofNat, Nat.mod_eq_of_lt hfits, hwhole, ofLe_append, ofLe_append, htake, hdrop, hx, hv, hpart, List.length_take, hlen,
    Nat.min_eq_left (by omega), hbyte, show 8 * q + 8 = 8 * (q + 1) by omega, hbyte]
  norm_num

/-- A part that is written is read back, and the others are as before. -/
theorem bits_setCbkPart (x : BitVec 256) (q j : Fin 4) (v : Word) :
    bits (setCbkPart x q.val v) (64 * j.val) 64 = if j = q then v else bits x (64 * j.val) 64 := by
  have hdigit := digit_replaced x.toNat (v := v.toNat) (B := 2 ^ 64) v.isLt q.val j.val
  refine BitVec.eq_of_toNat_eq ?_
  rw [apply_ite BitVec.toNat, BitVec.extractLsb'_toNat, BitVec.extractLsb'_toNat, Nat.shiftRight_eq_div_pow, Nat.shiftRight_eq_div_pow,
    setCbkPart_toNat x q.isLt, pow_mul, hdigit]
  simp only [Fin.ext_iff]

/-! ### The words of `WRSR` and `RDSR` that are put together (R97, R100) -/

theorem bits_zext64_low {n i k : Nat} (x : BitVec n) (h : i + k ≤ n) (hn : n ≤ 64) : bits (zext64 x) i k = bits x i k := by
  ext j hj
  have hin : i + j < 64 := by omega
  simp [zext64, hin]

theorem bits_zext64_high {n i k : Nat} (x : BitVec n) (h : n ≤ i) : bits (zext64 x) i k = 0 := by
  ext j hj
  have hout : n ≤ i + j := by omega
  simp [zext64, BitVec.getLsbD_of_ge _ _ hout]

section
variable {s : State} {n : Nat}

/-- The commands of a ring that are not complete. -/
def incompleteOf (t : Thread) : List RingEntry := (t.ring.map (·.2)).filter (fun e => incomplete e)

theorem oldest_incomplete (t : Thread) : oldest t incomplete = (incompleteOf t).foldl (later (fun e => (t.dseqNext - e.seq).toNat)) none := by
  have hsame : (t.ring.map (·.2)).filter (fun e => e.state ≠ 0 && incomplete e) = incompleteOf t := by
    refine List.filter_congr fun e _ => ?_
    rw [Bool.eq_iff_iff]
    simp only [Bool.and_eq_true, decide_eq_true_eq, incomplete_iff]
    refine ⟨fun h => h.2, fun h => ⟨?_, h⟩⟩
    obtain hs | hs | hs := h <;> rw [hs] <;> decide
  rw [← hsame, oldest]
  congr 1
  funext b e
  cases b <;> rfl

/-- The second field of `DSEQ`: the oldest command that is not complete, else the next number (R100). -/
def dseqOldest (t : Thread) : BitVec 16 :=
  match oldest t incomplete with
  | some e => e.seq
  | none => t.dseqNext

theorem dseqOldest_none {t : Thread} (h : (t.ring.map (·.2)).any incomplete = false) : dseqOldest t = t.dseqNext := by
  have hnone : incompleteOf t = [] := List.filter_eq_nil_iff.mpr fun e he hi => absurd (List.any_eq_true.mpr ⟨e, he, hi⟩) (by rw [h]; exact Bool.false_ne_true)
  rw [dseqOldest, oldest_incomplete, hnone]
  rfl

theorem dseqOldest_some {t : Thread} (h : (t.ring.map (·.2)).any incomplete = true) : ∃ e ∈ t.ring.map (·.2), incomplete e = true ∧
    dseqOldest t = e.seq ∧ ∀ f ∈ t.ring.map (·.2), incomplete f = true → (t.dseqNext - f.seq).toNat ≤ (t.dseqNext - e.seq).toNat := by
  obtain ⟨x, hx, hi⟩ := List.any_eq_true.mp h
  have hsome : incompleteOf t ≠ [] := List.ne_nil_of_mem (List.mem_filter.mpr ⟨hx, hi⟩)
  obtain ⟨e, hmem, hfold, hle⟩ := foldl_later (key := fun e : RingEntry => (t.dseqNext - e.seq).toNat) hsome
  obtain ⟨he, hopen⟩ := List.mem_filter.mp hmem
  exact ⟨e, he, hopen, by rw [dseqOldest, oldest_incomplete, hfold], fun f hf hfi => hle f (List.mem_filter.mpr ⟨hf, hfi⟩)⟩

theorem outstanding64_eq (t : Thread) : outstanding64 t = ((t.ring.map (·.2)).filter (fun e => e.state ≠ 0)).length := by
  rw [outstanding64, List.filter_map, List.length_map]
  rfl

theorem dseqWord_fields (t : Thread) : bits (dseqWord t) 0 16 = t.dseqNext ∧ bits (dseqWord t) 16 16 = dseqOldest t ∧
    bits (dseqWord t) 32 7 = BitVec.ofNat 7 (outstanding64 t) ∧ bits (dseqWord t) 39 25 = 0 := by
  refine ⟨?_, ?_, ?_, ?_⟩
  · exact (bits_cast (by decide)).trans ((bits_append_low (by decide)).trans bits_all)
  · exact (bits_cast (by decide)).trans ((bits_append_high (by decide)).trans ((bits_append_low (by decide)).trans bits_all))
  · exact (bits_cast (by decide)).trans ((bits_append_high (by decide)).trans ((bits_append_high (by decide)).trans ((bits_append_low (by decide)).trans bits_all)))
  · exact (bits_cast (by decide)).trans ((bits_append_high (by decide)).trans ((bits_append_high (by decide)).trans ((bits_append_high (by decide)).trans bits_all)))

/-! ### `RDSR` (R95, R129) -/

theorem readSpecial_bfmt (h : 0x10 ≤ n) (h' : n < 0x20) : readSpecial s n =
    if bankThere s.th (n - 0x10) then some (zext64 (rdBfmt s.th (BitVec.ofNat 4 (n - 0x10)))) else none := by
  simp only [readSpecial, show n ≠ 0 by omega, show n ≠ 1 by omega, show n ≠ 2 by omega, show n ≠ 3 by omega, show n ≠ 4 by omega, h, h',
    if_false, decide_true, Bool.and_self, if_true]

theorem readSpecial_cbk (h : 0x20 ≤ n) (h' : n < 0x60) : readSpecial s n =
    if bankThere s.th ((n - 0x20) / 4) then some (cbkPart (rdCbk s.th (BitVec.ofNat 4 ((n - 0x20) / 4))) ((n - 0x20) % 4)) else none := by
  have hbfmt : ¬ ((decide (0x10 ≤ n) && decide (n < 0x20)) = true) := by simp only [Bool.and_eq_true, decide_eq_true_eq]; omega
  have hcbk : (decide (0x20 ≤ n) && decide (n < 0x60)) = true := by simp only [Bool.and_eq_true, decide_eq_true_eq]; omega
  simp only [readSpecial, show n ≠ 0 by omega, show n ≠ 1 by omega, show n ≠ 2 by omega, show n ≠ 3 by omega, show n ≠ 4 by omega, if_false,
    if_neg hbfmt, if_pos hcbk]

theorem readSpecial_there (h : specialThere s.th n) : ∃ v, readSpecial s n = some v ∧ specialReads s n v := by
  obtain hn | ⟨hlo, hhi, hb⟩ | ⟨hlo, hhi, hb⟩ | ⟨hlo, hhi⟩ := h
  · interval_cases n
    · exact ⟨_, rfl, (bits_zext64_low _ (by decide) (by decide)).trans ((bits_append_low (by decide)).trans bits_all),
        (bits_zext64_low _ (by decide) (by decide)).trans ((bits_append_high (by decide)).trans bits_all), bits_zext64_high _ (by decide)⟩
    · exact ⟨_, rfl, (bits_zext64_low _ (by decide) (by decide)).trans ((bits_append_low (by decide)).trans bits_all),
        (bits_zext64_low _ (by decide) (by decide)).trans ((bits_append_high (by decide)).trans bits_all), bits_zext64_high _ (by decide)⟩
    · exact ⟨_, rfl, (bits_zext64_low _ (by decide) (by decide)).trans bits_all, bits_zext64_high _ (by decide)⟩
    · exact ⟨_, rfl, rfl⟩
    · exact ⟨_, rfl, rfl⟩
  · have hthere : bankThere s.th (n - 0x10) = true := decide_eq_true (by omega)
    refine ⟨_, by rw [readSpecial_bfmt hlo hhi, if_pos hthere], ?_⟩
    simp only [specialReads, show n ≠ 0 by omega, show n ≠ 1 by omega, show n ≠ 2 by omega, show n ≠ 3 by omega, show n ≠ 4 by omega, if_false, hhi,
      if_true]
    exact ⟨(bits_zext64_low _ (by decide) (by decide)).trans bits_all, bits_zext64_high _ (by decide)⟩
  · have hthere : bankThere s.th ((n - 0x20) / 4) = true := decide_eq_true hb
    refine ⟨_, by rw [readSpecial_cbk hlo hhi, if_pos hthere], ?_⟩
    simp only [specialReads, show n ≠ 0 by omega, show n ≠ 1 by omega, show n ≠ 2 by omega, show n ≠ 3 by omega, show n ≠ 4 by omega,
      show ¬ n < 0x20 by omega, if_false, hhi, if_true]
    exact bits_word ..
  · interval_cases n
    · exact ⟨_, rfl, rfl⟩
    · exact ⟨_, rfl, rfl⟩
    · exact ⟨_, rfl, rfl⟩
    · exact ⟨_, rfl, rfl⟩
    · exact ⟨_, rfl, rfl⟩
    · exact ⟨_, rfl, rfl⟩
    · obtain ⟨hnext, holdest, hcount, hzero⟩ := dseqWord_fields s.th
      exact ⟨_, rfl, hnext, fun hnone => holdest.trans (dseqOldest_none hnone), fun hsome => holdest ▸ dseqOldest_some hsome,
        outstanding64_eq s.th ▸ hcount, hzero⟩
    · exact ⟨_, rfl, rfl⟩

theorem readSpecial_absent (h : ¬ specialThere s.th n) : readSpecial s n = none := by
  unfold specialThere at h
  simp only [not_or, not_and, not_le, not_lt] at h
  obtain ⟨hlow, hbfmt, hcbk, htraps⟩ := h
  by_cases hb : 0x10 ≤ n ∧ n < 0x20
  · obtain ⟨hlo, hhi⟩ := hb
    have hgone := hbfmt hlo hhi
    rw [readSpecial_bfmt hlo hhi, if_neg (by simp only [bankThere, decide_eq_true_eq]; omega)]
  · by_cases hc : 0x20 ≤ n ∧ n < 0x60
    · obtain ⟨hlo, hhi⟩ := hc
      have hgone := hcbk hlo hhi
      rw [readSpecial_cbk hlo hhi, if_neg (by simp only [bankThere, decide_eq_true_eq]; omega)]
    · have hother (k : Nat) (hk : k ≤ 4 ∨ 0x60 ≤ k ∧ k ≤ 0x67) : n ≠ k := by
        rintro rfl
        omega
      simp only [readSpecial, hother 0 (by decide), hother 1 (by decide), hother 2 (by decide), hother 3 (by decide), hother 4 (by decide),
        hother 0x60 (by decide), hother 0x61 (by decide), hother 0x62 (by decide), hother 0x63 (by decide), hother 0x64 (by decide),
        hother 0x65 (by decide), hother 0x66 (by decide), hother 0x67 (by decide), if_false, Bool.and_eq_true, decide_eq_true_eq, hb, hc]

theorem exec_rdsr_reads {d : BitVec 6} {n : BitVec 12} (h : specialThere s.th n.toNat) (hd : present s.th (.s d) = true) :
    ∃ v, specialReads s n.toNat v ∧ exec (.rdsr d n) s = becomes s (advance (wrS s.th d v)) := by
  obtain ⟨v, hv, hreads⟩ := readSpecial_there h
  have hrun : exec (.rdsr d n) s = execRdsr d n s := rfl
  refine ⟨v, hreads, ?_⟩
  simp only [hrun, execRdsr, hv]
  exact plain_done hd

theorem exec_rdsr_illegal {d : BitVec 6} {n : BitVec 12} (h : ¬ specialThere s.th n.toNat) :
    exec (.rdsr d n) s = illegalNow 1 (wordC (.rdsr d n)) s := by
  have hrun : exec (.rdsr d n) s = execRdsr d n s := rfl
  simp only [hrun, execRdsr, readSpecial_absent h]

end
end Sys2Proof.Machine

namespace Sys2Proof.Machine
open Sys2Proof
set_option Elab.async false

section
variable {s : State} {n : Nat} {a : BitVec 6} {m : BitVec 12} {i : BitVec 32} {b : BitVec 4}

/-! ### What `WRSR` may write (R95) -/

theorem writable_iff (t : Thread) (n : Nat) : writable t n = true ↔
    n ∈ [3, 4, 0x62, 0x63, 0x67] ∨ (0x10 ≤ n ∧ n < 0x60 ∧ specialThere t n) := by
  simp only [writable, bankThere, specialThere, Bool.or_eq_true, Bool.and_eq_true, decide_eq_true_eq, List.mem_cons, List.not_mem_nil, or_false]
  omega

theorem exec_wrsr_denied (h : writable s.th m.toNat = false) (a : BitVec 6) : exec (.wrsr a m) s = illegalNow 1 (wordC (.wrsr a m)) s :=
  if_neg (by rw [h]; exact Bool.false_ne_true)

theorem exec_wrsr (h : writable s.th m.toNat = true) (a : BitVec 6) : exec (.wrsr a m) s = conclude .c
    { specs := [], needs := [.s a], hold := false, bad := writeBad m.toNat (rdS s.th a) (wordC (.wrsr a m))
      next := writeSpecial (setTh s (advance s.th)) m.toNat (rdS s.th a) } s := if_pos h

theorem wrsr_takes (h : writable s.th m.toNat = true) (ha : present s.th (.s a) = true)
    (hb : writeBad m.toNat (rdS s.th a) (wordC (.wrsr a m)) = none) :
    exec (.wrsr a m) s = .next (finish (writeSpecial (setTh s (advance s.th)) m.toNat (rdS s.th a))) :=
  (exec_wrsr h a).trans (conclude_done InWindow.nil (fun r hr => by rw [List.mem_singleton.mp hr]; exact ha) hb Ready.nil rfl)

theorem wrsr_refuses (h : writable s.th m.toNat = true) (ha : present s.th (.s a) = true) {c : Cause} {v : Word}
    (hb : writeBad m.toNat (rdS s.th a) (wordC (.wrsr a m)) = some (.trap c v)) : exec (.wrsr a m) s = trapsWith s c v :=
  (exec_wrsr h a).trans (conclude_trap InWindow.nil (fun r hr => by rw [List.mem_singleton.mp hr]; exact ha) hb)

theorem bfmt_toNat (b : BitVec 4) : (0x10 + b.zeroExtend 12).toNat = 0x10 + b.toNat := by
  have := b.isLt
  have hbase : (0x10 : BitVec 12).toNat = 0x10 := rfl
  rw [BitVec.toNat_add, BitVec.toNat_setWidth, hbase]
  omega

theorem cbk_toNat (b : BitVec 4) (q : Fin 4) : (0x20 + 4 * b.zeroExtend 12 + BitVec.ofNat 12 q.val).toNat = 0x20 + 4 * b.toNat + q.val := by
  have := b.isLt
  have := q.isLt
  have hbase : (0x20 : BitVec 12).toNat = 0x20 := rfl
  have hfour : (4 : BitVec 12).toNat = 4 := rfl
  rw [BitVec.toNat_add, BitVec.toNat_add, BitVec.toNat_mul, BitVec.toNat_setWidth, BitVec.toNat_ofNat, hbase, hfour]
  omega

theorem bfmt_writable (hb : b.toNat < s.th.win.toNat) : writable s.th (0x10 + b.zeroExtend 12).toNat = true := by
  have := b.isLt
  rw [bfmt_toNat, writable_iff]
  exact .inr ⟨by omega, by omega, .inr (.inl ⟨by omega, by omega, by omega⟩)⟩

theorem cbk_writable (hb : b.toNat < s.th.win.toNat) (q : Fin 4) :
    writable s.th (0x20 + 4 * b.zeroExtend 12 + BitVec.ofNat 12 q.val).toNat = true := by
  have := b.isLt
  have := q.isLt
  rw [cbk_toNat, writable_iff]
  exact .inr ⟨by omega, by omega, .inr (.inr (.inl ⟨by omega, by omega, by omega⟩))⟩

/-! ### The check of a value, register by register (R95) -/

variable {v : Word} {w : BitVec 57}

/-- ILLEGAL, as the check of a value answers it. -/
def badValue (w : BitVec 57) : Bad := .trap .illegal (illegalVal 1 w)

theorem writeBad_tstat (v : Word) (w : BitVec 57) : writeBad 3 v w = if 2 ^ 7 ≤ v.toNat then some (badValue w) else none := by
  have hcheck : field v 7 57 ≠ 0 ↔ 2 ^ 7 ≤ v.toNat := by
    have := v.isLt
    rw [field_eq]
    omega
  exact if_congr hcheck rfl rfl

theorem writeBad_actl (v : Word) (w : BitVec 57) : writeBad 4 v w = if 2 ≤ v.toNat then some (badValue w) else none := by
  have hcheck : field v 1 63 ≠ 0 ↔ 2 ≤ v.toNat := by
    have := v.isLt
    rw [field_eq]
    omega
  exact if_congr hcheck rfl rfl

theorem writeBad_tvec (v : Word) (w : BitVec 57) : writeBad 0x63 v w = if v.toNat % 8 ≠ 0 ∨ 2 ^ 56 ≤ v.toNat then some (badValue w) else none := by
  have hcheck : (decide (field v 0 3 ≠ 0) || decide (field v 56 8 ≠ 0)) = true ↔ v.toNat % 8 ≠ 0 ∨ 2 ^ 56 ≤ v.toNat := by
    have := v.isLt
    rw [Bool.or_eq_true, decide_eq_true_eq, decide_eq_true_eq, field_eq, field_eq]
    omega
  exact if_congr hcheck rfl rfl

theorem writeBad_muw (v : Word) (w : BitVec 57) : writeBad 0x67 v w = if v.toNat = 0 ∨ 8 < v.toNat then some (badValue w) else none := by
  have hcheck : (decide (field v 4 60 ≠ 0) || decide (field v 0 4 = 0) || decide (8 < field v 0 4)) = true ↔ v.toNat = 0 ∨ 8 < v.toNat := by
    have := v.isLt
    rw [Bool.or_eq_true, Bool.or_eq_true, decide_eq_true_eq, decide_eq_true_eq, decide_eq_true_eq, field_eq, field_eq]
    omega
  exact if_congr hcheck rfl rfl

theorem writeBad_tepc (v : Word) (w : BitVec 57) : writeBad 0x62 v w = none := rfl

theorem writeBad_bfmt (h : 0x10 ≤ n) (h' : n < 0x20) (v : Word) (w : BitVec 57) : writeBad n v w =
    if 256 ≤ v.toNat then some (badValue w) else if (fmtOf (v.truncate 8)).isNone then some (.trap .format 0) else none := by
  have hcheck : field v 8 56 ≠ 0 ↔ 256 ≤ v.toNat := by
    have := v.isLt
    rw [field_eq]
    omega
  simp only [writeBad, show n ≠ 3 by omega, show n ≠ 4 by omega, h, h', decide_true, Bool.and_self, if_true, if_false]
  exact if_congr hcheck rfl rfl

theorem writeBad_cbk (h : 0x20 ≤ n) (h' : n < 0x60) (v : Word) (w : BitVec 57) : writeBad n v w = none := by
  have hbfmt : ¬ ((decide (0x10 ≤ n) && decide (n < 0x20)) = true) := by simp only [Bool.and_eq_true, decide_eq_true_eq]; omega
  simp only [writeBad, show n ≠ 3 by omega, show n ≠ 4 by omega, show n ≠ 0x63 by omega, show n ≠ 0x67 by omega, if_neg hbfmt, if_false]

/-! ### What a value that is taken changes (R95, R96, R194) -/

theorem writeSpecial_tstat (s : State) (v : Word) : writeSpecial s 3 v = setTh s { s.th with tstat := (v &&& 0x3F) ||| (s.th.tstat &&& 0x40) } := rfl

theorem writeSpecial_actl (s : State) (v : Word) : writeSpecial s 4 v = setTh s { s.th with actl := v } := rfl

theorem writeSpecial_tepc (s : State) (v : Word) : writeSpecial s 0x62 v = abandonWait (setTh s { s.th with tepc := v }) := rfl

theorem writeSpecial_tvec (s : State) (v : Word) : writeSpecial s 0x63 v = setTh s { s.th with tvec := v } := rfl

theorem writeSpecial_muw (s : State) (v : Word) : writeSpecial s 0x67 v = setTh s { s.th with muw := v } := rfl

theorem writeSpecial_bfmt (b : BitVec 4) (v : Word) : writeSpecial s (0x10 + b.toNat) v = setTh s (wrBfmt s.th b (v.truncate 8)) := by
  have hlt := b.isLt
  have hbank : BitVec.ofNat 4 (0x10 + b.toNat - 0x10) = b := by rw [Nat.add_sub_cancel_left, BitVec.ofNat_toNat, BitVec.setWidth_eq]
  have hrange : (decide (0x10 ≤ 0x10 + b.toNat) && decide (0x10 + b.toNat < 0x20)) = true := by simp only [Bool.and_eq_true, decide_eq_true_eq]; omega
  simp only [writeSpecial, show 0x10 + b.toNat ≠ 3 by omega, show 0x10 + b.toNat ≠ 4 by omega, if_pos hrange, if_false, hbank]
  rfl

theorem writeSpecial_cbk (b : BitVec 4) (q : Fin 4) (v : Word) : writeSpecial s (0x20 + 4 * b.toNat + q.val) v =
    setTh s (wrCbk s.th b (setCbkPart (rdCbk s.th b) q.val v)) := by
  have hlt := b.isLt
  have hq := q.isLt
  generalize hn : 0x20 + 4 * b.toNat + q.val = n
  have hbank : (n - 0x20) / 4 = b.toNat := by omega
  have hpart : (n - 0x20) % 4 = q.val := by omega
  have hbfmt : ¬ ((decide (0x10 ≤ n) && decide (n < 0x20)) = true) := by simp only [Bool.and_eq_true, decide_eq_true_eq]; omega
  have hrange : (decide (0x20 ≤ n) && decide (n < 0x60)) = true := by simp only [Bool.and_eq_true, decide_eq_true_eq]; omega
  simp only [writeSpecial, show n ≠ 3 by omega, show n ≠ 4 by omega, if_neg hbfmt, if_pos hrange, if_false, hbank, hpart, BitVec.ofNat_toNat,
    BitVec.setWidth_eq]

/-- A thread that has left its line waits at none. -/
theorem leaveLine_left (s : State) (h : Handle) (c : BitVec 7) : ∀ x ∈ (clusterAt (leaveLine s h) c).waiters, x.2 ≠ h := by
  refine sget_of_all (P := fun k : ClusterState => ∀ x ∈ k.waiters, x.2 ≠ h) (fun x hx => absurd hx List.not_mem_nil) fun e he => ?_
  obtain ⟨k, -, rfl⟩ := List.mem_map.mp (List.mem_of_mem_filter he)
  exact fun x hx => of_decide_eq_true (List.mem_filter.mp hx).2

/-- The abandoned wait leaves the thread, and its line (R198). -/
theorem abandonWait_clears (s : State) : (abandonWait s).rest = s.rest ∧
    (abandonWait s).th = { s.th with waited := none, woken := false, tcause := s.th.tcause &&& ~~~0xE00 } ∧
    ∀ (line : BitVec 8) (c : BitVec 7), s.th.waited = some (.evw line) → ∀ x ∈ (clusterAt (abandonWait s) c).waiters, x.2 ≠ s.th.handle := by
  unfold abandonWait
  dsimp only
  split
  · exact ⟨rfl, rfl, fun _ c _ => leaveLine_left s s.th.handle c⟩
  · rename_i hno
    exact ⟨rfl, rfl, fun line _ hline => absurd hline (hno line)⟩

/-! ### `WRSR` (R129) -/

/-- The registers that are always there, by their numbers. -/
theorem plain_writable (hm : m.toNat = n) (hn : n ∈ [3, 4, 0x62, 0x63, 0x67]) (t : Thread) : writable t m.toNat = true :=
  (writable_iff ..).mpr (.inl (hm ▸ hn))

theorem wrsr_plain (hm : m.toNat = n) (hn : n ∈ [3, 4, 0x62, 0x63, 0x67]) (ha : present s.th (.s a) = true)
    (hgood : ∀ w, writeBad n (rdS s.th a) w = none) : exec (.wrsr a m) s = .next (finish (writeSpecial (setTh s (advance s.th)) n (rdS s.th a))) := by
  have hdone := wrsr_takes (plain_writable hm hn s.th) ha (by rw [hm]; exact hgood _)
  rwa [hm] at hdone

/-- A thread that goes on, and is then changed. -/
theorem next_finish_setTh (s : State) (t u : Thread) : Host.Outcome.next (finish (setTh (setTh s t) u)) = becomes s u := rfl

theorem wrsr_tstat (ha : present s.th (.s a) = true) (hv : (rdS s.th a).toNat < 2 ^ 7) : exec (.wrsr a 3) s =
    becomes s { advance s.th with tstat := (rdS s.th a &&& 0x3F) ||| (s.th.tstat &&& 0x40) } := by
  rw [wrsr_plain (n := 3) rfl (by decide) ha (fun w => (writeBad_tstat ..).trans (if_neg (Nat.not_le.mpr hv))), writeSpecial_tstat]
  exact next_finish_setTh ..

theorem wrsr_actl (ha : present s.th (.s a) = true) (hv : (rdS s.th a).toNat < 2) : exec (.wrsr a 4) s =
    becomes s { advance s.th with actl := rdS s.th a } := by
  rw [wrsr_plain (n := 4) rfl (by decide) ha (fun w => (writeBad_actl ..).trans (if_neg (Nat.not_le.mpr hv))), writeSpecial_actl]
  exact next_finish_setTh ..

theorem wrsr_tvec (ha : present s.th (.s a) = true) (hlow : (rdS s.th a).toNat % 8 = 0) (hhigh : (rdS s.th a).toNat < 2 ^ 56) :
    exec (.wrsr a 0x63) s = becomes s { advance s.th with tvec := rdS s.th a } := by
  rw [wrsr_plain (n := 0x63) rfl (by decide) ha (fun w => (writeBad_tvec ..).trans (if_neg (by omega))), writeSpecial_tvec]
  exact next_finish_setTh ..

theorem wrsr_muw (ha : present s.th (.s a) = true) (hlow : 1 ≤ (rdS s.th a).toNat) (hhigh : (rdS s.th a).toNat ≤ 8) :
    exec (.wrsr a 0x67) s = becomes s { advance s.th with muw := rdS s.th a } := by
  rw [wrsr_plain (n := 0x67) rfl (by decide) ha (fun w => (writeBad_muw ..).trans (if_neg (by omega))), writeSpecial_muw]
  exact next_finish_setTh ..

/-- A write of `TEPC` is taken whatever the value, and abandons the wait (R194, R198). -/
theorem wrsr_tepc (ha : present s.th (.s a) = true) : exec (.wrsr a 0x62) s =
    .next (finish (abandonWait (setTh s { advance s.th with tepc := rdS s.th a }))) := by
  rw [wrsr_plain (n := 0x62) rfl (by decide) ha (writeBad_tepc _), writeSpecial_tepc]
  rfl

theorem wrsr_bfmt (hb : b.toNat < s.th.win.toNat) (ha : present s.th (.s a) = true) (hv : (rdS s.th a).toNat < 256)
    (hf : (fmtOf ((rdS s.th a).truncate 8)).isSome = true) :
    exec (.wrsr a (0x10 + b.zeroExtend 12)) s = becomes s (wrBfmt (advance s.th) b ((rdS s.th a).truncate 8)) := by
  have hgood : writeBad (0x10 + b.zeroExtend 12).toNat (rdS s.th a) (wordC (.wrsr a (0x10 + b.zeroExtend 12))) = none := by
    have := b.isLt
    rw [bfmt_toNat, writeBad_bfmt (by omega) (by omega), if_neg (by omega), if_neg (by rw [Option.isNone_eq_false_iff.mpr hf]; exact Bool.false_ne_true)]
  rw [wrsr_takes (bfmt_writable hb) ha hgood, bfmt_toNat, writeSpecial_bfmt]
  exact next_finish_setTh ..

theorem wrsr_bfmt_format (hb : b.toNat < s.th.win.toNat) (ha : present s.th (.s a) = true) (hv : (rdS s.th a).toNat < 256)
    (hf : fmtOf ((rdS s.th a).truncate 8) = none) : exec (.wrsr a (0x10 + b.zeroExtend 12)) s = trapsWith s .format 0 := by
  refine wrsr_refuses (bfmt_writable hb) ha ?_
  have := b.isLt
  rw [bfmt_toNat, writeBad_bfmt (by omega) (by omega), if_neg (by omega), if_pos (by rw [hf]; rfl)]

theorem wrsr_cbk (hb : b.toNat < s.th.win.toNat) (ha : present s.th (.s a) = true) (q : Fin 4) :
    exec (.wrsr a (0x20 + 4 * b.zeroExtend 12 + BitVec.ofNat 12 q.val)) s =
      becomes s (wrCbk (advance s.th) b (setCbkPart (rdCbk s.th b) q.val (rdS s.th a))) := by
  have hgood (w : BitVec 57) : writeBad (0x20 + 4 * b.zeroExtend 12 + BitVec.ofNat 12 q.val).toNat (rdS s.th a) w = none := by
    have := b.isLt
    rw [cbk_toNat]
    exact writeBad_cbk (by omega) (by omega) ..
  rw [wrsr_takes (cbk_writable hb q) ha (hgood _), cbk_toNat, writeSpecial_cbk]
  exact next_finish_setTh ..

/-- A value with a reserved bit, or outside its field's range, is ILLEGAL. -/
theorem wrsr_badValue (hm : m.toNat = n) (h : writable s.th m.toNat = true) (ha : present s.th (.s a) = true)
    (hb : ∀ w, writeBad n (rdS s.th a) w = some (badValue w)) :
    ∃ w, encodeC (.wrsr a m) = some w ∧ exec (.wrsr a m) s = illegalAt s w .trapped :=
  ⟨_, rfl, (wrsr_refuses h ha (by rw [hm]; exact hb _)).trans (trapsWith_illegal rfl s)⟩

end
end Sys2Proof.Machine

open Sys2Proof Sys2Proof.Machine in
/-- Settles O12: the number of a register is taken by cases, for a read as for a write; what a register takes is its check, which comes to a bound on
the value. -/
theorem specialRegisters : Obligations.SpecialRegisters := by
  unfold Obligations.SpecialRegisters
  refine ⟨fun s d n => ⟨exec_rdsr_reads, fun h => ⟨_, rfl, (exec_rdsr_illegal h).trans (illegalNow_wordC rfl s)⟩⟩, ?_, ?_, ?_⟩
  · intro s a b q ha v
    exact ⟨wrsr_tstat ha, wrsr_actl ha, fun hb hv hf => wrsr_bfmt hb ha hv hf,
      fun hb => ⟨_, wrsr_cbk hb ha q, fun j => bits_setCbkPart (rdCbk s.th b) q j v⟩, wrsr_tvec ha, wrsr_muw ha⟩
  · intro s a ha
    obtain ⟨hrest, hth, hline⟩ := abandonWait_clears (setTh s { advance s.th with tepc := rdS s.th a })
    exact ⟨_, wrsr_tepc ha, rfl, hrest, hth, hline⟩
  · intro s a n b
    refine ⟨fun hn hbank => ?_, fun ha => ?_, fun ha hb hv hf => wrsr_bfmt_format hb ha hv hf⟩
    · have hdenied : writable s.th n.toNat = false := by
        rw [← Bool.not_eq_true, writable_iff]
        exact fun h => h.elim hn hbank
      exact ⟨_, rfl, (exec_wrsr_denied hdenied a).trans (illegalNow_wordC rfl s)⟩
    · intro v hbad
      obtain ⟨rfl, hv⟩ | ⟨rfl, hv⟩ | ⟨rfl, hv⟩ | ⟨rfl, hv⟩ | ⟨rfl, hb, hv⟩ := hbad
      · exact wrsr_badValue (n := 3) rfl (plain_writable rfl (by decide) _) ha (fun w => (writeBad_tstat ..).trans (if_pos hv))
      · exact wrsr_badValue (n := 4) rfl (plain_writable rfl (by decide) _) ha (fun w => (writeBad_actl ..).trans (if_pos hv))
      · exact wrsr_badValue (n := 0x63) rfl (plain_writable rfl (by decide) _) ha (fun w => (writeBad_tvec ..).trans (if_pos hv))
      · exact wrsr_badValue (n := 0x67) rfl (plain_writable rfl (by decide) _) ha
          (fun w => (writeBad_muw ..).trans (if_pos (hv.imp_left (congrArg BitVec.toNat))))
      · have := b.isLt
        refine wrsr_badValue (bfmt_toNat b) (bfmt_writable hb) ha fun w => ?_
        rw [writeBad_bfmt (by omega) (by omega), if_pos hv]
